-- ==== Sys2Proof/Word.lean ====
section
/-! DEFINITION. The word types of the ABH-2 and the small sets of names that instruction words select. -/

namespace Sys2Proof

/-- A 64-bit general register, control register or virtual address (R12, R18). -/
abbrev W64 := BitVec 64

/-- An instruction word (R11). -/
abbrev Word := BitVec 32

/-- A vector register or stream-queue entry (R18). -/
abbrev V512 := BitVec 512

/-- One byte of memory. -/
abbrev Byte := BitVec 8

/-- A register code (R15, R18). -/
abbrev Reg := BitVec 6

/-- A predicate register p0 to p7. -/
abbrev PReg := BitVec 3

/-- A matrix accumulator z0 to z7. -/
abbrev ZReg := BitVec 3

/-- Element types of the V format, in the order of their codes (R24, Table 4 of 01). -/
inductive ElemTy where
  | f32 | f64 | f16 | bf16 | i8 | i16 | i32 | i64
  deriving DecidableEq, Repr

/-- Access sizes of the LD layout (R16): 1, 2, 4 and 8 bytes. -/
inductive MemSize where
  | b | h | w | d
  deriving DecidableEq, Repr

/-- Rounding modes, in the order of FPCTL.rm's codes (R188, R189). -/
inductive RMode where
  | rne | rtz | rup | rdn
  deriving DecidableEq, Repr

/-- The ordering field of AMO and CAS (R289). -/
inductive Ord where
  | plain | acq | rel | acqrel
  deriving DecidableEq, Repr

/-- Fence scopes (R363). -/
inductive Scope where
  | core | cluster | die | device | system
  deriving DecidableEq, Repr

/-- MMA operand types (R238, Table 3 of 10). -/
inductive MmaTy where
  | f32 | bf16 | f16 | q8 | q4
  deriving DecidableEq, Repr

/-- Reduction operations of VRED and VSCAN (R224, Table 7 of 09). -/
inductive RedOp where
  | add | min | max | minc | maxc | and | or | xor
  deriving DecidableEq, Repr

/-- VCMP conditions (R215, Table 5 of 09). -/
inductive VCond where
  | eq | ne | lt | le | ltc | lec | un
  deriving DecidableEq, Repr

/-- Privilege modes (R3, R390), in ascending privilege. -/
inductive Mode where
  | user | stave | shop
  deriving DecidableEq, Repr

/-- Barrier levels (R350, Table 6 of 16). -/
abbrev Level := BitVec 2

end Sys2Proof
end

