-- ==== Sys2Proof/Config.lean ====
section
/-! DEFINITION. What the manual leaves open: free values, constants without a body, of which nothing can be proved.
Each is applied to State's counter `fresh` (log 5, DESIGN CHOICE) or to the operands it depends on. -/

namespace Sys2Proof.Config

/-- Cycles that a step takes (log 8, DESIGN CHOICE; the manual gives no instruction's time). -/
opaque stepCycles : Nat → Nat

/-- A choice between two outcomes "and which one is not stated" (R10). -/
opaque freeBool : Nat → Bool

/-- A choice among finitely many outcomes: the index is taken modulo their number (R10). -/
opaque freeIndex : Nat → Nat

/-- Which neighbour a faithful function returns, by function, element width code and operand (R213): true for the
greater of the two. Fixed for each operand and type. -/
opaque faithfulUp : Nat → Nat → Nat → Bool

/-- The integrity tag of a save-area line: its bytes, its offset and CTXTAG (R402: the function is the device's own). -/
opaque integrityTag : Nat → Nat → Nat → BitVec 64

/-- A new context tag (R402). -/
opaque contextTag : Nat → BitVec 32

/-- SHA-384 of a byte string, for the attestation report (R455). -/
opaque sha384 : List (BitVec 8) → BitVec 384

/-- Whether the boot ROM's signature check of the firmware image succeeds (R454). -/
opaque imageVerified : Nat → Bool

/-- The attestation signature (R455), an ECDSA value over the report's bytes. -/
opaque attestSignature : List (BitVec 8) → BitVec 768

/-- A value that the outside world supplies: a sensor reading, a key, a serial number, a byte of the firmware image. -/
opaque outside : Nat → Nat → Nat

end Sys2Proof.Config
end

