-- ==== Sys2Proof/Syntax.lean ====
section
/-! DEFINITION. The syntax of Utvex: one constructor for each row of spec/opcode_table.json. The rows with an
encoding come first, in the table's order; the rows without one, the steps that the rest of the device takes, follow.
Operands are the fields of the instruction word (R15); the operands of a device step name what it acts on. -/

namespace Sys2Proof

/-- An instruction of the table, or a step of the device that the table lists. -/
inductive Instr where
  -- ALU, major 0x01 (R165, R166)
  | add (d a b : Reg)
  | sub (d a b : Reg)
  | and (d a b : Reg)
  | or (d a b : Reg)
  | xor (d a b : Reg)
  | andn (d a b : Reg)
  | shl (d a b : Reg)
  | shr (d a b : Reg)
  | sar (d a b : Reg)
  | ror (d a b : Reg)
  | slt (d a b : Reg)
  | sltc (d a b : Reg)
  | min (d a b : Reg)
  | max (d a b : Reg)
  | minc (d a b : Reg)
  | maxc (d a b : Reg)
  | mul (d a b : Reg)
  | mulh (d a b : Reg)
  | mulhc (d a b : Reg)
  | mulhsc (d a b : Reg)
  | div (d a b : Reg)
  | divc (d a b : Reg)
  | rem (d a b : Reg)
  | remc (d a b : Reg)
  -- immediate forms (R167)
  | addi (d a : Reg) (imm : BitVec 13)
  | andi (d a : Reg) (imm : BitVec 13)
  | ori (d a : Reg) (imm : BitVec 13)
  | xori (d a : Reg) (imm : BitVec 13)
  | slti (d a : Reg) (imm : BitVec 13)
  | sltci (d a : Reg) (imm : BitVec 13)
  | muli (d a : Reg) (imm : BitVec 13)
  -- SHIFTI (R168)
  | shli (d a : Reg) (n : BitVec 6)
  | shri (d a : Reg) (n : BitVec 6)
  | sari (d a : Reg) (n : BitVec 6)
  | rori (d a : Reg) (n : BitVec 6)
  -- BITF (R169, R170)
  | bext (d a : Reg) (width : BitVec 5) (off : BitVec 6)
  | bexts (d a : Reg) (width : BitVec 5) (off : BitVec 6)
  | bins (d a : Reg) (width : BitVec 5) (off : BitVec 6)
  -- LEA (R171)
  | lea (d a b : Reg) (s : BitVec 3)
  -- LADDR (R172)
  | laddr (d a : Reg) (idx : BitVec 12)
  -- LADDR.LEN (R172)
  | laddrLen (d : Reg) (idx : BitVec 12)
  -- UNARY (R174)
  | clz (d a : Reg)
  | ctz (d a : Reg)
  | popc (d a : Reg)
  | brev (d a : Reg)
  | bswap (d a : Reg)
  | sextb (d a : Reg)
  | sexth (d a : Reg)
  | sextw (d a : Reg)
  | zexth (d a : Reg)
  | zextw (d a : Reg)
  -- SEL (R175)
  | sel (d a b c : Reg)
  | selz (d a b c : Reg)
  -- conditional branches (R176)
  | beq (a b : Reg) (off : BitVec 13)
  | bne (a b : Reg) (off : BitVec 13)
  | blt (a b : Reg) (off : BitVec 13)
  | bge (a b : Reg) (off : BitVec 13)
  | bltc (a b : Reg) (off : BitVec 13)
  | bgec (a b : Reg) (off : BitVec 13)
  -- J, JAL (R177)
  | j (off : BitVec 25)
  | jal (off : BitVec 25)
  -- JALR; words with d = 0 are JR (R178)
  | jalr (d a : Reg) (imm : BitVec 13)
  -- JR (R178)
  | jr (a : Reg) (imm : BitVec 13)
  -- LOOP (R137): a names the count, lc the counter
  | loop (a : Reg) (lc : BitVec 2) (len : BitVec 9)
  -- REPV (R143): count and length are held minus 1
  | repv (count : BitVec 6) (len dstep astep bstep : BitVec 3)
  -- GROUP (R152)
  | follow (d : Reg)
  | gang (d : Reg)
  -- GROUP (R155)
  | unfollow
  | disband
  -- BRK (R158)
  | brk (code : BitVec 13)
  -- LD, LDVOL (R283, R285)
  | ld (d a : Reg) (size : MemSize) (sx : Bool) (off : BitVec 10)
  | ldvol (d a : Reg) (size : MemSize) (sx : Bool) (off : BitVec 10)
  -- ST, STVOL
  | st (src a : Reg) (size : MemSize) (off : BitVec 10)
  | stvol (src a : Reg) (size : MemSize) (off : BitVec 10)
  -- LDV
  | ldv (d a : Reg) (off : BitVec 10)
  -- STV
  | stv (src a : Reg) (off : BitVec 10)
  -- GATH, SCAT (R286)
  | gath (d a b : Reg) (p : PReg) (ty : ElemTy)
  | scat (d a b : Reg) (p : PReg) (ty : ElemTy)
  -- CACHE (R287)
  | pref (a : Reg)
  | prefX (a : Reg)
  | prefL2 (a : Reg)
  -- BPREF (R288): d names the register of the sync object address
  | bpref (d a b : Reg)
  -- CACHE (R287)
  | clean (a : Reg)
  | cleanP (a : Reg)
  | cinv (a : Reg)
  -- acquire and release forms (R284): dw is 1 for the 8-byte size
  | ldAcq (d a : Reg) (dw : Bool)
  | stRel (a b : Reg) (dw : Bool)
  -- AMO and CAS (R289)
  | atswap (d a b : Reg) (ord : Ord) (dw : Bool)
  | atadd (d a b : Reg) (ord : Ord) (dw : Bool)
  | atand (d a b : Reg) (ord : Ord) (dw : Bool)
  | ator (d a b : Reg) (ord : Ord) (dw : Bool)
  | atxor (d a b : Reg) (ord : Ord) (dw : Bool)
  | atmin (d a b : Reg) (ord : Ord) (dw : Bool)
  | atmax (d a b : Reg) (ord : Ord) (dw : Bool)
  | atminc (d a b : Reg) (ord : Ord) (dw : Bool)
  | atmaxc (d a b : Reg) (ord : Ord) (dw : Bool)
  | cas (d a b : Reg) (ord : Ord) (dw : Bool)
  -- SYNC (R363)
  | fence (scope : Scope)
  | fenceSc (scope : Scope)
  -- MWAIT (R364)
  | mwait (d a b : Reg)
  -- BAR (R350)
  | bar (d : Reg) (level : Level) (ck : Bool)
  -- MSG (R340)
  | send (a b : Reg)
  | sendv (a b : Reg)
  | sendEos (a : Reg)
  | stbind (d a b : Reg)
  | stdrop (d a b : Reg)
  | waiteos (d a b : Reg)
  -- COPY (R292)
  | xtpl (d a b : Reg)
  | swinit (d a b : Reg)
  | swait (d a b : Reg)
  | fesetE (a b : Reg)
  | fesetF (a b : Reg)
  -- WORLD (R318): src and d of WST and WLD are half the even vector register
  | wreg (d a b : Reg)
  | wst (src : BitVec 5) (a b : Reg)
  | whzn (d a b : Reg)
  | wretain (d a b : Reg)
  | wseed (a : Reg)
  | wstat (d a : Reg)
  | wld (d : BitVec 5) (a b : Reg) (lim : BitVec 7)
  | wldT (d : BitVec 5) (a b : Reg) (lim : BitVec 7)
  -- PATTERN (R382)
  | patrec (d a : Reg)
  | patplay (d a : Reg)
  | patoff (d a : Reg)
  | patstat (d a : Reg)
  | patdrop (d a : Reg)
  -- QUANT, DQUANT (R249): q4 is the fmt bit, prm names g0 to g31
  | quant (d a : Reg) (q4 : Bool) (prm : BitVec 5) (p : PReg) (ty : ElemTy)
  | dquant (d a : Reg) (q4 : Bool) (prm : BitVec 5) (p : PReg) (ty : ElemTy)
  -- elementwise arithmetic (R209 to R211)
  | vadd (d a b : Reg) (p : PReg) (ty : ElemTy) (x : Bool)
  | vsub (d a b : Reg) (p : PReg) (ty : ElemTy) (x : Bool)
  | vmul (d a b : Reg) (p : PReg) (ty : ElemTy) (x : Bool)
  | vfma (d a b : Reg) (p : PReg) (ty : ElemTy) (x : Bool)
  | vfnma (d a b : Reg) (p : PReg) (ty : ElemTy) (x : Bool)
  | vdiv (d a b : Reg) (p : PReg) (ty : ElemTy) (x : Bool)
  | vmin (d a b : Reg) (p : PReg) (ty : ElemTy) (x : Bool)
  | vmax (d a b : Reg) (p : PReg) (ty : ElemTy) (x : Bool)
  | vcpys (d a b : Reg) (p : PReg) (ty : ElemTy) (x : Bool)
  -- VUNARY (R212, R213)
  | vabs (d a : Reg) (p : PReg) (ty : ElemTy) (x : Bool)
  | vneg (d a : Reg) (p : PReg) (ty : ElemTy) (x : Bool)
  | vnot (d a : Reg) (p : PReg) (ty : ElemTy) (x : Bool)
  | vsqrt (d a : Reg) (p : PReg) (ty : ElemTy) (x : Bool)
  | vrcp (d a : Reg) (p : PReg) (ty : ElemTy) (x : Bool)
  | vrsq (d a : Reg) (p : PReg) (ty : ElemTy) (x : Bool)
  | vexp2 (d a : Reg) (p : PReg) (ty : ElemTy) (x : Bool)
  | vlog2 (d a : Reg) (p : PReg) (ty : ElemTy) (x : Bool)
  | vsinpi (d a : Reg) (p : PReg) (ty : ElemTy) (x : Bool)
  | vcospi (d a : Reg) (p : PReg) (ty : ElemTy) (x : Bool)
  | vtanh (d a : Reg) (p : PReg) (ty : ElemTy) (x : Bool)
  -- bitwise and shifts (R214)
  | vand (d a b : Reg) (p : PReg) (ty : ElemTy) (x : Bool)
  | vor (d a b : Reg) (p : PReg) (ty : ElemTy) (x : Bool)
  | vxor (d a b : Reg) (p : PReg) (ty : ElemTy) (x : Bool)
  | vshl (d a b : Reg) (p : PReg) (ty : ElemTy) (x : Bool)
  | vshr (d a b : Reg) (p : PReg) (ty : ElemTy) (x : Bool)
  | vsar (d a b : Reg) (p : PReg) (ty : ElemTy) (x : Bool)
  -- VCMP (R215)
  | vcmp (cond : VCond) (d : PReg) (a b : Reg) (p : PReg) (ty : ElemTy) (x : Bool)
  -- VSEL (R216)
  | vsel (d a b : Reg) (p : PReg) (ty : ElemTy) (x : Bool)
  -- VCVT (R217): ty is the destination type
  | vcvt (d a : Reg) (part : BitVec 2) (c : Bool) (src : ElemTy) (p : PReg) (ty : ElemTy) (x : Bool)
  -- VBCAST (R219)
  | vbcast (d a : Reg) (p : PReg) (ty : ElemTy) (x : Bool)
  -- VINS (R220)
  | vins (d a b : Reg) (p : PReg) (ty : ElemTy)
  -- VEXT (R221)
  | vext (d a b : Reg) (z : Bool) (ty : ElemTy)
  -- VPERM, VSLIDE (R222)
  | vperm (d a b : Reg) (p : PReg) (ty : ElemTy) (x : Bool)
  | vslide (d a b : Reg) (p : PReg) (ty : ElemTy) (x : Bool)
  -- VRED, VSCAN (R224)
  | vred (d a : Reg) (op : RedOp) (p : PReg) (ty : ElemTy) (x : Bool)
  | vscan (d a : Reg) (op : RedOp) (p : PReg) (ty : ElemTy) (x : Bool)
  -- VCXS (R226)
  | vcxs (d a b : Reg) (p : PReg) (ty : ElemTy) (x : Bool)
  -- VCOMPR, VEXPND (R223)
  | vcompr (d a : Reg) (p : PReg) (ty : ElemTy) (x : Bool)
  | vexpnd (d a : Reg) (p : PReg) (ty : ElemTy) (x : Bool)
  -- VLUT (R227)
  | vlut (d a b : Reg) (p : PReg) (ty : ElemTy)
  -- VDOT (R229)
  | vdot (d a b : Reg) (p : PReg) (ty : ElemTy) (x : Bool)
  -- PRED (R230)
  | pset (d : PReg) (a : Reg)
  | pand (d a b : PReg)
  | por (d a b : PReg)
  | pxor (d a b : PReg)
  | pnot (d a : PReg)
  | pcnt (d : Reg) (a : PReg)
  | pfirst (d : Reg) (a : PReg)
  -- ZOP (R242): ev and k are the version check (R233)
  | zclr (z : ZReg) (ev : BitVec 4) (k : Bool)
  | zld (z : ZReg) (ev : BitVec 4) (k : Bool) (a b : Reg)
  | zst (z : ZReg) (ev : BitVec 4) (k : Bool) (a b : Reg)
  | zver (z : ZReg) (ev : BitVec 4) (k : Bool) (a : Reg)
  -- MMA (R238)
  | mma (z : ZReg) (ev : BitVec 4) (k : Bool) (a b : Reg) (mc : Bool) (ty : MmaTy)
  -- SCLACC (R247)
  | sclacc (z : ZReg) (ev : BitVec 4) (k : Bool) (part : ZReg) (b : Reg) (clr : Bool)
  -- OUTLACC (R248)
  | outlacc (z : ZReg) (ev : BitVec 4) (k : Bool) (a b : Reg) (row : BitVec 4)
  -- MCMD (R255)
  | mcmd (d a b : Reg)
  | mcmdT (d a b : Reg)
  -- CAP (R254)
  | capgrant (d a b : Reg)
  | capdrop (b : Reg)
  -- ZWAITV (R246)
  | zwaitv (z : ZReg) (ev : BitVec 4)
  -- SYS (R407)
  | trap (a : Reg)
  | tret
  | idle (a : Reg)
  | done
  -- CRD, CWR (R406, R407)
  | crd (d : Reg) (num : BitVec 12)
  | cwr (a : Reg) (num : BitVec 12)
  -- TLBINV, CTXSW (R411, R412)
  | tlbinv (d a b : Reg)
  | ctxsw (d a b : Reg)
  -- FAULTQ (R413 to R415)
  | freplay (d a b : Reg)
  | fkill (d a b : Reg)
  | fqack (d a : Reg)
  -- PAIR (R416)
  | cpair (d : Reg)
  | unpair (d : Reg)
  -- LAUNCH (R76)
  | launch (d a : Reg)
  -- STAVE/SHOP (R120)
  | stvgrow (d a b : Reg)
  | stvshrink (d a b : Reg)
  | stvmap (d a b : Reg)
  | rhashBegin (d a b : Reg)
  | rhashCommit (d a : Reg)
  | migrate (d a b : Reg)
  | quar (d a b : Reg)
  -- HINT (R26 to R33)
  | hintWide (hi : BitVec 22)
  | hintMempol (llc alloc : BitVec 2)
  | hintRound (mode : RMode)
  | hintSched (taken : Bool) (gap : BitVec 4)
  -- steps without an encoding
  /-- FQBASE_WRITE: the device takes a new fault queue (R396). -/
  | fqbaseWrite (stave : BitVec 6) (v : W64)
  /-- RBDATA_READ: one dword of a readable structure reaches g[d] (R442). -/
  | rbdataRead (d : Reg)
  /-- INTERRUPT: a pending interrupt or asynchronous cause of the core is taken (R393, R394). -/
  | interrupt (core : Nat)
  /-- PRI_RESPONSE: the host answers a page request (R399). -/
  | priResponse (sid : BitVec 16) (vpn : BitVec 44) (success : Bool)
  /-- ATS_INVALIDATION: the host invalidates count pages of a PASID from page first (R450). -/
  | atsInvalidation (sid : BitVec 16) (first count : Nat)
  /-- READ_REQUEST: the home serves a read of a line by a core (R278). -/
  | readRequest (core : Nat) (sid : BitVec 16) (line : Nat) (span : BitVec 16)
  /-- WRITE_REQUEST: the home grants write ownership (R278). -/
  | writeRequest (core : Nat) (sid : BitVec 16) (line : Nat) (span : BitVec 16)
  /-- NON_ALLOCATING_REQUEST: the home serves a nal1, nal2 or bypass request (R278). -/
  | nonAllocatingRequest (core : Nat) (sid : BitVec 16) (line : Nat) (span : BitVec 16) (store : Bool)
  /-- LINE_HANDOVER: the sweeper hands a moved line over (R130). -/
  | lineHandover (stave : BitVec 6) (line : Nat)
  /-- REMOTE_STORE_PERFORM: network item i, a remote store, is performed (R266). -/
  | remoteStorePerform (i : Nat)
  /-- REMOTE_STORE_ACK: network item i, a report, reaches its sender (R266). -/
  | remoteStoreAck (i : Nat)
  /-- COPY_SECTOR: a sector of the active copy lands or is refused (R296). -/
  | copySector (core : Nat) (chan : BitVec 2) (sector : Nat)
  /-- BPREF_LINE: a line of BPREF operation i is brought in or skipped (R288). -/
  | bprefLine (i : Nat) (line : Nat)
  /-- MATRIX_COMMAND_ARRIVAL: network item i, a command, is checked (R257). -/
  | matrixCommandArrival (i : Nat)
  /-- MATRIX_COMMAND_RUN: the oldest accepted command of the core runs (R258). -/
  | matrixCommandRun (core : Nat)
  /-- MESSAGE_ARRIVAL: network item i, a message, is accepted or waits (R343). -/
  | messageArrival (i : Nat)
  /-- END_OF_STREAM_ARRIVAL: network item i, an end-of-stream word, is accepted or waits (R343). -/
  | endOfStreamArrival (i : Nat)
  /-- PUSH_DELIVERY: push i in flight is delivered (R375). -/
  | pushDelivery (i : Nat)
  /-- WORLD_STALL: a world access that waited too long is withdrawn (R326). -/
  | worldStall (core : Nat)
  /-- JOB_COMPLETION: the completion record is written (R84). -/
  | jobCompletion (stave job : BitVec 6)
  /-- FILL_SAMPLE: the fill of every stage is sampled (R97). -/
  | fillSample (stave : BitVec 6)
  /-- PLACEMENT_WINDOW_END: a placement window ends (R97). -/
  | placementWindowEnd (stave : BitVec 6)
  /-- PLACEMENT_REQUEST: entry i of the ready queue is tried (R90). -/
  | placementRequest (stave : BitVec 6) (i : Nat)
  /-- BACKOFF_EXPIRY: the back-off of ready entry i ends (R91). -/
  | backoffExpiry (stave : BitVec 6) (i : Nat)
  /-- COMPACTION: compaction for ready entry i (R102). -/
  | compaction (stave : BitVec 6) (i : Nat)
  /-- AGING: ready entry i ages (R101). -/
  | aging (stave : BitVec 6) (i : Nat)
  /-- PREEMPTION_DECISION: pre-emption for ready entry i (R103). -/
  | preemptionDecision (stave : BitVec 6) (i : Nat)
  /-- INSTANCE_REMOVAL: a withdrawn instance ends or is restored (R98). -/
  | instanceRemoval (stave : BitVec 6) (job : BitVec 6) (stage inst : Nat)
  /-- PRE_EMPTION: the instance or context on the core is saved (R400). -/
  | preEmption (core : Nat)
  /-- RESUMPTION: the pre-empted instance of ready entry i is restored (R403). -/
  | resumption (stave : BitVec 6) (i : Nat)
  /-- INBOX_DIVERSION: network item i is diverted to the inbox of its target (R404). -/
  | inboxDiversion (i : Nat)
  /-- MIGRATION: accepted move i of the stave runs (R133). -/
  | migration (stave : BitVec 6) (i : Nat)
  /-- CLUSTER_DRAINED: a draining cluster without a context enters SCRUB (R125). -/
  | clusterDrained (cluster : Nat)
  /-- SCRUB_COMPLETE: a scrubbed resource becomes FREE (R117). -/
  | scrubComplete (kind : BitVec 2) (unit : Nat)
  /-- BANDWIDTH_WINDOW: injection budgets are renewed (R115). -/
  | bandwidthWindow
  /-- ROLLBACK: the domain of a core with a trigger is rolled back (R432). -/
  | rollback (core : Nat)
  /-- ERROR_DETECTED: the error logic acts on a detected error (R426). -/
  | errorDetected (unit : BitVec 32) (site : BitVec 3) (corrected : Bool) (addr : Nat)
  /-- DIRECTORY_REBUILD: a directory entry is rebuilt (R436). -/
  | directoryRebuild (line : Nat)
  /-- HOST_SNOOP: the host snoops a 64-byte host line (R444). -/
  | hostSnoop (hline : Nat)
  /-- HOST_MEM_REQUEST: the host reads or writes a 64-byte line of HDM (R447). -/
  | hostMemRequest (hpa : Nat) (write : Bool) (data : BitVec 512)
  /-- HOST_POISON_RESPONSE: a host line arrives poisoned (R446). -/
  | hostPoisonResponse (hline : Nat)
  /-- PEER_ACCESS: a peer device loads, stores or adds at a local line (R452, R453). -/
  | peerAccess (dev : BitVec 9) (pa : Nat) (kind : BitVec 9) (data : BitVec 512)
  /-- FUNCTION_LEVEL_RESET: a VF is reset (R449). -/
  | functionLevelReset (stave : BitVec 6)
  /-- LINK_TRAINING: the host link trains (R443). -/
  | linkTraining (width : BitVec 5) (cxl : Bool)
  /-- BOOT: the boot ROM verifies the firmware (R454). -/
  | boot
  /-- GET_MEASUREMENTS: an attestation report is made (R455). -/
  | getMeasurements (nonce : BitVec 384)
  /-- POWER_CAP_SET: shop firmware sets the power cap (R456). -/
  | powerCapSet (watts : BitVec 12)
  /-- THERMAL_THROTTLE: a column reaches 105 degrees (R457). -/
  | thermalThrottle (column : BitVec 2)
  /-- THERMAL_SHUTDOWN: a column reaches 115 degrees (R457). -/
  | thermalShutdown (column : BitVec 2)
  /-- TELEMETRY_UPDATE: the telemetry page is rewritten (R458). -/
  | telemetryUpdate
  /-- IDLE_TIMEOUT: the time limit of an IDLE passes (R409). -/
  | idleTimeout (core : Nat)
  /-- ILLEGAL_WORD: a word that is no instruction issues (R35, R38). -/
  | illegalWord (w : Word)
  /-- REMOTE_ACCESS: the remote load or atomic that the core waits on is answered (R266). -/
  | remoteAccess (core : Nat)
  /-- SAVEBASE_WRITE: SAVEBASE becomes nonzero and releases waiting moves (R403). -/
  | savebaseWrite (stave : BitVec 6) (v : W64)
  /-- THERMAL_THROTTLE_RELEASE: the junctions are below 100 degrees again (R457). -/
  | thermalThrottleRelease
  /-- HOST_DATA_RESPONSE: a host line arrives at the home (R444). -/
  | hostDataResponse (hline : Nat)
  /-- ATS_TRANSLATION_COMPLETION: a translation arrives from the host (R399, R450). -/
  | atsTranslationCompletion (sid : BitVec 16) (vpn : BitVec 44) (pte : W64)
  /-- POWER_GATING: a cluster is power-gated (R440). -/
  | powerGating (cluster : Nat)
  deriving DecidableEq, Repr

end Sys2Proof
end

