-- ==== Sys2Proof/Machine/State.lean ====
section
/-! DEFINITION. The state of the ABH-2 as plain data: the contexts on its cores, the memory, the homes, the staves and
their jobs, the network and what surrounds the device. State.reset is the machine right after reset. -/

namespace Sys2Proof.Machine

/-- Bytes at addresses: addresses strictly rising, and no entry equal to what an unlisted address reads as, which is zero
(log 2, DESIGN CHOICE: the manual gives no contents of memory at power-on). -/
abbrev Cells := List Host.Cell

/-! ## What a core holds -/

/-- The HINT chain in progress (R26): what each kind of HINT gives the target, and the address of the first HINT (R27). -/
structure Hints where
  wide : Option (BitVec 22)
  /-- llc and alloc (Table 8 of 01) -/
  mempol : Option (BitVec 2 × BitVec 2)
  round : Option RMode
  /-- taken and gap (Table 10 of 01) -/
  sched : Option (Bool × BitVec 4)
  start : Option W64
  /-- the words of the chain so far -/
  words : List Word
  deriving DecidableEq, Repr

/-- The register files (Table 2 of 01, R18, R231). -/
structure Regs where
  g : Vector W64 64
  v : Vector V512 56
  p : Vector W64 8
  /-- element (i, j) of an accumulator is number 16 i + j (R232) -/
  z : Vector (Vector (BitVec 32) 256) 8
  zver : Vector (BitVec 16) 8
  lc : Vector W64 3
  deriving DecidableEq, Repr

/-- The control registers that belong to a context (Table 6 of 19, R406). Those that are read from other state (CORE_ID,
LCORE, STAVE, DOMAIN, INSTID, CKSTAT, CYCLE) have no field here. -/
structure Ctl where
  mode : Mode
  ie : Bool
  fpctl : W64
  qctl : W64
  wlimit : W64
  wstat : W64
  patctl : W64
  tvec : W64
  tcause : W64
  tval : W64
  tpc : W64
  tstat : W64
  pix : W64
  regbase : W64
  unack : BitVec 16
  sigctl : W64
  brka : Vector W64 4
  retired : W64
  ptbase : W64
  sid : BitVec 16
  ctxtag : BitVec 32
  poolbase : W64
  lbody : Vector W64 3
  llen : W64
  sigtab : W64
  sigtext : W64
  sigst : W64
  deriving DecidableEq, Repr

/-- A core's local memory (R262, R265, R280): bytes by offset, the lines that are empty, the poisoned words (by word
number), all rising; landed: the lines whose full bits copies have set, which the core's loads join (R354). -/
structure Loc where
  bytes : Cells
  empty : List Nat
  poison : List Nat
  landed : List Nat
  deriving DecidableEq, Repr

/-- A word of a SELF line in the L1 (R273, R276): its tag's SID, its physical word number, its data, its dirty bytes, and whether it is
poisoned there (R426). -/
structure L1Word where
  sid : BitVec 16
  word : Nat
  data : W64
  dirty : BitVec 8
  bad : Bool
  deriving DecidableEq, Repr

/-- A TLB entry (R272). level is that of its leaf: 0 for 4 KiB, 1 for 2 MiB, 2 for 1 GiB. -/
structure TlbEntry where
  sid : BitVec 16
  /-- the virtual page number: VA[55:12] of the page's first 4 KiB -/
  vpn : Nat
  level : Nat
  pte : W64
  /-- where its leaf stands in memory -/
  key : Nat
  /-- where the 16 entries of its 64 KiB do not agree: these entries, of which an access uses any (R269) -/
  alts : List W64
  deriving DecidableEq, Repr

/-- A line of the instruction cache (R136): SID, physical line number, data, poisoned words (R280). -/
structure ILine where
  sid : BitVec 16
  line : Nat
  data : BitVec 1024
  bad : BitVec 16
  deriving DecidableEq, Repr

/-- The context in which an engine operation writes its sync object (R462). core: its physical core; 16,384 + its logical
number while it is absent; 2^30 once it has ended. job: the job that forked the operation, which does not retire before it (R84). -/
structure Issuer where
  core : Nat
  sid : BitVec 16
  mode : Mode
  ptbase : W64
  job : Option (BitVec 6)
  deriving DecidableEq, Repr

/-- A copy in progress on a channel (R294 to R307). -/
structure Copy where
  slot : BitVec 8
  arg : W64
  tmpl : BitVec 512
  /-- sectors that have landed or been refused, rising -/
  landed : List Nat
  /-- sectors parked for fault service (R306), each with the page for which it waits and the kind of its access -/
  parked : List (Nat × (Nat × Nat))
  /-- bytes landed or refused (Table 5 of 12) -/
  bytes : Nat
  who : Issuer
  /-- remote stores of the core with lower sending numbers come first (R305) -/
  fork : Nat
  deriving DecidableEq, Repr

/-- A start that waits for its channel: the stored data, and the template that it took (R293, R294). -/
structure Start where
  data : W64
  tmpl : BitVec 512
  who : Issuer
  fork : Nat
  deriving DecidableEq, Repr

/-- A copy channel: its active copy and up to three waiting starts (R294). -/
structure Chan where
  active : Option Copy
  waiting : List Start
  deriving DecidableEq, Repr

/-- A stream-table slot (R337). -/
structure Slot where
  bind : W64
  head : BitVec 32
  tail : BitVec 32
  eos : BitVec 32
  deriving DecidableEq, Repr

/-- An entry of an operand queue, with the poison of its nine words (R20, R280). -/
structure QEntry where
  data : V512
  poison : BitVec 8
  deriving DecidableEq, Repr

/-- A matrix command (R255): capability, 32-byte block, sender and its logical core. -/
structure MCmd where
  cap : W64
  block : BitVec 256
  sender : Issuer
  lcore : BitVec 13
  /-- `mcmd.t` at this address waits for the answer (R256) -/
  asks : Option W64
  /-- remote stores of the sender with lower sending numbers come first (R256) -/
  fork : Nat
  deriving DecidableEq, Repr

/-- An entry of the store-count table (R369). -/
structure StoreCount where
  line : Nat
  count : BitVec 16
  deriving DecidableEq, Repr

/-- An operation that a checked pair compares (R416): kind, address, size, data; result: what an atomic of member 0
returned, and the WSTAT that a WST of member 0 wrote. -/
structure PairOp where
  kind : Nat
  addr : W64
  size : Nat
  data : Nat
  result : W64
  deriving DecidableEq, Repr

/-- Bond strengths (Table 1 of 19, TSTAT.bond). -/
inductive Bond where
  | none | follow | gang
  deriving DecidableEq, Repr

/-- A word that a leader has issued and a follower has not yet issued (R147): its address, the word, and the address that
the leader went on to. -/
structure TrailWord where
  pc : W64
  word : Word
  next : W64
  /-- the leader's control decision at the word (R148) -/
  choice : Nat
  /-- the sequence of a REPV, and how many words the step of the leader has issued -/
  seq : List Word
  count : Nat
  deriving DecidableEq, Repr

/-- Membership of a stage instance (R93, R94). -/
structure Member where
  job : BitVec 6
  stage : Nat
  inst : Nat
  member : Nat
  deriving DecidableEq, Repr

/-- What the home of a key answers to a load (R320 to R323): code, count and the data, or the address of a poisoned word. -/
structure WorldAnswer where
  code : BitVec 4
  count : BitVec 5
  data : BitVec 1024
  poison : Option W64
  deriving DecidableEq, Repr

/-- A world access at its home since a cycle: its handle; for a load that is blocked there, t′ and the limit (R324); the
answer once an evaluation has given it. -/
structure WorldWait where
  since : W64
  handle : W64
  load : Option (W64 × Nat)
  answer : Option WorldAnswer
  deriving DecidableEq, Repr

/-- Why a core does not go on: each is an interruptible stall unless its rule says otherwise. The instruction at the pc
executes again and finds out whether its wait is over. -/
inductive Wait where
  /-- an empty line of local memory (R265) -/
  | empty
  /-- an operand queue is empty (R20) -/
  | queue
  /-- an accumulator's version (R233, R246) -/
  | version
  /-- UNACK must fall (R266, R357) -/
  | unack
  /-- four messages of the core are not yet accepted (R341) -/
  | inject
  /-- the channel holds an active copy and three starts (R294) -/
  | chan
  /-- a long instruction has stopped part-way, its progress in PIX: an interrupt or a pre-emption may come here (R240) -/
  | part
  /-- a join (R153, R416): its word, which with its address the other members compare -/
  | join (word : Word)
  /-- a barrier, in whose superstep (its count before the end) the core has arrived (R351), and the register it writes -/
  | bar (level : Level) (count : W64) (d : Reg)
  /-- MWAIT (R364); tail: the word is the tail word of an input slot (R347) -/
  | mwait (tail : Bool)
  /-- SWAIT (R304) -/
  | swait
  /-- WAITEOS (R347) -/
  | eos
  /-- IDLE since the given cycle with a limit, 0 for none (R409); elapsed: the limit has passed -/
  | idle (since limit : W64) (elapsed : Bool)
  /-- a remote load or atomic at the address; the addresses at which the instruction's remote accesses have been answered (R266) -/
  | remote (va : W64) (got : List W64)
  /-- an access parked for fault service (R53, R398, R399): SID, address, kind (4: a page request to the host) -/
  | park (sid : BitVec 16) (va : W64) (kind : Nat)
  /-- the slice cannot serve the request yet: its budget for the channel is spent (R115), or the line stands in an LLC way that
  leaves the stave (R119) -/
  | slice
  /-- a host line must arrive at its home, owned for a write or an atomic (R444) -/
  | host (hline : Nat) (own : Bool)
  /-- the stave holds 1,024 pending records, or the VF 512 page requests (R398, R450) -/
  | faultRoom
  /-- a world access blocked or stalled at the home (R319, R324, R326) -/
  | world (w : WorldWait)
  /-- DONE waits for its engine operations and commands (R410) -/
  | done
  /-- `mcmd.t` waits for the target's answer (R256) -/
  | mcmd
  /-- CTXSW has met an uncorrectable error at an address of the area that it restores, until ROLLBACK acts on it (R434) -/
  | area (addr : Nat)
  /-- the leader waits for its followers (R147, R154) -/
  | follow
  /-- a member of a locked gang waits (R150) -/
  | gang
  /-- a checked pair's comparison (R416) -/
  | pair
  /-- the router's budget for the window is spent (R115) -/
  | budget
  /-- requests of an RHASH transition still to be served (R131) -/
  | rhash
  /-- its job has ended (R427) -/
  | ended
  /-- a trigger met by a member: cause and value, until ROLLBACK acts on it (R432, R433) -/
  | trigger (cause : BitVec 8) (val : W64)
  deriving DecidableEq, Repr

/-- An interrupt held pending for a headstock core (R394). -/
inductive Irq where
  /-- PREEMPT: the area to restore -/
  | preempt (area : W64)
  /-- STAVE_MOVED: the request word, or 0 -/
  | moved (word : W64)
  deriving DecidableEq, Repr

/-- What a network item is (R405): a remote store, a message, an end-of-stream word, a matrix command, or the report of a
performed remote store on its way back (R266). -/
inductive NetKind where
  | store | message | eos | command | report
  deriving DecidableEq, Repr

/-- An item in the network (R266, R341, R404). -/
structure NetItem where
  kind : NetKind
  stave : BitVec 6
  /-- the sender's logical core and context tag -/
  src : BitVec 13
  srcTag : BitVec 32
  /-- the target's logical core and the context tag stamped at injection; the stage while no instance is committed (R342) -/
  dst : BitVec 13
  tag : BitVec 32
  stage : Option Nat
  job : BitVec 6
  stream : BitVec 12
  slot : BitVec 4
  /-- local offset (remote store) or physical address (peer store), and the size in bytes -/
  off : Nat
  size : Nat
  data : V512
  cmd : Option MCmd
  /-- the store goes to a peer device (R452) -/
  peer : Bool
  /-- the store is volatile (R285) -/
  vol : Bool
  /-- it comes from the inbox of its target, before every later item (R405) -/
  inbox : Bool
  /-- the cycle of the first refusal (R404) -/
  refused : Option W64
  /-- a count in sending order -/
  order : Nat
  deriving DecidableEq, Repr

/-- A note that rides at a producer's L1 (R373): job and pattern of its entry, the line and the count that fires it. -/
structure PushNote where
  job : BitVec 6
  pat : BitVec 4
  line : Nat
  count : BitVec 16
  deriving DecidableEq, Repr

/-- A physical core with the context that runs on it. -/
structure Core where
  pc : W64
  hints : Hints
  regs : Regs
  ctl : Ctl
  /-- the logical number that the stave map gives the core (R108) -/
  lcore : BitVec 13
  loc : Loc
  l1 : List L1Word
  icache : List ILine
  tlb : List TlbEntry
  /-- captured words of active loop bodies (R141) -/
  loopBuf : List (W64 × Word)
  /-- the words of the REPV sequence in progress, as they were fetched when it issued (R144) -/
  seq : List Word
  /-- the words that the checker has been fed in the current pass through a block (R160) -/
  pass : List Word
  /-- the word at the pc has issued and waits; its breakpoint match was tested then (R156) -/
  issued : Bool
  /-- words that a peer has answered for the fetch in progress, which no cache holds (R452) -/
  peerWords : List (W64 × Word)
  templates : Vector (Option V512) 64
  chans : Vector Chan 4
  slots : Vector Slot 16
  queues : Vector (List QEntry) 8
  caps : Vector W64 8
  mcmds : List MCmd
  /-- the items that the inbox of the context's save area holds, in arrival order, with what their entries do not tell (R404, R405) -/
  inbox : List NetItem
  /-- `mcmd.t` instructions that have sent, by their addresses, with the answer once it has come: accepted or not (R256) -/
  asked : List (W64 × Option Bool)
  counts : List StoreCount
  notes : List PushNote
  member : Option Member
  bond : Bond
  /-- index within the bond, and the physical cores of the bond in member order -/
  rank : Nat
  crew : List Nat
  /-- the leader has released some follower (R154) -/
  released : Bool
  /-- words that this follower has yet to issue (R147) -/
  trail : List TrailWord
  /-- the bond has ended at the leader; the follower fetches for itself after its trail -/
  orphan : Bool
  /-- the word at which this leader waits has been issued, and its followers are to issue it already (R147, R352) -/
  handed : Bool
  /-- the other core of a checked pair, and this core's operations that wait to be compared (R416) -/
  pair : Option Nat
  pairOps : List PairOp
  wait : Option Wait
  /-- an item was accepted into one of the core's slots since IDLE issued (R409) -/
  accepted : Bool
  /-- supersteps ended by a core of no instance, whose domain is the core alone (Table 6 of 16) -/
  count0 : W64
  irqs : List Irq
  /-- a pending PAIR_MISMATCH: the address of member 0's operation (R393, R416) -/
  async : Option W64
  /-- a pending SIG_MISMATCH: the address of the word that ended the block (R162) -/
  sigPend : Option W64
  /-- the instance is held at its first instruction (R95) -/
  held : Bool
  /-- the core holds a context -/
  live : Bool
  /-- the core has stopped (R392, R414, R435, R457) -/
  stopped : Bool
  /-- a member that has executed DONE (R410) -/
  finished : Bool
  /-- words that the context has retired (R463), which its job's record counts (R83) -/
  nretired : Nat
  /-- the model's own: how many more elements a long instruction commits before it stops part-way in the present step; none: it does
  not stop (R240; log 6, DESIGN CHOICE) -/
  quota : Option Nat
  /-- a trap has been entered and the word at TVEC has not been fetched yet (R392) -/
  entering : Bool
  deriving DecidableEq, Repr

/-! ## The homes and the network -/

/-- Segment states (Table 7 of 11). -/
inductive SegState where
  | i | s | e | o | m
  deriving DecidableEq, Repr

/-- A segment of a directory entry (R277): its words lo to hi, its state, its holders, its owner, and the words that the
owner has stored to since its grant (R278). -/
structure Seg where
  lo : Nat
  hi : Nat
  st : SegState
  holders : List Nat
  owner : Option Nat
  dirty : BitVec 16
  deriving DecidableEq, Repr

/-- A directory entry with the SID that caches the line (R274, R277), and beside it the valid bits of the line's words in
the caches that hold some: L1s by core, slices that hold a pushed copy, the host (R273). -/
structure DirLine where
  line : Nat
  sid : BitVec 16
  segs : List Seg
  valid : List (Nat × BitVec 16)
  deriving DecidableEq, Repr

/-- A line that an L2 slice holds (R273, R275): slice die · 256 + cluster, the tag's SID, the words newer than the channel's. -/
structure L2Line where
  slice : Nat
  line : Nat
  sid : BitVec 16
  dirty : BitVec 16
  deriving DecidableEq, Repr

/-- A line that the memory-side LLC holds in a way of its channel (R275, R119): channel · 32 + way; first: it is the first to
be evicted (R279). -/
structure LlcLine where
  way : Nat
  line : Nat
  sid : BitVec 16
  dirty : BitVec 16
  first : Bool
  deriving DecidableEq, Repr

/-- A pushed copy that has not been read (R375): line, words, holder, its consumer, the pattern whose push delivered it. -/
structure Unread where
  line : Nat
  span : BitVec 16
  holder : Nat
  stave : BitVec 6
  lcore : BitVec 13
  job : BitVec 6
  pat : BitVec 4
  deriving DecidableEq, Repr

/-- A push in flight (R374, R375). -/
structure Push where
  line : Nat
  span : BitVec 16
  /-- the consumer's stave and logical core -/
  stave : BitVec 6
  lcore : BitVec 13
  dest : Bool
  sid : BitVec 16
  job : BitVec 6
  pat : BitVec 4
  deriving DecidableEq, Repr

/-- A B block that the cores of a cluster share (R241): its core and offset, the cycle of its read, its bytes, the cores that have used
them, and those whose MMA, at an address, is using them. -/
structure SharedB where
  core : Nat
  off : Nat
  since : W64
  len : Nat
  bytes : Nat
  users : List Nat
  takers : List (Nat × W64)
  deriving DecidableEq, Repr

/-- A BPREF in progress (R288). -/
structure Bpref where
  who : Issuer
  addr : W64
  len : Nat
  sync : W64
  /-- MEMPOL's codes with which it was issued: alloc and llc (R31, R279) -/
  alloc : Nat
  llc : Nat
  /-- lines, by number from the first, that have been brought in or skipped -/
  donel : List Nat
  deriving DecidableEq, Repr

/-- An addition to a sync object that cannot be made yet (R462): object, bytes, a status to be written before it. -/
structure SyncAdd where
  who : Issuer
  addr : W64
  bytes : Nat
  status : Nat
  /-- the status is written whatever stands there (R121, R259) -/
  set : Bool
  /-- it is parked for fault service, until FREPLAY releases the page -/
  parked : Bool
  deriving DecidableEq, Repr

/-! ## Staves and jobs -/

/-- A pending fault record (R398). -/
structure FaultRec where
  sid : BitVec 16
  vpn : Nat
  kind : Nat
  va : W64
  level : Nat
  count : BitVec 32
  lcore : BitVec 13
  job : BitVec 6
  engine : Bool
  malformed : Bool
  pc : W64
  seq : BitVec 32
  /-- the slot number of its entry, once appended -/
  entry : Option (BitVec 32)
  /-- its entry stands in a queue that a write of FQBASE has replaced (R396) -/
  old : Bool
  deriving DecidableEq, Repr

/-- A page request to the host (R399, R450). -/
structure PageReq where
  sid : BitVec 16
  vpn : Nat
  deriving DecidableEq, Repr

/-- A transition of RHASH (R128 to R131). -/
structure Transition where
  masks : Vector W64 10
  buckets : Vector (BitVec 16) 1024
  sync : W64
  who : Issuer
  /-- moved lines handed to, or recorded as at home at, their new homes -/
  handed : List Nat
  swept : Bool
  deriving DecidableEq, Repr

/-- A placement request or a pre-empted instance in the ready queue (R86 to R103). -/
structure Ready where
  job : BitVec 6
  stage : Nat
  /-- the pre-empted instance that is to resume; none for a new one -/
  inst : Option Nat
  /-- instances that the request covers (R90) -/
  need : Nat
  /-- a growth request (R97), which ends when its stage closes (R99) -/
  growth : Bool
  prio : Nat
  /-- the cycle at which it became ready, and the one from which aging counts (R101) -/
  readyAt : W64
  since : W64
  fails : Nat
  /-- the cycle before which it is not tried again (R91) -/
  notBefore : W64
  /-- cores reserved for it by compaction or pre-emption (R102, R103) -/
  reserved : List Nat
  /-- compaction is under way or waits for a change of occupancy (R91, R102) -/
  compacting : Bool
  deriving DecidableEq, Repr

/-- An accepted move of an instance (R132, R133): by MIGRATE, compaction, STVSHRINK or QUAR. -/
structure Move where
  job : BitVec 6
  stage : Nat
  inst : Nat
  /-- the destination core of member 0; none: pre-empt (R125) -/
  dest : Option Nat
  sync : W64
  who : Issuer
  deriving DecidableEq, Repr

/-- A STVSHRINK that has started (R125): the request word, its sync object, and whether an instance was suspended. -/
structure Shrink where
  word : W64
  sync : W64
  who : Issuer
  suspended : Bool
  /-- a QUAR's shrink does not complete to FREE (R134) -/
  quar : Bool
  deriving DecidableEq, Repr

/-- An instance of a stage (R94, R98). cores: the physical cores of its members, [] while it is pre-empted. -/
structure Inst where
  stage : Nat
  num : Nat
  lcores : List (BitVec 13)
  cores : List Nat
  held : Bool
  /-- members that have executed DONE, by index -/
  done : List Nat
  /-- withdrawn from the instance table for a removal (R98) -/
  withdrawn : Bool
  placedAt : W64
  moving : Bool
  deriving DecidableEq, Repr

/-- A stage of an accepted job: its record (R60) and what placement keeps of it. -/
structure Stage where
  record : BitVec 512
  ready : Bool
  closing : Bool
  /-- next instance number (R94) -/
  next : Nat
  /-- die and lowest cluster of its rectangle (R88) -/
  rect : Option (Nat × Nat)
  /-- sum and number of fill samples in the window, per input stream (R97) -/
  samples : List Nat
  nsamples : Nat
  /-- windows in a row below the shrink threshold -/
  below : Nat
  /-- an instance tried for removal, and whether its window has ended (R98) -/
  removing : Option Nat
  deriving DecidableEq, Repr

/-- A member that has gone on from the barrier of a protected superstep, whose shadow is written: its bond and its pair at
that moment, with the members of its instance by index. -/
structure CkMember where
  lcore : BitVec 13
  bond : Bond
  rank : Nat
  crew : List Nat
  pair : Option Nat
  /-- what its checker has been fed in the pass in progress (R160) -/
  pass : List Word
  deriving DecidableEq, Repr

/-- Checkpoint state of a domain (R430, R431). -/
structure Ckpt where
  active : Bool
  unprot : Bool
  reason : BitVec 4
  rerun : Bool
  /-- journal entries that the superstep holds, by number -/
  entries : List Nat
  members : List CkMember
  /-- words of the members' shadows whose poison came with the local lines that they keep -/
  carried : List Nat
  deriving DecidableEq, Repr

/-- A synchronisation domain (R349 to R353): its level, its stage, instance and member (0 where the level has none), its
superstep count, and the logical cores that have arrived, with their ck. -/
structure Dom where
  level : Level
  stage : Nat
  inst : Nat
  member : Nat
  count : W64
  arrived : List (BitVec 13 × Bool)
  ck : Ckpt
  deriving DecidableEq, Repr

/-- A bound world region (R313): descriptor and its address, the horizon, the readers' marks, and the frames of its pages,
fixed at the binding, in order, as keys of memory. Its key blocks stand in memory at these frames. -/
structure Region where
  num : BitVec 6
  addr : W64
  desc : BitVec 512
  horizon : W64
  marks : List W64
  frames : List Nat
  deriving DecidableEq, Repr

/-- Pattern states, in the order of their codes (Table 1 of 17). -/
inductive PatState where
  | off | armed | record | recorded | cued | play | paused | fallback
  deriving DecidableEq, Repr

/-- An entry of the pattern tables (R372). -/
structure PatEntry where
  line : Nat
  sid : BitVec 16
  span : BitVec 16
  count : BitVec 16
  producer : BitVec 13
  consumers : List (BitVec 13)
  armed : Bool
  dest : Bool
  /-- the slice (die · 256 + cluster) whose table holds it -/
  home : Nat
  deriving DecidableEq, Repr

/-- A pattern of a job (R365 to R384). -/
structure Pattern where
  st : PatState
  level : Level
  stage : Nat
  inst : Nat
  auto : Bool
  ovf : Bool
  tears : Nat
  played : Nat
  /-- its fall-backs since the job began, which the completion record counts (R377, R381) -/
  falls : Nat
  limit : BitVec 8
  dest : Bool
  /-- the last accepted change: PATREC 0 or PATPLAY 1, and the superstep (R383) -/
  last : Option (Nat × W64)
  entries : List PatEntry
  /-- lines that get no entry in this recording (R371) -/
  barred : List Nat
  deriving DecidableEq, Repr

/-- A job of a stave that has not retired (R77 to R84). -/
structure Job where
  num : BitVec 6
  record : BitVec 1024
  sid : BitVec 16
  ptbase : W64
  mode : Mode
  /-- address of TEXT, of SIG and of TEMPLATE (R68) -/
  text : W64
  sig : W64
  tmpl : W64
  checked : Bool
  /-- block entries of the SIG section (R64) -/
  sigBlocks : Nat
  stages : List Stage
  /-- stream records (R61) -/
  streams : List (BitVec 256)
  insts : List Inst
  doms : List Dom
  regions : List Region
  pats : Vector Pattern 16
  /-- patterns as they stood at the barrier of a checkpointed superstep (R381) -/
  patsAt : List (Nat × Pattern)
  /-- round-robin choice last made, by producer and stream (R100) -/
  rr : List (BitVec 13 × Nat × Nat)
  acceptedAt : W64
  /-- counters of the completion record (R83) -/
  nretired : Nat
  nfaults : Nat
  nrollbacks : Nat
  nmigrations : Nat
  nfallbacks : Nat
  rolled : Bool
  failUnit : BitVec 32
  status : Option (BitVec 16)
  reason : W64
  /-- capture or replay log: bytes used, records, truncated, next index of each core (R441) -/
  logUsed : Nat
  logCount : Nat
  logFull : Bool
  logNext : List (Nat × Nat)
  deriving DecidableEq, Repr

/-- A stave (R105): its registers, its map and tables, and what its lead engine and its fault queue hold. -/
structure Stave where
  fqbase : W64
  pltune : W64
  wwait : W64
  savebase : W64
  svec : W64
  ckbase : W64
  srate : W64
  peertab : W64
  smask : Vector W64 10
  buckets : Vector (BitVec 16) 1024
  /-- stave map entries that are not zero, by logical core, rising (R107) -/
  map : List (Nat × BitVec 16)
  trans : Option Transition
  shrinks : List Shrink
  moves : List Move
  faults : List FaultRec
  /-- tail and head of the fault queue, entries appended since FQBASE was written, and its write's number (R397) -/
  fqTail : BitVec 32
  fqHead : BitVec 32
  fqSeq : BitVec 32
  pri : List PageReq
  ready : List Ready
  jobs : List Job
  /-- world seeds that are not zero, by SID (R316) -/
  seeds : List (BitVec 16 × W64)
  /-- what the device keeps of an absent context beside its save area, by logical core (R404, R461) -/
  absent : List (Nat × Core)
  /-- the same of a context that CTXSW has saved, by the address of its save area (R412) -/
  saved : List (Nat × Core)
  /-- cycles at which placement has taken samples and ended a window last (R97) -/
  lastSample : Nat
  lastWindow : Nat
  /-- PLTUNE's win code in force, and the cycle at which another was written, which takes effect at its own next multiple (R97) -/
  winNow : Nat
  winAt : Nat
  deriving DecidableEq, Repr

/-- Kinds of units that change hands (Table 10 of 05). -/
inductive UnitKind where
  | cluster | granule | way | headstock
  deriving DecidableEq, Repr

/-- Ownership states (Table 7 of 05). -/
inductive OwnState where
  | free | owned | draining | scrub
  deriving DecidableEq, Repr

/-- The state of a unit that is not FREE: cluster die·256+cluster, granule channel·16+granule, way channel·32+way, or
headstock core by physical number (R116). -/
structure Own where
  kind : UnitKind
  id : Nat
  st : OwnState
  stave : BitVec 6
  deriving DecidableEq, Repr

/-- An HDM range (R447): host physical base, stave, and the granule behind each 64 MiB of its window in order, none once it
has left the range. -/
structure Hdm where
  base : Nat
  stave : BitVec 6
  granules : List (Option Nat)
  deriving DecidableEq, Repr

/-- A write-back to a host line (R444, R446): its 64 bytes, and its poisoned words. -/
structure HostWrite where
  hline : Nat
  data : V512
  poison : BitVec 8
  deriving DecidableEq, Repr

/-- What the device has answered to a read from outside (R447 to R449, R452): the peer that asked, none for the host; the address, the
bytes, and whether they came poisoned. -/
structure OutAnswer where
  peer : Option (BitVec 9)
  addr : Nat
  data : V512
  bad : Bool
  deriving DecidableEq, Repr

/-- An ATS invalidation whose completion waits for accesses made through the entries that it removed (R450): the sending numbers of
the stores still in flight. -/
structure AtsWait where
  sid : BitVec 16
  orders : List Nat
  deriving DecidableEq, Repr

/-- What booting has reached (R454). -/
inductive BootState where
  | rom | firmware | recovery
  deriving DecidableEq, Repr

/-- What the host link has trained as (R443). -/
inductive LinkState where
  | down | pcie (width : Nat) | cxl (width : Nat)
  deriving DecidableEq, Repr

/-- Everything of the device that no single core holds. -/
structure Dev where
  mem : Cells
  /-- poisoned words by physical word number, rising -/
  poison : List Nat
  dir : List DirLine
  /-- what the L2 slices and the LLC hold; the values stand in mem -/
  l2 : List L2Line
  llc : List LlcLine
  /-- values that have been stored to words of which a load may return any value stored there (R276, R314), by word number -/
  stored : List (Nat × W64)
  unread : List Unread
  /-- pattern pushes in flight -/
  pushes : List Push
  net : List NetItem
  netOrder : Nat
  bprefs : List Bpref
  sharedB : List SharedB
  syncs : List SyncAdd
  /-- cluster TLBs that are not empty, by die·256+cluster (R272) -/
  tlbs : List (Nat × List TlbEntry)
  staves : List (Nat × Stave)
  owns : List Own
  /-- headstock cores that the fused boot mask reserves (R454) -/
  bootMask : List Nat
  /-- spare clusters, and those of them enabled in place of quarantined ones (R5, R134) -/
  spareMap : List Nat
  spares : List Nat
  /-- quarantined units (R85), and corrected errors counted per unit with the threshold (R435) -/
  quarantined : List (BitVec 32)
  errors : List (BitVec 32 × Nat)
  errorLimit : Nat
  stvsel : W64
  rbsel : W64
  trcfg : W64
  /-- the first stave has opened (R451) -/
  opened : Bool
  cycle : W64
  /-- mesh bytes charged in the window at the routers, by die·256+cluster, and the cycle of the window's renewal (R115) -/
  budget : List (Nat × Nat)
  renewed : Nat
  link : LinkState
  hdm : List Hdm
  /-- host lines that the device holds, and those of them that it owns (R444), rising -/
  devHolds : List Nat
  devOwns : List Nat
  /-- what the device has written back to host memory, oldest first (R446) -/
  hostSent : List HostWrite
  /-- the last answer to a read from outside -/
  answer : Option OutAnswer
  /-- MSI-X vectors raised: stave, vector (R84, R449) -/
  msix : List (Nat × Nat)
  /-- the BAR0 of each VF, which holds its MSI-X table (R449), by stave; the vectors pending behind a mask bit: stave, vector -/
  bars : List (Nat × Cells)
  pendingMsix : List (Nat × Nat)
  /-- vectors whose mask bit is clear: stave, vector; at reset every vector is masked (log 112, PRESUMED) -/
  unmasked : List (Nat × Nat)
  /-- ATS invalidations completed, and those under way (R450) -/
  atsDone : Nat
  atsWaits : List AtsWait
  boot : BootState
  /-- the attestation report last given (R455) -/
  report : List Byte
  powerCap : BitVec 12
  throttled : List (BitVec 2)
  shutdown : Bool
  /-- clusters that are power-gated (R440) -/
  gated : List Nat
  /-- the telemetry page (R458): its nine words, and the cycle at which it was rewritten last -/
  telemetry : Vector (BitVec 32) 9
  telemetryAt : Nat
  deriving DecidableEq, Repr

/-- Whose move comes next: a step of the device that the table lists, or the next instruction of a core (log 6, DESIGN CHOICE). -/
inductive Turn where
  | event (i : Instr)
  | core (k : Nat)
  /-- the core's instruction, which stops part-way after n elements if it is a long one (R240) -/
  | part (k n : Nat)
  deriving DecidableEq, Repr

/-- The machine. `me` is the context in focus, on physical core `here`; `others` lists the other cores that have been in
focus or were written, by physical core number, rising; a core that is not listed is as after reset. agenda and fresh are the model's own: the moves that come before the
focused core's next instruction (log 6, DESIGN CHOICE), and the number of the next free value (log 5, DESIGN CHOICE). -/
structure State where
  here : Nat
  me : Core
  others : List (Nat × Core)
  dev : Dev
  agenda : List Turn
  fresh : Nat
  deriving DecidableEq, Repr

/-! ## Stops -/

/-- Why the machine stops. -/
inductive Fault where
  /-- Raised by step and by every instruction when the focused core has stopped (R392, R414, R457): it issues nothing until
  a reset, which is outside the model. Safe. -/
  | coreStopped
  deriving DecidableEq, Repr

/-- Why an instruction has no meaning. -/
inductive Refusal where
  /-- Raised by exec for an instruction that the model gives no meaning yet. Safe. -/
  | notModelled (mnemonic : String)
  deriving DecidableEq, Repr

/-- The outcome of a step of this machine. -/
abbrev Out := Host.Outcome State Fault Refusal

/-! ## Reset -/

def Hints.none : Hints := ⟨.none, .none, .none, .none, .none, []⟩

/-- Register files at reset: log 1, DESIGN CHOICE, since the manual gives none. -/
def Regs.reset : Regs :=
  { g := .replicate 64 0, v := .replicate 56 0, p := .replicate 8 0, z := .replicate 8 (.replicate 256 0),
    zver := .replicate 8 0, lc := .replicate 3 0 }

/-- Control registers at reset: MODE and the trap registers by R390, FPCTL by R188, PATCTL by R368, the others 0 by their
tables; PIX, REGBASE, RETIRED and CTXTAG by log 1. -/
def Ctl.reset : Ctl :=
  { mode := .shop, ie := false, fpctl := 0, qctl := 0, wlimit := 0, wstat := 0, patctl := 4, tvec := 0, tcause := 0,
    tval := 0, tpc := 0, tstat := 0, pix := 0, regbase := 0, unack := 0, sigctl := 0, brka := .replicate 4 0,
    retired := 0, ptbase := 0, sid := 0, ctxtag := 0, poolbase := 0, lbody := .replicate 3 0, llen := 0, sigtab := 0,
    sigtext := 0, sigst := 0 }

def Loc.reset : Loc := ⟨[], [], [], []⟩

def Slot.reset : Slot := ⟨0, 0, 0, 0⟩

/-- A core at reset. A core that is not in focus and is not listed holds this. -/
def Core.reset : Core :=
  { pc := 0, hints := .none, regs := .reset, ctl := .reset, lcore := 0, loc := .reset, l1 := [], icache := [],
    tlb := [], loopBuf := [], seq := [], pass := [], issued := false, peerWords := [], templates := .replicate 64 none, chans := .replicate 4 ⟨none, []⟩,
    slots := .replicate 16 .reset, queues := .replicate 8 [], caps := .replicate 8 0, mcmds := [], inbox := [], asked := [], counts := [],
    notes := [], member := none, bond := .none, rank := 0, crew := [], released := false, trail := [], orphan := false, handed := false,
    pair := none, pairOps := [], wait := none, accepted := false, count0 := 0, irqs := [], async := none, sigPend := none,
    held := false, live := false, stopped := false, finished := false, nretired := 0, quota := none, entering := false }

/-- A stave at reset: PLTUNE by R96 (win 14, grow 6, shrink 1, hold 4), WWAIT by R325, the others 0. -/
def Stave.reset : Stave :=
  { fqbase := 0, pltune := 0x4160E, wwait := 16384, savebase := 0, svec := 0, ckbase := 0, srate := 0, peertab := 0,
    smask := .replicate 10 0, buckets := .replicate 1024 0, map := [], trans := none, shrinks := [], moves := [],
    faults := [], fqTail := 0, fqHead := 0, fqSeq := 0, pri := [], ready := [], jobs := [], seeds := [], absent := [], saved := [],
    lastSample := 0, lastWindow := 0, winNow := 14, winAt := 0 }

/-- The cores that the default boot mask names: one cluster per die (R454), here cluster 0 of each (log 3, DESIGN CHOICE). -/
def bootCores : List Nat := (List.range 4).flatMap fun d => (List.range 8).map fun c => 2048 * d + c

/-- The spare clusters, 8 on each die (R5): the highest numbers (log 3, DESIGN CHOICE). -/
def spareClusters : List Nat := (List.range 4).flatMap fun d => (List.range 8).map fun c => 256 * d + 192 + c

/-- The device at reset. The power cap is the nominal package power (R456), the corrected-error threshold has no stated
reset value (log 1, DESIGN CHOICE). -/
def Dev.reset : Dev :=
  { mem := [], poison := [], dir := [], l2 := [], llc := [], stored := [], unread := [], pushes := [], net := [], netOrder := 0, bprefs := [], sharedB := [], syncs := [], tlbs := [],
    staves := [], owns := [], bootMask := bootCores,
    spareMap := spareClusters, spares := [], quarantined := [], errors := [], errorLimit := 0, stvsel := 0, rbsel := 0,
    trcfg := 0, opened := false, cycle := 0, budget := [], renewed := 0, link := .down, hdm := [], devHolds := [], devOwns := [],
    hostSent := [], answer := none, msix := [], bars := [], pendingMsix := [], unmasked := [], atsDone := 0, atsWaits := [], boot := .rom, report := [], powerCap := 2800, throttled := [], shutdown := false,
    gated := [], telemetry := .replicate 9 0, telemetryAt := 0 }

/-- A headstock core that runs the boot ROM: in shop mode with interrupts off (R390, R454), its pc at 0 (log 3: the address
of the boot ROM is not given). -/
def Core.booting : Core := { Core.reset with live := true }

/-- The machine right after reset: every headstock core of the boot mask runs the boot ROM, the lowest-numbered of column 0
in focus (R454), memory with nothing listed. -/
def State.reset : State :=
  { here := 0, me := Core.booting, others := (bootCores.drop 1).map fun k => (k, Core.booting), dev := .reset, agenda := [],
    fresh := 0 }

end Sys2Proof.Machine
end

