-- ==== Sys2Proof/Machine/Bits.lean ====
section
/-! DEFINITION. Bit fields, byte order, and the lists that hold sparse data in one canonical form. -/

namespace Sys2Proof.Machine

/-! ## Words and fields -/

/-- Sign extension to 64 bits (R48). -/
def sext (x : BitVec n) : W64 := x.signExtend 64

/-- Zero extension to 64 bits (R48). -/
def zext (x : BitVec n) : W64 := x.setWidth 64

/-- Bits lo to lo + n - 1 of x as a number (R48). -/
def field (x : BitVec w) (lo n : Nat) : Nat := (x.extractLsb' lo n).toNat

/-- x with its bits lo to lo + n - 1 replaced by the low bits of y. -/
def withField (x : BitVec w) (lo n : Nat) (y : Nat) : BitVec w :=
  let m : BitVec w := BitVec.ofNat w ((2 ^ n - 1) * 2 ^ lo)
  (x &&& ~~~m) ||| (BitVec.ofNat w ((y % 2 ^ n) * 2 ^ lo))

/-- Whether bits lo to lo + n - 1 of x are zero. -/
def zeroAt (x : BitVec w) (lo n : Nat) : Bool := field x lo n == 0

/-- A word of 64 bits from a number, low bits kept (R49). -/
def w64 (n : Nat) : W64 := BitVec.ofNat 64 n

/-- A Bool as 0 or 1. -/
def bit (b : Bool) : Nat := if b then 1 else 0

/-- Parity of the bits of a number below 2 ^ n (R109). -/
def parity : Nat → Nat → Bool
  | 0, _ => false
  | n + 1, x => (x % 2 == 1) != parity n (x / 2)

/-- Number of one bits among the low n. -/
def popCount : Nat → Nat → Nat
  | 0, _ => 0
  | n + 1, x => x % 2 + popCount n (x / 2)

/-- The positions of one bits among the low n, rising. -/
def onesOf (n x : Nat) : List Nat := (List.range n).filter fun i => x.testBit i

/-! ## Bytes, little-endian (R6) -/

/-- The n bytes of a number, lowest first. -/
def leBytes : Nat → Nat → List Byte
  | 0, _ => []
  | n + 1, x => BitVec.ofNat 8 x :: leBytes n (x / 256)

/-- The number that bytes stand for, lowest first. -/
def ofLeBytes : List Byte → Nat
  | [] => 0
  | b :: t => b.toNat + 256 * ofLeBytes t

/-- Byte i of a number. -/
def byteOf (x i : Nat) : Byte := BitVec.ofNat 8 (x / 256 ^ i)

/-! ## Cells: sparse bytes in canonical form -/

/-- What an address that is not listed reads as (log 2, DESIGN CHOICE). -/
def unlistedByte : Byte := 0

/-- The byte at an address. -/
def Cells.read : Cells → Nat → Byte
  | [], _ => unlistedByte
  | (k, b) :: t, a => if k = a then b else if a < k then unlistedByte else Cells.read t a

/-- Write one byte, keeping the canonical form: writing what an unlisted address reads as removes the entry. -/
def Cells.write : Cells → Nat → Byte → Cells
  | [], a, b => if b = unlistedByte then [] else [(a, b)]
  | (k, c) :: t, a, b =>
    if k = a then (if b = unlistedByte then t else (a, b) :: t)
    else if a < k then (if b = unlistedByte then (k, c) :: t else (a, b) :: (k, c) :: t)
    else (k, c) :: Cells.write t a b

/-- The number of n bytes from an address up, little-endian. -/
def Cells.readN (m : Cells) (a : Nat) : Nat → Nat
  | 0 => 0
  | n + 1 => (m.read a).toNat + 256 * Cells.readN m (a + 1) n

/-- Write n bytes of a number from an address up, little-endian. -/
def Cells.writeN (m : Cells) (a : Nat) : Nat → Nat → Cells
  | 0, _ => m
  | n + 1, x => Cells.writeN (m.write a (BitVec.ofNat 8 x)) (a + 1) n (x / 256)

/-- Write those of n bytes whose bit in a mask is set. -/
def Cells.writeMask (m : Cells) (a : Nat) : Nat → Nat → Nat → Cells
  | 0, _, _ => m
  | n + 1, x, mask =>
    Cells.writeMask (if mask % 2 = 1 then m.write a (BitVec.ofNat 8 x) else m) (a + 1) n (x / 256) (mask / 2)

/-- Addresses rising from a bound, and no entry equal to what an unlisted address reads as. -/
def Cells.wfFrom : Nat → Cells → Bool
  | _, [] => true
  | lo, (k, b) :: t => decide (lo ≤ k) && b != unlistedByte && Cells.wfFrom (k + 1) t

/-- The canonical form. -/
def Cells.wf (m : Cells) : Bool := Cells.wfFrom 0 m

/-- The canonical form of a memory: equal memories are equal lists. -/
abbrev Memory.wf (m : Cells) : Bool := m.wf

/-- Remove every entry of an address range: its bytes read as zero. -/
def Cells.zero (m : Cells) (a n : Nat) : Cells := m.filter fun c => !(decide (a ≤ c.1 ∧ c.1 < a + n))

/-! ## Rising lists of numbers, and maps -/

/-- Insert into a rising list without repeats. -/
def insertNat (x : Nat) : List Nat → List Nat
  | [] => [x]
  | y :: t => if x = y then y :: t else if x < y then x :: y :: t else y :: insertNat x t

/-- Insert several. -/
def insertNats (xs : List Nat) (l : List Nat) : List Nat := xs.foldl (fun l x => insertNat x l) l

/-- Remove from a list. -/
def eraseNat (x : Nat) (l : List Nat) : List Nat := l.filter fun y => y != x

/-- The value at a key, or a default. -/
def assocGet (d : α) (k : Nat) : List (Nat × α) → α
  | [] => d
  | (j, x) :: t => if j = k then x else assocGet d k t

/-- Set the value at a key, keys rising. -/
def assocSet (k : Nat) (x : α) : List (Nat × α) → List (Nat × α)
  | [] => [(k, x)]
  | (j, y) :: t => if j = k then (k, x) :: t else if k < j then (k, x) :: (j, y) :: t else (j, y) :: assocSet k x t

/-- Remove a key. -/
def assocErase (k : Nat) : List (Nat × α) → List (Nat × α)
  | [] => []
  | (j, y) :: t => if j = k then assocErase k t else (j, y) :: assocErase k t

/-- The map without its key, and with the key for another number's value: used by the stave maps and tables. -/
def assocFind? (p : Nat → α → Bool) : List (Nat × α) → Option (Nat × α)
  | [] => none
  | (j, y) :: t => if p j y then some (j, y) else assocFind? p t

/-- Element i of a list, or a default. -/
def listGet (d : α) : List α → Nat → α
  | [], _ => d
  | x :: _, 0 => x
  | _ :: t, i + 1 => listGet d t i

/-- Replace element i of a list. -/
def listSet : List α → Nat → α → List α
  | [], _, _ => []
  | _ :: t, 0, y => y :: t
  | x :: t, i + 1, y => x :: listSet t i y

/-- Drop element i of a list. -/
def listDrop : List α → Nat → List α
  | [], _ => []
  | _ :: t, 0 => t
  | x :: t, i + 1 => x :: listDrop t i

/-- Element i of a vector, or a default. -/
def vget (d : α) (v : Vector α n) (i : Nat) : α := if h : i < n then v[i] else d

/-- Replace element i of a vector, where there is one. -/
def vset (v : Vector α n) (i : Nat) (x : α) : Vector α n := if h : i < n then v.set i x h else v

end Sys2Proof.Machine
end

