-- ==== Sys2Proof/Machine/Ops.lean ====
section
/-! DEFINITION. The named operations over cores, registers and the program counter; taking an exception and returning
from one; how an instruction retires. -/

namespace Sys2Proof.Machine

/-! ## Cores and focus -/

/-- Physical core number (R4, R406 CORE_ID): die 12:11, cluster 10:3, core 2:0. -/
def coreNum (die cluster core : Nat) : Nat := die * 2048 + cluster * 8 + core

/-- The die of a core. -/
def dieOf (k : Nat) : Nat := k / 2048

/-- The cluster of a core as die · 256 + cluster. -/
def clusterOf (k : Nat) : Nat := k / 8

/-- What a core holds. -/
def State.coreAt (s : State) (k : Nat) : Core :=
  if k = s.here then s.me else assocGet Core.reset k s.others

/-- Replace what a core holds. -/
def State.setCore (s : State) (k : Nat) (c : Core) : State :=
  if k = s.here then { s with me := c } else { s with others := assocSet k c s.others }

/-- Change what a core holds. -/
def State.onCore (s : State) (k : Nat) (f : Core → Core) : State := s.setCore k (f (s.coreAt k))

/-- Change what some cores hold. -/
def State.onAll (s : State) (ks : List Nat) (f : Core → Core) : State := ks.foldl (fun s k => s.onCore k f) s

/-- Put a core in focus. -/
def State.focus (s : State) (k : Nat) : State :=
  if k = s.here then s
  else { s with here := k, me := s.coreAt k, others := assocErase k (assocSet s.here s.me s.others) }

/-- Run an operation with another core in focus. -/
def State.at (s : State) (k : Nat) (f : State → State) : State := (f (s.focus k)).focus s.here

/-- Every core that the state lists, with the one in focus, rising. -/
def State.cores (s : State) : List Nat := insertNat s.here (s.others.map (·.1))

/-! ## Free values (log 5, DESIGN CHOICE) -/

/-- The next free value's number, and the state in which it has been drawn. -/
def State.draw (s : State) : Nat × State := (s.fresh, { s with fresh := s.fresh + 1 })

/-- Choose between two outcomes of which "which one is not stated" (R10). -/
def State.drawBool (s : State) : Bool × State := (Config.freeBool s.fresh, { s with fresh := s.fresh + 1 })

/-! ## Registers (Table 2 of 01, R18) -/

/-- g[r]: g0 reads zero. -/
def State.g (s : State) (r : Reg) : W64 := if r = 0 then 0 else s.me.regs.g[r.toNat]'r.isLt

/-- Write g[r]: writes to g0 are discarded. -/
def State.setG (s : State) (r : Reg) (x : W64) : State :=
  if r = 0 then s else { s with me.regs.g := s.me.regs.g.set r.toNat x r.isLt }

/-- p[r]: p0 reads all ones. -/
def State.p (s : State) (r : PReg) : W64 := if r = 0 then -1 else s.me.regs.p[r.toNat]'r.isLt

/-- Write p[r]: writes to p0 are discarded. -/
def State.setP (s : State) (r : PReg) (x : W64) : State :=
  if r = 0 then s else { s with me.regs.p := s.me.regs.p.set r.toNat x r.isLt }

/-- v[n] for n below 56. -/
def Core.v (c : Core) (n : Nat) : V512 := if h : n < 56 then c.regs.v[n] else 0

/-- v[n]. -/
def State.v (s : State) (n : Nat) : V512 := s.me.v n

/-- Write v[n]; codes from 56 up are no destinations (R21). -/
def State.setV (s : State) (n : Nat) (x : V512) : State :=
  if h : n < 56 then { s with me.regs.v := s.me.regs.v.set n x h } else s

/-- Element i of accumulator z, numbered 16 row + column (R232). -/
def State.zElem (s : State) (z : ZReg) (i : Nat) : BitVec 32 :=
  if h : i < 256 then (s.me.regs.z[z.toNat]'z.isLt)[i] else 0

/-- An accumulator. -/
def State.z (s : State) (z : ZReg) : Vector (BitVec 32) 256 := s.me.regs.z[z.toNat]'z.isLt

/-- Write an accumulator. -/
def State.setZ (s : State) (z : ZReg) (x : Vector (BitVec 32) 256) : State :=
  { s with me.regs.z := s.me.regs.z.set z.toNat x z.isLt }

/-- The version of an accumulator (R233). -/
def State.zver (s : State) (z : ZReg) : BitVec 16 := s.me.regs.zver[z.toNat]'z.isLt

/-- Add 1 to the version of an accumulator, modulo 2^16 (R233). -/
def State.bumpZ (s : State) (z : ZReg) : State :=
  { s with me.regs.zver := s.me.regs.zver.set z.toNat (s.zver z + 1) z.isLt }

/-- The stave of the context in focus: bits 15:10 of SID (R105, R271). -/
def Core.stave (c : Core) : BitVec 6 := c.ctl.sid.extractLsb' 10 6

/-- Privilege as a number, ascending (R3). -/
def Mode.rank : Mode → Nat
  | .user => 0 | .stave => 1 | .shop => 2

/-- The two mode bits of MODE and TSTAT (Table 1 of 19). -/
def Mode.code : Mode → BitVec 2
  | .user => 0 | .stave => 1 | .shop => 2

/-- The mode that two bits name; 3 is reserved. -/
def Mode.ofCode (c : BitVec 2) : Option Mode :=
  match c.toNat with
  | 0 => some .user | 1 => some .stave | 2 => some .shop | _ => none

/-- Whether the context may do what a mode may do (R3). -/
def Core.may (c : Core) (m : Mode) : Bool := decide (Mode.rank m ≤ Mode.rank c.ctl.mode)

/-! ## Staves and jobs -/

/-- A stave. -/
def Dev.stave (d : Dev) (n : BitVec 6) : Stave := assocGet Stave.reset n.toNat d.staves

/-- Replace a stave. -/
def Dev.setStave (d : Dev) (n : BitVec 6) (t : Stave) : Dev := { d with staves := assocSet n.toNat t d.staves }

/-- The stave of the context in focus. -/
def State.stave (s : State) : Stave := s.dev.stave s.me.stave

/-- Change a stave. -/
def State.onStave (s : State) (n : BitVec 6) (f : Stave → Stave) : State :=
  { s with dev := s.dev.setStave n (f (s.dev.stave n)) }

/-- A job of a stave, by number. -/
def Stave.job? (t : Stave) (n : BitVec 6) : Option Job := t.jobs.find? fun j => j.num == n

/-- Change a job. -/
def Stave.onJob (t : Stave) (n : BitVec 6) (f : Job → Job) : Stave :=
  { t with jobs := t.jobs.map fun j => if j.num = n then f j else j }

/-- The job of the context in focus. -/
def State.job? (s : State) : Option Job := s.me.member.bind fun m => s.stave.job? m.job

/-- Change a job of the stave of the context in focus. -/
def State.onJob (s : State) (n : BitVec 6) (f : Job → Job) : State := s.onStave s.me.stave fun t => t.onJob n f

/-- An instance of a job. -/
def Job.inst? (j : Job) (stage num : Nat) : Option Inst := j.insts.find? fun i => i.stage == stage && i.num == num

/-- Change an instance of a job. -/
def Job.onInst (j : Job) (stage num : Nat) (f : Inst → Inst) : Job :=
  { j with insts := j.insts.map fun i => if i.stage = stage ∧ i.num = num then f i else i }

/-- The stave-map entry of a logical core (R107). -/
def Stave.entry (t : Stave) (l : Nat) : BitVec 16 := assocGet 0 l t.map

/-- The physical core that a valid entry names; none for an invalid entry and for an absent context (R107, R461). -/
def Stave.coreOf? (t : Stave) (l : Nat) : Option Nat :=
  let e := t.entry l
  if e.getLsbD 15 && !e.getLsbD 14 then some (e.toNat % 8192) else none

/-- Whether a logical core has a valid entry (R107, R461). -/
def Stave.valid (t : Stave) (l : Nat) : Bool := (t.entry l).getLsbD 15

/-! ## The program counter and loops (R137 to R142) -/

/-- LLEN's act bit of a loop. -/
def Core.loopAct (c : Core) (n : Nat) : Bool := c.ctl.llen.getLsbD (10 * n + 9)

/-- LLEN's length of a loop. -/
def Core.loopLen (c : Core) (n : Nat) : Nat := field c.ctl.llen (10 * n) 9

/-- The first word of a loop's body. -/
def Core.loopStart (c : Core) (n : Nat) : W64 := if h : n < 3 then c.ctl.lbody[n] else 0

/-- The end address of a loop's body (R139). -/
def Core.loopEnd (c : Core) (n : Nat) : W64 := c.loopStart n + w64 (4 * c.loopLen n) - 4

/-- Whether the body of a loop holds an address. -/
def Core.inLoop (c : Core) (n : Nat) (a : W64) : Bool :=
  decide (c.loopStart n ≤ a ∧ a ≤ c.loopEnd n)

/-- The loop counter of a loop. -/
def Core.lc (c : Core) (n : Nat) : W64 := if h : n < 3 then c.regs.lc[n] else 0

/-- Write a loop counter. -/
def Core.setLc (c : Core) (n : Nat) (x : W64) : Core :=
  if h : n < 3 then { c with regs.lc := c.regs.lc.set n x h } else c

/-- Whether an address lies in an active loop body. -/
def Core.inBody (c : Core) (a : W64) : Bool := [0, 1, 2].any fun n => c.loopAct n && c.inLoop n a

/-- The words that the loop buffer keeps: those of active bodies (R141). -/
def Core.loopWords (c : Core) : List (W64 × Word) := c.loopBuf.filter fun x => c.inBody x.1

/-- Make a loop inactive. -/
def Core.loopOff (c : Core) (n : Nat) : Core := { c with ctl.llen := withField c.ctl.llen (10 * n + 9) 1 0 }

/-- Insert a loop into a list in which inner loops, whose bodies start later, come first. -/
def Core.insertLoop (c : Core) (n : Nat) : List Nat → List Nat
  | [] => [n]
  | k :: t => if (c.loopStart k).toNat ≤ (c.loopStart n).toNat then n :: k :: t else k :: c.insertLoop n t

/-- Active loops that hold an address as their last word, innermost first. -/
def Core.loopsEnding (c : Core) (a : W64) : List Nat :=
  ([0, 1, 2].filter fun n => c.loopAct n && c.loopEnd n == a).foldr c.insertLoop []

/-- Whether an address is the last word of an active body (R28, R140). -/
def Core.endsBody (c : Core) (a : W64) : Bool := [0, 1, 2].any fun n => c.loopAct n && c.loopEnd n == a

/-- The end steps of loops, innermost first: the first that continues decides (R139). -/
def Core.endSteps (c : Core) (next : W64) : List Nat → Core × W64
  | [] => (c, next)
  | n :: t =>
    let x := c.lc n - 1
    let c := c.setLc n x
    if x ≠ 0 then (c, c.loopStart n) else (c.loopOff n).endSteps next t

/-- A taken transfer to t: every active loop whose body does not hold t becomes inactive, with every loop nested in it (R140).
(Log 15, DEDUCED.) -/
def Core.leaveLoops (c : Core) (t : W64) : Core :=
  let left := [0, 1, 2].filter fun n => c.loopAct n && !c.inLoop n t
  let nested := [0, 1, 2].filter fun k => c.loopAct k && left.any fun n =>
    decide (c.loopStart n ≤ c.loopStart k ∧ c.loopEnd k ≤ c.loopEnd n)
  nested.foldl Core.loopOff c

/-- How an instruction that completes goes on. -/
inductive Next where
  /-- to the next word -/
  | seq
  /-- a taken transfer -/
  | jump (t : W64)
  /-- past a sequence or a skipped body of so many words, whose last word counts as retired (R138, R145) -/
  | skip (n : Nat)
  /-- the pc has been written by the instruction, which is no transfer for the loops (R140, R408) -/
  | stay
  /-- the instruction has put another context on the core, which goes on at its own pc (R412) -/
  | switched
  /-- to the next word, where a trap is taken (R158, R408) -/
  | trapAfter (cause : BitVec 8) (val : W64)
  /-- from a HINT to the next word of its chain (R26): what the HINTs give stays -/
  | chain
  /-- from a word of a REPV sequence to the next one: the pc stays at REPV (R145, R146) -/
  | again
  deriving DecidableEq, Repr

/-- The core after a word at its pc has gone on. -/
def Core.goOn (c : Core) : Next → Core
  | .seq | .trapAfter _ _ => let r := c.endSteps (c.pc + 4) (c.loopsEnding c.pc); { r.1 with pc := r.2 }
  | .jump t => { c.leaveLoops t with pc := t }
  | .skip n =>
    let last := c.pc + w64 (4 * n)
    let r := c.endSteps (last + 4) (c.loopsEnding last)
    { r.1 with pc := r.2 }
  | .stay | .switched | .again => c
  | .chain => { c with pc := c.pc + 4 }

/-- Words that count as retired with a word (R463): a chain retires with its target (R27), so its HINTs count then. (Log 26, DEDUCED.) -/
def Core.counts1 (c : Core) : Next → Nat
  | .chain | .switched => 0
  | .again => 1
  | .seq | .jump _ | .skip _ | .stay | .trapAfter _ _ => 1 + c.hints.words.length

/-- A member of a locked gang goes on as member 0 decides (R150): the loops that step or end at member 0 step or end at the
member, each on its own count. lead: member 0 after the word's effect. (Log 28, DEDUCED.) -/
def Core.goOnWith (c lead : Core) (n : Next) : Core :=
  let r := lead.goOn n
  let c := [0, 1, 2].foldl (fun (c : Core) k =>
    let c := if r.lc k ≠ lead.lc k then c.setLc k (c.lc k - 1) else c
    if lead.loopAct k && !r.loopAct k then c.loopOff k else c) c
  { c with pc := r.pc }

/-- An instruction retires (R463) on a core that has gone on as c: RETIRED counts it with the HINTs of its chain, which ends with
it (R26), and any wait is over. -/
def State.retireTo (s : State) (c : Core) (n : Next) : State :=
  let hints : Hints := match n with
    | .chain | .again => c.hints
    | .seq | .jump _ | .skip _ | .stay | .switched | .trapAfter _ _ => .none
  { s with me := { c with ctl.retired := c.ctl.retired + w64 (s.me.counts1 n), nretired := c.nretired + s.me.counts1 n, hints := hints,
                          wait := none, handed := false, issued := false, peerWords := [], entering := false } }

/-- An instruction retires and the pc goes on. -/
def State.retire (s : State) (n : Next) : State := s.retireTo (s.me.goOn n) n

/-! ## Taking an exception (R389 to R392) and returning from one (R408) -/

/-- Trap causes (Table 2 of 19). -/
inductive Cause where
  | illegal | priv | misalign | access | page | localrange | brk | trap | fpexc | worldStall | worldRefused
  | capability | gangHalt | sigMismatch | pairMismatch | poison | uncorrectable | preempt | streamOverflow
  | faultKilled | staveMoved
  deriving DecidableEq, Repr

/-- Codes of the causes (Table 2 of 19). -/
def Cause.code : Cause → BitVec 8
  | .illegal => 0x01 | .priv => 0x02 | .misalign => 0x03 | .access => 0x04 | .page => 0x05 | .localrange => 0x06
  | .brk => 0x07 | .trap => 0x08 | .fpexc => 0x09 | .worldStall => 0x0A | .worldRefused => 0x0B
  | .capability => 0x0C | .gangHalt => 0x0D | .sigMismatch => 0x0E | .pairMismatch => 0x0F | .poison => 0x10
  | .uncorrectable => 0x11 | .preempt => 0x12 | .streamOverflow => 0x13 | .faultKilled => 0x14 | .staveMoved => 0x15

/-- TPC for a trap at the instruction: the first HINT of its chain, otherwise its own address (R27). -/
def Core.trapPc (c : Core) : W64 := c.hints.start.getD c.pc

/-- The word of TSTAT that describes the state before a trap (Table 1 of 19). -/
def Core.tstatWord (c : Core) : W64 :=
  w64 ((Mode.code c.ctl.mode).toNat + 4 * bit c.ctl.ie
    + 8 * (match c.bond with | .none => 0 | .follow => 1 | .gang => 2)
    + 32 * bit c.pair.isSome + 64 * ((c.member.map (·.member)).getD 0 % 8))

/-- A core after its bond has ended for it. -/
def Core.unbond (c : Core) : Core :=
  { c with bond := .none, rank := 0, crew := [], released := false, trail := [], orphan := false, handed := false }

/-- A follower of the core in focus: bonded to it in follow strength and not cut off. -/
def State.follows (s : State) (k : Nat) : Bool :=
  let c := s.coreAt k
  c.bond == .follow && c.rank != 0 && !c.orphan && c.crew.headD k == s.here

/-- A follower is cut off from its leader c: it issues the words before the one at which the leader is and then fetches for
itself (R149). -/
def Core.cutOff (x c : Core) : Core :=
  { x with
    orphan := true
    trail := if c.handed && (x.trail.getLast?.map (·.pc)) == some c.pc then x.trail.dropLast else x.trail }

/-- The core in focus leaves its bond (R149, R389). A leader that leaves cuts its followers off. A follower that leaves is released from its leader. A core that leaves a
locked gang leaves alone; the gang as a whole disbands by R151. -/
def State.leaveBond (s : State) : State :=
  match s.me.bond with
  | .none => s
  | .follow =>
    if s.me.rank = 0 then
      let s := (s.me.crew.filter s.follows).foldl (fun t k => t.onCore k fun x => x.cutOff s.me) s
      { s with me := s.me.unbond }
    else
      let l := s.me.crew.headD s.here
      let s := s.onCore l fun c => if c.bond = .follow ∧ c.rank = 0 then { c with released := true } else c
      { s with me := s.me.unbond }
  | .gang => { s with me := s.me.unbond }

/-- The core in focus leaves its checked pair, which dissolves (R389, R416). -/
def State.leavePair (s : State) : State :=
  match s.me.pair with
  | none => s
  | some k =>
    let s := s.onCore k fun c => { c with pair := none, pairOps := [] }
    { s with me := { s.me with pair := none, pairOps := [] } }

/-- Trap entry for a cause and a value, with the resume address (R389). -/
def State.trapEntry (s : State) (cause : BitVec 8) (val tpc : W64) : State :=
  let stat := s.me.tstatWord
  let s := s.leaveBond.leavePair
  let c := s.me
  { s with me := { c with
      ctl.tpc := tpc, ctl.tcause := zext cause, ctl.tval := val, ctl.tstat := stat,
      ctl.mode := if c.ctl.mode = .user then .stave else c.ctl.mode,
      ctl.ie := false, pc := c.ctl.tvec, hints := .none, wait := none, seq := [], issued := false, peerWords := [], entering := true } }

/-- Whether a member belongs to a domain (R349). -/
def Dom.holds (d : Dom) (m : Member) : Bool :=
  d.level == 3 || (d.stage == m.stage && (d.level == 2 || (d.inst == m.inst && (d.level == 1 || d.member == m.member))))

/-- The checkpointed superstep of a member's domain (R430): a protected one where there is one. -/
def Job.ckpt? (j : Job) (m : Member) : Option Dom :=
  (j.doms.find? fun d => d.ck.active && !d.ck.unprot && d.holds m).orElse fun _ =>
    j.doms.find? fun d => d.ck.active && d.holds m

/-- Whether the member in focus is in a protected superstep that is no repetition (R432). -/
def State.protectedFirst (s : State) : Bool :=
  match s.me.member, s.job? with
  | some m, some j => (j.ckpt? m).any fun d => !d.ck.unprot && !d.ck.rerun
  | _, _ => false

/-- Whether a cause is a trigger that no handler sees (R432, R433): on a member of an instance, SIG_MISMATCH,
PAIR_MISMATCH and UNCORRECTABLE always, POISON while the superstep is protected and no repetition. (Log 107, DEDUCED.) -/
def State.isTrigger (s : State) (cause : BitVec 8) : Bool :=
  s.me.member.isSome &&
    (cause == 0x0E || cause == 0x0F || cause == 0x11 || (cause == 0x10 && s.protectedFirst))

/-- A cause is raised at an instruction: it is taken as a trap, or it is a trigger on which ROLLBACK acts. -/
def State.raise (s : State) (cause : BitVec 8) (val tpc : W64) : State :=
  if s.isTrigger cause then { s with me := { s.me with wait := some (.trigger cause val), hints := .none, pc := tpc } }
  else s.trapEntry cause val tpc

/-- Return from a trap (R408): the pc, the mode and ie are restored from TPC and TSTAT. -/
def State.trapReturn (s : State) (m : Mode) : State :=
  { s with me := { s.me with pc := s.me.ctl.tpc, ctl.mode := m, ctl.ie := s.me.ctl.tstat.getLsbD 2 } }

/-! ## The outcome of an instruction's own effect -/

/-- What the effect of an instruction on one core comes to. -/
inductive Res where
  /-- it completes in this state -/
  | done (s : State) (n : Next)
  /-- it traps; the state holds what the description marks as committed (R52) -/
  | trap (cause : Cause) (val : W64) (s : State)
  /-- it waits; the state holds what it has recorded -/
  | wait (w : Wait) (s : State)
  deriving DecidableEq, Repr

/-- An instruction that completes and goes on to the next word. -/
def State.ok (s : State) : Res := .done s .seq

/-- An instruction that stops before its end gives back the operand-queue entries that it took (R20): the queues and the
counts of the stream slots are those from before. -/
def Res.giveBack (r : Res) (s0 : State) : Res :=
  match r with
  | .done s n => .done s n
  | .trap c v s => .trap c v { s with me.queues := s0.me.queues, me.slots := s0.me.slots }
  | .wait w s => .wait w { s with me.queues := s0.me.queues, me.slots := s0.me.slots }

/-- Settle the effect on the core in focus. -/
def Res.settle (r : Res) : State :=
  match r with
  | .done s (.trapAfter c v) =>
    let t := s.retire (.trapAfter c v)
    t.trapEntry c v t.me.pc
  | .done s n => s.retire n
  | .trap c v s => s.raise c.code v s.me.trapPc
  | .wait w s => { s with me.wait := some w }

end Sys2Proof.Machine
end

