-- ==== Sys2Proof/Machine/Phys.lean ====
section
/-! DEFINITION. Physical memory: what a 52-bit address names, poison, ownership of granules, and grants of peers. -/

namespace Sys2Proof.Machine

/-- What a physical address names (R264). -/
inductive PaKind where
  | host | dram | peer (dev : Nat)
  deriving DecidableEq, Repr

/-- R264: bits 51:50 equal to 0b11 mark a host address; otherwise bits 51:43 give a device, the own number selecting local
memory. -/
def Dev.paKind (d : Dev) (pa : Nat) : PaKind :=
  if pa / 2 ^ 50 % 4 = 3 then .host
  else if pa / 2 ^ 43 % 512 = field d.trcfg 0 9 then .dram
  else .peer (pa / 2 ^ 43 % 512)

/-- The key under which memory holds a physical address: bits 42:0 for local memory, the address itself for the host, and
2^52 above it for a peer. -/
def Dev.key (d : Dev) (pa : Nat) : Nat :=
  match d.paKind pa with
  | .dram => pa % 2 ^ 43
  | .host => pa % 2 ^ 52
  | .peer _ => 2 ^ 52 + pa % 2 ^ 52

/-- The number of this device in the domain, and the physical address of a line by its number (R264). -/
def Dev.linePa (d : Dev) (line : Nat) : Nat := 128 * line + (if line < 2 ^ 36 then field d.trcfg 0 9 * 2 ^ 43 else 0)

/-- The granule of a local physical address: channel · 16 + granule (R106). -/
def granuleOf (key : Nat) : Nat := key / 2 ^ 26

/-- Ownership state of a unit (R116). -/
def Dev.own (d : Dev) (k : UnitKind) (id : Nat) : Option Own := d.owns.find? fun o => o.kind == k && o.id == id

/-- Whether a stave owns a unit, in state OWNED or DRAINING (Table 7 of 05). -/
def Dev.ownedBy (d : Dev) (k : UnitKind) (id : Nat) (t : BitVec 6) : Bool :=
  match d.own k id with
  | some o => o.stave == t && (o.st == .owned || o.st == .draining)
  | none => false

/-- The unit identifier of a memory channel (R85). -/
def channelUnit (ch : Nat) : BitVec 32 := BitVec.ofNat 32 (3 * 2 ^ 28 + ch / 64 * 2 ^ 26 + ch % 64)

/-- The unit identifier of a core (R85). -/
def coreUnit (k : Nat) : BitVec 32 :=
  BitVec.ofNat 32 (2 ^ 28 + k / 2048 * 2 ^ 26 + k / 8 % 256 * 2 ^ 18 + k % 8 * 2 ^ 15)

/-- Whether a granule lies on a quarantined channel (R106, R438). -/
def Dev.badChannel (d : Dev) (granule : Nat) : Bool := d.quarantined.contains (channelUnit (granule / 16))

/-- The ownership check of R281, step 5, at a local address: below shop mode the stave owns the granule; in every mode the
channel is not quarantined (R106). -/
def Dev.granuleOk (d : Dev) (m : Mode) (t : BitVec 6) (key : Nat) : Bool :=
  decide (key < 2 ^ 38) && !d.badChannel (granuleOf key) &&
    (m == .shop || d.ownedBy .granule (granuleOf key) t)

/-- Grant i of a stave's peer table (R453); 0 where there is none. -/
def Dev.peerGrant (d : Dev) (t : BitVec 6) (i : Nat) : W64 :=
  let base := field (d.stave t).peertab 7 45 * 128
  if base = 0 then 0 else w64 (d.mem.readN (base % 2 ^ 43 + 8 * i) 8)

/-- Whether a stave's grants permit an access to a granule of a device (R453). -/
def Dev.granted (d : Dev) (t : BitVec 6) (dev granule : Nat) (write : Bool) : Bool :=
  (List.range 16).any fun i =>
    let g := d.peerGrant t i
    g.getLsbD 63 && g.getLsbD (if write then 62 else 61) && field g 52 9 == dev &&
      decide (field g 0 12 ≤ granule ∧ granule ≤ field g 0 12 + field g 12 12)

/-- The ownership check at any physical address: local granules, a trained CXL link for the host (R443), a grant at the
source for a peer (R453). -/
def Dev.reachable (d : Dev) (m : Mode) (t : BitVec 6) (pa : Nat) (write : Bool) : Bool :=
  match d.paKind pa with
  | .dram => d.granuleOk m t (pa % 2 ^ 43)
  | .host => match d.link with | .cxl _ => true | .pcie _ | .down => false
  | .peer dev => d.granted t dev (granuleOf (pa % 2 ^ 43)) write

/-! ## Injection limits (R114, R115) -/

/-- The injection limit of a stave in bytes per window, for the mesh or the channels; 0 for none (R114). -/
def Stave.limit (t : Stave) (chan : Bool) : Nat := 128 * field t.srate (if chan then 32 else 0) 11

/-- The number under which a router's budgets are kept: the cluster's for the mesh, 1,024 above it for the channels (R115). -/
def budgetKey (cluster : Nat) (chan : Bool) : Nat := if chan then 1024 + cluster else cluster

/-- Whether a request with so many bytes of payload, its response's included, fits what remains of a router's budget (R115). -/
def Dev.fits (d : Dev) (t : Stave) (cluster : Nat) (chan : Bool) (n : Nat) : Bool :=
  t.limit chan == 0 || decide (assocGet 0 (budgetKey cluster chan) d.budget + n + 16 ≤ t.limit chan)

/-- Charge it. -/
def Dev.charge (d : Dev) (t : Stave) (cluster : Nat) (chan : Bool) (n : Nat) : Dev :=
  if t.limit chan = 0 then d
  else { d with budget := assocSet (budgetKey cluster chan) (assocGet 0 (budgetKey cluster chan) d.budget + n + 16) d.budget }

/-! ## Bytes with poison (R280) -/

/-- The first poisoned word among the bytes a to a + n - 1, as a word number. -/
def firstPoison (poison : List Nat) (a n : Nat) : Option Nat :=
  poison.find? fun w => decide (a / 8 ≤ w ∧ w ≤ (a + n - 1) / 8)

/-- A store of n bytes: a store of whole words clears their poison; a narrower store to a poisoned word is discarded. -/
def putBytes (m : Cells) (poison : List Nat) (a n x : Nat) : Cells × List Nat :=
  if n < 8 then (if poison.contains (a / 8) then m else m.writeN a n x, poison)
  else (m.writeN a n x, poison.filter fun w => !decide (a / 8 ≤ w ∧ w ≤ (a + n - 1) / 8))

/-- A write of those bytes of one word whose mask bit is set: all eight clear its poison, fewer are discarded at a
poisoned word (R280). -/
def putWord (m : Cells) (poison : List Nat) (word : Nat) (x : W64) (mask : BitVec 8) : Cells × List Nat :=
  if mask = 0xFF then (m.writeN (8 * word) 8 x.toNat, eraseNat word poison)
  else if poison.contains word then (m, poison)
  else (m.writeMask (8 * word) 8 x.toNat mask.toNat, poison)

/-- A write of any span of bytes, word by word. -/
def putSpan (m : Cells) (poison : List Nat) (a n x : Nat) : Cells × List Nat :=
  (List.range ((a + n + 7) / 8 - a / 8)).foldl (fun r i =>
    let w := a / 8 + i
    let mask := onesOf 8 0xFF |>.foldl (fun k b => if a ≤ 8 * w + b ∧ 8 * w + b < a + n then k + 2 ^ b else k) 0
    let word := if a ≤ 8 * w then x / 256 ^ (8 * w - a) else x * 256 ^ (a - 8 * w)
    putWord r.1 r.2 w (w64 word) (BitVec.ofNat 8 mask)) (m, poison)

/-- Store to physical memory. -/
def Dev.put (d : Dev) (key n x : Nat) : Dev :=
  let r := putBytes d.mem d.poison key n x
  { d with mem := r.1, poison := r.2 }

/-- Write a structure of the device into memory: n bytes of a number, whatever poison stood there is overwritten. -/
def Dev.poke (d : Dev) (key n x : Nat) : Dev :=
  { d with mem := d.mem.writeN key n x,
           poison := d.poison.filter fun w => !decide (key ≤ 8 * w ∧ 8 * w + 8 ≤ key + n) }

/-- Read a structure from memory. -/
def Dev.peek (d : Dev) (key n : Nat) : Nat := d.mem.readN key n

end Sys2Proof.Machine
end

