-- ==== Sys2Proof/Machine/Translate.lean ====
section
/-! DEFINITION. Translation (R267 to R272), and what becomes of an access without a usable mapping: parking with a
fault-queue entry, a page request to the host, or PAGE (R395 to R399). -/

namespace Sys2Proof.Machine

/-- Kinds of access (R281, Table 4 of 19). -/
inductive AccKind where
  | read | write | atomic | fetch
  deriving DecidableEq, Repr

/-- Codes of the kinds in a fault-queue entry (Table 4 of 19). -/
def AccKind.code : AccKind → Nat
  | .read => 0 | .write => 1 | .atomic => 2 | .fetch => 3

/-- Whether an access stores. -/
def AccKind.writes : AccKind → Bool
  | .write | .atomic => true
  | .read | .fetch => false

/-- Who translates: SID, mode and PTBASE of the context (R271, R462). -/
structure Space where
  sid : BitVec 16
  mode : Mode
  ptbase : W64
  deriving DecidableEq, Repr

/-- The space of the context in focus. -/
def Core.space (c : Core) : Space := ⟨c.ctl.sid, c.ctl.mode, c.ctl.ptbase⟩

/-- The space of the context that named an engine operation's object (R462). -/
def Issuer.space (i : Issuer) : Space := ⟨i.sid, i.mode, i.ptbase⟩

/-- Whether an entry is malformed at a level (R268). -/
def pteMalformed (e : W64) (level : Nat) : Bool :=
  let leaf := e.getLsbD 1
  !zeroAt e 52 12 || e.getLsbD 11 || (leaf && level == 3) || (!leaf && level == 0) || (e.getLsbD 6 && level != 0) ||
    (leaf && field e 9 2 == 3) || (leaf && level == 2 && !zeroAt e 12 18) || (leaf && level == 1 && !zeroAt e 12 9)

/-- Physical address of a frame field. -/
def pteFrame (e : W64) : Nat := field e 12 40 * 4096

/-- What a walk finds. -/
inductive Walk where
  /-- a leaf, its level, and the keys of the entries used, the leaf's last -/
  | leaf (pte : W64) (level : Nat) (path : List Nat)
  /-- no usable mapping: the level at which the walk ended, and whether on a malformed entry -/
  | none (level : Nat) (malformed : Bool) (path : List Nat)
  deriving DecidableEq, Repr

/-- Key of the entry of a level's table for an address (R267). -/
def Dev.pteKey (d : Dev) (base va level : Nat) : Nat :=
  d.key (base + 8 * (va / 2 ^ (12 + 9 * level) % (if level = 3 then 131072 else 512)))

/-- Walk from a level's table (R267, R268). A poisoned entry is taken as malformed (log 16, DEDUCED). -/
def Dev.walk (d : Dev) (va : Nat) : Nat → Nat → List Nat → Walk
  | level, base, path =>
    let k := d.pteKey base va level
    let e := w64 (d.peek k 8)
    if d.poison.contains (k / 8) then .none level true path.reverse
    else if !e.getLsbD 0 then .none level false path.reverse
    else if pteMalformed e level then .none level true path.reverse
    else if e.getLsbD 1 then .leaf e level (k :: path).reverse
    else
      match level with
      | 0 => .none 0 true path.reverse
      | level + 1 => d.walk va level (pteFrame e) (k :: path)

/-- Set a with an atomic OR in every entry that a walk uses, table pointers and the leaf (R270). -/
def Dev.markUsed (d : Dev) (path : List Nat) : Dev :=
  path.foldl (fun d k => { d with mem := d.mem.writeN k 8 (d.peek k 8 ||| 0x80) }) d

/-- The 16 entries of the 64 KiB page of a level-0 entry, by the entry's key (R269). -/
def Dev.group (d : Dev) (k : Nat) : List W64 := (List.range 16).map fun i => w64 (d.peek (k / 128 * 128 + 8 * i) 8)

/-- Whether 16 entries meet R269: c set, valid, the same class, permissions and u, consecutive frames from a multiple
of 16. -/
def groupOk (g : List W64) : Bool :=
  let e0 := g.headD 0
  field e0 12 4 == 0 && (List.range 16).all fun i =>
    let e := listGet 0 g i
    e.getLsbD 0 && e.getLsbD 6 && field e 1 5 == field e0 1 5 && field e 9 2 == field e0 9 2 &&
      field e 12 40 == field e0 12 40 + i

/-- A TLB entry maps a page of an SID (R272). -/
def TlbEntry.hits (t : TlbEntry) (sid : BitVec 16) (va : Nat) : Bool :=
  t.sid == sid && t.vpn / 512 ^ t.level == va / 4096 / 512 ^ t.level

/-- Physical address of a virtual address under an entry. -/
def TlbEntry.pa (t : TlbEntry) (va : Nat) : Nat := pteFrame t.pte + va % 2 ^ (12 + 9 * t.level)

/-- Look a page up in the core's TLB, then in the cluster's (R272). -/
def State.tlbFind (s : State) (sid : BitVec 16) (va : Nat) : Option TlbEntry :=
  match s.me.tlb.find? fun t => t.hits sid va with
  | some t => some t
  | none => (assocGet [] (clusterOf s.here) s.dev.tlbs).find? fun t => t.hits sid va

/-- Enter a translation into both TLBs, in place of an entry for the same page; a full TLB loses one of its entries, and
which one is not stated (R272). -/
def State.tlbFill (s : State) (t : TlbEntry) : State :=
  let keep (l : List TlbEntry) (n i : Nat) :=
    let l := l.filter fun u => !(u.sid == t.sid && u.vpn == t.vpn && u.level == t.level)
    t :: (if l.length < n then l else listDrop l (Config.freeIndex i % n))
  let cl := clusterOf s.here
  { s with me := { s.me with tlb := keep s.me.tlb 64 s.fresh },
           dev := { s.dev with tlbs := assocSet cl (keep (assocGet [] cl s.dev.tlbs) 1024 (s.fresh + 1)) s.dev.tlbs }
           fresh := s.fresh + 2 }

/-- The outcome of a translation. -/
inductive Xlate where
  | hit (t : TlbEntry) (s : State)
  | miss (level : Nat) (malformed : Bool) (s : State)
  deriving DecidableEq, Repr

/-- Walk the tables and enter the result (R267 to R270). Where the 16 entries of a 64 KiB page do not agree, all of them stand
beside the entry (R269). -/
def State.walkFill (s : State) (sp : Space) (va : Nat) : Xlate :=
  match s.dev.walk va 3 (field sp.ptbase 20 32 * 2 ^ 20) [] with
  | .none level bad path => .miss level bad { s with dev := s.dev.markUsed path }
  | .leaf e level path =>
    let k := path.getLastD 0
    let s := { s with dev := s.dev.markUsed path }
    let alts := if e.getLsbD 6 && !groupOk (s.dev.group k) then s.dev.group k else []
    let t : TlbEntry := ⟨sp.sid, va / 4096 / 512 ^ level * 512 ^ level, level, e ||| 0x80, k, alts⟩
    .hit t (s.tlbFill t)

/-- The entry that an access of a page uses: where the 16 entries of its 64 KiB do not agree, its own or any one of them, and which
one is not stated (R269). A walk that uses another entry sets its a. -/
def State.pick (s : State) (t : TlbEntry) (va : Nat) : Xlate :=
  let c := Config.freeIndex s.fresh % 17
  if t.alts.isEmpty then .hit t s
  else
    let s := { s with fresh := s.fresh + 1 }
    if c = 16 then .hit { t with alts := [] } s
    else
      let f := listGet 0 t.alts c
      if !f.getLsbD 0 || pteMalformed f 0 then .miss 0 (f.getLsbD 0) s
      else
        let k := t.key / 128 * 128 + 8 * c
        .hit { t with pte := withField f 12 40 (field f 12 40 + va / 4096 % 16 - c), key := k, alts := [] }
          { s with dev := s.dev.markUsed [k] }

/-- Whether a store uses an entry whose d is 0 (R270). With ats, no leaf of ours stands behind it (R399). -/
def TlbEntry.undirtied (t : TlbEntry) (sp : Space) : Bool := !t.pte.getLsbD 8 && !sp.ptbase.getLsbD 0

/-- Translate an address (R270, R272): a TLB entry with d = 0 causes a new walk at the first store through it, whose outcome
counts. With ats, translations come from the host and only the TLBs hold them (R399, R450). (Log 85, DESIGN CHOICE.) -/
def State.translate (s : State) (sp : Space) (va : Nat) (store : Bool) : Xlate :=
  let walk (_ : Unit) := match s.walkFill sp va with
    | .hit t s => s.pick t va
    | .miss l b s => .miss l b s
  match s.tlbFind sp.sid va with
  | some t => if store && t.undirtied sp then walk () else s.pick t va
  | none => if sp.ptbase.getLsbD 0 then .miss 0 false s else walk ()

/-- The leaf whose d a store through an entry sets once it is performed (R270). -/
def TlbEntry.toMark (t : TlbEntry) (sp : Space) (store : Bool) : Option Nat := if store && t.undirtied sp then some t.key else none

/-- The first store through a leaf is performed: d is set in it with an atomic OR, and in the TLB entries of the core and its cluster
(R270). (Log 14, DEDUCED.) -/
def State.markDirty (s : State) (leaf : Option Nat) : State :=
  match leaf with
  | none => s
  | some k =>
    let set (l : List TlbEntry) := l.map fun t => if t.key = k then { t with pte := t.pte ||| 0x100 } else t
    let cl := clusterOf s.here
    let tlbs := if (assocGet [] cl s.dev.tlbs).isEmpty then s.dev.tlbs
      else assocSet cl (set (assocGet [] cl s.dev.tlbs)) s.dev.tlbs
    { s with me := { s.me with tlb := set s.me.tlb }
             dev := { s.dev with mem := s.dev.mem.writeN k 8 (s.dev.peek k 8 ||| 0x100), tlbs := tlbs } }

/-! ## Faults on translated memory -/

/-- The physical page of a virtual address within its SID: the key's part of R398. -/
def vpnOf (va : W64) : Nat := field va 12 44

/-- Key of the fault queue: FQBASE is a local address, whose bits 51:43 name this device (R264, R396). -/
def Stave.fqKey (t : Stave) : Nat := field t.fqbase 7 36 * 128

/-- Key of entry n of the fault queue (R397). -/
def Stave.fqSlot (t : Stave) (n : BitVec 32) : Nat :=
  t.fqKey + 128 + 32 * (n.toNat % 2 ^ (field t.fqbase 0 4 + 4))

/-- The 32 bytes of a fault-queue entry (Table 4 of 19). -/
def FaultRec.bytes (r : FaultRec) : Nat :=
  r.va.toNat + 2 ^ 64 * (r.sid.toNat + 2 ^ 16 * (r.kind + 2 ^ 8 * (r.level + 2 ^ 8 * r.count.toNat)))
    + 2 ^ 128 * (r.lcore.toNat + 2 ^ 16 * (r.job.toNat + 2 ^ 8 * ((bit r.engine + 2 * bit r.malformed)
      + 2 ^ 8 * r.seq.toNat)))
    + 2 ^ 192 * r.pc.toNat

/-- Whether the queue has room for an entry (R398). -/
def Stave.fqRoom (t : Stave) : Bool :=
  decide ((t.fqTail - t.fqHead).toNat < 2 ^ (field t.fqbase 0 4 + 4))

/-- Append a record's entry to the queue: the entry, then the tail (R398). -/
def State.appendFault (s : State) (n : BitVec 6) (r : FaultRec) : State × FaultRec :=
  let t := s.dev.stave n
  let r := { r with entry := some t.fqTail, seq := t.fqSeq }
  let d := (s.dev.poke (t.fqSlot t.fqTail) 32 r.bytes).poke t.fqKey 4 (t.fqTail + 1).toNat
  ({ s with dev := d.setStave n { t with fqTail := t.fqTail + 1, fqSeq := t.fqSeq + 1 } }, r)

/-- Append the records that wait, in creation order, while there is room (R398, R415). -/
def State.appendWaiting (s : State) (n : BitVec 6) : State :=
  (s.dev.stave n).faults.foldl (fun s r =>
    if r.entry.isNone && (s.dev.stave n).fqRoom then
      let (s, r') := s.appendFault n r
      s.onStave n fun t => { t with faults := t.faults.map fun q => if q = r then r' else q }
    else s) s

/-- Enter a fault in the queue of a stave (R398): merge it into a pending record of the same SID, page and kind, or create a
record, which the job of the access counts once (R83). None: 1,024 records are pending, and the fault waits. -/
def State.enterFault (s : State) (n : BitVec 6) (r : FaultRec) (job : Option (BitVec 6)) : Option State :=
  let t := s.dev.stave n
  match t.faults.find? fun q => q.sid == r.sid && q.vpn == r.vpn && q.kind == r.kind with
  | some q =>
    let q' := { q with count := q.count + 1 }
    let s := s.onStave n fun t => { t with faults := t.faults.map fun x => if x = q then q' else x }
    match q.entry with
    | some e =>
      -- the entry is in the current queue and not acknowledged: its count follows
      if !q.old && decide ((e - t.fqHead).toNat < (t.fqTail - t.fqHead).toNat) then
        some { s with dev := s.dev.poke (t.fqSlot e + 12) 4 q'.count.toNat }
      else some s
    | none => some s
  | none =>
    if t.faults.length ≥ 1024 then none
    else
      let (s, r) := if t.fqRoom then s.appendFault n r else (s, r)
      let s := s.onStave n fun t => { t with faults := t.faults ++ [r] }
      some (match job with
        | some job => s.onStave n fun t => t.onJob job fun j => { j with nfaults := j.nfaults + 1 }
        | none => s)

/-- Whether an access of a space without a usable mapping is replayable through the stave's fault queue (R395). -/
def State.replayable (s : State) (sp : Space) : Bool :=
  sp.mode == .user && !zeroAt (s.dev.stave (sp.sid.extractLsb' 10 6)).fqbase 7 45 && !sp.ptbase.getLsbD 0

/-- A core access that finds no usable mapping (R395, R398, R399). An access that is parked already stays so while its
record is pending: FREPLAY, FKILL or the host's answer ends the wait. -/
def State.parkAccess (s : State) (va : W64) (kind : AccKind) (lv : Nat) (malformed : Bool) : Res :=
  let c := s.me
  let sp := c.space
  let n := c.stave
  if sp.ptbase.getLsbD 0 then
    let w : Wait := .park sp.sid va 4
    if (s.dev.stave n).pri.any fun q => q.sid == sp.sid && q.vpn == vpnOf va then .wait w s
    else if (s.dev.stave n).pri.length ≥ 512 then .wait .faultRoom s
    else .wait w (s.onStave n fun t => { t with pri := t.pri ++ [⟨sp.sid, vpnOf va⟩] })
  else if !s.replayable sp then .trap .page va s
  else
    let w : Wait := .park sp.sid va kind.code
    if c.wait = some w then .wait w s
    else
      match s.enterFault n ⟨sp.sid, vpnOf va, kind.code, va, lv, 1, c.lcore, (c.member.map (·.job)).getD 0, false,
          malformed, c.trapPc, 0, none, false⟩ (c.member.map (·.job)) with
      | some s => .wait w s
      | none => .wait .faultRoom s

end Sys2Proof.Machine
end

