-- ==== Sys2Proof/Machine/Checkpoint.lean ====
section
/-! DEFINITION. What a protected superstep keeps so that it can be undone, and what ends its protection (R428 to R431). -/

namespace Sys2Proof.Machine

/-- Change the domains of a job that a test selects. -/
def Job.onDoms (j : Job) (p : Dom → Bool) (f : Dom → Dom) : Job :=
  { j with doms := j.doms.map fun d => if p d then f d else d }

/-- A domain is the one at a level that holds a member. -/
def Dom.isFor (d : Dom) (level : Level) (m : Member) : Bool := d.level == level && d.holds m

/-- End the protection of a superstep with a reason; a later event does not change it (R430). -/
def Dom.unprotect (d : Dom) (reason : BitVec 4) : Dom :=
  if d.ck.active && !d.ck.unprot then { d with ck := { d.ck with unprot := true, reason := reason } } else d

/-- End the protection of the supersteps of a job that a test selects. -/
def State.unprotect (s : State) (n : BitVec 6) (job : BitVec 6) (p : Dom → Bool) (reason : BitVec 4) : State :=
  s.onStave n fun t => t.onJob job fun j => j.onDoms p fun d => d.unprotect reason

/-- An irreversible action of the member in focus (R430, reason 4). -/
def State.irreversible (s : State) : State :=
  match s.me.member with
  | none => s
  | some m => s.unprotect s.me.stave m.job (fun d => d.holds m) 4

/-- The key of the save area of a logical core (R401): SAVEBASE is a local address, whose bits 51:43 name this device (R264). -/
def Stave.areaOf (t : Stave) (l : Nat) : Nat := field t.savebase 19 24 * 2 ^ 19 + 0x80000 * l

/-- Key of journal entry n (R429). -/
def Stave.journalAt (t : Stave) (n : Nat) : Nat := field t.ckbase 20 23 * 2 ^ 20 + 256 * n

/-- The lowest free journal entry (R429): its bit 0 is clear. -/
def State.freeEntry (s : State) (n : BitVec 6) : Option Nat :=
  let t := s.dev.stave n
  if field t.ckbase 20 32 = 0 then none
  else (List.range (2 ^ (field t.ckbase 0 4 + 12))).find? fun i => s.dev.peek (t.journalAt i) 1 % 2 == 0

/-- The line, as a key, that a journal entry holds. -/
def State.entryLine (s : State) (n : BitVec 6) (i : Nat) : Nat :=
  s.dev.key (s.dev.peek ((s.dev.stave n).journalAt i) 8 / 128 * 128)

/-- Poison of the 16 words of a line as a mask. -/
def Dev.poisonMask (d : Dev) (line : Nat) : Nat :=
  ((List.range 16).filter fun i => d.poison.contains (line * 16 + i)).foldl (fun m i => m + 2 ^ i) 0

/-- Take a journal entry for the line of a key, before its first write in the superstep (R429, R430). -/
def State.journalLine (s : State) (n : BitVec 6) (job : BitVec 6) (d : Dom) (key : Nat) : State :=
  let line := key / 128
  if d.ck.entries.any fun i => s.entryLine n i == 128 * line then s
  else
    match s.freeEntry n with
    | none => s.unprotect n job (fun x => x == d) 1
    | some i =>
      let at0 := (s.dev.stave n).journalAt i
      let head := s.dev.linePa line + 1 + 2 ^ 64 * (s.me.ctl.sid.toNat + 2 ^ 16 * (s.dev.poisonMask line + 2 ^ 16 * job.toNat))
      let dev := (s.dev.poke at0 128 head).poke (at0 + 128) 128 (s.dev.peek (128 * line) 128)
      { s with dev := dev }.onStave n fun t => t.onJob job fun j =>
        j.onDoms (fun x => x == d) fun x => { x with ck := { x.ck with entries := insertNat i x.ck.entries } }

/-- A thread touches global memory at a key: a member's write (inside, write) is journaled, and an outsider that touches a journaled
line ends the protection (R430). -/
def State.ckTouch (s : State) (n : BitVec 6) (j : Job) (d : Dom) (inside write : Bool) (key : Nat) : State :=
  if !d.ck.active || d.ck.unprot then s
  else if inside then
    if write then s.journalLine n j.num d key else s
  else if d.ck.entries.any fun i => s.entryLine n i == key / 128 * 128 then
    s.unprotect n j.num (fun x => x == d) 3
  else s

/-- A thread outside every domain of the staves that a test selects, such as the host's or a peer's, touches global memory at a key. -/
def State.ckOutside (s : State) (p : BitVec 6 → Bool) (key : Nat) : State :=
  s.dev.staves.foldl (fun s t =>
    if !p (BitVec.ofNat 6 t.1) then s
    else t.2.jobs.foldl (fun s j => j.doms.foldl (fun s d => s.ckTouch (BitVec.ofNat 6 t.1) j d false false key) s) s) s

/-- A thread of the context in focus reads or writes global memory at a key. -/
def State.ckGlobal (s : State) (key : Nat) (write : Bool) : State :=
  let n := s.me.stave
  (s.stave.jobs.foldl (fun s j => j.doms.foldl (fun s d =>
    s.ckTouch n j d (s.me.member.any fun m => m.job == j.num && d.holds m) write key) s) s).ckOutside (fun t => t != n) key

/-- Copy a line of the local memory of core k, a member of a domain of a job, with its poison into its shadow before its first write
(R429, R430). -/
def State.journalLocal (s : State) (n job : BitVec 6) (d : Dom) (k line : Nat) : State :=
  let c := s.coreAt k
  let area := (s.dev.stave n).areaOf c.lcore.toNat
  let bits := area + 0x48100 + line / 8
  let old := s.dev.peek bits 1
  if old.testBit (line % 8) then s
  else
    let at0 := area + 0x50000 + 128 * line
    let bad := (c.loc.poison.filter fun w => w / 16 == line).map fun w => at0 / 8 + w % 16
    let dev := (s.dev.poke bits 1 (old + 2 ^ (line % 8))).poke at0 128 (c.loc.bytes.readN (128 * line) 128)
    let s := { s with dev := dev }
    if bad.isEmpty then s
    else
      { s with dev := { s.dev with poison := insertNats bad s.dev.poison } }.onStave n fun t => t.onJob job fun j =>
        j.onDoms (fun x => x == d) fun x => { x with ck := { x.ck with carried := bad ++ x.ck.carried } }

/-- A thread of a member, or one outside every instance, reads or writes the local memory of core k at a line (R430). -/
def State.ckLocalBy (s : State) (who : Option Member) (k line : Nat) (write : Bool) : State :=
  match (s.coreAt k).member with
  | none => s
  | some mb =>
    let n := (s.coreAt k).stave
    match (s.dev.stave n).job? mb.job with
    | none => s
    | some j =>
      match j.ckpt? mb with
      | none => s
      | some d =>
        if d.ck.unprot then s
        else if who.any fun m => m.job == mb.job && d.holds m then
          if write then s.journalLocal n mb.job d k line else s
        else s.unprotect n mb.job (fun x => x == d) 3

/-- A thread of the context in focus reads or writes the local memory of core k at a line. -/
def State.ckLocal (s : State) (k line : Nat) (write : Bool) : State := s.ckLocalBy s.me.member k line write

end Sys2Proof.Machine
end

