-- ==== Sys2Proof/Machine/Capture.lean ====
section
/-! DEFINITION. Addresses in a job's space, and capture and replay of what reaches a job from outside (R81, R441). -/

namespace Sys2Proof.Machine

/-! ## Host lines (R444, R446) -/

/-- What a host line holds at the host, read anew: its data is the host's, a free value, and poison comes with it or not
(R444, R446). (Log 34, DESIGN CHOICE.) -/
def State.hostFetch (s : State) (hline : Nat) (bad : Bool) : State :=
  let d := s.dev
  let words := (List.range 8).map fun i => 8 * hline + i
  let poison := d.poison.filter fun w => w / 8 != hline
  { s with
    dev := { d with
      mem := d.mem.writeN (64 * hline) 64 (Config.outside 2 s.fresh % 2 ^ 512)
      poison := if bad then insertNats words poison else poison }
    fresh := s.fresh + 1 }

/-- An UNC access to a host line that the device does not hold: the home passes it on without allocating (R444). -/
def State.hostPass (s : State) (hline : Nat) : State :=
  if s.dev.devHolds.contains hline then s
  else
    let (bad, s) := s.drawBool
    s.hostFetch hline bad

/-- A host line arrives at its home, shared or owned (R444). One that the device holds already only becomes owned. -/
def State.hostArrive (s : State) (hline : Nat) (own bad : Bool) : State :=
  let s := if s.dev.devHolds.contains hline then s else s.hostFetch hline bad
  let d := s.dev
  { s with dev := { d with devHolds := insertNat hline d.devHolds,
                           devOwns := if own then insertNat hline d.devOwns else d.devOwns } }

/-- Whether the host link has trained with CXL: without it no host memory is cached (R443). -/
def Dev.cxl (d : Dev) : Bool := match d.link with | .cxl _ => true | .pcie _ | .down => false

/-- A host line is brought in within one step (log 9, DESIGN CHOICE); without CXL none is (R443). -/
def State.hostBring (s : State) (hline : Nat) (own : Bool) : State :=
  if !s.dev.cxl || (if own then s.dev.devOwns else s.dev.devHolds).contains hline then s
  else
    let (bad, s) := s.drawBool
    s.hostArrive hline own bad

/-- The device gives a host line up: one that it owns is written back, its poisoned words with poison set (R444, R446). -/
def State.hostGive (s : State) (hline : Nat) : State :=
  let d := s.dev
  if !d.devHolds.contains hline then s
  else
    let poison := ((List.range 8).filter fun i => d.poison.contains (8 * hline + i)).foldl (fun m i => m + 2 ^ i) 0
    let w : HostWrite := ⟨hline, BitVec.ofNat 512 (d.mem.readN (64 * hline) 64), BitVec.ofNat 8 poison⟩
    { s with dev := { d with
      hostSent := if d.devOwns.contains hline then d.hostSent ++ [w] else d.hostSent
      devHolds := eraseNat hline d.devHolds, devOwns := eraseNat hline d.devOwns } }

/-- The host lines that the n bytes at a physical address touch (R444). -/
def hostLines (pa n : Nat) : List Nat := (List.range ((pa + n - 1) / 64 + 1 - pa / 64)).map fun i => pa / 64 + i

/-- The device reads or writes n bytes at a physical address: host lines among them are brought in (R444). -/
def State.bring (s : State) (pa n : Nat) (own : Bool) : State :=
  match s.dev.paKind pa with
  | .host => (hostLines pa n).foldl (fun s h => s.hostBring h own) s
  | .dram | .peer _ => s

/-! ## A job's record and space (R72, R79) -/

/-- Fields of the launch record (Table 1 of 03). -/
def Job.jobid (j : Job) : W64 := j.record.extractLsb' 128 64
def Job.pool (j : Job) : W64 := j.record.extractLsb' 256 64
def Job.arg (j : Job) : W64 := j.record.extractLsb' 320 64
def Job.argLen (j : Job) : Nat := field j.record 384 32
def Job.captures (j : Job) : Bool := j.record.getLsbD 416
def Job.replays (j : Job) : Bool := j.record.getLsbD 417
def Job.cap (j : Job) : Nat := field j.record 432 8
def Job.completion (j : Job) : W64 := j.record.extractLsb' 448 64
def Job.log (j : Job) : W64 := j.record.extractLsb' 512 64
def Job.logSize (j : Job) : Nat := field j.record 576 64
def Job.vector (j : Job) : Nat := field j.record 640 16
def Job.sequence (j : Job) : W64 := j.record.extractLsb' 64 64

/-- The space in which the device reads and writes for a job. -/
def Job.space (j : Job) : Space := ⟨j.sid, j.mode, j.ptbase⟩

/-- The key of n bytes at an address in a space, which lie in one page, with the host lines among them brought in; none without a
usable mapping. own: the device writes them, which sets d in the leaf (R270); its permissions and the owner of the granule are not
asked for (log 96, DESIGN CHOICE). -/
def State.bringSpace (s : State) (sp : Space) (va : W64) (n : Nat) (own : Bool) : Option (Nat × State) :=
  match s.translate sp va.toNat own with
  | .hit t s => some (s.dev.key (t.pa va.toNat), (s.bring (t.pa va.toNat) n own).markDirty (t.toMark sp own))
  | .miss _ _ _ => none

/-- The key of an address in a space; none without a usable mapping. -/
def State.keyOf (s : State) (sp : Space) (va : W64) : Option Nat := (s.bringSpace sp va 1 false).map (·.1)

/-- n bytes at an address in a space, which lie in one page or in two; none without a usable mapping. -/
def State.peekSpace (s : State) (sp : Space) (va : W64) (n : Nat) : Option (Nat × State) :=
  let first := min n (4096 - va.toNat % 4096)
  (s.bringSpace sp va first false).bind fun r =>
    let x := r.2.dev.peek r.1 first
    if first = n then some (x, r.2)
    else (r.2.bringSpace sp (va + w64 first) (n - first) false).map fun q =>
      (x + 256 ^ first * q.2.dev.peek q.1 (n - first), q.2)

/-- Write n bytes of a number at an address of a space whose bytes lie in one page. -/
def State.writeSpace (s : State) (sp : Space) (va : W64) (n x : Nat) : State :=
  match s.bringSpace sp va n true with
  | none => s
  | some (k, s) => { s with dev := s.dev.poke k n x }

/-! ## Capture (R441) -/

/-- The count under a key of a job's log: records of a core (its number), host reads replayed by a core (8,192 above), and
messages replayed at a slot (16,384 above, 16 for each core). -/
def Job.logCountOf (j : Job) (k : Nat) : Nat := assocGet 0 k j.logNext

/-- Count one more. -/
def Job.logStep (j : Job) (k : Nat) : Job := { j with logNext := assocSet k (j.logCountOf k + 1) j.logNext }

/-- A capture record (Table 6 of 22). -/
structure LogRec where
  kind : Nat
  size : Nat
  slot : Nat
  lcore : Nat
  aux : W64
  index : Nat
  data : V512
  deriving DecidableEq, Repr

/-- Its 128 bytes. -/
def LogRec.bytes (r : LogRec) : Nat :=
  r.kind % 256 + 2 ^ 8 * (r.size % 256) + 2 ^ 16 * (r.slot % 256) + 2 ^ 32 * r.lcore + 2 ^ 64 * r.aux.toNat +
    2 ^ 128 * r.index + 2 ^ 512 * r.data.toNat

/-- The record that 128 bytes hold. -/
def logRecOf (x : Nat) : LogRec :=
  { kind := x % 256, size := x / 2 ^ 8 % 256, slot := x / 2 ^ 16 % 256, lcore := x / 2 ^ 32 % 65536,
    aux := w64 (x / 2 ^ 64), index := x / 2 ^ 128 % 2 ^ 64, data := BitVec.ofNat 512 (x / 2 ^ 512) }

/-- Write the log's header: bytes used, the header's own among them, records, and whether it is truncated. -/
def State.logHeader (s : State) (j : Job) : State :=
  s.writeSpace j.space j.log 128 (j.logUsed + 2 ^ 64 * j.logCount + 2 ^ 96 * bit j.logFull)

/-- Append a record to the log of a capturing job; a full log stops the capture (R81). (Log 55, DESIGN CHOICE.) -/
def State.capture (s : State) (n job : BitVec 6) (r : LogRec) : State :=
  match (s.dev.stave n).job? job with
  | none => s
  | some j =>
    if !j.captures || j.logFull then s
    else
      let j' :=
        if j.logUsed + 128 ≤ j.logSize then { j with logUsed := j.logUsed + 128, logCount := j.logCount + 1 }.logStep r.lcore
        else { j with logFull := true }
      let s := if j'.logFull then s
        else s.writeSpace j.space (j.log + w64 j.logUsed) 128 { r with index := j.logCountOf r.lcore }.bytes
      (s.onStave n fun t => t.onJob job fun _ => j').logHeader j'

/-! ## Replay (R441, R427) -/

/-- The first records of a log, up to a number. -/
def State.logRecs (s : State) (j : Job) : Nat → List LogRec × State
  | 0 => ([], s)
  | n + 1 =>
    let (l, s) := s.logRecs j n
    match s.bringSpace j.space (j.log + w64 (128 + 128 * n)) 128 false with
    | some (k, s) => (l ++ [logRecOf (s.dev.peek k 128)], s)
    | none => (l ++ [logRecOf 0], s)

/-- The records that a log's header counts. -/
def State.logRead (s : State) (j : Job) : List LogRec × State :=
  match s.bringSpace j.space j.log 16 false with
  | some (k, s) => s.logRecs j (s.dev.peek (k + 8) 4)
  | none => ([], s)

/-- The n-th record of a log that a test selects. -/
def State.logFind (s : State) (j : Job) (p : LogRec → Bool) (n : Nat) : Option LogRec × State :=
  let (l, s) := s.logRead j
  ((l.filter p)[n]?, s)

/-- A replay leaves its log at a host read, whose address the completion record names (R427). -/
def State.diverge (s : State) (n job : BitVec 6) (reason : W64) : State :=
  s.onStave n fun t => t.onJob job fun j => if j.status.isNone then { j with status := some 0x25, reason := reason } else j

/-- A host read of x by a logical core of a member's job: captured, or answered from the log (R441). A read that leaves the
log ends the job (R427). -/
def State.hostRead (s : State) (n job : BitVec 6) (l pa size x : Nat) : Except State (Nat × State) :=
  match (s.dev.stave n).job? job with
  | none => .ok (x, s)
  | some j =>
    if j.replays then
      let key := 8192 + l
      let (r, s) := s.logFind j (fun r => r.kind == 3 && r.lcore == l) (j.logCountOf key)
      match r with
      | none => .error (s.diverge n job 0)
      | some r =>
        if r.aux.toNat = pa ∧ r.size = size then
          .ok (r.data.toNat % 256 ^ size, s.onStave n fun t => t.onJob job fun j => j.logStep key)
        else .error (s.diverge n job (w64 pa))
    else .ok (x, s.capture n job ⟨3, size, 0, l, w64 pa, 0, BitVec.ofNat 512 x⟩)

/-- Host reads of the bytes x at an address by a logical core, a host line at a time, at most k of them (Table 6 of 22). -/
def State.hostReads (s : State) (n job : BitVec 6) (l : Nat) : Nat → Nat → Nat → Nat → Except State (Nat × State)
  | 0, _, _, _ => .ok (0, s)
  | k + 1, pa, size, x =>
    if size = 0 then .ok (0, s)
    else
      let piece := if size < 64 - pa % 64 then size else 64 - pa % 64
      match s.hostRead n job l pa piece (x % 256 ^ piece) with
      | .error s => .error s
      | .ok (y, s) =>
        match State.hostReads s n job l k (pa + piece) (size - piece) (x / 256 ^ piece) with
        | .error s => .error s
        | .ok (z, s) => .ok (y + 256 ^ piece * z, s)

end Sys2Proof.Machine
end

