-- ==== Sys2Proof/Machine/Coherence.lean ====
section
/-! DEFINITION. The homes: directory segments and requests (R273 to R279), SELF copies (R276), and what the duplicator
records and does at a home and at a producer's L1 (R369 to R377). Memory holds the last value stored to every DIR and UNC
word; the directory says who holds which words in which state. -/

namespace Sys2Proof.Machine

/-! ## Segments -/

/-- The words that lo to hi name as a mask. -/
def spanMask (lo hi : Nat) : BitVec 16 := BitVec.ofNat 16 (2 ^ (hi + 1) - 2 ^ lo)

/-- A span by its mask: the lowest and the highest word. -/
def spanLo (m : BitVec 16) : Nat := ((List.range 16).find? fun i => m.getLsbD i).getD 0

/-- Words of a segment one by one. -/
def Seg.words (g : Seg) : List Seg :=
  (List.range (g.hi + 1 - g.lo)).map fun i =>
    { g with lo := g.lo + i, hi := g.lo + i, dirty := g.dirty &&& spanMask (g.lo + i) (g.lo + i) }

/-- Adjacent segments with the same state and the same holders merge at once (R278, step 4). -/
def mergeSegs : List Seg → List Seg
  | [] => []
  | g :: t =>
    match mergeSegs t with
    | [] => [g]
    | h :: u =>
      if g.st = h.st ∧ g.holders = h.holders ∧ g.owner = h.owner then
        { g with hi := h.hi, dirty := g.dirty ||| h.dirty } :: u
      else g :: h :: u

/-- The segment that a forced merge of a pair gives: S with the union of the holders, or I when there are none. -/
def Seg.join (g h : Seg) : Seg :=
  let hs := insertNats g.holders h.holders
  { lo := g.lo, hi := h.hi, st := if hs.isEmpty then .i else .s, holders := hs, owner := none, dirty := 0 }

/-- Combined words of each adjacent pair that does not hold a granted word, with the pair's position. -/
def pairSizes (granted : Option Nat) : Nat → List Seg → List (Nat × Nat)
  | i, g :: h :: t =>
    let has (x : Seg) := granted.any fun w => decide (x.lo ≤ w ∧ w ≤ x.hi)
    let rest := pairSizes granted (i + 1) (h :: t)
    if has g || has h then rest else (h.hi + 1 - g.lo, i) :: rest
  | _, _ => []

/-- The smallest pair, the lower-starting one on a tie. -/
def smallestPair : List (Nat × Nat) → Option (Nat × Nat)
  | [] => none
  | p :: t =>
    match smallestPair t with
    | none => some p
    | some q => if q.1 < p.1 then some q else some p

/-- Merge segments i and i + 1. -/
def mergeAt : Nat → List Seg → List Seg
  | 0, g :: h :: t => g.join h :: t
  | i + 1, g :: t => g :: mergeAt i t
  | _, l => l

/-- While more than four segments remain, merge the smallest adjacent pair, never the one just granted (R278, step 4). -/
def limitFour (granted : Option Nat) : Nat → List Seg → List Seg
  | 0, l => l
  | n + 1, l =>
    if l.length ≤ 4 then l
    else
      match smallestPair (pairSizes granted 0 l) with
      | none => l
      | some p => limitFour granted n (mergeSegs (mergeAt p.2 l))

/-- Segments after words have been changed one by one. -/
def normSegs (granted : Option Nat) (ws : List Seg) : List Seg := limitFour granted 16 (mergeSegs ws)

/-- The directory entry of a line under an SID: a new one has one segment in I (R277); the copies of another SID are
recalled first (R274). -/
def Dev.dirLine (d : Dev) (line : Nat) (sid : BitVec 16) : DirLine :=
  let fresh : DirLine := ⟨line, sid, [⟨0, 15, .i, [], none, 0⟩], []⟩
  match d.dir.find? fun x => x.line == line with
  | some x => if x.sid = sid then x else fresh
  | none => fresh

/-- Replace a directory entry, lines rising. -/
def insertDir (x : DirLine) : List DirLine → List DirLine
  | [] => [x]
  | y :: t => if x.line = y.line then x :: t else if x.line < y.line then x :: y :: t else y :: insertDir x t

/-- The words of its line that a cache holds valid (R273). -/
def DirLine.has (x : DirLine) (k : Nat) : BitVec 16 := assocGet 0 k x.valid

/-- Whether a cache holds every word of a mask valid. -/
def DirLine.holds (x : DirLine) (k : Nat) (m : BitVec 16) : Bool := x.has k &&& m == m

/-- A cache is granted words. -/
def DirLine.gain (x : DirLine) (k : Nat) (m : BitVec 16) : DirLine := { x with valid := assocSet k (x.has k ||| m) x.valid }

/-- The caches that a test selects lose words: an invalidation drops exactly the words of its span (R273). -/
def DirLine.lose (x : DirLine) (p : Nat → Bool) (m : BitVec 16) : DirLine :=
  { x with valid := (x.valid.map fun v => if p v.1 then (v.1, v.2 &&& ~~~m) else v).filter fun v => v.2 != 0 }

/-- Whether a mask of words overlaps a segment. -/
def Seg.meets (g : Seg) (m : BitVec 16) : Bool := (spanMask g.lo g.hi &&& m) != 0

/-- The words of every segment that a mask overlaps. -/
def metMask (m : BitVec 16) (segs : List Seg) : BitVec 16 :=
  segs.foldl (fun x g => if g.meets m then x ||| spanMask g.lo g.hi else x) 0

/-- Whether the segments that a mask overlaps form one segment in I with no holder: a read then grants E (R278, step 1). -/
def soleSeg (m : BitVec 16) (segs : List Seg) : Bool :=
  match segs.filter fun g => g.meets m with
  | [g] => g.st == .i && g.holders.isEmpty
  | _ => false

/-- A read by core k of the words of a mask (R278, step 1). (Log 45, DEDUCED.) -/
def readSegs (k : Nat) (m : BitVec 16) (segs : List Seg) : List Seg :=
  let sole := soleSeg m segs
  normSegs none ((segs.map fun g =>
    if !g.meets m || g.holders.contains k then g
    else if sole then { g with st := .e, holders := [k], owner := some k, dirty := 0 }
    else
      let hs := insertNat k g.holders
      match g.st with
      | .i => { g with st := .s, holders := hs, owner := none }
      | .s => { g with holders := hs }
      | .e => if g.dirty ≠ 0 then { g with st := .o, holders := hs } else { g with st := .s, holders := hs, owner := none }
      | .o | .m => { g with st := .o, holders := hs }).flatMap Seg.words)

/-- Whether no core other than k holds a word of the segments that a mask overlaps (R278, step 2). -/
def aloneAt (k : Nat) (m : BitVec 16) (segs : List Seg) : Bool := segs.all fun g => !g.meets m || g.holders.all fun h => h == k

/-- The words that a write grants (R278, step 2). -/
def writeMaskOf (k : Nat) (m : BitVec 16) (segs : List Seg) : BitVec 16 := if aloneAt k m segs then metMask m segs else m

/-- A write by core k of the words of a mask (R278, step 2): the whole of the overlapped segments when no other core holds a
word of them, otherwise exactly the words of the mask. -/
def writeSegs (k : Nat) (m : BitVec 16) (segs : List Seg) : List Seg :=
  let alone := aloneAt k m segs
  let take (w : Seg) : Seg := { w with st := .m, holders := [k], owner := some k, dirty := w.dirty ||| (spanMask w.lo w.hi &&& m) }
  let ws := segs.flatMap fun g =>
    if alone && g.meets m then g.words.map take
    else g.words.map fun w => if w.meets m then take { w with dirty := 0 } else w
  normSegs (some (spanLo m)) ws

/-- A store at the home: the words of a mask become one segment in I (R278, step 3). -/
def homeSegs (m : BitVec 16) (segs : List Seg) : List Seg :=
  normSegs (some (spanLo m)) ((segs.flatMap Seg.words).map fun w =>
    if w.meets m then { w with st := .i, holders := [], owner := none, dirty := 0 } else w)

/-- Core k's copies of the words of a mask become clean and shared (R374, CLEAN). -/
def cleanSegs (k : Nat) (m : BitVec 16) (segs : List Seg) : List Seg :=
  normSegs none ((segs.flatMap Seg.words).map fun w =>
    if w.meets m && w.holders.contains k && w.owner == some k then { w with st := .s, owner := none, dirty := 0 } else w)

/-- Core k drops its copies of the words of a mask (CINV, an invalidation of its L1). -/
def dropSegs (k : Nat) (m : BitVec 16) (segs : List Seg) : List Seg :=
  normSegs none ((segs.flatMap Seg.words).map fun w =>
    if w.meets m && w.holders.contains k then
      let hs := eraseNat k w.holders
      if hs.isEmpty then { w with st := .i, holders := [], owner := none, dirty := 0 }
      else if w.owner = some k then { w with st := .s, holders := hs, owner := none, dirty := 0 }
      else { w with holders := hs }
    else w)

/-- A store of core k to words that it owns: they are dirty (R278). -/
def dirtySegs (k : Nat) (m : BitVec 16) (segs : List Seg) : List Seg :=
  segs.map fun g => if g.owner = some k then { g with dirty := g.dirty ||| (spanMask g.lo g.hi &&& m) } else g

/-- Core or slice h joins the holders of the words of a mask as a shared copy (R375). -/
def joinSegs (h : Nat) (m : BitVec 16) (segs : List Seg) : List Seg :=
  normSegs none ((segs.flatMap Seg.words).map fun w =>
    if !w.meets m || w.holders.contains h then w
    else
      let hs := insertNat h w.holders
      match w.st with
      | .i | .s => { w with st := .s, holders := hs, owner := none, dirty := 0 }
      | .e => if w.dirty ≠ 0 then { w with st := .o, holders := hs }
        else { w with st := .s, holders := hs, owner := none, dirty := 0 }
      | .o | .m => { w with st := .o, holders := hs })

/-- Whether core k holds every word of a mask with write ownership (R278). -/
def ownedBy (k : Nat) (m : BitVec 16) (segs : List Seg) : Bool :=
  segs.all fun g => !g.meets m || ((g.st == .m || g.st == .e) && g.owner == some k)

/-- Replace the directory entry of a line. -/
def Dev.setDir (d : Dev) (x : DirLine) : Dev := { d with dir := insertDir x d.dir }

/-- Core k drops words from its L1 (CINV, an eviction). -/
def DirLine.drop (x : DirLine) (k : Nat) (m : BitVec 16) : DirLine :=
  ({ x with segs := dropSegs k m x.segs } : DirLine).lose (fun h => h == k) m

/-- The words of a line that owners hold newer than the home. -/
def DirLine.dirty (x : DirLine) : BitVec 16 := x.segs.foldl (fun m g => m ||| g.dirty) 0

/-! ## World regions (R313, R314) -/

/-- Base and length of a region's memory (Table 1 of 14). -/
def Region.base (r : Region) : W64 := r.desc.extractLsb' 0 64
def Region.length (r : Region) : Nat := field r.desc 256 64

/-- Whether a region's memory holds the byte at a key (R313). -/
def Region.holds (r : Region) (key : Nat) : Bool :=
  r.frames.zipIdx.any fun f =>
    f.1 == key / 4096 * 4096 &&
      decide (r.base.toNat ≤ r.base.toNat / 4096 * 4096 + 4096 * f.2 + key % 4096 ∧
        r.base.toNat / 4096 * 4096 + 4096 * f.2 + key % 4096 < r.base.toNat + r.length)

/-- Whether a key lies in the memory of a bound region (R314). -/
def Dev.worldLine (d : Dev) (key : Nat) : Bool :=
  d.staves.any fun t => t.2.jobs.any fun j => j.regions.any fun r => r.holds key

/-- Whether a line is one of a bound region's (R370). -/
def Dev.worldKeyLine (d : Dev) (line : Nat) : Bool := (List.range 16).any fun i => d.worldLine (128 * line + 8 * i)

/-! ## Patterns of a job (R365) and tear-outs (R376) -/

/-- Whether a pattern is bound to a domain that holds a member (R365). -/
def Pattern.holds (p : Pattern) (m : Member) : Bool :=
  p.st != .off && (p.level == 3 || (p.level == 2 && p.stage == m.stage) ||
    (p.level == 1 && p.stage == m.stage && p.inst == m.inst))

/-- Change pattern i of a job. -/
def Job.onPat (j : Job) (i : Nat) (f : Pattern → Pattern) : Job :=
  if h : i < 16 then { j with pats := j.pats.set i (f j.pats[i]) h } else j

/-- Change a pattern of a job of a stave. -/
def State.onPat (s : State) (n job : BitVec 6) (i : Nat) (f : Pattern → Pattern) : State :=
  s.onStave n fun t => t.onJob job fun j => j.onPat i f

/-- Discard the notes of a pattern at every core (R377, R383). (Log 32, DEDUCED.) -/
def State.dropNotes (s : State) (n job : BitVec 6) (i : Nat) : State :=
  s.cores.foldl (fun s k => s.onCore k fun c =>
    if c.stave = n then { c with notes := c.notes.filter fun x => !(x.job == job && x.pat.toNat == i) } else c) s

/-- Count a tear-out of a pattern in PLAY; at the limit the pattern falls back (R376, R377). -/
def State.tearOut (s : State) (n job : BitVec 6) (i : Nat) : State :=
  match ((s.dev.stave n).job? job).map fun j => j.pats.toList.getD i ⟨.off, 0, 0, 0, false, false, 0, 0, 0, 4, false, none, [], []⟩ with
  | none => s
  | some p =>
    if p.st ≠ .play then s
    else if p.tears + 1 < p.limit.toNat then s.onPat n job i fun p => { p with tears := p.tears + 1 }
    else
      let s := s.onPat n job i fun p => { p with
        tears := p.tears + 1, falls := p.falls + 1, st := .fallback, entries := p.entries.map fun e => { e with armed := false } }
      (s.onStave n fun t => t.onJob job fun j => { j with nfallbacks := j.nfallbacks + 1 }).dropNotes n job i

/-- Copies of the words of a mask at holders that a test selects are invalidated: those that were pushed and not read count
tear-outs (R376, item 2). -/
def State.tearUnread (s : State) (line : Nat) (m : BitVec 16) (p : Nat → Bool) : State :=
  let hit (u : Unread) := u.line == line && (u.span &&& m) != 0 && p u.holder
  let gone := s.dev.unread.filter hit
  let s := { s with dev := { s.dev with unread := s.dev.unread.filter fun u => !hit u } }
  gone.foldl (fun s u => s.tearOut u.stave u.job u.pat.toNat) s

/-! ## Homes (R109, R129), L2 and LLC (R273, R275, R279) -/

/-- The home slice of an ordinary line under masks and a bucket table (R109): die · 256 + cluster. -/
def bucketHome (masks : Vector W64 10) (buckets : Vector (BitVec 16) 1024) (pa : Nat) : Nat :=
  let b := (List.range 10).foldl (fun b i => b + 2 ^ i * bit (parity 52 (pa &&& (listGet 0 masks.toList i).toNat))) 0
  (buckets.toList.getD b 0).toNat % 1024

/-- The home slice of a line of a stave. During a transition the new home answers for every line that has been handed over (R129). -/
def Dev.homeOf (d : Dev) (n : BitVec 6) (line : Nat) : Nat :=
  let t := d.stave n
  let old := bucketHome t.smask t.buckets (d.linePa line)
  match t.trans with
  | some x => if x.swept || x.handed.contains line then bucketHome x.masks x.buckets (d.linePa line) else old
  | none => old

/-- The home of a line under the next table of a transition, where there is one. -/
def Dev.nextHome (d : Dev) (n : BitVec 6) (line : Nat) : Option Nat :=
  (d.stave n).trans.map fun x => bucketHome x.masks x.buckets (d.linePa line)

/-- Whether a home holds a line, its directory entry or a pattern entry of it (R129, R372). -/
def Dev.knows (d : Dev) (n : BitVec 6) (line : Nat) : Bool :=
  d.dir.any (fun x => x.line == line) || d.l2.any (fun x => x.line == line && x.slice == d.homeOf n line) ||
    (d.stave n).jobs.any fun j => j.pats.toList.any fun p => p.entries.any fun e => e.line == line

/-- A request for a moved line that its old home does not know makes the new home its home (R129, step 4). -/
def State.noteHome (s : State) (sid : BitVec 16) (line : Nat) : State :=
  let n : BitVec 6 := sid.extractLsb' 10 6
  let t := s.dev.stave n
  match t.trans with
  | none => s
  | some x =>
    if x.handed.contains line || s.dev.knows n line || s.dev.nextHome n line == some (s.dev.homeOf n line) then s
    else { s with dev := s.dev.setStave n { t with trans := some { x with handed := insertNat line x.handed } } }

/-- Bytes of the words of a mask. -/
def maskBytes (m : BitVec 16) : Nat := 8 * popCount 16 m.toNat

/-- The LLC ways that a stave holds on the channel of a line, as channel · 32 + way (R119). -/
def Dev.waysFor (d : Dev) (n : BitVec 6) (line : Nat) : List Nat :=
  (d.owns.filter fun o => o.kind == .way && o.stave == n && o.st == .owned && o.id / 32 == line / 2 ^ 23).map (·.id)

/-- Whether a line stands in an LLC way that leaves its stave (R119). -/
def Dev.inLeavingWay (d : Dev) (line : Nat) : Bool :=
  d.llc.any fun x => x.line == line && (d.own .way x.way).any fun o => o.st == .draining || o.st == .scrub

/-- The slice sends a request to the channel of a line (R119, R275, R279): n: its bytes with those of its response; dirty: the words
that it writes; code: MEMPOL's llc. A miss takes a way of the stave's mask, where one is free, otherwise that of a line first in
eviction order, otherwise any; with no way the LLC is passed. A line in a way that leaves the stave is written back and
invalidated first, and the access is a miss (R119). A line's set in the LLC is its number modulo 2,048 (log 10, DESIGN CHOICE). -/
def State.channel (s : State) (sid : BitVec 16) (line n : Nat) (dirty : BitVec 16) (code : Nat) : State :=
  let v : BitVec 6 := sid.extractLsb' 10 6
  if 2 ^ 31 ≤ line then s
  else
  let s := { s with dev := s.dev.charge (s.dev.stave v) (s.dev.homeOf v line) true n }
  let s := if s.dev.inLeavingWay line then { s with dev := { s.dev with llc := s.dev.llc.filter fun x => x.line != line } } else s
  let d := s.dev
  if d.llc.any fun x => x.line == line then
    { s with dev := { d with llc := d.llc.map fun x => if x.line = line then { x with dirty := x.dirty ||| dirty } else x } }
  else
    let ways := d.waysFor v line
    if code = 1 ∨ ways.isEmpty then s
    else
      let set := d.llc.filter fun x => ways.contains x.way && x.line % 2048 == line % 2048
      let add (s : State) (w : Nat) : State :=
        { s with dev := { s.dev with llc := s.dev.llc ++ [⟨w, line, sid, dirty, code == 2⟩] } }
      match ways.find? fun w => !set.any fun x => x.way == w with
      | some w => add s w
      | none =>
        let cands := if set.any (·.first) then set.filter (·.first) else set
        match cands[Config.freeIndex s.fresh % cands.length]? with
        | none => s
        | some v =>
          add { s with dev := { d with llc := d.llc.filter fun x => x.line != v.line }, fresh := s.fresh + 1 } v.way

/-- Whether a slice holds a line. -/
def Dev.inSlice (d : Dev) (h line : Nat) : Bool := d.l2.any fun x => x.slice == h && x.line == line

/-- The lines of a slice in the set of a line: its number modulo 1,536 (log 10, DESIGN CHOICE). -/
def Dev.sliceSet (d : Dev) (h line : Nat) : List L2Line := d.l2.filter fun x => x.slice == h && x.line % 1536 == line % 1536

/-- A slice loses a pushed copy, which the directory records for its cluster: it leaves the directory, and counts a tear-out where it
has not been read (R375, R376). -/
def State.pushedOut (s : State) (slice line : Nat) : State :=
  match s.dev.dir.find? fun x => x.line == line && x.has (8192 + slice) != 0 with
  | none => s
  | some x =>
    let s := s.tearUnread line 0xFFFF fun h => h == 8192 + slice
    { s with dev := s.dev.setDir (x.drop (8192 + slice) 0xFFFF) }

/-- A slice loses a line, whose newer words it writes to the channel. -/
def State.sliceOut (s : State) (v : L2Line) : State :=
  let s := { s with dev := { s.dev with l2 := s.dev.l2.filter fun x => !(x.slice == v.slice && x.line == v.line) } }
  (if v.dirty = 0 then s else s.channel v.sid v.line (maskBytes v.dirty) v.dirty 0).pushedOut v.slice v.line

/-- The line that a full set of a slice gives up; which one is not stated (log 10, DESIGN CHOICE). -/
def State.sliceVictim (s : State) (h line : Nat) : Option L2Line :=
  let set := s.dev.sliceSet h line
  if set.length < 16 then none else set[Config.freeIndex s.fresh % set.length]?

/-- A slice makes room for a line. -/
def State.sliceRoom (s : State) (h line : Nat) : State :=
  match s.sliceVictim h line with
  | some v => { s with fresh := s.fresh + 1 }.sliceOut v
  | none => s

/-- A request at the home of a line (R275, R279): m: its words; write: they are written at the home; alloc and llc: MEMPOL's codes.
A home miss brings the line into the slice under norm and nal1. -/
def State.atHome (s : State) (sid : BitVec 16) (line : Nat) (m : BitVec 16) (write : Bool) (alloc llc : Nat) : State :=
  let h := s.dev.homeOf (sid.extractLsb' 10 6) line
  if s.dev.inSlice h line then
    if !write then s
    else
      let l2 := s.dev.l2.map fun x => if x.slice = h ∧ x.line = line then
        { x with dirty := if alloc = 3 then x.dirty &&& ~~~m else x.dirty ||| m } else x
      let s := { s with dev := { s.dev with l2 := l2 } }
      if alloc = 3 then s.channel sid line (maskBytes m) m llc else s
  else if 2 ≤ alloc then s.channel sid line (maskBytes m) (if write then m else 0) llc
  else
    let s := (s.sliceRoom h line).channel sid line 128 0 llc
    { s with dev := { s.dev with l2 := s.dev.l2 ++ [⟨h, line, sid, if write then m else 0⟩] } }

/-- The slice sends its requests to the channel only as their budget lets it (R115), and an access that meets a line in a leaving
way of the LLC waits (R119). The error is the state in which the request waits. -/
def State.sliceReady (s : State) (sid : BitVec 16) (line : Nat) (m : BitVec 16) (write : Bool) (alloc : Nat) : Except State State :=
  let v : BitVec 6 := sid.extractLsb' 10 6
  let h := s.dev.homeOf v line
  let fits (d : Dev) (n : Nat) := d.fits (d.stave v) h true n
  if 2 ^ 31 ≤ line then .ok s
  else if s.dev.inSlice h line then
    if write && alloc == 3 && !fits s.dev (maskBytes m) then .error s else .ok s
  else if s.dev.inLeavingWay line then .error s
  else if 2 ≤ alloc then (if fits s.dev (maskBytes m) then .ok s else .error s)
  else
    match s.sliceVictim h line with
    | none => if fits s.dev 128 then .ok s else .error s
    | some x =>
      if x.dirty ≠ 0 && !fits s.dev (maskBytes x.dirty) then .error s
      else
        let s := { s with fresh := s.fresh + 1 }.sliceOut x
        if fits s.dev 128 then .ok s else .error s

/-- Replace the directory entry of a line; words that an owner held newer than the home and gives up have been written back
to it, and a slice of which no word stays valid has lost its pushed copy (R375). -/
def State.putDir (s : State) (x : DirLine) : State :=
  let back := (s.dev.dirLine x.line x.sid).dirty &&& ~~~x.dirty
  let home := s.dev.homeOf (x.sid.extractLsb' 10 6) x.line
  let s := { s with dev := { s.dev.setDir x with
    l2 := s.dev.l2.filter fun y => !(y.line == x.line && y.slice != home && x.has (8192 + y.slice) == 0) } }
  if back = 0 then s else s.atHome x.sid x.line back true 0 0

/-! ## SELF words (R276) -/

/-- The dirty bytes of a SELF word are written through to the home, charged at the router (log 22, DESIGN CHOICE), with the journal
entries that a protected superstep takes first (R430); a poisoned word poisons the home's (R426); a host line is obtained owned for it (R444). -/
def State.selfBack (s : State) (w : L1Word) : State :=
  let s := (s.ckGlobal (8 * w.word) true).bring (8 * w.word) 8 true
  let r := putWord s.dev.mem s.dev.poison w.word w.data w.dirty
  let d := { s.dev with mem := r.1, poison := if w.bad then insertNat w.word r.2 else r.2 }
  let d := d.charge (d.stave (w.sid.extractLsb' 10 6)) (clusterOf s.here) false (popCount 8 w.dirty.toNat)
  ({ s with dev := d }.noteHome w.sid (w.word / 16)).atHome w.sid (w.word / 16) (spanMask (w.word % 16) (w.word % 16)) true 0 0

/-- A core's SELF words that a test selects are recalled: written through if dirty and dropped (R274). -/
def State.selfRecall (s : State) (p : L1Word → Bool) : State :=
  let s := (s.me.l1.filter fun w => p w && w.dirty != 0).foldl State.selfBack s
  { s with me := { s.me with l1 := s.me.l1.filter fun w => !p w } }

/-- A request under an SID reaches the home of a line: every copy under another SID is recalled first, modified words written
back (R274). -/
def State.recall (s : State) (sid : BitVec 16) (line : Nat) : State :=
  let s :=
    if s.dev.dir.any fun x => x.line == line && x.sid != sid then
      let s := s.tearUnread line 0xFFFF fun _ => true
      { s with dev := { s.dev with dir := s.dev.dir.filter fun x => x.line != line } }
    else s
  let other (w : L1Word) := w.word / 16 == line && w.sid != sid
  let s := s.cores.foldl (fun s k => if (s.coreAt k).l1.any other then s.at k fun s => s.selfRecall other else s) s
  let d := s.dev
  { s with dev := { d with l2 := d.l2.filter fun x => !(x.line == line && x.sid != sid)
                           llc := d.llc.filter fun x => !(x.line == line && x.sid != sid) } }

/-- The dirty bytes of the SELF words that a test selects are written through: copies of their lines under another SID are recalled
first (R274). -/
def State.selfPut (s : State) (p : L1Word → Bool) : State :=
  let ws := s.me.l1.filter fun w => p w && w.dirty != 0
  let s := ws.foldl (fun s w => s.recall w.sid (w.word / 16)) s
  ws.foldl State.selfBack s

/-- SELF words that a test selects are written through if dirty and dropped. -/
def State.selfOut (s : State) (p : L1Word → Bool) : State :=
  let s := s.selfPut p
  { s with me := { s.me with l1 := s.me.l1.filter fun w => !p w } }

/-- Write the dirty SELF words through; the copies stay. -/
def State.selfClean (s : State) (p : L1Word → Bool) : State :=
  let s := s.selfPut p
  { s with me := { s.me with l1 := s.me.l1.map fun w => if p w then { w with dirty := 0, bad := false } else w } }

/-- A release (R276): every dirty SELF byte is written to the home. -/
def State.selfRelease (s : State) : State := s.selfClean fun _ => true

/-- An acquire (R276): every SELF word is written through if dirty and then dropped. -/
def State.acquire (s : State) : State := s.selfOut fun _ => true

/-- Every core writes its SELF words that a test selects through and drops them. -/
def State.selfOutAll (s : State) (p : L1Word → Bool) : State :=
  s.cores.foldl (fun s k => if (s.coreAt k).l1.any p then s.at k fun s => s.selfOut p else s) s

/-- A SELF word in the L1, under the SID of the context (R273). -/
def Core.selfWord (c : Core) (word : Nat) : Option L1Word := c.l1.find? fun w => w.word == word && w.sid == c.ctl.sid

/-! ## The duplicator at the homes -/

/-- Core k reads words: the pushed copies of them of which it is the consumer are read (R375). -/
def State.markRead (s : State) (k line : Nat) (m : BitVec 16) : State :=
  { s with dev := { s.dev with unread := s.dev.unread.filter fun u =>
      !(u.line == line && (u.span &&& m) != 0 && u.stave == (s.coreAt k).stave && u.lcore == (s.coreAt k).lcore) } }

/-- The store count that a core's table holds for a line (R369, R370). -/
def Core.countOf (c : Core) (line : Nat) : BitVec 16 := ((c.counts.find? fun x => x.line == line).map (·.count)).getD 0

/-- Entries that a slice's pattern table holds (R372). -/
def State.tableFill (s : State) (home : Nat) : Nat :=
  (s.dev.staves.flatMap fun t => t.2.jobs.flatMap fun j => j.pats.toList.flatMap fun p =>
    p.entries.filter fun e => e.home == home).length

/-- An entry takes in another transfer (R370). -/
def PatEntry.grow (e : PatEntry) (m report : BitVec 16) (reader : BitVec 13) : PatEntry :=
  { e with
    span := e.span ||| m
    count := report
    consumers :=
      if e.consumers.contains reader || e.consumers.length ≥ 8 then e.consumers else e.consumers ++ [reader] }

/-- Mark the entry of a line and a producer unarmed. -/
def Pattern.disarm (p : Pattern) (line : Nat) (producer : BitVec 13) : Pattern :=
  { p with entries := p.entries.map fun y => if y.line = line ∧ y.producer = producer then { y with armed := false } else y }

/-- The home serves a read of core c for words that core q held dirty: a RECORD iteration logs the transfer (R370), a PLAY
iteration counts it as a tear-out when no entry covers the pair (R376, item 1); a world-key line is neither. -/
def State.logTransfer (s : State) (c q line : Nat) (sid : BitVec 16) (m : BitVec 16) : State :=
  let cc := s.coreAt c
  let cq := s.coreAt q
  let n := cc.stave
  let report := cq.countOf line
  if cq.stave ≠ n || report = 0 || report = 65535 || s.dev.worldKeyLine line then s
  else
    match cc.member, cq.member with
    | some mc, some mq =>
      if mc.job ≠ mq.job then s
      else
        match (s.dev.stave n).job? mc.job with
        | none => s
        | some j =>
          let home := s.dev.homeOf n line
          (List.range 16).foldl (fun s i =>
            match j.pats.toList[i]? with
            | none => s
            | some p =>
              if !p.holds mc || !p.holds mq then s
              else
                let same (e : PatEntry) := e.line == line && e.producer == cq.lcore
                match p.st with
                | .record =>
                  if p.barred.contains line then s
                  else if p.entries.any same then
                    s.onPat n mc.job i fun p =>
                      { p with entries := p.entries.map fun e => if same e then e.grow m report cc.lcore else e }
                  else if s.tableFill home ≥ 2048 then s.onPat n mc.job i fun p => { p with ovf := true }
                  else s.onPat n mc.job i fun p => { p with entries := p.entries ++
                    [⟨line, sid, m, report, cq.lcore, [cc.lcore], false, p.dest, home⟩] }
                | .play => if p.entries.any same then s else s.tearOut n mc.job i
                | .off | .armed | .recorded | .cued | .paused | .fallback => s) s
    | _, _ => s

/-- A line gets no entry in the recordings of the stave in progress (R371). -/
def State.barLine (s : State) (n : BitVec 6) (line : Nat) : State :=
  if (s.dev.stave n).jobs.isEmpty then s
  else s.onStave n fun t => { t with jobs := t.jobs.map fun j => { j with pats := j.pats.map fun p =>
    if p.st = .record then { p with barred := insertNat line p.barred,
                                    entries := p.entries.filter fun e => e.line != line } else p } }

/-- An entry fires at its producer k (R374): the span is written back and downgraded, the note is dropped, and a push for
each consumer leaves the home in list order. -/
def State.firePush (s : State) (k : Nat) (x : PushNote) : State :=
  let c := s.coreAt k
  let n := c.stave
  let s := s.onCore k fun c => { c with notes := c.notes.filter fun y => y != x }
  match ((s.dev.stave n).job? x.job).bind fun j =>
      (j.pats.toList[x.pat.toNat]?).bind fun p => p.entries.find? fun e => e.line == x.line && e.producer == c.lcore with
  | none => s
  | some e =>
    let s := match s.dev.dir.find? fun d => d.line == e.line && d.sid == e.sid with
      | some d => s.putDir { d with segs := cleanSegs k e.span d.segs }
      | none => s
    let out : List Push := e.consumers.map fun l => ⟨e.line, e.span, n, l, e.dest, e.sid, x.job, x.pat⟩
    let s := { s with dev := { s.dev with pushes := s.dev.pushes ++ out } }
    s.onPat n x.job x.pat.toNat fun p => p.disarm e.line e.producer

/-- Fire the notes of core k for a line whose count has been reached (R374). -/
def State.fireNotes (s : State) (k line : Nat) : State :=
  let c := s.coreAt k
  (c.notes.filter fun x => x.line == line && decide (x.count ≤ c.countOf line)).foldl (fun s x => s.firePush k x) s

/-- Notes that waited at the home ride on a grant of write ownership of words of their span to producer k (R373); one whose count
has been reached already fires on arrival (R374). -/
def State.rideNotes (s : State) (k line : Nat) (m : BitVec 16) : State :=
  let c := s.coreAt k
  match c.member with
  | none => s
  | some mb =>
    match (s.dev.stave c.stave).job? mb.job with
    | none => s
    | some j =>
      ((List.range 16).foldl (fun s i =>
        match j.pats.toList[i]? with
        | none => s
        | some p =>
          if p.st ≠ .play then s
          else (p.entries.filter fun e => e.armed && e.line == line && e.sid == c.ctl.sid && e.producer == c.lcore &&
              (e.span &&& m) != 0).foldl
            (fun s e => s.onCore k fun c =>
              let x : PushNote := ⟨mb.job, BitVec.ofNat 4 i, line, e.count⟩
              if c.notes.contains x then c else { c with notes := c.notes ++ [x] }) s) s).fireNotes k line

/-- Whether a member's stores are counted: a pattern of its job is in RECORD or PLAY and bound to a domain that holds it
(R369). -/
def Job.counting (j : Job) (m : Member) : Bool :=
  j.pats.toList.any fun p => (p.st == .record || p.st == .play) && p.holds m

/-- Whether entry x goes before y when a full table drops one: the lower count, the lower line on a tie (R369). -/
def StoreCount.before (x y : StoreCount) : Bool :=
  decide (x.count < y.count) || (x.count == y.count && decide (x.line < y.line))

/-- The entry that a full table drops. -/
def lowestCount : List StoreCount → Option StoreCount
  | [] => none
  | x :: t =>
    match lowestCount t with
    | none => some x
    | some y => if y.before x then some y else some x

/-- Add 1 to a line's count (R369). -/
def countUp (line : Nat) (l : List StoreCount) : List StoreCount :=
  if l.any fun x => x.line == line then
    l.map fun x => if x.line = line then { x with count := if x.count = 65535 then x.count else x.count + 1 } else x
  else
    let l := if l.length ≥ 256 then (match lowestCount l with | some x => l.filter fun y => y != x | none => l) else l
    l ++ [⟨line, 1⟩]

/-- The core in focus has stored to a DIR line: its store count rises and its notes fire (R369, R374). -/
def State.countStore (s : State) (line : Nat) : State :=
  match s.me.member, s.job? with
  | some m, some j =>
    if j.counting m then
      { s with me := { s.me with counts := countUp line s.me.counts } }.fireNotes s.here line
    else s
  | _, _ => s

/-! ## The sets of an L1 (R386) -/

/-- The valid lines of a set of core k's L1: lines with valid words, and those of its SELF words. -/
def State.l1Lines (s : State) (k set : Nat) : List Nat :=
  let dir := (s.dev.dir.filter fun x => x.line % 16 == set && x.has k != 0).map (·.line)
  insertNats (((s.coreAt k).l1.map fun w => w.word / 16).filter fun l => l % 16 == set) dir

/-- Core k's L1 loses a line: its copies leave the directory, its dirty words are written back (log 22, DESIGN CHOICE), an unread pushed copy counts a tear-out (R376), and dirty SELF
bytes are written through (R276). -/
def State.evictLine (s : State) (k line : Nat) : State :=
  let s := s.tearUnread line 0xFFFF fun h => h == k
  let s := match s.dev.dir.find? fun x => x.line == line with
    | some x =>
      let m := x.segs.foldl (fun (m : BitVec 16) (g : Seg) => if g.owner = some k then m ||| g.dirty else m) 0
      let d := if m = 0 then s.dev else s.dev.charge (s.dev.stave (x.sid.extractLsb' 10 6)) (clusterOf k) false (maskBytes m)
      { s with dev := d }.putDir (x.drop k 0xFFFF)
    | none => s
  s.at k fun s => s.selfOut fun w => w.word / 16 == line

/-- A fill of a line into core k's L1 finds room: when all 16 ways of its set are valid, one of these lines is evicted, and
which one is not stated (R386). A holder from 8192 up, a slice or the host, is no L1. -/
def State.l1Room (s : State) (k line : Nat) : State :=
  let l := s.l1Lines k (line % 16)
  if l.contains line || decide (l.length < 16) || decide (8192 ≤ k) then s
  else { s with fresh := s.fresh + 1 }.evictLine k (listGet line l (Config.freeIndex s.fresh % l.length))

/-- Put a SELF word into the L1 of the core in focus. -/
def State.setSelf (s : State) (w : L1Word) : State :=
  let s := s.l1Room s.here (w.word / 16)
  { s with me := { s.me with l1 := w :: s.me.l1.filter fun x => !(x.word == w.word && x.sid == w.sid) } }

/-! ## Pushes (R375) -/

/-- The host in the holder lists of the directory (R447). -/
def hostHolder : Nat := 9216

/-- The words of its line that a 64-byte host line covers (R444). -/
def halfMask (hline : Nat) : BitVec 16 := if hline % 2 = 0 then 0x00FF else 0xFF00

/-- The first half of a line, as a 64-byte line number, that the host holds and that a request under an SID takes from it: words of
the mask where it needs ownership, and every word where the host's tag is another (R274, R447). -/
def Dev.hostHalf (d : Dev) (sid : BitVec 16) (line : Nat) (m : BitVec 16) (own : Bool) : Option Nat :=
  match d.dir.find? fun x => x.line == line with
  | none => none
  | some x =>
    let held := x.has hostHolder &&& (if x.sid ≠ sid then -1 else if own then m else 0)
    [2 * line, 2 * line + 1].find? fun h => (held &&& halfMask h) != 0

/-- The host answers a back-invalidate snoop: it holds no word of the half any more (R447). -/
def State.hostYields (s : State) (half : Nat) : State :=
  match s.dev.dir.find? fun x => x.line == half / 2 with
  | some x => s.putDir (x.drop hostHolder (halfMask half))
  | none => s

/-- The running context of a logical core. -/
def State.runningCore (s : State) (n : BitVec 6) (l : BitVec 13) : Option Nat :=
  ((s.dev.stave n).coreOf? l.toNat).filter fun k => (s.coreAt k).live && !(s.coreAt k).stopped && !(s.coreAt k).held

/-- Whether a slice holds a line as its home. -/
def Dev.homeHolds (d : Dev) (n : BitVec 6) (slice line : Nat) : Bool := d.homeOf n line == slice && d.inSlice slice line

/-- The core of a push's consumer, whose context is of the domain that the pattern is bound to (R365); none where it is absent. -/
def State.consumer (s : State) (x : Push) : Option Nat :=
  ((s.dev.stave x.stave).coreOf? x.lcore.toNat).filter fun k => (s.coreAt k).live && (s.coreAt k).member.any fun m =>
    m.job == x.job && (((s.dev.stave x.stave).job? x.job).bind fun j => j.pats.toList[x.pat.toNat]?).any fun p => p.holds m

/-- A line enters a slice as a pushed copy (R375). -/
def State.sliceTake (s : State) (h line : Nat) (sid : BitVec 16) : State :=
  if s.dev.inSlice h line then s
  else
    let s := s.sliceRoom h line
    { s with dev := { s.dev with l2 := s.dev.l2 ++ [⟨h, line, sid, 0⟩] } }

/-- A push is delivered: nothing happens where the consumer's L1 or slice holds the words already or the consumer is absent, and where
the line has been recalled for another SID meanwhile (R274). -/
def State.applyPush (s : State) (x : Push) : State :=
  match s.consumer x with
  | none => s
  | some k =>
    let c := clusterOf k
    let h := if x.dest then 8192 + c else k
    if (s.dev.dirLine x.line x.sid).holds h x.span || (x.dest && s.dev.homeHolds x.stave c x.line) ||
        s.dev.dir.any (fun d => d.line == x.line && d.sid != x.sid) then s
    else
      let s := if x.dest then s.sliceTake c x.line x.sid else s.l1Room k x.line
      let dl := s.dev.dirLine x.line x.sid
      let s := s.putDir (({ dl with segs := joinSegs h x.span dl.segs } : DirLine).gain h x.span)
      { s with dev := { s.dev with unread := s.dev.unread ++ [⟨x.line, x.span, h, x.stave, x.lcore, x.job, x.pat⟩] } }

/-- Push i is delivered. -/
def State.deliverPush (s : State) (i : Nat) : State :=
  match s.dev.pushes[i]? with
  | none => s
  | some x => { s with dev := { s.dev with pushes := listDrop s.dev.pushes i } }.applyPush x

/-- Pushes of words of a mask that have left the home reach their consumers before a later store to these words is served there:
every later store invalidates the pushed copy before it is performed (R378, R388). -/
def State.pushesFirst (s : State) (line : Nat) (m : BitVec 16) : State :=
  let hit (x : Push) := x.line == line && (x.span &&& m) != 0
  let out := s.dev.pushes.filter hit
  out.foldl State.applyPush { s with dev := { s.dev with pushes := s.dev.pushes.filter fun x => !hit x } }

/-! ## Requests at the home -/

/-- A request under an SID is served at the home of a line. -/
def State.request (s : State) (sid : BitVec 16) (line : Nat) (m : BitVec 16) (write : Bool) (alloc llc : Nat) : State :=
  ((s.recall sid line).noteHome sid line).atHome sid line m write alloc llc

/-- MEMPOL's codes for the access of a core (Table 8 of 01). -/
def Core.alloc (c : Core) : Nat := ((c.hints.mempol.map (·.2.toNat))).getD 0
def Core.llcCode (c : Core) : Nat := ((c.hints.mempol.map (·.1.toNat))).getD 0

/-- The other cores that hold words of a mask dirty, with these words (R370): in O or M, or in E after a store. -/
def dirtyOwners (k : Nat) (m : BitVec 16) (segs : List Seg) : List (Nat × BitVec 16) :=
  segs.foldl (fun l g =>
    match g.owner with
    | some q =>
      let dirty := spanMask g.lo g.hi &&& m &&& (if g.st = .e then g.dirty else -1)
      if q ≠ k ∧ dirty ≠ 0 then assocSet q (assocGet 0 q l ||| dirty) l else l
    | none => l) []

/-- What the duplicator notes of a read by core k (R370, R376): once for each producer. -/
def State.noteRead (s : State) (k : Nat) (sid : BitVec 16) (line : Nat) (m : BitVec 16) : State :=
  (dirtyOwners k m (s.dev.dirLine line sid).segs).foldl (fun s o => s.logTransfer k o.1 line sid o.2) s

/-- The home serves a read request of core k for words of a DIR line (R278). An E segment comes with write ownership, on which a note
rides (R373). load: the request is a load's, which a pattern may record; PREF is none (R370). -/
def State.serveRead (s : State) (k : Nat) (sid : BitVec 16) (line : Nat) (m : BitVec 16) (load : Bool := true) : State :=
  let s := (s.l1Room k line).request sid line m false 0 (s.coreAt k).llcCode
  let s := if load then s.noteRead k sid line m else s
  let dl := s.dev.dirLine line sid
  let granted := metMask m dl.segs
  let s := s.putDir (({ dl with segs := readSegs k m dl.segs } : DirLine).gain k granted)
  if soleSeg m dl.segs then s.rideNotes k line granted else s

/-- The slice of core k's cluster serves a miss from a pushed copy, and the directory records the copy in the L1 (R375). -/
def State.serveSlice (s : State) (k : Nat) (sid : BitVec 16) (line : Nat) (m : BitVec 16) : State :=
  let s := s.l1Room k line
  let dl := s.dev.dirLine line sid
  s.putDir (({ dl with segs := joinSegs k m dl.segs } : DirLine).gain k m)

/-- The home answers a load that keeps no copy (R278, step 3; R285): no holder changes. -/
def State.serveLoad (s : State) (k : Nat) (sid : BitVec 16) (line : Nat) (m : BitVec 16) (alloc llc : Nat) : State :=
  (s.request sid line m false alloc llc).noteRead k sid line m

/-- The home grants write ownership of words of a DIR line to core k (R278). -/
def State.serveWrite (s : State) (k : Nat) (sid : BitVec 16) (line : Nat) (m : BitVec 16) : State :=
  let s := ((s.pushesFirst line m).l1Room k line).request sid line m false 0 (s.coreAt k).llcCode
  let dl := s.dev.dirLine line sid
  let granted := writeMaskOf k m dl.segs
  let s := s.tearUnread line m fun h => h != k
  let s := s.putDir ((({ dl with segs := writeSegs k m dl.segs } : DirLine).lose (fun h => h != k) m).gain k granted)
  s.rideNotes k line granted

/-- The home invalidates every L1 copy of words before a store, an atomic or an engine's write there (R278, R289). -/
def State.serveHome (s : State) (sid : BitVec 16) (line : Nat) (m : BitVec 16) (alloc : Nat := 0) (llc : Nat := 0) : State :=
  let s := (s.pushesFirst line m).request sid line m true alloc llc
  let dl := s.dev.dirLine line sid
  let s := s.tearUnread line m fun _ => true
  s.putDir (({ dl with segs := homeSegs m dl.segs } : DirLine).lose (fun _ => true) m)

/-- Replace the bytes of a word that a mask selects. -/
def mixBytes (old new : W64) (mask : BitVec 8) : W64 :=
  w64 ((List.range 8).foldl (fun x i =>
    x + 256 ^ i * (if mask.getLsbD i then (byteOf new.toNat i).toNat else (byteOf old.toNat i).toNat)) 0)

end Sys2Proof.Machine
end

