-- ==== Sys2Proof/Machine/Memory.lean ====
section
/-! DEFINITION. Data accesses of a core: the checks in their order (R281), and loads, stores and atomics at each place an
address can name (R261 to R266, R276, R280, R282, R289). Plain accesses are performed in program order (log 7, DESIGN CHOICE). -/

namespace Sys2Proof.Machine

/-- Coherence classes of a page (R276). -/
inductive MemCls where
  | dir | self | unc
  deriving DecidableEq, Repr

/-- Class bits of a leaf (Table 4 of 11). -/
def MemCls.ofPte (e : W64) : MemCls :=
  match field e 9 2 with
  | 0 => .dir | 1 => .self | _ => .unc

/-- MEMPOL has no effect on the instruction that issues (R31). -/
def State.noPol (s : State) : State := { s with me.hints.mempol := none }

/-- Where an access is performed. -/
inductive Place where
  /-- the core's own local memory, by offset -/
  | own (off : Nat)
  /-- a copy-channel aperture of the core -/
  | aperture (c : Nat)
  /-- the core's stream table, by offset from its start -/
  | table (off : Nat)
  /-- the local memory of another logical core -/
  | far (l : Nat) (off : Nat)
  /-- physical memory: address, key, class, and the leaf in which the access sets d once it is performed (R270) -/
  | phys (pa key : Nat) (cls : MemCls) (leaf : Option Nat)
  deriving DecidableEq, Repr

/-- A stop with a trap in the present state. -/
def trapHere (s : State) (c : Cause) (v : W64) : Except Res α := .error (.trap c v s)

/-- The outcome of an effect written with stops. -/
def settle (x : Except Res Res) : Res :=
  match x with
  | .ok r => r
  | .error r => r

/-- Offsets within the core's own window (R262, R263): an access that touches a reserved offset traps LOCALRANGE, also where
it begins at an aperture (log 23, DEDUCED). -/
def State.ownPlace (s : State) (va : W64) (off n : Nat) (kind : AccKind) (apertures : Bool) : Except Res (Place × State) :=
  if off < 0x30000 then .ok (.own off, s)
  else if off + n ≤ 0x30020 then
    if apertures && n == 8 && (kind == .read || kind == .write) then .ok (.aperture ((off - 0x30000) / 8), s)
    else trapHere s .access va
  else if 0x30800 ≤ off ∧ off + n ≤ 0x30C00 then
    if kind = .read then .ok (.table (off - 0x30800), s) else trapHere s .access va
  else trapHere s .localrange va

/-- Offsets within another core's window (R262, R263). -/
def State.farPlace (s : State) (va : W64) (l off n : Nat) : Except Res (Place × State) :=
  if off < 0x30000 then .ok (.far l off, s)
  else if off + n ≤ 0x30020 ∨ (0x30800 ≤ off ∧ off + n ≤ 0x30C00) then trapHere s .access va
  else trapHere s .localrange va

/-- Permissions of a leaf for an access (R281, step 4). -/
def permitted (e : W64) (m : Mode) (kind : AccKind) : Bool :=
  (m != .user || e.getLsbD 5) &&
    (match kind with
     | .read => e.getLsbD 2
     | .write => e.getLsbD 3
     | .atomic => e.getLsbD 2 && e.getLsbD 3
     | .fetch => e.getLsbD 4)

/-- A translated address: translation, permission, ownership (R281, steps 3 to 5). -/
def State.physCheck (s : State) (va : W64) (kind : AccKind) : Except Res (Place × State) :=
  match s.translate s.me.space va.toNat kind.writes with
  | .miss lv bad s => .error (s.parkAccess va kind lv bad)
  | .hit t s =>
    let pa := t.pa va.toNat
    if !permitted t.pte s.me.ctl.mode kind then trapHere s .access va
    else if !s.dev.reachable s.me.ctl.mode s.me.stave pa kind.writes then trapHere s .access va
    else
      let cls := match s.dev.paKind pa with
        | .dram | .host => MemCls.ofPte t.pte
        | .peer _ => .unc
      .ok (.phys pa (s.dev.key pa) cls (t.toMark s.me.space kind.writes), s)

/-- The host lines that an access touches are at their homes, owned for a store or an atomic; an UNC access passes by (R444). -/
def State.hostReady (s : State) (pa n : Nat) (cls : MemCls) (own : Bool) : Except Res State :=
  match s.dev.paKind pa with
  | .dram | .peer _ => .ok s
  | .host =>
    let absent := (hostLines pa n).filter fun h => !(if own then s.dev.devOwns else s.dev.devHolds).contains h
    match absent with
    | [] => .ok s
    | h :: _ => if cls = .unc then .ok (absent.foldl State.hostPass s) else .error (.wait (.host h own) s)

/-- The place of n bytes at a translated address. -/
def State.physPlace (s : State) (va : W64) (n : Nat) (kind : AccKind) : Except Res (Place × State) := do
  let (pl, s) ← s.physCheck va kind
  match pl with
  | .phys pa _ cls _ =>
    -- an atomic owns its host lines in every class (R445)
    let s ← s.hostReady pa n (if kind = .atomic then .dir else cls) kind.writes
    return (pl, s)
  | .own _ | .aperture _ | .table _ | .far _ _ => return (pl, s)

/-- The checks of R281, steps 2 to 5, for n bytes of one line. apertures: the access is of a kind that Table 2 of 11 permits at a
copy-channel aperture. -/
def State.placeSpan (s : State) (va : W64) (n : Nat) (kind : AccKind) (apertures : Bool) : Except Res (Place × State) :=
  let top := field va 48 16
  if top < 0x100 then s.physPlace va n kind
  else if top = 0xFFFF then
    if zeroAt va 18 30 then s.ownPlace va (field va 0 18) n kind apertures else trapHere s .access va
  else if top = 0xFFFE then
    let l := field va 18 13
    if !zeroAt va 31 17 || !s.stave.valid l then trapHere s .access va
    else if l = s.me.lcore.toNat then s.ownPlace va (field va 0 18) n kind apertures
    else s.farPlace va l (field va 0 18) n
  else trapHere s .access va

/-- The checks of R281, steps 1 to 5, for an access of n bytes. -/
def State.place (s : State) (va : W64) (n : Nat) (kind : AccKind) (apertures : Bool) : Except Res (Place × State) :=
  if va.toNat % n ≠ 0 then trapHere s .misalign va else s.placeSpan va n kind apertures

/-! ## What stands at a place -/

/-- The 64 bytes of a stream-table slot (Table 1 of 16). -/
def Slot.word (t : Slot) : Nat := t.bind.toNat + 2 ^ 64 * (t.head.toNat + 2 ^ 32 * (t.tail.toNat + 2 ^ 32 * t.eos.toNat))

/-- n bytes of the stream table from an offset: they lie in one slot. -/
def Core.tableRead (c : Core) (off n : Nat) : Nat :=
  if h : off / 64 < 16 then (c.slots[off / 64]'h).word / 256 ^ (off % 64) % 256 ^ n else 0

/-- The state word of a channel (Table 5 of 12). -/
def Chan.word (c : Chan) : W64 :=
  match c.active with
  | none => w64 c.waiting.length
  | some a => w64 (2 ^ 16 * (a.bytes % 2 ^ 32) + 2 ^ 8 * a.slot.toNat + 8 * bit (!a.parked.isEmpty) + 1 + c.waiting.length)

/-- The words of its line that an access of n bytes at a key needs (R273). -/
def spanOf (key n : Nat) : BitVec 16 := spanMask (key % 128 / 8) ((key % 128 + n - 1) / 8)

/-- The address of a poisoned word that an access at va, whose place starts at a, meets (R280). -/
def poisonVa (va : W64) (a w : Nat) : W64 := va + w64 (8 * w) - w64 a

/-- The addresses at which the instruction's remote accesses have been answered. -/
def Core.answers (c : Core) : List W64 :=
  match c.wait with
  | some (.remote _ got) => got
  | _ => []

/-- Whether the answer to the remote access at va has come. -/
def Core.granted (c : Core) (va : W64) : Bool := c.answers.contains va

/-- An element of a long instruction is committed: the answers that it used are over. A locked gang commits none before all (R151). -/
def State.answered (s : State) : State := if s.me.bond = .gang then s else { s with me := { s.me with wait := none } }

/-- The next element of a long instruction begins, or the instruction stops part-way before it (R240). -/
def State.element (s : State) : Except Res State :=
  match s.me.quota with
  | none => .ok s
  | some 0 => .error (.wait .part s)
  | some (n + 1) => .ok { s with me := { s.me with quota := some n } }

/-! ## Requests of a core to a slice or to another core (R115) -/

/-- Whether a request of the core in focus fits the mesh budget of its router (R115). (Log 22, DESIGN CHOICE.) -/
def State.fits (s : State) (n : Nat) : Bool := s.dev.fits s.stave (clusterOf s.here) false n

/-- Charge it. -/
def State.charge (s : State) (n : Nat) : State := { s with dev := s.dev.charge s.stave (clusterOf s.here) false n }

/-- A request of the core in focus for words of a line waits until the host has answered the back-invalidate snoop for a half that it
holds (R447). -/
def State.hostLeft (s : State) (line : Nat) (m : BitVec 16) (own : Bool) : Except Res State :=
  match s.dev.hostHalf s.me.ctl.sid line m own with
  | none => .ok s
  | some h => .error (.wait (.host h own) s)

/-- The core in focus sends a request with n bytes of payload, its response's included, to the home of a line: it waits for its
budget, for the host where the copies of another SID are the host's, and the slice for its own budget (R115, R119, R447). -/
def State.askHome (s : State) (line : Nat) (m : BitVec 16) (n : Nat) (write : Bool) (alloc : Nat) : Except Res State :=
  if !s.fits n then .error (.wait .budget s)
  else do
    let s ← s.hostLeft line m false
    match (s.noteHome s.me.ctl.sid line).sliceReady s.me.ctl.sid line m write alloc with
    | .ok s => .ok (s.charge n)
    | .error s => .error (.wait .slice s)

/-- A remote load or atomic of n bytes at va waits for its answer (R266): its request is charged once. -/
def State.askFar (s : State) (va : W64) (n : Nat) : Except Res State :=
  match s.me.wait with
  | some (.remote a got) => if a = va ∨ s.fits n then .error (.wait (.remote va got) (if a = va then s else s.charge n)) else .error (.wait .budget s)
  | _ => if s.fits n then .error (.wait (.remote va []) (s.charge n)) else .error (.wait .budget s)

/-! ## SELF words (R276) -/

/-- The words that n bytes at a key touch. -/
def wordsOf (key n : Nat) : List Nat := (List.range ((key + n - 1) / 8 + 1 - key / 8)).map fun i => key / 8 + i

/-- Whether a SELF word is among those that an access covers. -/
def L1Word.within (key n : Nat) (w : L1Word) : Bool := decide (key / 8 ≤ w.word ∧ w.word ≤ (key + n - 1) / 8)

/-- Words of a SELF access that are not in the L1, as a mask. -/
def State.selfMiss (s : State) (key n : Nat) : BitVec 16 :=
  ((wordsOf key n).filter fun w => (s.me.selfWord w).isNone).foldl (fun m w => m ||| spanMask (w % 16) (w % 16)) 0

/-- The bytes of word w among the n at a key, as a mask. -/
def wordMask (key n w : Nat) : BitVec 8 :=
  BitVec.ofNat 8 (((List.range 8).filter fun b => decide (key ≤ 8 * w + b ∧ 8 * w + b < key + n)).foldl (fun m b => m + 2 ^ b) 0)

/-- Word i of bytes x at a key, in its place. -/
def wordPart (key x i : Nat) : W64 := w64 (x * 256 ^ (key % 8) / 2 ^ (64 * i))

/-- Replace word i of the n bytes x at a key. -/
def wordInto (key n x i : Nat) (y : W64) : Nat :=
  let big := x * 256 ^ (key % 8)
  (big - big / 2 ^ (64 * i) % 2 ^ 64 * 2 ^ (64 * i) + y.toNat * 2 ^ (64 * i)) / 256 ^ (key % 8) % 256 ^ n

/-- Load n bytes of SELF memory: words in the L1 as they stand there, the others from the home (R276). -/
def State.selfLoad (s : State) (key n : Nat) (keep : Bool) : Nat × State :=
  (wordsOf key n).zipIdx.foldl (fun r w =>
    match r.2.me.selfWord w.1 with
    | some l => (wordInto key n r.1 w.2 l.data, r.2)
    | none =>
      let x := w64 (r.2.dev.peek (8 * w.1) 8)
      (wordInto key n r.1 w.2 x, if keep then r.2.setSelf ⟨r.2.me.ctl.sid, w.1, x, 0, false⟩ else r.2)) (0, s)

/-- Whether a SELF word is poisoned for the core in focus: it is at the home, and the core has not wholly stored it itself (R280); or it
is in its L1 (R426). -/
def State.selfBad (s : State) (w : Nat) : Bool :=
  match s.me.selfWord w with
  | some l => l.bad || (s.dev.poison.contains w && l.dirty != 0xFF)
  | none => s.dev.poison.contains w

/-- Store n bytes into SELF words (R276): into the L1, or where it does not allocate and the word is absent, at the home (R279). A
narrower store to a poisoned word is discarded (R280). -/
def State.selfStore (s : State) (key n x : Nat) (keep : Bool) : State :=
  (wordsOf key n).zipIdx.foldl (fun s w =>
    let mask := wordMask key n w.1
    let new := wordPart key x w.2
    if mask ≠ 0xFF ∧ s.selfBad w.1 then s
    else
      match s.me.selfWord w.1 with
      | some l => s.setSelf ⟨l.sid, w.1, mixBytes l.data new mask, l.dirty ||| mask, l.bad && mask != 0xFF⟩
      | none =>
        if keep then s.setSelf ⟨s.me.ctl.sid, w.1, mixBytes (w64 (s.dev.peek (8 * w.1) 8)) new mask, mask, false⟩
        else
          let r := putWord s.dev.mem s.dev.poison w.1 new mask
          { s with dev := { s.dev with mem := r.1, poison := r.2 } }) s

/-- The first poisoned word that a SELF load meets. -/
def State.selfPoison (s : State) (key n : Nat) : Option Nat := (wordsOf key n).find? s.selfBad

/-! ## World regions and words of mixed classes (R276, R314) -/

/-- Whether an access of a class meets a word of which a copy of another class exists, or existed when values of it were noted
(R276). (Log 87, DEDUCED.) -/
def State.mixedWord (s : State) (cls : MemCls) (w : Nat) : Bool :=
  let dirCopy := s.dev.dir.any fun x => x.line == w / 16 && x.valid.any fun v => v.2.getLsbD (w % 16)
  let selfCopy := s.cores.any fun k => (s.coreAt k).l1.any fun l => l.word == w
  s.dev.stored.any (fun x => x.1 == w) ||
    match cls with
    | .self => dirCopy
    | .dir => selfCopy
    | .unc => dirCopy || selfCopy

/-- Whether a load of a word returns any value stored to it, and which one is not stated (R276, R314). -/
def State.looseWord (s : State) (cls : MemCls) (w : Nat) : Bool := s.dev.worldLine (8 * w) || s.mixedWord cls w

/-- The values of a word that the device or a core holds, and those noted as stored to it. -/
def State.valuesOf (s : State) (w : Nat) : List W64 :=
  w64 (s.dev.peek (8 * w) 8) :: (s.cores.flatMap fun k => ((s.coreAt k).l1.filter fun l => l.word == w).map (·.data)) ++
    (s.dev.stored.filter fun x => x.1 == w).map (·.2)

/-- One of the values stored to a word (R276, R314). (Log 31, DEDUCED.) -/
def State.anyValue (s : State) (w : Nat) : W64 × State :=
  let l := s.valuesOf w
  (listGet 0 l (Config.freeIndex s.fresh % l.length), { s with fresh := s.fresh + 1 })

/-- Whether the n bytes at a key touch a loose word. -/
def State.looseSpan (s : State) (cls : MemCls) (key n : Nat) : Bool := (wordsOf key n).any (s.looseWord cls)

/-- What a read of n bytes at a key returns where its plain value is x: a loose word any value stored to it. -/
def State.looseRead (s : State) (cls : MemCls) (key n x : Nat) : Nat × State :=
  if !s.looseSpan cls key n then (x, s)
  else
    (wordsOf key n).zipIdx.foldl (fun r w =>
      if !r.2.looseWord cls w.1 then r
      else
        let (y, s) := r.2.anyValue w.1
        (wordInto key n r.1 w.2 y, s)) (x, s)

/-- A store to a loose word is noted: what the word holds before, and with the store (R276, R314). -/
def State.noteStored (s : State) (w : Nat) (new : W64) (mask : BitVec 8) : State :=
  let old := w64 (s.dev.peek (8 * w) 8)
  let add (l : List (Nat × W64)) (x : W64) := if l.contains (w, x) then l else l ++ [(w, x)]
  { s with dev := { s.dev with stored := add (add s.dev.stored old) (mixBytes old new mask) } }

/-- A store of n bytes to loose words: each is noted, and in the memory of a bound region the store reaches the word or is lost, and
which one is not stated (R314). -/
def State.putLoose (s : State) (cls : MemCls) (key n x : Nat) : State :=
  (wordsOf key n).zipIdx.foldl (fun s w =>
    let mask := wordMask key n w.1
    let new := wordPart key x w.2
    let s := if s.looseWord cls w.1 then s.noteStored w.1 new mask else s
    let (good, s) := if s.dev.worldLine (8 * w.1) then s.drawBool else (true, s)
    if !good then s
    else
      let r := putWord s.dev.mem s.dev.poison w.1 new mask
      { s with dev := { s.dev with mem := r.1, poison := r.2 } }) s

/-- A store of n bytes of memory in a class. -/
def State.putMem (s : State) (cls : MemCls) (key n x : Nat) : State :=
  if s.looseSpan cls key n then s.putLoose cls key n x else { s with dev := s.dev.put key n x }

/-- A SELF store to words of which copies of another class exist is noted. -/
def State.noteSelf (s : State) (key n x : Nat) : State :=
  (wordsOf key n).zipIdx.foldl (fun s w =>
    if s.looseWord .self w.1 then s.noteStored w.1 (wordPart key x w.2) (wordMask key n w.1) else s) s

/-! ## Reads -/

/-- An item was sent by the context on a core: its stave and tag, and its logical core, which CTXSW may have changed for a context
that has a tag (R305, R412). -/
def NetItem.sentBy (x : NetItem) (c : Core) : Bool :=
  x.stave == c.stave && x.srcTag == c.ctl.ctxtag && (x.src == c.lcore || c.ctl.ctxtag != 0)

/-- A volatile access is performed after the core's earlier volatile accesses: it waits while volatile remote stores of the core
are in flight (R285). -/
def State.volReady (s : State) (vol : Bool) : Except Res State :=
  if vol && s.dev.net.any fun x => x.vol && x.sentBy s.me then
    .error (.wait .unack s)
  else .ok s

/-- MEMPOL's allocation code at the home for an UNC access: nal1 has the effect of norm (R279), and a host line is read and written
without allocating (R444). -/
def uncAlloc (key alloc : Nat) : Nat := if 2 ^ 38 ≤ key ∧ alloc < 2 then 2 else if alloc = 1 then 0 else alloc

/-- Read n bytes of memory of this device or of the host, in the class of its page (R276, R278, R285). -/
def State.readClass (s : State) (cls : MemCls) (va : W64) (key n : Nat) (vol : Bool) : Except Res (Nat × State) := do
  let line := key / 128
  let m := spanOf key n
  let sid := s.me.ctl.sid
  let alloc := s.me.alloc
  let llc := s.me.llcCode
  match cls with
  | .dir =>
    match firstPoison s.dev.poison key n with
    | some w => trapHere s .poison (poisonVa va key w)
    | none =>
      let keep := !vol && alloc == 0
      let slice := clusterOf s.here
      let s : State ← if !vol && (s.dev.dirLine line sid).holds s.here m then .ok s
        else if keep && (s.dev.dirLine line sid).holds (8192 + slice) m && s.dev.inSlice slice line then
          -- a pushed copy in the slice of the cluster serves the miss (R375)
          (if s.fits (maskBytes m) then .ok ((s.charge (maskBytes m)).serveSlice s.here sid line m) else .error (.wait .budget s))
        else (s.askHome line m (maskBytes m) false alloc).map fun s =>
          if keep then s.serveRead s.here sid line m else s.serveLoad s.here sid line m alloc llc
      return (s.markRead s.here line m).looseRead cls key n (s.dev.peek key n)
  | .self =>
    let s := if vol then s.selfOut (L1Word.within key n) else s
    match s.selfPoison key n with
    | some w => trapHere s .poison (poisonVa va key w)
    | none =>
      let miss := s.selfMiss key n
      let s : State ← if miss = 0 then .ok s
        else (s.askHome line miss (maskBytes miss) false alloc).map fun s => s.request sid line miss false alloc llc
      let (x, s) := s.selfLoad key n (!vol && alloc == 0)
      return s.looseRead cls key n x
  | .unc =>
    match firstPoison s.dev.poison key n with
    | some w => trapHere s .poison (poisonVa va key w)
    | none =>
      let s ← s.askHome line m n false (uncAlloc key alloc)
      return (s.request sid line m false (uncAlloc key alloc) llc).looseRead cls key n (s.dev.peek key n)

/-- What a member's read of n bytes x of a physical place returns: a host read is captured or replayed (R441). -/
def State.hostAnswer (s : State) (pa n x : Nat) : Except Res (Nat × State) :=
  match s.dev.paKind pa, s.me.member with
  | .host, some m =>
    match s.hostReads s.me.stave m.job s.me.lcore.toNat 3 pa n x with
    | .ok r => .ok r
    | .error s => .error (.wait .ended s)
  | _, _ => .ok (x, s)

/-- A load that sees the full bit of an own line which a copy has set joins the copy, an acquire (R276, R354). -/
def State.joinLocal (s : State) (off n : Nat) : State :=
  if (List.range ((off + n - 1) / 128 + 1 - off / 128)).any fun i => s.me.loc.landed.contains (off / 128 + i) then s.acquire else s

/-- A peer's answer of n bytes: its own check of the access may fail, or no trained port reach it (R453), which traps POISON; the bytes
are the peer's, a free value. (Log 34, DESIGN CHOICE.) -/
def State.peerAnswer (s : State) (va : W64) (n : Nat) : Except Res (Nat × State) :=
  let (good, s) := s.drawBool
  if !good || zeroAt s.dev.trcfg 9 7 then trapHere s .poison va
  else .ok (Config.outside 8 s.fresh % 256 ^ n, { s with fresh := s.fresh + 1 })

/-- Read n bytes at a place (R265, R266, R276, R280). vol: a volatile load, performed at the point of coherence (R285). -/
def State.readPlace (s : State) (pl : Place) (va : W64) (n : Nat) (vol : Bool) : Except Res (Nat × State) := do
  let s ← s.volReady vol
  match pl with
  | .own off =>
    if s.me.loc.empty.contains (off / 128) then .error (.wait .empty s)
    else
      match firstPoison s.me.loc.poison off n with
      | some w => trapHere s .poison (poisonVa va off w)
      | none => .ok (s.me.loc.bytes.readN off n, s.joinLocal off n)
  | .table off => .ok (s.me.tableRead off n, s)
  | .aperture c => if h : c < 4 then .ok ((s.me.chans[c]'h).word.toNat, s) else .ok (0, s)
  | .far l off =>
    if !s.me.granted va then
      let s ← s.askFar va n
      return (0, s)
    match s.stave.coreOf? l with
    | none => .error (.wait (.remote va s.me.answers) s)
    | some k =>
      let c := s.coreAt k
      if c.loc.empty.contains (off / 128) then .error (.wait (.remote va s.me.answers) s)
      else
        match firstPoison c.loc.poison off n with
        | some w => trapHere s .poison (poisonVa va off w)
        | none => .ok (c.loc.bytes.readN off n, s.ckLocal k (off / 128) false)
  | .phys pa key cls _ =>
    let s := s.ckGlobal key false
    match s.dev.paKind pa with
    | .peer _ =>
      if !s.me.granted va then
        let s ← s.askFar va n
        return (0, s)
      s.peerAnswer va n
    | .dram | .host => do
      let (x, s) ← s.readClass cls va key n vol
      s.hostAnswer pa n x

/-! ## Stores -/

/-- The context that a logical core number names: on its core, or what the device keeps of it while it is absent. -/
def State.contextOf (s : State) (n : BitVec 6) (l : Nat) : Core :=
  match (s.dev.stave n).coreOf? l with
  | some k => s.coreAt k
  | none => assocGet Core.reset l (s.dev.stave n).absent

/-- The tag of the context that a logical core number names (R404). -/
def State.tagOf (s : State) (n : BitVec 6) (l : Nat) : BitVec 32 := (s.contextOf n l).ctl.ctxtag

/-- Change a context of a stave: on its core, or what the device keeps of it while it is absent. -/
def State.onContext (s : State) (n : BitVec 6) (l : Nat) (f : Core → Core) : State :=
  match (s.dev.stave n).coreOf? l with
  | some k => s.onCore k f
  | none => s.onStave n fun t => { t with absent := t.absent.map fun x => if x.1 = l then (l, f x.2) else x }

/-- Put an item into the network. -/
def State.inject (s : State) (x : NetItem) : State :=
  { s with dev := { s.dev with net := s.dev.net ++ [{ x with order := s.dev.netOrder }], netOrder := s.dev.netOrder + 1 } }

/-- A remote store of the core in focus (R266). -/
def State.remoteItem (s : State) (l off n x : Nat) (peer : Bool) (vol : Bool := false) : NetItem :=
  { kind := .store, stave := s.me.stave, src := s.me.lcore, srcTag := s.me.ctl.ctxtag, dst := BitVec.ofNat 13 l,
    tag := if peer then 0 else s.tagOf s.me.stave l, stage := none, job := 0, stream := 0, slot := 0, off := off, size := n,
    data := BitVec.ofNat 512 x, cmd := none, peer := peer, vol := vol, inbox := false, refused := none, order := 0 }

/-- Send a remote store and count it in UNACK; at 65,535 it stalls (R266). -/
def State.remoteStore (s : State) (l off n x : Nat) (peer : Bool) (vol : Bool := false) : Except Res State :=
  if s.me.ctl.unack = 0xFFFF then .error (.wait .unack s)
  else if !s.fits n then .error (.wait .budget s)
  else
    let s := (s.charge n).inject (s.remoteItem l off n x peer vol)
    .ok { s with me.ctl.unack := s.me.ctl.unack + 1 }

/-- Whether the context of a logical core is in the domain of the protected superstep of the member in focus (R430). -/
def State.inDomain (s : State) (l : Nat) : Bool :=
  match s.me.member, s.job? with
  | some m, some j =>
    match j.ckpt? m, (s.contextOf s.me.stave l).member with
    | some d, some x => x.job == m.job && d.holds x
    | some _, none => false
    | none, _ => true
  | _, _ => true

/-- A store to the core's own local memory (R265, R280). -/
def Loc.store (l : Loc) (off n x : Nat) : Loc :=
  let r := putBytes l.bytes l.poison off n x
  { l with bytes := r.1, poison := r.2 }

/-- The core in focus gets write ownership of words of a DIR line for a store (R278). A push that fires as the ownership comes takes it
away again (R374), and the store asks once more. -/
def State.ownWords (s : State) (line : Nat) (m : BitVec 16) : State :=
  let sid := s.me.ctl.sid
  let s := s.serveWrite s.here sid line m
  if ownedBy s.here m (s.dev.dirLine line sid).segs then s else s.serveWrite s.here sid line m

/-- Whether a store of n bytes at a key is discarded by poison (R280). -/
def State.discards (s : State) (key n : Nat) : Bool := decide (n < 8) && s.dev.poison.contains (key / 8)

/-- A plain or volatile store of n bytes to a DIR line (R278, R279, R285, R371). counted: it adds to the line's store count, unless
poison discards it (R280, R369). -/
def State.storeDir (s : State) (key n x : Nat) (vol counted : Bool) : Except Res State := do
  let line := key / 128
  let m := spanOf key n
  let sid := s.me.ctl.sid
  let alloc := s.me.alloc
  let dl := s.dev.dirLine line sid
  let hit := dl.holds s.here m
  let s ←
    if vol then do
      let s ← s.hostLeft line m true
      let s ← s.askHome line m n true alloc
      pure ((s.serveHome sid line m alloc s.me.llcCode).barLine s.me.stave line)
    else if hit && ownedBy s.here m dl.segs then .ok { s with dev := s.dev.setDir { dl with segs := dirtySegs s.here m dl.segs } }
    else if hit || alloc == 0 then do
      let s ← s.hostLeft line m true
      let s ← s.askHome line m (maskBytes m) false 0
      pure (s.ownWords line m)
    else do
      let s ← s.hostLeft line m true
      let s ← s.askHome line m n true alloc
      let s := s.serveHome sid line m alloc s.me.llcCode
      pure (if alloc = 3 then s.barLine s.me.stave line else s)
  let writes := !s.discards key n
  let s := s.putMem .dir key n x
  return if counted && !vol && writes then s.countStore line else s

/-- A store of n bytes to SELF words: into the L1, a volatile one at the home (R276, R279, R285). -/
def State.storeSelf (s : State) (key n x : Nat) (vol : Bool) : Except Res State := do
  let line := key / 128
  let sid := s.me.ctl.sid
  let alloc := s.me.alloc
  if vol then
    let s := s.selfOut (L1Word.within key n)
    let s ← s.askHome line (spanOf key n) n true alloc
    return (s.request sid line (spanOf key n) true alloc s.me.llcCode).putMem .self key n x
  let miss := s.selfMiss key n
  let s ←
    if miss = 0 then .ok s
    else if alloc = 0 ∧ 8 ≤ n then .ok s
    else do
      let write := alloc != 0
      let s ← s.askHome line miss (if write then n else maskBytes miss) write alloc
      pure (s.request sid line miss write alloc s.me.llcCode)
  return (s.noteSelf key n x).selfStore key n x (alloc == 0)

/-- Write n bytes at a place (R265, R266, R276, R279, R280). vol: a volatile store (R285). counted: the store adds to the
line's store count (R369). -/
def State.writePlace (s : State) (pl : Place) (va : W64) (n x : Nat) (vol counted : Bool) : Except Res State := do
  let s ← s.volReady vol
  match pl with
  | .own off =>
    if s.me.loc.empty.contains (off / 128) then .error (.wait .empty s)
    else
      let s := s.ckLocal s.here (off / 128) true
      .ok { s with me.loc := s.me.loc.store off n x }
  | .table _ | .aperture _ => trapHere s .access va
  | .far l off =>
    let s := if s.inDomain l then s else s.irreversible
    s.remoteStore l off n x false vol
  | .phys pa key cls leaf =>
    let s := s.ckGlobal key true
    match s.dev.paKind pa with
    | .peer _ =>
      let s ← s.irreversible.remoteStore 0 pa n x true vol
      return s.markDirty leaf
    | .dram | .host =>
      let s := if vol || s.dev.paKind pa == .host then s.irreversible else s
      let s ← match cls with
        | .dir => s.storeDir key n x vol counted
        | .self => s.storeSelf key n x vol
        | .unc => do
          let alloc := uncAlloc key s.me.alloc
          let s ← s.askHome (key / 128) (spanOf key n) n true alloc
          pure ((s.request s.me.ctl.sid (key / 128) (spanOf key n) true alloc s.me.llcCode).putMem .unc key n x)
      return s.markDirty leaf

/-- The new value of an atomic is written where its place of performance is, in a class; none writes nothing (R289). -/
def State.atomicWrite (s : State) (cls : MemCls) (key n : Nat) (leaf : Option Nat) (new : Option Nat) : State :=
  match new with
  | none => s
  | some x => ((s.ckGlobal key true).putMem cls key n x).markDirty leaf

/-- Perform a read-modify-write of n bytes at a place, indivisibly; f gives the new value, or none when nothing is written
(R289). -/
def State.atomicPlace (s : State) (pl : Place) (va : W64) (n : Nat) (f : Nat → Option Nat) : Except Res (Nat × State) :=
  match pl with
  | .own off => do
    let (old, s) ← s.readPlace (.own off) va n false
    match f old with
    | none => .ok (old, s)
    | some x =>
      let s := s.ckLocal s.here (off / 128) true
      .ok (old, { s with me.loc := s.me.loc.store off n x })
  | .table _ | .aperture _ => trapHere s .access va
  | .far l off => do
    let (old, s) ← s.readPlace (.far l off) va n false
    match f old, s.stave.coreOf? l with
    | some x, some k =>
      let s := s.ckLocal k (off / 128) true
      let s := if s.inDomain l then s else s.irreversible
      .ok (old, s.onCore k fun c => { c with loc := c.loc.store off n x })
    | _, _ => .ok (old, s)
  | .phys pa key cls leaf => do
    let line := key / 128
    let m := spanOf key n
    let sid := s.me.ctl.sid
    match s.dev.paKind pa with
    | .peer _ =>
      let (old, s) ← s.irreversible.readPlace pl va n true
      match f old with
      | none => return (old, s)
      | some x => return (old, { s with dev := s.dev.put key n x }.markDirty leaf)
    | .dram | .host =>
      let s ← s.hostLeft line m (cls == .dir)
      let s ← s.askHome line m (2 * n) true 0
      let s := s.ckGlobal key false
      let s := if s.dev.paKind pa == .host then s.irreversible else s
      let s := match cls with
        | .dir => (s.serveHome sid line m).barLine s.me.stave line
        | .self => (s.selfOut (L1Word.within key n)).request sid line m true 0 0
        | .unc => s.request sid line m true 0 0
      match firstPoison s.dev.poison key n with
      | some w => trapHere s .poison (poisonVa va key w)
      | none =>
        let (old, s) := s.looseRead cls key n (s.dev.peek key n)
        let (old, s) ← s.hostAnswer pa n old
        return (old, s.atomicWrite cls key n leaf (f old))

/-! ## Accesses by address -/

/-- Load n bytes from an address, as LD does. -/
def State.load (s : State) (va : W64) (n : Nat) : Except Res (Nat × State) := do
  let (pl, s) ← s.place va n .read false
  s.readPlace pl va n false

/-- A release at cluster scope or wider (R276, R357): every dirty SELF byte is written through, and the release waits until
UNACK is 0. -/
def State.release (s : State) : Except Res State :=
  let s := s.selfRelease
  if s.me.ctl.unack ≠ 0 then .error (.wait .unack s) else .ok s

end Sys2Proof.Machine
end

