-- ==== Sys2Proof/Machine/Engine.lean ====
section
/-! DEFINITION. Accesses of engine operations (copies, BPREF, matrix commands, RHASH, moves): their checks, their reads and
writes, and the sync objects that they complete (R296, R301, R302, R306, R354, R462). The issuing core is in focus. -/

namespace Sys2Proof.Machine

/-- What the check of an engine's access comes to. -/
inductive EngAcc where
  | ok (pl : Place)
  /-- the check at a peer has failed: a read returns poisoned data, a store is discarded (R453) -/
  | denied
  /-- parked for fault service on a page, in a kind of access (R306) -/
  | parked (page : Nat × Nat)
  | refused
  /-- it cannot be made yet: the pending records are full, or the target core is absent -/
  | later
  deriving DecidableEq, Repr

/-- The context in focus as the issuer of an engine operation (R462). -/
def State.issuer (s : State) : Issuer := ⟨s.here, s.me.ctl.sid, s.me.ctl.mode, s.me.ctl.ptbase, s.me.member.map (·.job)⟩

/-- What stands for the core of a context that has ended while an operation that it forked goes on (R84). -/
def deadCore : Nat := 2 ^ 30

/-- Run an operation with an issuer's core in focus; a context that has ended leaves no core behind. -/
def State.asIssuer (s : State) (who : Issuer) (f : State → State) : State :=
  let t := s.at who.core f
  if who.core = deadCore then { t with others := assocErase deadCore t.others } else t

/-- The stave of an issuer. -/
def Issuer.stave (i : Issuer) : BitVec 6 := i.sid.extractLsb' 10 6

/-- An engine's access that finds no usable mapping (R306, R395, R399). -/
def State.engineFault (s : State) (who : Issuer) (va : W64) (kind : AccKind) (lv : Nat) (bad : Bool) : EngAcc × State :=
  let n := who.stave
  let sp := who.space
  if sp.ptbase.getLsbD 0 then
    if (s.dev.stave n).pri.any fun q => q.sid == sp.sid && q.vpn == vpnOf va then (.parked (vpnOf va, kind.code), s)
    else if (s.dev.stave n).pri.length ≥ 512 then (.later, s)
    else (.parked (vpnOf va, kind.code), s.onStave n fun t => { t with pri := t.pri ++ [⟨sp.sid, vpnOf va⟩] })
  else if !s.replayable sp then (.refused, s)
  else
    let r : FaultRec := ⟨sp.sid, vpnOf va, kind.code, va, lv, 1, (s.coreAt who.core).lcore, who.job.getD 0, true, bad, 0, 0, none, false⟩
    match s.enterFault n r who.job with
    | some s => (.parked (vpnOf va, kind.code), s)
    | none => (.later, s)

/-- Whether a request of n bytes fits a window of its own. -/
def Stave.fitsAlone (t : Stave) (chan : Bool) (n : Nat) : Bool := t.limit chan == 0 || decide (n + 16 ≤ t.limit chan)

/-- The request of an engine's access waits for its router's budget and for the slice (R115, R119). begun: a request of the same step
has been made already; then it takes the window after (log 22, DESIGN CHOICE). alloc: MEMPOL's code at the home. -/
def State.engineReady (s : State) (who : Issuer) (pl : Place) (n : Nat) (write : Bool) (alloc : Nat := 0) (begun : Bool := false) :
    EngAcc × State :=
  let t := s.dev.stave who.stave
  if !s.dev.fits t (clusterOf s.here) false n && !(begun && t.fitsAlone false n) then (.later, s)
  else
    match pl with
    | .phys pa key _ _ =>
      match s.dev.paKind pa with
      | .peer _ =>
        let (good, s) := s.drawBool
        if good && !zeroAt s.dev.trcfg 9 7 then (.ok pl, s) else (.denied, s)
      | .dram | .host =>
        match (s.noteHome who.sid (key / 128)).sliceReady who.sid (key / 128) (spanOf key n) write alloc with
        | .ok s => (.ok pl, s)
        | .error s => (if begun && t.fitsAlone true n && !s.dev.inLeavingWay (key / 128) then .ok pl else .later, s)
    | .own _ | .far _ _ | .table _ | .aperture _ => (.ok pl, s)

/-- The checks of an engine's access of n bytes at an address (R296, R281): translation, permission, ownership, windows. before: the
budgets at the beginning of its step. -/
def State.enginePlace (s : State) (who : Issuer) (va : W64) (kind : AccKind) (n : Nat := 1) (before : List (Nat × Nat) := s.dev.budget) :
    EngAcc × State :=
  let begun := s.dev.budget != before
  let top := field va 48 16
  let off := field va 0 18
  let v := who.stave
  if top < 0x100 then
    match s.translate who.space va.toNat kind.writes with
    | .miss lv bad s => s.engineFault who va kind lv bad
    | .hit t s =>
      let pa := t.pa va.toNat
      if !permitted t.pte who.mode kind || !s.dev.reachable who.mode v pa kind.writes then (.refused, s)
      else
        let cls := MemCls.ofPte t.pte
        let pl (cls : MemCls) : Place := .phys pa (s.dev.key pa) cls (t.toMark who.space kind.writes)
        match s.dev.paKind pa with
        | .dram => s.engineReady who (pl cls) n kind.writes 0 begun
        | .host =>
          let s := if cls = .unc then (hostLines pa n).foldl State.hostPass s else s.bring pa n kind.writes
          s.engineReady who (pl cls) n kind.writes (if cls = .unc then uncAlloc (s.dev.key pa) 0 else 0) begun
        | .peer _ => s.engineReady who (pl .unc) n kind.writes 0 begun
  else if top = 0xFFFF then
    (if zeroAt va 18 30 && decide (off < 0x30000) && who.core != deadCore then .ok (.own off) else .refused, s)
  else if top = 0xFFFE then
    let l := field va 18 13
    if !zeroAt va 31 17 || !(s.dev.stave v).valid l || decide (0x30000 ≤ off) then (.refused, s)
    else if who.core ≠ deadCore ∧ l = (s.coreAt who.core).lcore.toNat then (.ok (.own off), s)
    else if ((s.dev.stave v).coreOf? l).isSome then s.engineReady who (.far l off) n kind.writes 0 begun
    else (.later, s)
  else (.refused, s)

/-- The local memory that a window place names. (Log 68, DEDUCED.) -/
def State.localOf (s : State) (who : Issuer) : Place → Option Nat
  | .own _ => some who.core
  | .far l _ => (s.dev.stave who.stave).coreOf? l
  | .aperture _ | .table _ | .phys _ _ _ _ => none

/-- The offset or key at which a place's bytes start, and where they are held. -/
def Place.start : Place → Nat
  | .own off | .far _ off | .table off => off
  | .aperture _ => 0
  | .phys _ key _ _ => key

/-- The class in which a place is accessed. -/
def Place.cls : Place → MemCls
  | .phys _ _ cls _ => cls
  | .own _ | .far _ _ | .table _ | .aperture _ => .unc

/-- The leaf in which a store to a place sets d (R270). -/
def Place.leaf : Place → Option Nat
  | .phys _ _ _ leaf => leaf
  | .own _ | .far _ _ | .table _ | .aperture _ => none

/-- Charge an engine's request to the router of the core in focus; one to its own local memory is none (R115). -/
def State.engineCharge (s : State) (who : Issuer) (pl : Place) (n : Nat) : State :=
  match pl with
  | .own _ => s
  | .far _ _ | .table _ | .aperture _ | .phys _ _ _ _ =>
    { s with dev := s.dev.charge (s.dev.stave who.stave) (clusterOf s.here) false n }

/-- Poisoned words among n bytes from a start. -/
def poisonIn (poison : List Nat) (a n : Nat) : List Nat := poison.filter fun w => decide (a / 8 ≤ w ∧ w ≤ (a + n - 1) / 8)

/-- Bytes and poisoned words of a place, full or empty (R296). -/
def State.engineRead (s : State) (who : Issuer) (pl : Place) (n : Nat) : Nat × List Nat × State :=
  let s := s.engineCharge who pl n
  match s.localOf who pl, pl with
  | some k, _ =>
    let c := s.coreAt k
    (c.loc.bytes.readN pl.start n, poisonIn c.loc.poison pl.start n, s.ckLocal k (pl.start / 128) false)
  | none, .phys pa key cls _ =>
    let s := s.ckGlobal key false
    let bad := poisonIn s.dev.poison key n
    match s.dev.paKind pa with
    | .peer _ => (Config.outside 8 s.fresh % 256 ^ n, [], { s with fresh := s.fresh + 1 })
    | .dram =>
      let s := s.request who.sid (key / 128) (spanOf key n) false 0 0
      let (x, s) := s.looseRead cls key n (s.dev.peek key n)
      (x, bad, s)
    | .host =>
      let s := s.request who.sid (key / 128) (spanOf key n) false (if cls = .unc then uncAlloc key 0 else 0) 0
      let (x, s) := s.looseRead cls key n (s.dev.peek key n)
      match (s.coreAt who.core).member with
      | none => (x, bad, s)
      | some m =>
        match s.hostReads who.stave m.job (s.coreAt who.core).lcore.toNat 4 pa n x with
        | .ok r => (r.1, bad, r.2)
        | .error s => (x, bad, s)
  | none, .own _ | none, .far _ _ | none, .table _ | none, .aperture _ => (0, [], s)

/-- Write bytes at a place: local memory as it stands, a translated destination at its home, whose words every L1 drops (R296, R371). -/
def State.engineWrite (s : State) (who : Issuer) (pl : Place) (n x : Nat) : State :=
  let s := s.engineCharge who pl n
  match s.localOf who pl with
  | some k =>
    let s := s.ckLocal k (pl.start / 128) true
    s.onCore k fun c =>
      let r := putSpan c.loc.bytes c.loc.poison pl.start n x
      { c with loc := { c.loc with bytes := r.1, poison := r.2 } }
  | none =>
    let key := pl.start
    let s := s.ckGlobal key true
    -- a peer's line has its home there (R452)
    let s := if 2 ^ 52 ≤ key then s
      else ((s.serveHome who.sid (key / 128) (spanOf key n) (if pl.cls = .unc then uncAlloc key 0 else 0)).barLine who.stave (key / 128)).selfOutAll (L1Word.within key n)
    let s :=
      if s.looseSpan pl.cls key n then s.putLoose pl.cls key n x
      else
        let r := putSpan s.dev.mem s.dev.poison key n x
        { s with dev := { s.dev with mem := r.1, poison := r.2 } }
    s.markDirty pl.leaf

/-- Poison a word of a place. -/
def State.enginePoison (s : State) (who : Issuer) (pl : Place) (word : Nat) : State :=
  match s.localOf who pl with
  | some k => s.onCore k fun c => { c with loc := { c.loc with poison := insertNat word c.loc.poison } }
  | none => { s with dev := { s.dev with poison := insertNat word s.dev.poison } }

/-! ## Contexts of issuers -/

/-- The number that stands for a context which CTXSW has saved, among issuers of engine operations: its area's. -/
def savedIssuer (base : Nat) : Nat := 32768 + base / 2 ^ 16

/-- Change the context of an issuer, on its core or as the device keeps it; one that has ended is no more. -/
def State.onIssuer (s : State) (who : Issuer) (f : Core → Core) : State :=
  let there (n : Nat) (x : Nat × Core) : Nat × Core := if x.1 = n then (x.1, f x.2) else x
  if who.core = deadCore then s
  else if who.core < 16384 then s.onCore who.core f
  else s.onStave who.stave fun t =>
    if who.core < 32768 then { t with absent := t.absent.map (there (who.core - 16384)) }
    else { t with saved := t.saved.map (there ((who.core - 32768) * 2 ^ 16)) }

/-! ## Sync objects (R301, R302, R462) -/

/-- An object after a status and an addition: a nonzero status is written only over 0 (R301, R302), but that of a whole
operation always (R121, R259). (Log 48, DEDUCED.) -/
def syncWord (x bytes status : Nat) (set : Bool) : Nat :=
  let target := x % 2 ^ 32
  let count := (x / 2 ^ 32 + bytes) % 2 ^ 32
  let gen := x / 2 ^ 64 % 2 ^ 32
  let st := x / 2 ^ 96 % 2 ^ 32
  let st := if set || st == 0 then status else st
  let (count, gen) :=
    if bytes ≠ 0 ∧ target ≠ 0 ∧ target ≤ count then (count - target, (gen + 1) % 2 ^ 32) else (count, gen)
  target + 2 ^ 32 * count + 2 ^ 64 * gen + 2 ^ 96 * st

/-- Whether a window place lies in an empty line, which an addition's atomic waits for (R265). -/
def State.placeEmpty (s : State) (who : Issuer) (pl : Place) : Bool :=
  (s.localOf who pl).any fun k => (s.coreAt k).loc.empty.contains (pl.start / 128)

/-- Make an addition to a sync object: its status, then its bytes (R302). An object without a usable mapping parks the write; one in
an empty line waits; any other failure drops it (R462). -/
def State.syncPut (s : State) (x : SyncAdd) : State :=
  let hold (s : State) (parked : Bool) : State := { s with dev := { s.dev with syncs := s.dev.syncs ++ [{ x with parked := parked }] } }
  if 16384 ≤ x.who.core ∧ x.who.core ≠ deadCore then hold s false
  else s.asIssuer x.who fun s =>
    match s.enginePlace x.who x.addr .atomic 16 with
    | (.ok pl, s) =>
      if s.placeEmpty x.who pl then hold s false
      else
        let (y, bad, s) := s.engineRead x.who pl 16
        if bad.isEmpty then s.engineWrite x.who pl 16 (syncWord y x.bytes x.status x.set) else s
    | (.refused, s) | (.denied, s) => s
    | (.parked _, s) => hold s true
    | (.later, s) => hold s false

/-- Write a status and add bytes to a sync object, for an operation of a context. -/
def State.syncWrite (s : State) (who : Issuer) (addr : W64) (bytes status : Nat) (set : Bool) : State :=
  s.syncPut ⟨who, addr, bytes, status, set, false⟩

/-- Add bytes to a sync object, with a status before it. -/
def State.syncAdd (s : State) (who : Issuer) (addr : W64) (bytes status : Nat) : State := s.syncWrite who addr bytes status false

/-- A whole operation has completed: its status, then its one unit (R121, R259); address 0 names no object. -/
def State.completeOp (s : State) (who : Issuer) (addr : W64) (status : Nat) : State :=
  if addr = 0 then s else s.syncWrite who addr 1 status true

/-- Try again the additions that a test selects. -/
def State.retrySyncs (s : State) (p : SyncAdd → Bool) : State :=
  let xs := s.dev.syncs.filter p
  let s := { s with dev := { s.dev with syncs := s.dev.syncs.filter fun x => !p x } }
  xs.foldl State.syncPut s

end Sys2Proof.Machine
end

