-- ==== Sys2Proof/Machine/Image.lean ====
section
/-! DEFINITION. The register image (R22, R23): the register files as 2,048 words of 64 bits. -/

namespace Sys2Proof.Machine

/-- Word i of the register image (Table 3 of 01). -/
def Regs.word (r : Regs) (i : Nat) : W64 :=
  if i = 0 then 0
  else if i < 64 then vget 0 r.g i
  else if i < 512 then (vget 0 r.v ((i - 64) / 8)).extractLsb' (64 * (i % 8)) 64
  else if i = 512 then -1
  else if i < 520 then vget 0 r.p (i - 512)
  else if i < 523 then vget 0 r.lc (i - 520)
  else if i = 524 ∨ i = 525 then
    (List.range 4).foldl (fun x k => x + w64 (2 ^ (16 * k) * (vget 0 r.zver (4 * (i - 524) + k)).toNat)) 0
  else if 1024 ≤ i ∧ i < 2048 then
    let z := vget (.replicate 256 0) r.z ((i - 1024) / 128)
    let e := 2 * (i % 128)
    vget 0 z (e + 1) ++ vget 0 z e
  else 0

/-- Replace word i of the register image; the slots of g0 and p0 and the reserved words are ignored. -/
def Regs.setWord (r : Regs) (i : Nat) (x : W64) : Regs :=
  if i = 0 ∨ i = 512 then r
  else if i < 64 then { r with g := vset r.g i x }
  else if i < 512 then
    let n := (i - 64) / 8
    { r with v := vset r.v n (withField (vget 0 r.v n) (64 * (i % 8)) 64 x.toNat) }
  else if i < 520 then { r with p := vset r.p (i - 512) x }
  else if i < 523 then { r with lc := vset r.lc (i - 520) x }
  else if i = 524 ∨ i = 525 then
    (List.range 4).foldl (fun (r : Regs) k =>
      { r with zver := vset r.zver (4 * (i - 524) + k) (x.extractLsb' (16 * k) 16) }) r
  else if 1024 ≤ i ∧ i < 2048 then
    let n := (i - 1024) / 128
    let z := vget (.replicate 256 0) r.z n
    let e := 2 * (i % 128)
    { r with z := vset r.z n (vset (vset z e (x.extractLsb' 0 32)) (e + 1) (x.extractLsb' 32 32)) }
  else r

/-- The register image's first byte of the context in focus, as a key (R401). -/
def Core.imageAt (c : Core) : Nat := c.ctl.regbase.toNat % 2 ^ 43

/-- A store of n bytes into the own register image (R23): either each register keeps its value or it takes the stored one,
a free choice (log 11, DESIGN CHOICE). -/
def State.imageStore (s : State) (key n x : Nat) : State :=
  let base := s.me.imageAt
  if base = 0 ∨ key < base ∨ base + 0x4000 ≤ key then s
  else
    let (take, s) := s.drawBool
    if !take then s
    else
      (List.range ((n + 7) / 8)).foldl (fun s k =>
        let i := (key - base) / 8 + k
        let old := s.me.regs.word i
        let new := if n < 8 then withField old (8 * (key % 8)) (8 * n) x else w64 (x / 2 ^ (64 * k))
        { s with me := { s.me with regs := s.me.regs.setWord i new } }) s

end Sys2Proof.Machine
end

