-- ==== Sys2Proof/Machine/Pair.lean ====
section
/-! DEFINITION. Stores and atomics of an instruction at a place: the operations that a checked pair compares (R416), and
stores into the own register image (R23). -/

namespace Sys2Proof.Machine

/-- Kinds of compared operations (R416). -/
inductive PairKind where
  | store | atomic | send | sendv | sendEos | aperture
  deriving DecidableEq, Repr

/-- Codes of the kinds; an atomic's function is added to its code, so that different atomics are different kinds. -/
def PairKind.code : PairKind → Nat
  | .store => 0 | .atomic => 16 | .send => 2 | .sendv => 3 | .sendEos => 4 | .aperture => 5

/-- Two operations compare equal: kind, address, size and data. -/
def PairOp.same (x y : PairOp) : Bool := x.kind == y.kind && x.addr == y.addr && x.size == y.size && x.data == y.data

/-- The core in focus is member 1 of a checked pair: its operations are compared and not performed. -/
def State.shadowed (s : State) : Bool := s.me.pair.isSome && s.me.member.any fun m => m.member % 2 == 1

/-- The comparison fails: both cores have a PAIR_MISMATCH pending with the address of member 0's operation, and the pair
dissolves (R416). -/
def State.pairFail (s : State) (k : Nat) (addr : W64) : State :=
  let part (c : Core) : Core := { c with pair := none, pairOps := [], async := some addr }
  { s.onCore k part with me := part s.me }

/-- An operation of a paired core meets the other's oldest one, or waits for it; 1,024 that wait are a mismatch (R416). -/
def State.pairNote (s : State) (x : PairOp) : State :=
  match s.me.pair with
  | none => s
  | some k =>
    match (s.coreAt k).pairOps with
    | y :: t =>
      if x.same y then s.onCore k fun c => { c with pairOps := t }
      else s.pairFail k (if s.shadowed then y.addr else x.addr)
    | [] =>
      if s.me.pairOps.length ≥ 1023 then s.pairFail k ((s.me.pairOps ++ [x]).headD x).addr
      else { s with me := { s.me with pairOps := s.me.pairOps ++ [x] } }

/-- An operation without a result: member 1 only compares it. -/
def State.paired (s : State) (kind : PairKind) (va : W64) (n x : Nat) (f : State → Except Res State) : Except Res State :=
  if s.me.pair.isNone then f s
  else
    let op : PairOp := ⟨kind.code, va, n, x % 256 ^ n, 0⟩
    if s.shadowed then .ok (s.pairNote op)
    else do
      let s ← f s
      return s.pairNote op

/-- An operation with a result: member 1, which does not perform it, waits for member 0's and receives its result. op: the operation with
a result. -/
def State.pairedResult (s : State) (op : W64 → PairOp) (take : W64 → State → State) (f : State → Except Res (W64 × State)) : Except Res State :=
  if s.shadowed then
    match s.me.pair.map fun k => (s.coreAt k).pairOps with
    | some (y :: _) => .ok (take y.result (s.pairNote (op 0)))
    | _ => .error (.wait .pair s)
  else do
    let (r, s) ← f s
    return if s.me.pair.isSome then s.pairNote (op r) else s

/-- A store of an instruction at a place. -/
def State.storeAt (s : State) (pl : Place) (va : W64) (n x : Nat) (vol counted : Bool) : Except Res State :=
  match pl with
  | .own _ => s.writePlace pl va n x vol counted
  | .phys _ key _ _ => s.paired .store va n x fun s => do
      let s ← s.writePlace pl va n x vol counted
      return s.imageStore key n x
  | .table _ | .aperture _ | .far _ _ => s.paired .store va n x fun s => s.writePlace pl va n x vol counted

/-- A store to an address. -/
def State.storeTo (s : State) (va : W64) (n x : Nat) (counted : Bool := true) : Except Res State := do
  let (pl, s) ← s.place va n .write false
  s.storeAt pl va n x false counted

/-- A read-modify-write of an instruction at a place: member 1 of a checked pair receives member 0's result (R416). fn: which atomic it
is, and data: its operands, which are compared. -/
def State.atomicAt (s : State) (pl : Place) (va : W64) (n fn data : Nat) (f : Nat → Option Nat) : Except Res (Nat × State) :=
  let op (r : Nat) : PairOp := ⟨PairKind.atomic.code + fn, va, n, data, w64 r⟩
  if s.shadowed then
    match s.me.pair.map fun k => ((s.coreAt k).pairOps, k) with
    | some (y :: _, _) => .ok (y.result.toNat, s.pairNote (op 0))
    | _ => .error (.wait .pair s)
  else do
    let (old, s) ← s.atomicPlace pl va n f
    let s := match pl, f old with
      | .phys _ key _ _, some x => s.imageStore key n x
      | _, _ => s
    return (old, if s.me.pair.isSome then s.pairNote (op old) else s)

end Sys2Proof.Machine
end

