-- ==== Sys2Proof/WellFormed.lean ====
section
/-! DEFINITION. Which instructions are well-formed: the operand combinations that raise ILLEGAL are not (R18, R35). -/

namespace Sys2Proof

/-- Floating-point element types (R205). -/
def ElemTy.isFloat : ElemTy → Bool
  | .f32 | .f64 | .f16 | .bf16 => true
  | .i8 | .i16 | .i32 | .i64 => false

/-- Element width in bits (Table 4 of 01). -/
def ElemTy.bits : ElemTy → Nat
  | .f32 | .i32 => 32
  | .f64 | .i64 => 64
  | .f16 | .bf16 | .i16 => 16
  | .i8 => 8

/-- Lanes per 512 bits (Table 4 of 01). -/
def ElemTy.lanes (t : ElemTy) : Nat := 512 / t.bits

/-- Codes 0 to 55 name vector registers; 56 to 63 are stream queues and no destination (R18, R21). -/
def isVec (r : Reg) : Bool := decide (r.toNat < 56)

/-- The conditions each VCMP type accepts (Table 5 of 09). -/
def VCond.accepts : VCond → ElemTy → Bool
  | .eq, _ | .ne, _ | .lt, _ | .le, _ => true
  | .ltc, t | .lec, t => !t.isFloat
  | .un, t => t.isFloat

/-- The types each reduction accepts (Table 7 of 09). -/
def RedOp.accepts : RedOp → ElemTy → Bool
  | .minc, t | .maxc, t => !t.isFloat
  | .add, _ | .min, _ | .max, _ | .and, _ | .or, _ | .xor, _ => true

/-- The VCVT combinations that do not raise ILLEGAL (R218). -/
def cvtOk (part : BitVec 2) (c : Bool) (src dst : ElemTy) : Bool :=
  let big := max src.lanes dst.lanes
  let small := min src.lanes dst.lanes
  let ratio := big / small
  src != dst && ratio != 8 && decide (part.toNat < ratio) && !(c && src.isFloat && dst.isFloat)

/-- A word with k = 0 and a nonzero ev raises ILLEGAL (R237). -/
def versionOk (ev : BitVec 4) (k : Bool) : Bool := k || ev == 0

/-- The control register numbers of Table 6 of 19 (R406). -/
def isControlReg (num : BitVec 12) : Bool :=
  let n := num.toNat
  decide (n ≤ 5 ∨ (8 ≤ n ∧ n ≤ 0xC) ∨ (0x10 ≤ n ∧ n ≤ 0x1A) ∨ (0x1C ≤ n ∧ n ≤ 0x20) ∨ n = 0x30 ∨ n = 0x31 ∨
    (0x40 ≤ n ∧ n ≤ 0x42) ∨ (0x50 ≤ n ∧ n ≤ 0x56) ∨ (0x58 ≤ n ∧ n ≤ 0x70))

/-- Well-formed instructions. A step of the device without an encoding is always well-formed. -/
def Instr.wf : Instr → Bool
  | .add _ _ _ => true
  | .sub _ _ _ => true
  | .and _ _ _ => true
  | .or _ _ _ => true
  | .xor _ _ _ => true
  | .andn _ _ _ => true
  | .shl _ _ _ => true
  | .shr _ _ _ => true
  | .sar _ _ _ => true
  | .ror _ _ _ => true
  | .slt _ _ _ => true
  | .sltc _ _ _ => true
  | .min _ _ _ => true
  | .max _ _ _ => true
  | .minc _ _ _ => true
  | .maxc _ _ _ => true
  | .mul _ _ _ => true
  | .mulh _ _ _ => true
  | .mulhc _ _ _ => true
  | .mulhsc _ _ _ => true
  | .div _ _ _ => true
  | .divc _ _ _ => true
  | .rem _ _ _ => true
  | .remc _ _ _ => true
  | .addi _ _ _ => true
  | .andi _ _ _ => true
  | .ori _ _ _ => true
  | .xori _ _ _ => true
  | .slti _ _ _ => true
  | .sltci _ _ _ => true
  | .muli _ _ _ => true
  | .shli _ _ _ => true
  | .shri _ _ _ => true
  | .sari _ _ _ => true
  | .rori _ _ _ => true
  | .bext _ _ _ _ => true
  | .bexts _ _ _ _ => true
  | .bins _ _ _ _ => true
  | .lea _ _ _ _ => true
  | .laddr _ _ _ => true
  | .laddrLen _ _ => true
  | .clz _ _ => true
  | .ctz _ _ => true
  | .popc _ _ => true
  | .brev _ _ => true
  | .bswap _ _ => true
  | .sextb _ _ => true
  | .sexth _ _ => true
  | .sextw _ _ => true
  | .zexth _ _ => true
  | .zextw _ _ => true
  | .sel _ _ _ _ => true
  | .selz _ _ _ _ => true
  | .beq _ _ _ => true
  | .bne _ _ _ => true
  | .blt _ _ _ => true
  | .bge _ _ _ => true
  | .bltc _ _ _ => true
  | .bgec _ _ _ => true
  | .j _ => true
  | .jal _ => true
  | .jalr d _ _ => d != 0
  | .jr _ _ => true
  | .loop _ lc len => lc != 3 && decide (1 ≤ len.toNat ∧ len.toNat ≤ 256)
  | .repv _ _ _ _ _ => true
  | .follow _ => true
  | .gang _ => true
  | .unfollow => true
  | .disband => true
  | .brk _ => true
  | .ld _ _ size sx _ => !(size == .d && sx)
  | .ldvol _ _ size sx _ => !(size == .d && sx)
  | .st _ _ _ _ => true
  | .stvol _ _ _ _ => true
  | .ldv d _ _ => isVec d
  | .stv _ _ _ => true
  | .gath d _ _ _ _ => isVec d
  | .scat _ _ _ _ _ => true
  | .pref _ => true
  | .prefX _ => true
  | .prefL2 _ => true
  | .bpref _ _ _ => true
  | .clean _ => true
  | .cleanP _ => true
  | .cinv _ => true
  | .ldAcq _ _ _ => true
  | .stRel _ _ _ => true
  | .atswap _ _ _ _ _ => true
  | .atadd _ _ _ _ _ => true
  | .atand _ _ _ _ _ => true
  | .ator _ _ _ _ _ => true
  | .atxor _ _ _ _ _ => true
  | .atmin _ _ _ _ _ => true
  | .atmax _ _ _ _ _ => true
  | .atminc _ _ _ _ _ => true
  | .atmaxc _ _ _ _ _ => true
  | .cas _ _ _ _ _ => true
  | .fence _ => true
  | .fenceSc _ => true
  | .mwait _ _ _ => true
  | .bar _ _ _ => true
  | .send _ _ => true
  | .sendv _ _ => true
  | .sendEos _ => true
  | .stbind _ _ _ => true
  | .stdrop _ _ _ => true
  | .waiteos _ _ _ => true
  | .xtpl _ _ _ => true
  | .swinit _ _ _ => true
  | .swait _ _ _ => true
  | .fesetE _ _ => true
  | .fesetF _ _ => true
  | .wreg _ _ _ => true
  | .wst src _ _ => decide (src.toNat ≤ 27)
  | .whzn _ _ _ => true
  | .wretain _ _ _ => true
  | .wseed _ => true
  | .wstat _ _ => true
  | .wld d _ _ _ => decide (d.toNat ≤ 27)
  | .wldT d _ _ _ => decide (d.toNat ≤ 27)
  | .patrec _ _ => true
  | .patplay _ _ => true
  | .patoff _ _ => true
  | .patstat _ _ => true
  | .patdrop _ _ => true
  | .quant d _ _ _ _ ty => isVec d && (ty == .f32 || ty == .f16 || ty == .bf16)
  | .dquant d _ _ _ _ ty => isVec d && (ty == .f32 || ty == .f16 || ty == .bf16)
  | .vadd d _ _ _ _ _ => isVec d
  | .vsub d _ _ _ _ _ => isVec d
  | .vmul d _ _ _ _ _ => isVec d
  | .vfma d _ _ _ _ _ => isVec d
  | .vfnma d _ _ _ _ _ => isVec d
  | .vdiv d _ _ _ ty _ => isVec d && ty.isFloat
  | .vmin d _ _ _ _ _ => isVec d
  | .vmax d _ _ _ _ _ => isVec d
  | .vcpys d _ _ _ ty _ => isVec d && ty.isFloat
  | .vabs d _ _ _ _ => isVec d
  | .vneg d _ _ _ _ => isVec d
  | .vnot d _ _ _ _ => isVec d
  | .vsqrt d _ _ ty _ => isVec d && ty.isFloat
  | .vrcp d _ _ ty _ => isVec d && ty.isFloat
  | .vrsq d _ _ ty _ => isVec d && ty.isFloat && ty != .f64
  | .vexp2 d _ _ ty _ => isVec d && ty.isFloat && ty != .f64
  | .vlog2 d _ _ ty _ => isVec d && ty.isFloat && ty != .f64
  | .vsinpi d _ _ ty _ => isVec d && ty.isFloat && ty != .f64
  | .vcospi d _ _ ty _ => isVec d && ty.isFloat && ty != .f64
  | .vtanh d _ _ ty _ => isVec d && ty.isFloat && ty != .f64
  | .vand d _ _ _ _ _ => isVec d
  | .vor d _ _ _ _ _ => isVec d
  | .vxor d _ _ _ _ _ => isVec d
  | .vshl d _ _ _ ty _ => isVec d && !ty.isFloat
  | .vshr d _ _ _ ty _ => isVec d && !ty.isFloat
  | .vsar d _ _ _ ty _ => isVec d && !ty.isFloat
  | .vcmp cond _ _ _ _ ty _ => cond.accepts ty
  | .vsel d _ _ _ _ _ => isVec d
  | .vcvt d _ part c src _ ty _ => isVec d && cvtOk part c src ty
  | .vbcast d _ _ _ _ => isVec d
  | .vins d _ _ _ _ => isVec d
  | .vext _ _ _ z ty => !(z && ty.isFloat)
  | .vperm d _ _ _ _ _ => isVec d
  | .vslide d _ _ _ _ _ => isVec d
  | .vred d _ op _ ty _ => isVec d && op.accepts ty
  | .vscan d _ op _ ty _ => isVec d && op.accepts ty
  | .vcxs d _ _ _ _ _ => decide (d.toNat < 55)
  | .vcompr d _ _ _ _ => isVec d
  | .vexpnd d _ _ _ _ => isVec d
  | .vlut d a _ _ _ => isVec d && isVec a && d != a
  | .vdot d _ _ _ ty _ => isVec d && (ty == .f32 || ty == .f16 || ty == .bf16 || ty == .i8 || ty == .i16)
  | .pset _ _ => true
  | .pand _ _ _ => true
  | .por _ _ _ => true
  | .pxor _ _ _ => true
  | .pnot _ _ => true
  | .pcnt _ _ => true
  | .pfirst _ _ => true
  | .zclr _ ev k => versionOk ev k
  | .zld _ ev k _ _ => versionOk ev k
  | .zst _ ev k _ _ => versionOk ev k
  | .zver _ ev k _ => versionOk ev k
  | .mma _ ev k _ _ _ _ => versionOk ev k
  | .sclacc z ev k part _ _ => versionOk ev k && part != z
  | .outlacc _ ev k _ _ _ => versionOk ev k
  | .mcmd _ _ _ => true
  | .mcmdT _ _ _ => true
  | .capgrant _ _ _ => true
  | .capdrop _ => true
  | .zwaitv _ _ => true
  | .trap _ => true
  | .tret => true
  | .idle _ => true
  | .done => true
  | .crd _ num => isControlReg num
  | .cwr _ num => isControlReg num
  | .tlbinv _ _ _ => true
  | .ctxsw _ _ _ => true
  | .freplay _ _ _ => true
  | .fkill _ _ _ => true
  | .fqack _ _ => true
  | .cpair _ => true
  | .unpair _ => true
  | .launch _ _ => true
  | .stvgrow _ _ _ => true
  | .stvshrink _ _ _ => true
  | .stvmap _ _ _ => true
  | .rhashBegin _ _ _ => true
  | .rhashCommit _ _ => true
  | .migrate _ _ _ => true
  | .quar _ _ _ => true
  | .hintWide _ => true
  | .hintMempol llc _ => llc != 3
  | .hintRound _ => true
  | .hintSched _ _ => true
  | .fqbaseWrite _ _ => true
  | .rbdataRead _ => true
  | .interrupt _ => true
  | .priResponse _ _ _ => true
  | .atsInvalidation _ _ _ => true
  | .readRequest _ _ _ _ => true
  | .writeRequest _ _ _ _ => true
  | .nonAllocatingRequest _ _ _ _ _ => true
  | .lineHandover _ _ => true
  | .remoteStorePerform _ => true
  | .remoteStoreAck _ => true
  | .copySector _ _ _ => true
  | .bprefLine _ _ => true
  | .matrixCommandArrival _ => true
  | .matrixCommandRun _ => true
  | .messageArrival _ => true
  | .endOfStreamArrival _ => true
  | .pushDelivery _ => true
  | .worldStall _ => true
  | .jobCompletion _ _ => true
  | .fillSample _ => true
  | .placementWindowEnd _ => true
  | .placementRequest _ _ => true
  | .backoffExpiry _ _ => true
  | .compaction _ _ => true
  | .aging _ _ => true
  | .preemptionDecision _ _ => true
  | .instanceRemoval _ _ _ _ => true
  | .preEmption _ => true
  | .resumption _ _ => true
  | .inboxDiversion _ => true
  | .migration _ _ => true
  | .clusterDrained _ => true
  | .scrubComplete _ _ => true
  | .bandwidthWindow => true
  | .rollback _ => true
  | .errorDetected _ _ _ _ => true
  | .directoryRebuild _ => true
  | .hostSnoop _ => true
  | .hostMemRequest _ _ _ => true
  | .hostPoisonResponse _ => true
  | .peerAccess _ _ _ _ => true
  | .functionLevelReset _ => true
  | .linkTraining _ _ => true
  | .boot => true
  | .getMeasurements _ => true
  | .powerCapSet _ => true
  | .thermalThrottle _ => true
  | .thermalShutdown _ => true
  | .telemetryUpdate => true
  | .idleTimeout _ => true
  | .illegalWord _ => true
  | .remoteAccess _ => true
  | .savebaseWrite _ _ => true
  | .thermalThrottleRelease => true
  | .hostDataResponse _ => true
  | .atsTranslationCompletion _ _ _ => true
  | .powerGating _ => true

end Sys2Proof
end

