-- ==== Sys2Proof/Decode.lean ====
section
/-! DEFINITION. Decoding an instruction word, total and rejecting by name, and the encoder written from the same
encoding tables of the spec. A word decodes to an instruction when its fields name one, that instruction is well-formed,
and the word is that instruction's encoding, so that every reserved field is zero (R17, R35, R38). -/

namespace Sys2Proof

/-! Codes of the named operand sets. -/

/-- R24, Table 4 of 01. -/
def ElemTy.code : ElemTy → BitVec 3
  | .f32 => 0 | .f64 => 1 | .f16 => 2 | .bf16 => 3 | .i8 => 4 | .i16 => 5 | .i32 => 6 | .i64 => 7

/-- R24. Every code names a type. -/
def ElemTy.ofCode (c : BitVec 3) : ElemTy :=
  match c.toNat with
  | 0 => .f32 | 1 => .f64 | 2 => .f16 | 3 => .bf16 | 4 => .i8 | 5 => .i16 | 6 => .i32 | _ => .i64

/-- R16. -/
def MemSize.code : MemSize → BitVec 2
  | .b => 0 | .h => 1 | .w => 2 | .d => 3

/-- R16. -/
def MemSize.ofCode (c : BitVec 2) : MemSize :=
  match c.toNat with
  | 0 => .b | 1 => .h | 2 => .w | _ => .d

/-- R188. -/
def RMode.code : RMode → BitVec 2
  | .rne => 0 | .rtz => 1 | .rup => 2 | .rdn => 3

/-- R188. -/
def RMode.ofCode (c : BitVec 2) : RMode :=
  match c.toNat with
  | 0 => .rne | 1 => .rtz | 2 => .rup | _ => .rdn

/-- R289. -/
def Ord.code : Ord → BitVec 2
  | .plain => 0 | .acq => 1 | .rel => 2 | .acqrel => 3

/-- R289. -/
def Ord.ofCode (c : BitVec 2) : Ord :=
  match c.toNat with
  | 0 => .plain | 1 => .acq | 2 => .rel | _ => .acqrel

/-- R363. -/
def Scope.code : Scope → BitVec 3
  | .core => 0 | .cluster => 1 | .die => 2 | .device => 3 | .system => 4

/-- R363: codes 5 to 7 are unassigned. -/
def Scope.ofCode (c : BitVec 3) : Option Scope :=
  match c.toNat with
  | 0 => some .core | 1 => some .cluster | 2 => some .die | 3 => some .device | 4 => some .system | _ => none

/-- R238. -/
def MmaTy.code : MmaTy → BitVec 3
  | .f32 => 0 | .bf16 => 1 | .f16 => 2 | .q8 => 3 | .q4 => 4

/-- R238: types 5 to 7 raise ILLEGAL. -/
def MmaTy.ofCode (c : BitVec 3) : Option MmaTy :=
  match c.toNat with
  | 0 => some .f32 | 1 => some .bf16 | 2 => some .f16 | 3 => some .q8 | 4 => some .q4 | _ => none

/-- R224. -/
def RedOp.code : RedOp → BitVec 6
  | .add => 0 | .min => 1 | .max => 2 | .minc => 3 | .maxc => 4 | .and => 5 | .or => 6 | .xor => 7

/-- R224: codes 8 to 63 raise ILLEGAL. -/
def RedOp.ofCode (c : BitVec 6) : Option RedOp :=
  match c.toNat with
  | 0 => some .add | 1 => some .min | 2 => some .max | 3 => some .minc | 4 => some .maxc
  | 5 => some .and | 6 => some .or | 7 => some .xor | _ => none

/-- R215. -/
def VCond.code : VCond → BitVec 3
  | .eq => 0 | .ne => 1 | .lt => 2 | .le => 3 | .ltc => 4 | .lec => 5 | .un => 6

/-- R215: condition 7 raises ILLEGAL. -/
def VCond.ofCode (c : BitVec 3) : Option VCond :=
  match c.toNat with
  | 0 => some .eq | 1 => some .ne | 2 => some .lt | 3 => some .le | 4 => some .ltc | 5 => some .lec
  | 6 => some .un | _ => none

/-! Fields of a word (R15, Table 1 of 01). -/

/-- Bits 31:25. -/
def fOp (w : Word) : BitVec 7 := w.extractLsb' 25 7
/-- Bits 24:19: d, s, and the first register of the B format. -/
def fD (w : Word) : Reg := w.extractLsb' 19 6
/-- Bits 18:13: a, and the second register of the B format. -/
def fA (w : Word) : Reg := w.extractLsb' 13 6
/-- Bits 12:7. -/
def fB (w : Word) : Reg := w.extractLsb' 7 6
/-- Bits 6:0. -/
def fFn (w : Word) : BitVec 7 := w.extractLsb' 0 7
/-- Bits 12:0. -/
def fImm (w : Word) : BitVec 13 := w.extractLsb' 0 13
/-- Bits 6:4. -/
def fP (w : Word) : PReg := w.extractLsb' 4 3
/-- Bits 3:1. -/
def fTy (w : Word) : ElemTy := .ofCode (w.extractLsb' 1 3)
/-- Bit i as a truth value. -/
def fBit (w : Word) (i : Nat) : Bool := w.getLsbD i
/-- Bit 0. -/
def fX (w : Word) : Bool := w.getLsbD 0
/-- Bits 24:22 of the M format. -/
def fZ (w : Word) : ZReg := w.extractLsb' 22 3
/-- Bits 21:18 of the M format. -/
def fEv (w : Word) : BitVec 4 := w.extractLsb' 18 4
/-- Bit 17 of the M format. -/
def fK (w : Word) : Bool := w.getLsbD 17
/-- Bits 16:11 of the M format. -/
def fMa (w : Word) : Reg := w.extractLsb' 11 6
/-- Bits 10:5 of the M format. -/
def fMb (w : Word) : Reg := w.extractLsb' 5 6
/-- Bits 4:0 of the M format. -/
def fMfn (w : Word) : BitVec 5 := w.extractLsb' 0 5

/-! The eight formats (R15). -/

/-- R format. -/
def fmtR (op : BitVec 7) (d a b : Reg) (fn : BitVec 7) : Word := op ++ d ++ a ++ b ++ fn
/-- I and S formats, and the B format, whose fields lie at the same bits. -/
def fmtI (op : BitVec 7) (d a : Reg) (imm : BitVec 13) : Word := op ++ d ++ a ++ imm
/-- J format. -/
def fmtJ (op : BitVec 7) (off : BitVec 25) : Word := op ++ off
/-- V format. -/
def fmtV (op : BitVec 7) (d a b : Reg) (p : PReg) (ty : ElemTy) (x : Bool) : Word :=
  op ++ d ++ a ++ b ++ p ++ ty.code ++ BitVec.ofBool x
/-- M format. -/
def fmtM (op : BitVec 7) (z : ZReg) (ev : BitVec 4) (k : Bool) (a b : Reg) (fn : BitVec 5) : Word :=
  op ++ z ++ ev ++ BitVec.ofBool k ++ a ++ b ++ fn
/-- H format (R34: major 0x7E). -/
def fmtH (kind : BitVec 3) (payload : BitVec 22) : Word := (0x7E : BitVec 7) ++ kind ++ payload

/-! The majors, in the order of Table 11 of 01 (R34). Each answers the instruction that the word's fields name. -/

/-- Major 0x01 (R165). -/
def candAlu (w : Word) (d a b : Reg) : Option Instr :=
  match w.toNat % 128 with
  | 0 => some (.add d a b)
  | 1 => some (.sub d a b)
  | 2 => some (.and d a b)
  | 3 => some (.or d a b)
  | 4 => some (.xor d a b)
  | 5 => some (.andn d a b)
  | 6 => some (.shl d a b)
  | 7 => some (.shr d a b)
  | 8 => some (.sar d a b)
  | 9 => some (.ror d a b)
  | 10 => some (.slt d a b)
  | 11 => some (.sltc d a b)
  | 12 => some (.min d a b)
  | 13 => some (.max d a b)
  | 14 => some (.minc d a b)
  | 15 => some (.maxc d a b)
  | 16 => some (.mul d a b)
  | 17 => some (.mulh d a b)
  | 18 => some (.mulhc d a b)
  | 19 => some (.mulhsc d a b)
  | 20 => some (.div d a b)
  | 21 => some (.divc d a b)
  | 22 => some (.rem d a b)
  | 23 => some (.remc d a b)
  | _ => none

/-- Major 0x0D (R174). -/
def candUnary (w : Word) (d a : Reg) : Option Instr :=
  match w.toNat % 128 with
  | 0 => some (.clz d a)
  | 1 => some (.ctz d a)
  | 2 => some (.popc d a)
  | 3 => some (.brev d a)
  | 4 => some (.bswap d a)
  | 5 => some (.sextb d a)
  | 6 => some (.sexth d a)
  | 7 => some (.sextw d a)
  | 8 => some (.zexth d a)
  | 9 => some (.zextw d a)
  | _ => none

/-- Major 0x06 (R168). -/
def candShift (w : Word) (d a : Reg) : Option Instr :=
  match (w.extractLsb' 6 2).toNat with
  | 0 => some (.shli d a (w.extractLsb' 0 6))
  | 1 => some (.shri d a (w.extractLsb' 0 6))
  | 2 => some (.sari d a (w.extractLsb' 0 6))
  | _ => some (.rori d a (w.extractLsb' 0 6))

/-- Major 0x0A (R169). -/
def candBitf (w : Word) (d a : Reg) : Option Instr :=
  match (w.extractLsb' 11 2).toNat with
  | 0 => some (.bext d a (w.extractLsb' 6 5) (w.extractLsb' 0 6))
  | 1 => some (.bexts d a (w.extractLsb' 6 5) (w.extractLsb' 0 6))
  | 2 => some (.bins d a (w.extractLsb' 6 5) (w.extractLsb' 0 6))
  | _ => none

/-- Major 0x1B (R152). -/
def candGroup (w : Word) (d : Reg) : Option Instr :=
  match w.toNat % 128 with
  | 0 => some (.follow d)
  | 1 => some .unfollow
  | 2 => some (.gang d)
  | 3 => some .disband
  | _ => none

/-- Major 0x28 (R287, R288). -/
def candCache (w : Word) (d a b : Reg) : Option Instr :=
  match w.toNat % 128 with
  | 0x00 => some (.pref a)
  | 0x10 => some (.prefX a)
  | 0x20 => some (.prefL2 a)
  | 0x01 => some (.bpref d a b)
  | 0x02 => some (.clean a)
  | 0x0A => some (.cleanP a)
  | 0x03 => some (.cinv a)
  | _ => none

/-- Major 0x29 (R289): LOAD takes ord 1 only and STORE ord 2 only. -/
def candAmo (w : Word) (d a b : Reg) : Option Instr :=
  let o : Ord := .ofCode (w.extractLsb' 5 2)
  let z := fBit w 4
  match w.toNat % 16 with
  | 0 => some (.ldAcq d a z)
  | 1 => some (.stRel a b z)
  | 2 => some (.atswap d a b o z)
  | 3 => some (.atadd d a b o z)
  | 4 => some (.atand d a b o z)
  | 5 => some (.ator d a b o z)
  | 6 => some (.atxor d a b o z)
  | 7 => some (.atmin d a b o z)
  | 8 => some (.atmax d a b o z)
  | 9 => some (.atminc d a b o z)
  | 10 => some (.atmaxc d a b o z)
  | _ => none

/-- Major 0x30 (R363). -/
def candSync (w : Word) (d a b : Reg) : Option Instr :=
  if w.toNat % 128 = 0x10 then some (.mwait d a b)
  else if w.toNat % 128 / 8 = 0 then (Scope.ofCode (w.extractLsb' 0 3)).map .fence
  else if w.toNat % 128 / 8 = 1 then (Scope.ofCode (w.extractLsb' 0 3)).map .fenceSc
  else none

/-- Major 0x32 (R340). -/
def candMsg (w : Word) (d a b : Reg) : Option Instr :=
  match w.toNat % 128 with
  | 0 => some (.send a b)
  | 1 => some (.sendv a b)
  | 2 => some (.sendEos a)
  | 3 => some (.stbind d a b)
  | 4 => some (.stdrop d a b)
  | 5 => some (.waiteos d a b)
  | _ => none

/-- Major 0x33 (R292). -/
def candCopy (w : Word) (d a b : Reg) : Option Instr :=
  match w.toNat % 128 with
  | 0x00 => some (.xtpl d a b)
  | 0x01 => some (.swinit d a b)
  | 0x02 => some (.swait d a b)
  | 0x03 => some (.fesetE a b)
  | 0x13 => some (.fesetF a b)
  | _ => none

/-- Major 0x34 (R318). -/
def candWorld (w : Word) (d a b : Reg) : Option Instr :=
  match w.toNat % 128 with
  | 0 => some (.wreg d a b)
  | 1 => some (.wst (w.extractLsb' 20 5) a b)
  | 2 => some (.whzn d a b)
  | 3 => some (.wretain d a b)
  | 4 => some (.wseed a)
  | 5 => some (.wstat d a)
  | _ => none

/-- Major 0x35 (R318): bit 19 is the `.t` bit. -/
def candWld (w : Word) (a b : Reg) : Option Instr :=
  if fBit w 19 then some (.wldT (w.extractLsb' 20 5) a b (fFn w))
  else some (.wld (w.extractLsb' 20 5) a b (fFn w))

/-- Major 0x36 (R382). -/
def candPattern (w : Word) (d a : Reg) : Option Instr :=
  match w.toNat % 128 with
  | 0 => some (.patrec d a)
  | 1 => some (.patplay d a)
  | 2 => some (.patoff d a)
  | 3 => some (.patstat d a)
  | 4 => some (.patdrop d a)
  | _ => none

/-- Major 0x49 (R212). -/
def candVunary (w : Word) : Option Instr :=
  match (fB w).toNat with
  | 0 => some (.vabs (fD w) (fA w) (fP w) (fTy w) (fX w))
  | 1 => some (.vneg (fD w) (fA w) (fP w) (fTy w) (fX w))
  | 2 => some (.vnot (fD w) (fA w) (fP w) (fTy w) (fX w))
  | 3 => some (.vsqrt (fD w) (fA w) (fP w) (fTy w) (fX w))
  | 4 => some (.vrcp (fD w) (fA w) (fP w) (fTy w) (fX w))
  | 5 => some (.vrsq (fD w) (fA w) (fP w) (fTy w) (fX w))
  | 6 => some (.vexp2 (fD w) (fA w) (fP w) (fTy w) (fX w))
  | 7 => some (.vlog2 (fD w) (fA w) (fP w) (fTy w) (fX w))
  | 8 => some (.vsinpi (fD w) (fA w) (fP w) (fTy w) (fX w))
  | 9 => some (.vcospi (fD w) (fA w) (fP w) (fTy w) (fX w))
  | 10 => some (.vtanh (fD w) (fA w) (fP w) (fTy w) (fX w))
  | _ => none

/-- Major 0x5F (R230). -/
def candPred (w : Word) (d a : Reg) : Option Instr :=
  let pd : PReg := w.extractLsb' 19 3
  let pa : PReg := w.extractLsb' 13 3
  let pb : PReg := w.extractLsb' 7 3
  match w.toNat % 128 with
  | 0 => some (.pset pd a)
  | 1 => some (.pand pd pa pb)
  | 2 => some (.por pd pa pb)
  | 3 => some (.pxor pd pa pb)
  | 4 => some (.pnot pd pa)
  | 5 => some (.pcnt d pa)
  | 6 => some (.pfirst d pa)
  | _ => none

/-- Major 0x68 (R242). -/
def candZop (w : Word) : Option Instr :=
  match w.toNat % 32 with
  | 0 => some (.zclr (fZ w) (fEv w) (fK w))
  | 1 => some (.zld (fZ w) (fEv w) (fK w) (fMa w) (fMb w))
  | 2 => some (.zst (fZ w) (fEv w) (fK w) (fMa w) (fMb w))
  | 3 => some (.zver (fZ w) (fEv w) (fK w) (fMa w))
  | _ => none

/-- Majors 0x6C and 0x6D (R254, R255). -/
def candCap (w : Word) (d a b : Reg) : Option Instr :=
  match w.toNat % 128 with
  | 0 => some (.capgrant d a b)
  | 1 => some (.capdrop b)
  | _ => none

/-- Major 0x70 (R407). -/
def candSys (w : Word) (a : Reg) : Option Instr :=
  match w.toNat % 128 with
  | 0 => some (.trap a)
  | 1 => some .tret
  | 2 => some (.idle a)
  | 3 => some .done
  | _ => none

/-- Major 0x77 (R76, R120). -/
def candStave (w : Word) (d a b : Reg) : Option Instr :=
  match w.toNat % 128 with
  | 0 => some (.launch d a)
  | 1 => some (.stvgrow d a b)
  | 2 => some (.stvshrink d a b)
  | 3 => some (.stvmap d a b)
  | 4 => some (.rhashBegin d a b)
  | 5 => some (.rhashCommit d a)
  | 6 => some (.migrate d a b)
  | 7 => some (.quar d a b)
  | _ => none

/-- Major 0x7E (R29). -/
def candHint (w : Word) : Option Instr :=
  match (w.extractLsb' 22 3).toNat with
  | 0 => some (.hintWide (w.extractLsb' 0 22))
  | 1 => if (w.extractLsb' 2 2 : BitVec 2) = 3 then none else some (.hintMempol (w.extractLsb' 2 2) (w.extractLsb' 0 2))
  | 2 => some (.hintRound (.ofCode (w.extractLsb' 0 2)))
  | 3 => some (.hintSched (fBit w 4) (w.extractLsb' 0 4))
  | _ => none

/-- The instruction that the fields of a word name, before its reserved fields and operands are checked (R34). -/
def cand (w : Word) : Option Instr :=
  let d := fD w; let a := fA w; let b := fB w; let i := fImm w
  match (fOp w).toNat with
  | 0x01 => candAlu w d a b
  | 0x02 => some (.addi d a i)
  | 0x03 => some (.andi d a i)
  | 0x04 => some (.ori d a i)
  | 0x05 => some (.xori d a i)
  | 0x06 => candShift w d a
  | 0x07 => some (.slti d a i)
  | 0x08 => some (.sltci d a i)
  | 0x09 => some (.muli d a i)
  | 0x0A => candBitf w d a
  | 0x0B => some (.lea d a b (w.extractLsb' 0 3))
  | 0x0C => if fBit w 12 then some (.laddrLen d (w.extractLsb' 0 12)) else some (.laddr d a (w.extractLsb' 0 12))
  | 0x0D => candUnary w d a
  | 0x0E => if fBit w 6 then some (.selz d a b (w.extractLsb' 0 6)) else some (.sel d a b (w.extractLsb' 0 6))
  | 0x10 => some (.beq d a i)
  | 0x11 => some (.bne d a i)
  | 0x12 => some (.blt d a i)
  | 0x13 => some (.bge d a i)
  | 0x14 => some (.bltc d a i)
  | 0x15 => some (.bgec d a i)
  | 0x16 => some (.j (w.extractLsb' 0 25))
  | 0x17 => some (.jal (w.extractLsb' 0 25))
  | 0x18 => if d = 0 then some (.jr a i) else some (.jalr d a i)
  | 0x19 => some (.loop a (w.extractLsb' 11 2) (w.extractLsb' 0 9))
  | 0x1A => some (.repv d (w.extractLsb' 10 3) (w.extractLsb' 7 3) (w.extractLsb' 4 3) (w.extractLsb' 1 3))
  | 0x1B => candGroup w d
  | 0x1C => some (.brk i)
  | 0x20 => some (.ld d a (.ofCode (w.extractLsb' 11 2)) (fBit w 10) (w.extractLsb' 0 10))
  | 0x21 => some (.st d a (.ofCode (w.extractLsb' 11 2)) (w.extractLsb' 0 10))
  | 0x22 => some (.ldv d a (w.extractLsb' 0 10))
  | 0x23 => some (.stv d a (w.extractLsb' 0 10))
  | 0x24 => some (.ldvol d a (.ofCode (w.extractLsb' 11 2)) (fBit w 10) (w.extractLsb' 0 10))
  | 0x25 => some (.stvol d a (.ofCode (w.extractLsb' 11 2)) (w.extractLsb' 0 10))
  | 0x26 => some (.gath d a b (fP w) (fTy w))
  | 0x27 => some (.scat d a b (fP w) (fTy w))
  | 0x28 => candCache w d a b
  | 0x29 => candAmo w d a b
  | 0x2A => some (.cas d a b (.ofCode (w.extractLsb' 5 2)) (fBit w 4))
  | 0x30 => candSync w d a b
  | 0x31 => some (.bar d (w.extractLsb' 0 2) (fBit w 2))
  | 0x32 => candMsg w d a b
  | 0x33 => candCopy w d a b
  | 0x34 => candWorld w d a b
  | 0x35 => candWld w a b
  | 0x36 => candPattern w d a
  | 0x37 => some (.quant d a (fBit w 12) (w.extractLsb' 7 5) (fP w) (fTy w))
  | 0x38 => some (.dquant d a (fBit w 12) (w.extractLsb' 7 5) (fP w) (fTy w))
  | 0x40 => some (.vadd (fD w) (fA w) (fB w) (fP w) (fTy w) (fX w))
  | 0x41 => some (.vsub (fD w) (fA w) (fB w) (fP w) (fTy w) (fX w))
  | 0x42 => some (.vmul (fD w) (fA w) (fB w) (fP w) (fTy w) (fX w))
  | 0x43 => some (.vfma (fD w) (fA w) (fB w) (fP w) (fTy w) (fX w))
  | 0x44 => some (.vfnma (fD w) (fA w) (fB w) (fP w) (fTy w) (fX w))
  | 0x45 => some (.vdiv (fD w) (fA w) (fB w) (fP w) (fTy w) (fX w))
  | 0x46 => some (.vmin (fD w) (fA w) (fB w) (fP w) (fTy w) (fX w))
  | 0x47 => some (.vmax (fD w) (fA w) (fB w) (fP w) (fTy w) (fX w))
  | 0x48 => some (.vcpys (fD w) (fA w) (fB w) (fP w) (fTy w) (fX w))
  | 0x49 => candVunary w
  | 0x4A => some (.vand (fD w) (fA w) (fB w) (fP w) (fTy w) (fX w))
  | 0x4B => some (.vor (fD w) (fA w) (fB w) (fP w) (fTy w) (fX w))
  | 0x4C => some (.vxor (fD w) (fA w) (fB w) (fP w) (fTy w) (fX w))
  | 0x4D => some (.vshl (fD w) (fA w) (fB w) (fP w) (fTy w) (fX w))
  | 0x4E => some (.vshr (fD w) (fA w) (fB w) (fP w) (fTy w) (fX w))
  | 0x4F => some (.vsar (fD w) (fA w) (fB w) (fP w) (fTy w) (fX w))
  | 0x50 => (VCond.ofCode (w.extractLsb' 22 3)).map fun c => .vcmp c (w.extractLsb' 19 3) a b (fP w) (fTy w) (fX w)
  | 0x51 => some (.vsel (fD w) (fA w) (fB w) (fP w) (fTy w) (fX w))
  | 0x52 => some (.vcvt d a (w.extractLsb' 11 2) (fBit w 10) (.ofCode (w.extractLsb' 7 3)) (fP w) (fTy w) (fX w))
  | 0x53 => some (.vbcast d a (fP w) (fTy w) (fX w))
  | 0x54 => some (.vins d a b (fP w) (fTy w))
  | 0x55 => some (.vext d a b (fBit w 4) (fTy w))
  | 0x56 => some (.vperm (fD w) (fA w) (fB w) (fP w) (fTy w) (fX w))
  | 0x57 => some (.vslide (fD w) (fA w) (fB w) (fP w) (fTy w) (fX w))
  | 0x58 => (RedOp.ofCode b).map fun o => .vred d a o (fP w) (fTy w) (fX w)
  | 0x59 => (RedOp.ofCode b).map fun o => .vscan d a o (fP w) (fTy w) (fX w)
  | 0x5A => some (.vcxs (fD w) (fA w) (fB w) (fP w) (fTy w) (fX w))
  | 0x5B => some (.vcompr d a (fP w) (fTy w) (fX w))
  | 0x5C => some (.vexpnd d a (fP w) (fTy w) (fX w))
  | 0x5D => some (.vlut d a b (fP w) (fTy w))
  | 0x5E => some (.vdot (fD w) (fA w) (fB w) (fP w) (fTy w) (fX w))
  | 0x5F => candPred w d a
  | 0x68 => candZop w
  | 0x69 => (MmaTy.ofCode (w.extractLsb' 0 3)).map fun t => .mma (fZ w) (fEv w) (fK w) (fMa w) (fMb w) (fBit w 3) t
  | 0x6A => some (.sclacc (fZ w) (fEv w) (fK w) (w.extractLsb' 11 3) (fMb w) (fBit w 0))
  | 0x6B => some (.outlacc (fZ w) (fEv w) (fK w) (fMa w) (fMb w) (w.extractLsb' 0 4))
  | 0x6C => if w.toNat % 128 = 0 then some (.mcmd d a b) else some (.mcmdT d a b)
  | 0x6D => candCap w d a b
  | 0x6E => some (.zwaitv (fZ w) (fEv w))
  | 0x70 => candSys w a
  | 0x71 => some (.crd d (w.extractLsb' 0 12))
  | 0x72 => some (.cwr a (w.extractLsb' 0 12))
  | 0x73 => some (.tlbinv d a b)
  | 0x74 => some (.ctxsw d a b)
  | 0x75 => if w.toNat % 128 = 0 then some (.freplay d a b) else if w.toNat % 128 = 1 then some (.fkill d a b)
            else some (.fqack d a)
  | 0x76 => if w.toNat % 128 = 0 then some (.cpair d) else some (.unpair d)
  | 0x77 => candStave w d a b
  | 0x7E => candHint w
  | _ => none

/-- The encoding of an instruction, from the formats and the encoding tables of the chapters. A step of the device has no
encoding: the answer for it is the all-zero word, which is no instruction (R35). -/
def encode : Instr → Word
  | .add d a b => fmtR 0x01 d a b 0x00
  | .sub d a b => fmtR 0x01 d a b 0x01
  | .and d a b => fmtR 0x01 d a b 0x02
  | .or d a b => fmtR 0x01 d a b 0x03
  | .xor d a b => fmtR 0x01 d a b 0x04
  | .andn d a b => fmtR 0x01 d a b 0x05
  | .shl d a b => fmtR 0x01 d a b 0x06
  | .shr d a b => fmtR 0x01 d a b 0x07
  | .sar d a b => fmtR 0x01 d a b 0x08
  | .ror d a b => fmtR 0x01 d a b 0x09
  | .slt d a b => fmtR 0x01 d a b 0x0a
  | .sltc d a b => fmtR 0x01 d a b 0x0b
  | .min d a b => fmtR 0x01 d a b 0x0c
  | .max d a b => fmtR 0x01 d a b 0x0d
  | .minc d a b => fmtR 0x01 d a b 0x0e
  | .maxc d a b => fmtR 0x01 d a b 0x0f
  | .mul d a b => fmtR 0x01 d a b 0x10
  | .mulh d a b => fmtR 0x01 d a b 0x11
  | .mulhc d a b => fmtR 0x01 d a b 0x12
  | .mulhsc d a b => fmtR 0x01 d a b 0x13
  | .div d a b => fmtR 0x01 d a b 0x14
  | .divc d a b => fmtR 0x01 d a b 0x15
  | .rem d a b => fmtR 0x01 d a b 0x16
  | .remc d a b => fmtR 0x01 d a b 0x17
  | .addi d a imm => fmtI 0x02 d a imm
  | .andi d a imm => fmtI 0x03 d a imm
  | .ori d a imm => fmtI 0x04 d a imm
  | .xori d a imm => fmtI 0x05 d a imm
  | .slti d a imm => fmtI 0x07 d a imm
  | .sltci d a imm => fmtI 0x08 d a imm
  | .muli d a imm => fmtI 0x09 d a imm
  | .shli d a n => fmtI 0x06 d a ((0 : BitVec 5) ++ (0 : BitVec 2) ++ n)
  | .shri d a n => fmtI 0x06 d a ((0 : BitVec 5) ++ (1 : BitVec 2) ++ n)
  | .sari d a n => fmtI 0x06 d a ((0 : BitVec 5) ++ (2 : BitVec 2) ++ n)
  | .rori d a n => fmtI 0x06 d a ((0 : BitVec 5) ++ (3 : BitVec 2) ++ n)
  | .bext d a width off => fmtI 0x0A d a ((0 : BitVec 2) ++ width ++ off)
  | .bexts d a width off => fmtI 0x0A d a ((1 : BitVec 2) ++ width ++ off)
  | .bins d a width off => fmtI 0x0A d a ((2 : BitVec 2) ++ width ++ off)
  | .lea d a b s => fmtR 0x0B d a b ((0 : BitVec 4) ++ s)
  | .laddr d a idx => fmtI 0x0C d a ((0 : BitVec 1) ++ idx)
  | .laddrLen d idx => fmtI 0x0C d 0 ((1 : BitVec 1) ++ idx)
  | .clz d a => fmtR 0x0D d a 0 0x00
  | .ctz d a => fmtR 0x0D d a 0 0x01
  | .popc d a => fmtR 0x0D d a 0 0x02
  | .brev d a => fmtR 0x0D d a 0 0x03
  | .bswap d a => fmtR 0x0D d a 0 0x04
  | .sextb d a => fmtR 0x0D d a 0 0x05
  | .sexth d a => fmtR 0x0D d a 0 0x06
  | .sextw d a => fmtR 0x0D d a 0 0x07
  | .zexth d a => fmtR 0x0D d a 0 0x08
  | .zextw d a => fmtR 0x0D d a 0 0x09
  | .sel d a b c => fmtR 0x0E d a b ((0 : BitVec 1) ++ c)
  | .selz d a b c => fmtR 0x0E d a b ((1 : BitVec 1) ++ c)
  | .beq a b off => fmtI 0x10 a b off
  | .bne a b off => fmtI 0x11 a b off
  | .blt a b off => fmtI 0x12 a b off
  | .bge a b off => fmtI 0x13 a b off
  | .bltc a b off => fmtI 0x14 a b off
  | .bgec a b off => fmtI 0x15 a b off
  | .j off => fmtJ 0x16 off
  | .jal off => fmtJ 0x17 off
  | .jalr d a imm => fmtI 0x18 d a imm
  | .jr a imm => fmtI 0x18 0 a imm
  | .loop a lc len => fmtI 0x19 0 a (lc ++ (0 : BitVec 2) ++ len)
  | .repv count len dstep astep bstep => fmtI 0x1A count 0 (len ++ dstep ++ astep ++ bstep ++ (0 : BitVec 1))
  | .follow d => fmtR 0x1B d 0 0 0x00
  | .gang d => fmtR 0x1B d 0 0 0x02
  | .unfollow => fmtR 0x1B 0 0 0 0x01
  | .disband => fmtR 0x1B 0 0 0 0x03
  | .brk code => fmtI 0x1C 0 0 code
  | .ld d a size sx off => fmtI 0x20 d a (size.code ++ BitVec.ofBool sx ++ off)
  | .ldvol d a size sx off => fmtI 0x24 d a (size.code ++ BitVec.ofBool sx ++ off)
  | .st src a size off => fmtI 0x21 src a (size.code ++ (0 : BitVec 1) ++ off)
  | .stvol src a size off => fmtI 0x25 src a (size.code ++ (0 : BitVec 1) ++ off)
  | .ldv d a off => fmtI 0x22 d a ((0 : BitVec 3) ++ off)
  | .stv src a off => fmtI 0x23 src a ((0 : BitVec 3) ++ off)
  | .gath d a b p ty => fmtV 0x26 d a b p ty false
  | .scat d a b p ty => fmtV 0x27 d a b p ty false
  | .pref a => fmtR 0x28 0 a 0 0x00
  | .prefX a => fmtR 0x28 0 a 0 0x10
  | .prefL2 a => fmtR 0x28 0 a 0 0x20
  | .bpref d a b => fmtR 0x28 d a b 0x01
  | .clean a => fmtR 0x28 0 a 0 0x02
  | .cleanP a => fmtR 0x28 0 a 0 0x0a
  | .cinv a => fmtR 0x28 0 a 0 0x03
  | .ldAcq d a dw => fmtR 0x29 d a 0 ((1 : BitVec 2) ++ BitVec.ofBool dw ++ (0 : BitVec 4))
  | .stRel a b dw => fmtR 0x29 0 a b ((2 : BitVec 2) ++ BitVec.ofBool dw ++ (1 : BitVec 4))
  | .atswap d a b ord dw => fmtR 0x29 d a b (ord.code ++ BitVec.ofBool dw ++ (2 : BitVec 4))
  | .atadd d a b ord dw => fmtR 0x29 d a b (ord.code ++ BitVec.ofBool dw ++ (3 : BitVec 4))
  | .atand d a b ord dw => fmtR 0x29 d a b (ord.code ++ BitVec.ofBool dw ++ (4 : BitVec 4))
  | .ator d a b ord dw => fmtR 0x29 d a b (ord.code ++ BitVec.ofBool dw ++ (5 : BitVec 4))
  | .atxor d a b ord dw => fmtR 0x29 d a b (ord.code ++ BitVec.ofBool dw ++ (6 : BitVec 4))
  | .atmin d a b ord dw => fmtR 0x29 d a b (ord.code ++ BitVec.ofBool dw ++ (7 : BitVec 4))
  | .atmax d a b ord dw => fmtR 0x29 d a b (ord.code ++ BitVec.ofBool dw ++ (8 : BitVec 4))
  | .atminc d a b ord dw => fmtR 0x29 d a b (ord.code ++ BitVec.ofBool dw ++ (9 : BitVec 4))
  | .atmaxc d a b ord dw => fmtR 0x29 d a b (ord.code ++ BitVec.ofBool dw ++ (10 : BitVec 4))
  | .cas d a b ord dw => fmtR 0x2A d a b (ord.code ++ BitVec.ofBool dw ++ (0 : BitVec 4))
  | .fence scope => fmtR 0x30 0 0 0 ((0 : BitVec 4) ++ scope.code)
  | .fenceSc scope => fmtR 0x30 0 0 0 ((1 : BitVec 4) ++ scope.code)
  | .mwait d a b => fmtR 0x30 d a b 0x10
  | .bar d level ck => fmtR 0x31 d 0 0 ((0 : BitVec 4) ++ BitVec.ofBool ck ++ level)
  | .send a b => fmtR 0x32 0 a b 0x00
  | .sendv a b => fmtR 0x32 0 a b 0x01
  | .sendEos a => fmtR 0x32 0 a 0 0x02
  | .stbind d a b => fmtR 0x32 d a b 0x03
  | .stdrop d a b => fmtR 0x32 d a b 0x04
  | .waiteos d a b => fmtR 0x32 d a b 0x05
  | .xtpl d a b => fmtR 0x33 d a b 0x00
  | .swinit d a b => fmtR 0x33 d a b 0x01
  | .swait d a b => fmtR 0x33 d a b 0x02
  | .fesetE a b => fmtR 0x33 0 a b 0x03
  | .fesetF a b => fmtR 0x33 0 a b 0x13
  | .wreg d a b => fmtR 0x34 d a b 0x00
  | .wst src a b => fmtR 0x34 (src ++ (0 : BitVec 1)) a b 0x01
  | .whzn d a b => fmtR 0x34 d a b 0x02
  | .wretain d a b => fmtR 0x34 d a b 0x03
  | .wseed a => fmtR 0x34 0 a 0 0x04
  | .wstat d a => fmtR 0x34 d a 0 0x05
  | .wld d a b lim => fmtR 0x35 (d ++ (0 : BitVec 1)) a b lim
  | .wldT d a b lim => fmtR 0x35 (d ++ (1 : BitVec 1)) a b lim
  | .patrec d a => fmtR 0x36 d a 0 0x00
  | .patplay d a => fmtR 0x36 d a 0 0x01
  | .patoff d a => fmtR 0x36 d a 0 0x02
  | .patstat d a => fmtR 0x36 d a 0 0x03
  | .patdrop d a => fmtR 0x36 d a 0 0x04
  | .quant d a q4 prm p ty => fmtV 0x37 d a (BitVec.ofBool q4 ++ prm) p ty false
  | .dquant d a q4 prm p ty => fmtV 0x38 d a (BitVec.ofBool q4 ++ prm) p ty false
  | .vadd d a b p ty x => fmtV 0x40 d a b p ty x
  | .vsub d a b p ty x => fmtV 0x41 d a b p ty x
  | .vmul d a b p ty x => fmtV 0x42 d a b p ty x
  | .vfma d a b p ty x => fmtV 0x43 d a b p ty x
  | .vfnma d a b p ty x => fmtV 0x44 d a b p ty x
  | .vdiv d a b p ty x => fmtV 0x45 d a b p ty x
  | .vmin d a b p ty x => fmtV 0x46 d a b p ty x
  | .vmax d a b p ty x => fmtV 0x47 d a b p ty x
  | .vcpys d a b p ty x => fmtV 0x48 d a b p ty x
  | .vabs d a p ty x => fmtV 0x49 d a 0 p ty x
  | .vneg d a p ty x => fmtV 0x49 d a 1 p ty x
  | .vnot d a p ty x => fmtV 0x49 d a 2 p ty x
  | .vsqrt d a p ty x => fmtV 0x49 d a 3 p ty x
  | .vrcp d a p ty x => fmtV 0x49 d a 4 p ty x
  | .vrsq d a p ty x => fmtV 0x49 d a 5 p ty x
  | .vexp2 d a p ty x => fmtV 0x49 d a 6 p ty x
  | .vlog2 d a p ty x => fmtV 0x49 d a 7 p ty x
  | .vsinpi d a p ty x => fmtV 0x49 d a 8 p ty x
  | .vcospi d a p ty x => fmtV 0x49 d a 9 p ty x
  | .vtanh d a p ty x => fmtV 0x49 d a 10 p ty x
  | .vand d a b p ty x => fmtV 0x4a d a b p ty x
  | .vor d a b p ty x => fmtV 0x4b d a b p ty x
  | .vxor d a b p ty x => fmtV 0x4c d a b p ty x
  | .vshl d a b p ty x => fmtV 0x4d d a b p ty x
  | .vshr d a b p ty x => fmtV 0x4e d a b p ty x
  | .vsar d a b p ty x => fmtV 0x4f d a b p ty x
  | .vcmp cond d a b p ty x => fmtV 0x50 (cond.code ++ d) a b p ty x
  | .vsel d a b p ty x => fmtV 0x51 d a b p ty x
  | .vcvt d a part c src p ty x => fmtV 0x52 d a (part ++ BitVec.ofBool c ++ src.code) p ty x
  | .vbcast d a p ty x => fmtV 0x53 d a 0 p ty x
  | .vins d a b p ty => fmtV 0x54 d a b p ty false
  | .vext d a b z ty => fmtV 0x55 d a b ((0 : BitVec 2) ++ BitVec.ofBool z) ty false
  | .vperm d a b p ty x => fmtV 0x56 d a b p ty x
  | .vslide d a b p ty x => fmtV 0x57 d a b p ty x
  | .vred d a op p ty x => fmtV 0x58 d a op.code p ty x
  | .vscan d a op p ty x => fmtV 0x59 d a op.code p ty x
  | .vcxs d a b p ty x => fmtV 0x5A d a b p ty x
  | .vcompr d a p ty x => fmtV 0x5B d a 0 p ty x
  | .vexpnd d a p ty x => fmtV 0x5C d a 0 p ty x
  | .vlut d a b p ty => fmtV 0x5D d a b p ty false
  | .vdot d a b p ty x => fmtV 0x5E d a b p ty x
  | .pset d a => fmtR 0x5F ((0 : BitVec 3) ++ d) a 0 0x00
  | .pand d a b => fmtR 0x5F ((0 : BitVec 3) ++ d) ((0 : BitVec 3) ++ a) ((0 : BitVec 3) ++ b) 0x01
  | .por d a b => fmtR 0x5F ((0 : BitVec 3) ++ d) ((0 : BitVec 3) ++ a) ((0 : BitVec 3) ++ b) 0x02
  | .pxor d a b => fmtR 0x5F ((0 : BitVec 3) ++ d) ((0 : BitVec 3) ++ a) ((0 : BitVec 3) ++ b) 0x03
  | .pnot d a => fmtR 0x5F ((0 : BitVec 3) ++ d) ((0 : BitVec 3) ++ a) 0 0x04
  | .pcnt d a => fmtR 0x5F d ((0 : BitVec 3) ++ a) 0 0x05
  | .pfirst d a => fmtR 0x5F d ((0 : BitVec 3) ++ a) 0 0x06
  | .zclr z ev k => fmtM 0x68 z ev k 0 0 0
  | .zld z ev k a b => fmtM 0x68 z ev k a b 1
  | .zst z ev k a b => fmtM 0x68 z ev k a b 2
  | .zver z ev k a => fmtM 0x68 z ev k a 0 3
  | .mma z ev k a b mc ty => fmtM 0x69 z ev k a b ((0 : BitVec 1) ++ BitVec.ofBool mc ++ ty.code)
  | .sclacc z ev k part b clr => fmtM 0x6A z ev k ((0 : BitVec 3) ++ part) b ((0 : BitVec 4) ++ BitVec.ofBool clr)
  | .outlacc z ev k a b row => fmtM 0x6B z ev k a b ((0 : BitVec 1) ++ row)
  | .mcmd d a b => fmtR 0x6C d a b 0x00
  | .mcmdT d a b => fmtR 0x6C d a b 0x01
  | .capgrant d a b => fmtR 0x6D d a b 0x00
  | .capdrop b => fmtR 0x6D 0 0 b 0x01
  | .zwaitv z ev => fmtM 0x6E z ev true 0 0 0
  | .trap a => fmtR 0x70 0 a 0 0x00
  | .tret => fmtR 0x70 0 0 0 0x01
  | .idle a => fmtR 0x70 0 a 0 0x02
  | .done => fmtR 0x70 0 0 0 0x03
  | .crd d num => fmtI 0x71 d 0 ((0 : BitVec 1) ++ num)
  | .cwr a num => fmtI 0x72 0 a ((0 : BitVec 1) ++ num)
  | .tlbinv d a b => fmtR 0x73 d a b 0x00
  | .ctxsw d a b => fmtR 0x74 d a b 0x00
  | .freplay d a b => fmtR 0x75 d a b 0x00
  | .fkill d a b => fmtR 0x75 d a b 0x01
  | .fqack d a => fmtR 0x75 d a 0 0x02
  | .cpair d => fmtR 0x76 d 0 0 0x00
  | .unpair d => fmtR 0x76 d 0 0 0x01
  | .launch d a => fmtR 0x77 d a 0 0x00
  | .stvgrow d a b => fmtR 0x77 d a b 0x01
  | .stvshrink d a b => fmtR 0x77 d a b 0x02
  | .stvmap d a b => fmtR 0x77 d a b 0x03
  | .rhashBegin d a b => fmtR 0x77 d a b 0x04
  | .rhashCommit d a => fmtR 0x77 d a 0 0x05
  | .migrate d a b => fmtR 0x77 d a b 0x06
  | .quar d a b => fmtR 0x77 d a b 0x07
  | .hintWide hi => fmtH 0 hi
  | .hintMempol llc alloc => fmtH 1 ((0 : BitVec 18) ++ llc ++ alloc)
  | .hintRound mode => fmtH 2 ((0 : BitVec 20) ++ mode.code)
  | .hintSched taken gap => fmtH 3 ((0 : BitVec 17) ++ BitVec.ofBool taken ++ gap)
  | .fqbaseWrite _ _ => 0
  | .rbdataRead _ => 0
  | .interrupt _ => 0
  | .priResponse _ _ _ => 0
  | .atsInvalidation _ _ _ => 0
  | .readRequest _ _ _ _ => 0
  | .writeRequest _ _ _ _ => 0
  | .nonAllocatingRequest _ _ _ _ _ => 0
  | .lineHandover _ _ => 0
  | .remoteStorePerform _ => 0
  | .remoteStoreAck _ => 0
  | .copySector _ _ _ => 0
  | .bprefLine _ _ => 0
  | .matrixCommandArrival _ => 0
  | .matrixCommandRun _ => 0
  | .messageArrival _ => 0
  | .endOfStreamArrival _ => 0
  | .pushDelivery _ => 0
  | .worldStall _ => 0
  | .jobCompletion _ _ => 0
  | .fillSample _ => 0
  | .placementWindowEnd _ => 0
  | .placementRequest _ _ => 0
  | .backoffExpiry _ _ => 0
  | .compaction _ _ => 0
  | .aging _ _ => 0
  | .preemptionDecision _ _ => 0
  | .instanceRemoval _ _ _ _ => 0
  | .preEmption _ => 0
  | .resumption _ _ => 0
  | .inboxDiversion _ => 0
  | .migration _ _ => 0
  | .clusterDrained _ => 0
  | .scrubComplete _ _ => 0
  | .bandwidthWindow => 0
  | .rollback _ => 0
  | .errorDetected _ _ _ _ => 0
  | .directoryRebuild _ => 0
  | .hostSnoop _ => 0
  | .hostMemRequest _ _ _ => 0
  | .hostPoisonResponse _ => 0
  | .peerAccess _ _ _ _ => 0
  | .functionLevelReset _ => 0
  | .linkTraining _ _ => 0
  | .boot => 0
  | .getMeasurements _ => 0
  | .powerCapSet _ => 0
  | .thermalThrottle _ => 0
  | .thermalShutdown _ => 0
  | .telemetryUpdate => 0
  | .idleTimeout _ => 0
  | .illegalWord w => w
  | .remoteAccess _ => 0
  | .savebaseWrite _ _ => 0
  | .thermalThrottleRelease => 0
  | .hostDataResponse _ => 0
  | .atsTranslationCompletion _ _ _ => 0
  | .powerGating _ => 0

/-- Why a word is no instruction (R35). -/
inductive Reject where
  /-- A reserved major, or a function code or field value that no rule assigns. -/
  | unassigned
  /-- A reserved field that is not zero (R17). -/
  | reservedField
  /-- An operand combination that raises ILLEGAL (R18). -/
  | badOperands
  deriving DecidableEq, Repr

/-- Decoding, total on every word (R35, R38). (Log 12, DEDUCED.) -/
def decode (w : Word) : Except Reject Instr :=
  match cand w with
  | none => .error .unassigned
  | some i => if encode i = w then (if i.wf then .ok i else .error .badOperands) else .error .reservedField

/-- A word from its four bytes, the byte at the lowest address first (R6, R11). -/
def wordOfBytes (b0 b1 b2 b3 : Byte) : Word := b3 ++ b2 ++ b1 ++ b0

/-- The bytes of a word as the device stores them, lowest address first (R11). -/
def bytesOfWord (w : Word) : List Byte :=
  [w.extractLsb' 0 8, w.extractLsb' 8 8, w.extractLsb' 16 8, w.extractLsb' 24 8]

/-- The instruction that the decoder reads from an instruction whose bits are w, numbered as spec/opcode_table.json
numbers them. Every Utvex instruction is one word (R11), so nbits is 32; a row without bits has nbits 0. -/
def decodeTableWord (nbits w : Nat) : Option Instr :=
  if nbits = 0 then none
  else
    match bytesOfWord (BitVec.ofNat 32 w) with
    | [b0, b1, b2, b3] => (decode (wordOfBytes b0 b1 b2 b3)).toOption
    | _ => none

end Sys2Proof
end

