-- ==== Sys2Proof/Machine/Issue.lean ====
section
/-! DEFINITION. How an instruction issues: the checks that come before its own (R30, R36, R140), its effect on the core or
on every member of a locked gang (R150, R151), and how it ends: it retires, traps or waits. -/

namespace Sys2Proof.Machine

/-- Targets that accept HINT.WIDE (R30, Table 7 of 01; R167, R172, R176 to R178, R283, R285). -/
def acceptsWide : Instr → Bool
  | .addi _ _ _ | .andi _ _ _ | .ori _ _ _ | .xori _ _ _ | .slti _ _ _ | .sltci _ _ _ | .muli _ _ _ => true
  | .beq _ _ _ | .bne _ _ _ | .blt _ _ _ | .bge _ _ _ | .bltc _ _ _ | .bgec _ _ _ => true
  | .j _ | .jal _ | .jalr _ _ _ | .jr _ _ => true
  | .ld _ _ _ _ _ | .st _ _ _ _ | .ldv _ _ _ | .stv _ _ _ | .ldvol _ _ _ _ _ | .stvol _ _ _ _ => true
  | _ => false

/-- Words that must not be the last of a loop body: control transfers, LOOP, REPV (R140). -/
def isTransfer : Instr → Bool
  | .beq _ _ _ | .bne _ _ _ | .blt _ _ _ | .bge _ _ _ | .bltc _ _ _ | .bgec _ _ _ => true
  | .j _ | .jal _ | .jalr _ _ _ | .jr _ _ | .loop _ _ _ | .repv _ _ _ _ _ => true
  | _ => false

/-- The mode that a CRD of a control register requires (Table 6 of 19). -/
def crReadMode (num : BitVec 12) : Mode :=
  let n := num.toNat
  if 0x1C ≤ n ∧ n ≤ 0x1F ∨ n = 0x56 ∨ n = 0x69 ∨ n = 0x6A then .stave
  else if n = 0x53 ∨ n = 0x54 ∨ (0x58 ≤ n ∧ n ≤ 0x61) ∨ n = 0x6D ∨ n = 0x6E ∨ n = 0x70 then .shop
  else .user

/-- The mode that a CWR of a control register requires; a register that only the device writes requires none (Table 6 of 19),
but SMASK and RBDATA require shop mode (R110, R442). -/
def crWriteMode (num : BitVec 12) : Mode :=
  let n := num.toNat
  if n = 0x53 ∨ n = 0x54 ∨ (0x58 ≤ n ∧ n ≤ 0x61) ∨ n = 0x6D ∨ n = 0x6E ∨ n = 0x6F ∨ n = 0x70 then .shop
  else if n ≤ 2 ∨ n = 4 ∨ n = 8 ∨ n = 9 ∨ n = 0xA ∨ n = 0xB ∨ n = 0xC ∨ n = 0x16 ∨ n = 0x17 ∨ n = 0x30 ∨
      n = 0x42 ∨ n = 0x51 ∨ n = 0x56 ∨ n = 0x6C then .user
  else .stave

/-- The mode that an instruction requires (R36; the owning chapters). -/
def minMode : Instr → Mode
  | .tret | .tlbinv _ _ _ | .ctxsw _ _ _ | .freplay _ _ _ | .fkill _ _ _ | .fqack _ _ => .stave
  | .launch _ _ | .migrate _ _ _ | .wseed _ => .stave
  | .stvgrow _ _ _ | .stvshrink _ _ _ | .stvmap _ _ _ | .rhashBegin _ _ _ | .rhashCommit _ _ | .quar _ _ _ => .shop
  | .cleanP _ => .shop
  | .crd _ num => crReadMode num
  | .cwr _ num => crWriteMode num
  | _ => .user

/-- The mode that an instruction requires now: TRCFG is read-only once the first stave has opened (Table 6 of 19, R451), and a CWR to it
then has no effect in any mode. -/
def State.needs (s : State) (i : Instr) : Mode :=
  match i with
  | .cwr _ num => if num = 0x6F ∧ s.dev.opened then .user else minMode i
  | _ => minMode i

/-- HINT words (R26). -/
def isHintInstr : Instr → Bool
  | .hintWide _ | .hintMempol _ _ | .hintRound _ | .hintSched _ _ => true
  | _ => false

/-- The checks before an instruction's own (R36): ILLEGAL for a WIDE that it does not accept (R30) and for a transfer, LOOP or
REPV as the last word of an active body (R140), then PRIV. TVAL is the word. -/
def precheck (i : Instr) (s : State) : Option (Cause × W64) :=
  if s.me.hints.wide.isSome && !acceptsWide i && !isHintInstr i then some (.illegal, zext (encode i))
  else if isTransfer i && s.me.endsBody s.me.pc then some (.illegal, zext (encode i))
  else if !s.me.may (s.needs i) then some (.priv, zext (encode i))
  else none

/-- What the members of a gang hold at the moment a word issues, in member order, and the index of the member that acts. A
core that is not in a locked gang counts as a gang of width 1 (R25). -/
structure Crew where
  cores : List Core
  idx : Nat
  deriving DecidableEq, Repr

/-- The member that decides (R150). -/
def Crew.lead (w : Crew) (s : State) : Core := w.cores.headD s.me

/-- An effect as it depends on the gang. -/
abbrev Body := Crew → State → Res

/-- The checks before an effect: a cause and its value. -/
abbrev Check := State → Option (Cause × W64)

/-- The outcome of an instruction on the core in focus. -/
def runOne (chk : Check) (body : Body) (w : Crew) (s : State) : Res :=
  match chk s with
  | some (c, v) => .trap c v s
  | none => (body w s).giveBack s

/-- Run an effect on the members of a gang one after another, with the results in member order. -/
def crewResults (chk : Check) (body : Body) (cores : List Core) : List Nat → Nat → State → List (Nat × Res)
  | [], _, _ => []
  | k :: t, n, s =>
    let r := runOne chk body ⟨cores, n⟩ (s.focus k)
    let s' := match r with
      | .done s _ => s
      | .trap _ _ _ => s
      | .wait _ s => s
    (k, r) :: crewResults chk body cores t (n + 1) s'

/-- The state after the last member's effect. -/
def lastState (s : State) : List (Nat × Res) → State
  | [] => s
  | (_, .done s' _) :: t => lastState s' t
  | _ :: t => lastState s t

/-- How the leader goes on. -/
def leadNext : List (Nat × Res) → Next
  | (_, .done _ n) :: _ => n
  | _ => .seq

/-- Every member retires and goes on as member 0 does (R150). A TRAP or a BRK then traps in each member with its own value. -/
def retireCrew (rs : List (Nat × Res)) (s : State) : State :=
  let lead := match rs with
    | (k, _) :: _ => s.coreAt k
    | [] => s.me
  let pc := (lead.goOn (leadNext rs)).pc
  let s := rs.foldl (fun s r =>
    let s := s.focus r.1
    s.retireTo (s.me.goOnWith lead (leadNext rs)) (leadNext rs)) s
  rs.foldl (fun s r =>
    match r.2 with
    | .done _ (.trapAfter c v) => (s.focus r.1).trapEntry c v pc
    | _ => s) s

/-- The first member of a crew that trapped: its index in the crew, and its resume address. -/
def firstTrap : List (Nat × Res) → Nat → Option (Nat × W64)
  | [], _ => none
  | (_, .trap _ _ s) :: _, n => some (n, s.me.trapPc)
  | _ :: t, n => firstTrap t (n + 1)

/-- Whether a member's cause is a trigger (R432). (Log 77, DEDUCED.) -/
def crewTrigger (rs : List (Nat × Res)) (s : State) : Bool :=
  rs.any fun r => match r.2 with | .trap c _ _ => (s.focus r.1).isTrigger c.code | _ => false

/-- A member of the crew meets a trigger: it waits for ROLLBACK, and so do the others; the gang stays locked. -/
def holdTrigger (rs : List (Nat × Res)) (s : State) : State :=
  rs.foldl (fun s r =>
    let s := s.focus r.1
    match r.2 with
    | .trap c v _ => if s.isTrigger c.code then s.raise c.code v s.me.trapPc else { s with me := { s.me with wait := some .gang } }
    | _ => { s with me := { s.me with wait := some .gang } }) s

/-- Every member stops before the word: each that trapped reports its own cause, every other one GANG_HALT with the member
index of the lowest-numbered member that trapped; all hold one TPC (R151). A member's WSTAT is written before its trap (R323). -/
def haltCrew (rs : List (Nat × Res)) (s : State) : State :=
  let low := (firstTrap rs 0).getD (0, s.me.trapPc)
  let member := ((s.coreAt (listGet 0 (rs.map (·.1)) low.1)).member.map (·.member)).getD low.1
  if crewTrigger rs s then holdTrigger rs s
  else rs.foldl (fun s r =>
    let s := s.focus r.1
    match r.2 with
    | .trap c v t => { s with me.ctl.wstat := t.me.ctl.wstat }.raise c.code v low.2
    | _ => s.raise (Cause.gangHalt).code (w64 member) low.2) s

/-- A cause is raised at core k from outside its word: in a locked gang every member stops (R151). -/
def State.raiseAt (s : State) (k : Nat) (c : Cause) (v : W64) : State :=
  let t := s.focus k
  if t.me.bond = .gang then
    (haltCrew (t.me.crew.map fun m => (m, if m = k then Res.trap c v (t.focus m) else Res.wait .gang (t.focus m))) t).focus s.here
  else (t.raise c.code v t.me.trapPc).focus s.here

/-- Instructions that commit their elements one after another (R240, R228, R286). -/
def isLong : Instr → Bool
  | .mma _ _ _ _ _ _ _ | .zld _ _ _ _ _ | .zst _ _ _ _ _ | .outlacc _ _ _ _ _ _ | .quant _ _ _ _ _ _ => true
  | .gath _ _ _ _ _ | .scat _ _ _ _ _ | .vlut _ _ _ _ _ => true
  | _ => false

/-- Codes of the kinds of access (Table 4 of 19), and 4 for a request to the host. -/
def AccKind.ofCode (n : Nat) : AccKind := if n = 1 then .write else if n = 2 then .atomic else if n = 3 then .fetch else .read

/-- A member of a gang waits in a word of which nothing takes effect before every member's (R151, R419): a parked access is entered,
and nothing else stays. -/
def State.waitBare (s : State) (w : Wait) : State :=
  let bare (w : Wait) (s : State) : State := { s with me := { s.me with wait := some w } }
  match w with
  | .park _ va kind =>
    let k := AccKind.ofCode kind
    match s.translate s.me.space va.toNat k.writes with
    | .miss lv bad t =>
      match t.parkAccess va k lv bad with
      | .wait w t => bare w t
      | .done _ _ | .trap _ _ _ => bare w s
    | .hit _ _ => bare .gang s
  | .part | .mcmd => bare .gang s
  | w => bare w s

/-- When one member waits, every member waits, and none has performed its effect; a member that waits keeps what it has
recorded (R150), of a long instruction only where every member stops part-way at one point (R151), and nothing where a member's access
has parked (R419). -/
def holdCrew (long parked : Bool) (chk : Check) (body : Body) (cores : List Core) : List Nat → Nat → State → State
  | [], _, s => s
  | k :: t, n, s =>
    let s := s.focus k
    let s := match runOne chk body ⟨cores, n⟩ s with
      | .wait w s' => if parked || (long && w != .part) then s.waitBare w else { s' with me := { s'.me with wait := some w } }
      | .done _ _ | .trap _ _ _ => if s.me.wait.isNone then { s with me := { s.me with wait := some .gang } } else s
    holdCrew long parked chk body cores t (n + 1) s

/-- Whether a member waits otherwise than part-way. -/
def waitsWhole (rs : List (Nat × Res)) : Bool :=
  rs.any fun r => match r.2 with | .wait w _ => w != .part | _ => false

/-- Whether a member's access parks or waits for a pending record (R419). -/
def parks (rs : List (Nat × Res)) : Bool :=
  rs.any fun r => match r.2 with
    | .wait (.park _ _ _) _ | .wait .faultRoom _ => true
    | _ => false

/-- A number of elements that no long instruction reaches. -/
def manyElements : Nat := 4096

/-- The elements that a member which waits on an empty line has completed, when it started with a quota of many; none for others. -/
def elementsDone : Res → Option Nat
  | .wait .empty s => s.me.quota.map fun r => manyElements - r - 1
  | _ => none

/-- The elements that every member of a gang completes of a long instruction in which some member waits on an empty line (R240, R228): all
stop at one point (R151). None where no member does. -/
def crewPoint (chk : Check) (body : Body) (cores : List Core) (crew : List Nat) (s : State) : Option Nat :=
  let full (c : Core) : Core := { c with quota := some manyElements }
  let rs := crewResults chk body (cores.map full) crew 0 (s.onAll crew full)
  let all := rs.all fun r => match r.2 with
    | .done _ _ | .wait .empty _ | .wait .part _ => true
    | _ => false
  if all then (rs.filterMap fun r => elementsDone r.2).foldl (fun m n => some (m.elim n fun x => min x n)) none else none

/-- A word in every member of a locked gang (R150, R151). (Log 28, DEDUCED.) (Log 50, DEDUCED.) -/
def runCrew (long : Bool) (chk : Check) (body : Body) (s : State) : State :=
  let crew := s.me.crew
  let cores := crew.map s.coreAt
  let rs := crewResults chk body cores crew 0 s
  let s' :=
    if rs.any fun r => match r.2 with | .trap _ _ _ => true | _ => false then haltCrew rs s
    else if rs.any fun r => match r.2 with | .wait _ _ => true | _ => false then
      -- an empty line stops all members part-way at one point; where one member stalls otherwise, at the beginning
      match (if long && waitsWhole rs then crewPoint chk body cores crew s else none) with
      | some n =>
        if n = 0 then holdCrew long (parks rs) chk body cores crew 0 (s.onAll crew fun c => { c with quota := none })
        else holdCrew long false chk body cores crew 0 (s.onAll crew fun c => { c with quota := some n })
      | none =>
        holdCrew long (parks rs) chk body cores crew 0 (if long && waitsWhole rs then s.onAll crew fun c => { c with quota := none } else s)
    else retireCrew rs (lastState s rs)
  s'.focus s.here

/-- Issue a word with its checks and an effect that may look at the gang. -/
def issueBy (chk : Check) (body : Body) (s : State) (long : Bool := false) : Out :=
  if s.me.stopped then .fault .coreStopped
  else if s.me.bond = .gang then .next (runCrew long chk body s)
  else .next (runOne chk body ⟨[s.me], 0⟩ s).settle

/-- Issue an instruction with an effect that may look at the gang. -/
def issueG (i : Instr) (body : Body) (s : State) : Out := issueBy (precheck i) body s (isLong i)

/-- Issue an instruction. -/
def issue (i : Instr) (body : State → Res) (s : State) : Out := issueG i (fun _ => body) s

/-- A step of the device without an encoding: it always completes. -/
def event (f : State → State) (s : State) : Out := .next (f s)

/-! ## Immediates and offsets under WIDE (Table 7 of 01) -/

/-- ImmS: the effective signed immediate. -/
def State.immS (s : State) (imm : BitVec 13) : W64 :=
  match s.me.hints.wide with
  | some hi => sext (hi ++ imm)
  | none => sext imm

/-- Off of a B-format word, in words. -/
def State.offB (s : State) (off : BitVec 13) : W64 := s.immS off

/-- Off of a J-format word, in words. -/
def State.offJ (s : State) (off : BitVec 25) : W64 :=
  match s.me.hints.wide with
  | some hi => sext (hi ++ off)
  | none => sext off

/-- The effective address of an LD-layout access of a size in bytes (01). -/
def State.ea (s : State) (a : Reg) (off : BitVec 10) (size : Nat) : W64 :=
  let o : W64 := match s.me.hints.wide with
    | some hi => sext (hi ++ off)
    | none => zext off
  s.g a + o * w64 size

/-- Bytes of a size code (R16). -/
def sizeBytes : MemSize → Nat
  | .b => 1 | .h => 2 | .w => 4 | .d => 8

end Sys2Proof.Machine
end

