-- ==== Sys2Proof/Machine/Scalar.lean ====
section
/-! DEFINITION. Scalar, address and control instructions (07_scalar: R164 to R180). -/

namespace Sys2Proof.Machine

/-! ## Results of the ALU (Table 1 of 07) -/

/-- The shift amount B[5:0]. -/
def shAmt (b : W64) : Nat := field b 0 6

/-- Rotation right (R165). -/
def ror64 (a : W64) (n : Nat) : W64 := ((a ++ a) >>> n).setWidth 64

/-- 1 or 0. -/
def w1 (c : Bool) : W64 := if c then 1 else 0

/-- The high half of a product of 128-bit two's-complement numbers. -/
def highHalf (x y : BitVec 128) : W64 := (x * y).extractLsb' 64 64

/-- Signed quotient (R166). -/
def divS (a b : W64) : W64 :=
  if b = 0 then -1 else if a = 0x8000000000000000 ∧ b = -1 then 0x8000000000000000 else BitVec.ofInt 64 (a.toInt.tdiv b.toInt)

/-- Signed remainder (R166): it takes the sign of the dividend. -/
def remS (a b : W64) : W64 :=
  if b = 0 then a else if a = 0x8000000000000000 ∧ b = -1 then 0 else BitVec.ofInt 64 (a.toInt.tmod b.toInt)

/-- Cardinal quotient (R166). -/
def divU (a b : W64) : W64 := if b = 0 then -1 else w64 (a.toNat / b.toNat)

/-- Cardinal remainder (R166). -/
def remU (a b : W64) : W64 := if b = 0 then a else w64 (a.toNat % b.toNat)

/-- Zero bits above the highest one bit, of n bits (R174). -/
def leadingZeros : Nat → Nat → Nat
  | 0, _ => 0
  | n + 1, x => if x.testBit n then 0 else 1 + leadingZeros n x

/-- Zero bits below the lowest one bit, of n bits (R174). -/
def trailingZeros : Nat → Nat → Nat
  | 0, _ => 0
  | n + 1, x => if x % 2 = 1 then 0 else 1 + trailingZeros n (x / 2)

/-- Bytes in the opposite order (R174). -/
def swapBytes (a : W64) : W64 := w64 (ofLeBytes (leBytes 8 a.toNat).reverse)

/-- Bits in the opposite order (R174). -/
def swapBits (a : W64) : W64 := w64 ((List.range 64).foldl (fun x i => 2 * x + bit (a.getLsbD i)) 0)

/-- BEXT (R170). -/
def bitExtract (a : W64) (w o : Nat) : W64 := w64 (a.toNat / 2 ^ o % 2 ^ w)

/-- BEXTS (R170): the field of A extended by its own sign, read as a w-bit two's-complement number. -/
def bitExtractS (a : W64) (w o : Nat) : W64 := (BitVec.ofInt w (a.toInt / 2 ^ o)).signExtend 64

/-- BINS (R170). -/
def bitInsert (d a : W64) (w o : Nat) : W64 :=
  let mask := w64 ((2 ^ w - 1) * 2 ^ o)
  (d &&& ~~~mask) ||| ((a <<< o) &&& mask)

/-! ## Shared effects -/

/-- Write a result to g[d] and go on. -/
def put (d : Reg) (x : W64) (s : State) : Res := (s.setG d x).ok

/-- A conditional branch: member 0 of a locked gang decides (R150, R176). -/
def branch (cond : W64 → W64 → Bool) (a b : Reg) (off : BitVec 13) (w : Crew) (s : State) : Res :=
  let l := { s with me := w.lead s }
  if cond (l.g a) (l.g b) then .done s (.jump (s.me.pc + 4 * s.offB off)) else s.ok

/-- JALR and JR (R178): a misaligned target of member 0 traps, with no register written. -/
def jumpReg (d a : Reg) (imm : BitVec 13) (w : Crew) (s : State) : Res :=
  let t := { s with me := w.lead s }.g a + s.immS imm
  if t.toNat % 4 ≠ 0 then (if w.idx = 0 then .trap .misalign t s else .done s .stay)
  else .done (s.setG d (s.me.pc + 4)) (.jump t)

/-- A plain load of the pool (R172, R173): a poisoned record traps with its own address. (Log 44, DEDUCED.) -/
def poolLoad (s : State) (rec va : W64) (n : Nat) : Except Res (Nat × State) :=
  match s.noPol.load va n with
  | .error (.trap .poison _ s) => trapHere s .poison rec
  | r => r

/-- The address of a pool record (R58, R59, R172). -/
def State.poolRec (s : State) (idx : BitVec 12) : W64 := s.me.ctl.poolbase + 16 * zext idx

/-! ## The instructions -/

/-- ADD (R165). -/
def execAdd (d a b : Reg) (s : State) : Out :=
  issue (.add d a b) (fun s => put d (s.g a + s.g b) s) s

/-- SUB (R165). -/
def execSub (d a b : Reg) (s : State) : Out :=
  issue (.sub d a b) (fun s => put d (s.g a - s.g b) s) s

/-- AND (R165). -/
def execAnd (d a b : Reg) (s : State) : Out :=
  issue (.and d a b) (fun s => put d (s.g a &&& s.g b) s) s

/-- OR (R165). -/
def execOr (d a b : Reg) (s : State) : Out :=
  issue (.or d a b) (fun s => put d (s.g a ||| s.g b) s) s

/-- XOR (R165). -/
def execXor (d a b : Reg) (s : State) : Out :=
  issue (.xor d a b) (fun s => put d (s.g a ^^^ s.g b) s) s

/-- ANDN (R165). -/
def execAndn (d a b : Reg) (s : State) : Out :=
  issue (.andn d a b) (fun s => put d (s.g a &&& ~~~(s.g b)) s) s

/-- SHL (R165). -/
def execShl (d a b : Reg) (s : State) : Out :=
  issue (.shl d a b) (fun s => put d (s.g a <<< shAmt (s.g b)) s) s

/-- SHR (R165). -/
def execShr (d a b : Reg) (s : State) : Out :=
  issue (.shr d a b) (fun s => put d (s.g a >>> shAmt (s.g b)) s) s

/-- SAR (R165). -/
def execSar (d a b : Reg) (s : State) : Out :=
  issue (.sar d a b) (fun s => put d ((s.g a).sshiftRight (shAmt (s.g b))) s) s

/-- ROR (R165). -/
def execRor (d a b : Reg) (s : State) : Out :=
  issue (.ror d a b) (fun s => put d (ror64 (s.g a) (shAmt (s.g b))) s) s

/-- SLT (R165). -/
def execSlt (d a b : Reg) (s : State) : Out :=
  issue (.slt d a b) (fun s => put d (w1 ((s.g a).slt (s.g b))) s) s

/-- SLTC (R165). -/
def execSltc (d a b : Reg) (s : State) : Out :=
  issue (.sltc d a b) (fun s => put d (w1 ((s.g a).ult (s.g b))) s) s

/-- MIN (R165). -/
def execMin (d a b : Reg) (s : State) : Out :=
  issue (.min d a b) (fun s => put d (if (s.g b).slt (s.g a) then s.g b else s.g a) s) s

/-- MAX (R165). -/
def execMax (d a b : Reg) (s : State) : Out :=
  issue (.max d a b) (fun s => put d (if (s.g a).slt (s.g b) then s.g b else s.g a) s) s

/-- MINC (R165). -/
def execMinc (d a b : Reg) (s : State) : Out :=
  issue (.minc d a b) (fun s => put d (if (s.g b).ult (s.g a) then s.g b else s.g a) s) s

/-- MAXC (R165). -/
def execMaxc (d a b : Reg) (s : State) : Out :=
  issue (.maxc d a b) (fun s => put d (if (s.g a).ult (s.g b) then s.g b else s.g a) s) s

/-- MUL (R165). -/
def execMul (d a b : Reg) (s : State) : Out :=
  issue (.mul d a b) (fun s => put d (s.g a * s.g b) s) s

/-- MULH (R165). -/
def execMulh (d a b : Reg) (s : State) : Out :=
  issue (.mulh d a b) (fun s => put d (highHalf ((s.g a).signExtend 128) ((s.g b).signExtend 128)) s) s

/-- MULHC (R165). -/
def execMulhc (d a b : Reg) (s : State) : Out :=
  issue (.mulhc d a b) (fun s => put d (highHalf ((s.g a).setWidth 128) ((s.g b).setWidth 128)) s) s

/-- MULHSC (R165). -/
def execMulhsc (d a b : Reg) (s : State) : Out :=
  issue (.mulhsc d a b) (fun s => put d (highHalf ((s.g a).signExtend 128) ((s.g b).setWidth 128)) s) s

/-- DIV (R166). -/
def execDiv (d a b : Reg) (s : State) : Out :=
  issue (.div d a b) (fun s => put d (divS (s.g a) (s.g b)) s) s

/-- DIVC (R166). -/
def execDivc (d a b : Reg) (s : State) : Out :=
  issue (.divc d a b) (fun s => put d (divU (s.g a) (s.g b)) s) s

/-- REM (R166). -/
def execRem (d a b : Reg) (s : State) : Out :=
  issue (.rem d a b) (fun s => put d (remS (s.g a) (s.g b)) s) s

/-- REMC (R166). -/
def execRemc (d a b : Reg) (s : State) : Out :=
  issue (.remc d a b) (fun s => put d (remU (s.g a) (s.g b)) s) s

/-- ADDI (R167). -/
def execAddi (d a : Reg) (imm : BitVec 13) (s : State) : Out :=
  issue (.addi d a imm) (fun s => put d (s.g a + s.immS imm) s) s

/-- ANDI (R167). -/
def execAndi (d a : Reg) (imm : BitVec 13) (s : State) : Out :=
  issue (.andi d a imm) (fun s => put d (s.g a &&& s.immS imm) s) s

/-- ORI (R167). -/
def execOri (d a : Reg) (imm : BitVec 13) (s : State) : Out :=
  issue (.ori d a imm) (fun s => put d (s.g a ||| s.immS imm) s) s

/-- XORI (R167). -/
def execXori (d a : Reg) (imm : BitVec 13) (s : State) : Out :=
  issue (.xori d a imm) (fun s => put d (s.g a ^^^ s.immS imm) s) s

/-- SLTI (R167). -/
def execSlti (d a : Reg) (imm : BitVec 13) (s : State) : Out :=
  issue (.slti d a imm) (fun s => put d (w1 ((s.g a).slt (s.immS imm))) s) s

/-- SLTCI (R167). -/
def execSltci (d a : Reg) (imm : BitVec 13) (s : State) : Out :=
  issue (.sltci d a imm) (fun s => put d (w1 ((s.g a).ult (s.immS imm))) s) s

/-- MULI (R167). -/
def execMuli (d a : Reg) (imm : BitVec 13) (s : State) : Out :=
  issue (.muli d a imm) (fun s => put d (s.g a * s.immS imm) s) s

/-- SHLI (R168). -/
def execShli (d a : Reg) (n : BitVec 6) (s : State) : Out :=
  issue (.shli d a n) (fun s => put d (s.g a <<< n.toNat) s) s

/-- SHRI (R168). -/
def execShri (d a : Reg) (n : BitVec 6) (s : State) : Out :=
  issue (.shri d a n) (fun s => put d (s.g a >>> n.toNat) s) s

/-- SARI (R168). -/
def execSari (d a : Reg) (n : BitVec 6) (s : State) : Out :=
  issue (.sari d a n) (fun s => put d ((s.g a).sshiftRight n.toNat) s) s

/-- RORI (R168). -/
def execRori (d a : Reg) (n : BitVec 6) (s : State) : Out :=
  issue (.rori d a n) (fun s => put d (ror64 (s.g a) n.toNat) s) s

/-- BEXT (R170). -/
def execBext (d a : Reg) (width : BitVec 5) (off : BitVec 6) (s : State) : Out :=
  issue (.bext d a width off) (fun s => put d (bitExtract (s.g a) width.toNat off.toNat) s) s

/-- BEXTS (R170). -/
def execBexts (d a : Reg) (width : BitVec 5) (off : BitVec 6) (s : State) : Out :=
  issue (.bexts d a width off) (fun s => put d (bitExtractS (s.g a) width.toNat off.toNat) s) s

/-- BINS (R170). -/
def execBins (d a : Reg) (width : BitVec 5) (off : BitVec 6) (s : State) : Out :=
  issue (.bins d a width off) (fun s => put d (bitInsert (s.g d) (s.g a) width.toNat off.toNat) s) s

/-- LEA (R171). -/
def execLea (d a b : Reg) (n : BitVec 3) (s : State) : Out :=
  issue (.lea d a b n) (fun s => put d (s.g a + (s.g b <<< n.toNat)) s) s

/-- LADDR (R172, R173). -/
def execLaddr (d a : Reg) (idx : BitVec 12) (s : State) : Out :=
  issue (.laddr d a idx) (fun s => settle do
    let base := s.g a
    let (x, s) ← poolLoad s (s.poolRec idx) (s.poolRec idx) 8
    return put d (w64 x + base) s) s

/-- LADDR.LEN (R172, R173). -/
def execLaddrLen (d : Reg) (idx : BitVec 12) (s : State) : Out :=
  issue (.laddrLen d idx) (fun s => settle do
    let (x, s) ← poolLoad s (s.poolRec idx) (s.poolRec idx + 8) 4
    return put d (w64 x) s) s

/-- CLZ (R174). -/
def execClz (d a : Reg) (s : State) : Out :=
  issue (.clz d a) (fun s => put d (w64 (leadingZeros 64 (s.g a).toNat)) s) s

/-- CTZ (R174). -/
def execCtz (d a : Reg) (s : State) : Out :=
  issue (.ctz d a) (fun s => put d (w64 (trailingZeros 64 (s.g a).toNat)) s) s

/-- POPC (R174). -/
def execPopc (d a : Reg) (s : State) : Out :=
  issue (.popc d a) (fun s => put d (w64 (popCount 64 (s.g a).toNat)) s) s

/-- BREV (R174). -/
def execBrev (d a : Reg) (s : State) : Out :=
  issue (.brev d a) (fun s => put d (swapBits (s.g a)) s) s

/-- BSWAP (R174). -/
def execBswap (d a : Reg) (s : State) : Out :=
  issue (.bswap d a) (fun s => put d (swapBytes (s.g a)) s) s

/-- SEXTB (R174). -/
def execSextb (d a : Reg) (s : State) : Out :=
  issue (.sextb d a) (fun s => put d (sext ((s.g a).setWidth 8)) s) s

/-- SEXTH (R174). -/
def execSexth (d a : Reg) (s : State) : Out :=
  issue (.sexth d a) (fun s => put d (sext ((s.g a).setWidth 16)) s) s

/-- SEXTW (R174). -/
def execSextw (d a : Reg) (s : State) : Out :=
  issue (.sextw d a) (fun s => put d (sext ((s.g a).setWidth 32)) s) s

/-- ZEXTH (R174). -/
def execZexth (d a : Reg) (s : State) : Out :=
  issue (.zexth d a) (fun s => put d (zext ((s.g a).setWidth 16)) s) s

/-- ZEXTW (R174). -/
def execZextw (d a : Reg) (s : State) : Out :=
  issue (.zextw d a) (fun s => put d (zext ((s.g a).setWidth 32)) s) s

/-- SEL (R175). -/
def execSel (d a b c : Reg) (s : State) : Out :=
  issue (.sel d a b c) (fun s => put d (if s.g c ≠ 0 then s.g a else s.g b) s) s

/-- SELZ (R175). -/
def execSelz (d a b c : Reg) (s : State) : Out :=
  issue (.selz d a b c) (fun s => put d (if s.g c = 0 then s.g a else s.g b) s) s

/-- BEQ (R176). -/
def execBeq (a b : Reg) (off : BitVec 13) (s : State) : Out :=
  issueG (.beq a b off) (branch (fun x y => x == y) a b off) s

/-- BNE (R176). -/
def execBne (a b : Reg) (off : BitVec 13) (s : State) : Out :=
  issueG (.bne a b off) (branch (fun x y => x != y) a b off) s

/-- BLT (R176). -/
def execBlt (a b : Reg) (off : BitVec 13) (s : State) : Out :=
  issueG (.blt a b off) (branch (fun x y => x.slt y) a b off) s

/-- BGE (R176). -/
def execBge (a b : Reg) (off : BitVec 13) (s : State) : Out :=
  issueG (.bge a b off) (branch (fun x y => !x.slt y) a b off) s

/-- BLTC (R176). -/
def execBltc (a b : Reg) (off : BitVec 13) (s : State) : Out :=
  issueG (.bltc a b off) (branch (fun x y => x.ult y) a b off) s

/-- BGEC (R176). -/
def execBgec (a b : Reg) (off : BitVec 13) (s : State) : Out :=
  issueG (.bgec a b off) (branch (fun x y => !x.ult y) a b off) s

/-- J (R177). -/
def execJ (off : BitVec 25) (s : State) : Out :=
  issue (.j off) (fun s => .done s (.jump (s.me.pc + 4 * s.offJ off))) s

/-- JAL (R177): the return address goes to g63. -/
def execJal (off : BitVec 25) (s : State) : Out :=
  issue (.jal off) (fun s => .done (s.setG 63 (s.me.pc + 4)) (.jump (s.me.pc + 4 * s.offJ off))) s

/-- JALR (R178). -/
def execJalr (d a : Reg) (imm : BitVec 13) (s : State) : Out := issueG (.jalr d a imm) (jumpReg d a imm) s

/-- JR (R178): JALR with d = 0, whose link write is discarded. -/
def execJr (a : Reg) (imm : BitVec 13) (s : State) : Out := issueG (.jr a imm) (jumpReg 0 a imm) s

end Sys2Proof.Machine
end

