-- ==== Sys2Proof/Machine/Copy.lean ====
section
/-! DEFINITION. The copy engine (12_copy_engine: R290 to R307): templates, starts, sectors, sync objects, and the COPY
instructions. -/

namespace Sys2Proof.Machine

/-! ## Templates (R290, R291) -/

/-- Fields of a template (Table 1 of 12). -/
structure Tmpl where
  src : W64
  dst : W64
  n0 : Nat
  n1 : Nat
  n2 : Nat
  flags : Nat
  ss1 : Int
  ss2 : Int
  ds1 : Int
  ds2 : Int
  sync : W64
  meta_ : W64
  deriving DecidableEq, Repr

/-- The fields of a template's 64 bytes. -/
def tmplOf (t : BitVec 512) : Tmpl :=
  { src := t.extractLsb' 0 64, dst := t.extractLsb' 64 64, n0 := field t 128 32, n1 := field t 160 32, n2 := field t 192 32,
    flags := field t 224 32, ss1 := (t.extractLsb' 256 32).toInt, ss2 := (t.extractLsb' 288 32).toInt,
    ds1 := (t.extractLsb' 320 32).toInt, ds2 := (t.extractLsb' 352 32).toInt, sync := t.extractLsb' 384 64,
    meta_ := t.extractLsb' 448 64 }

/-- Element size in bytes. -/
def Tmpl.esz (t : Tmpl) : Nat := 2 ^ (t.flags % 4)

/-- Transform: 0 none, 1 EXPAND24, 2 COMPACT24. -/
def Tmpl.xf (t : Tmpl) : Nat := t.flags / 4 % 4

/-- Two's-complement magnitudes. -/
def Tmpl.twos (t : Tmpl) : Bool := t.flags.testBit 4

/-- Destination bytes of a row. -/
def Tmpl.rowBytes (t : Tmpl) : Nat := if t.xf = 2 then t.n0 / 2 * t.esz else t.n0 * t.esz

/-- Groups of four elements in the copy. -/
def Tmpl.groups (t : Tmpl) : Nat := t.n0 / 4 * t.n1 * t.n2

/-- The byte total (R296). -/
def Tmpl.total (t : Tmpl) : Nat := t.rowBytes * t.n1 * t.n2 + (if t.xf = 2 then (t.groups + 1) / 2 else 0)

/-- Whether a template is valid (R291). -/
def Tmpl.valid (t : Tmpl) : Bool :=
  let e : Int := t.esz
  decide (1 ≤ t.n0 ∧ t.n0 ≤ 2 ^ 20 ∧ 1 ≤ t.n1 ∧ t.n1 ≤ 65535 ∧ 1 ≤ t.n2 ∧ t.n2 ≤ 65535 ∧ t.flags < 32 ∧ t.xf ≠ 3 ∧
    t.ss1 % e = 0 ∧ t.ss2 % e = 0 ∧ t.ds1 % e = 0 ∧ t.ds2 % e = 0 ∧
    (t.xf = 0 → t.meta_ = 0) ∧ (t.xf ≠ 0 → t.n0 % 4 = 0) ∧
    (t.xf = 1 → (t.n0 / 2 * t.esz : Nat) ≤ t.ss1) ∧ (t.xf = 2 → (t.n0 / 2 * t.esz : Nat) ≤ t.ds1) ∧
    t.total ≤ 2 ^ 30 ∧ t.sync.toNat % 16 = 0)

/-! ## Rows and sectors (R296) -/

/-- The slot that a start names, and its argument (R294). -/
def startSlot (data : W64) : Nat := field data 0 8

def startArg (data : W64) : W64 := sext (data.extractLsb' 8 56)

/-- Source address of row r, rows numbered plane by plane. -/
def Tmpl.srcRow (t : Tmpl) (arg : W64) (r : Nat) : W64 :=
  t.src + arg + BitVec.ofInt 64 (t.ss2 * (r / t.n1 : Nat) + t.ss1 * (r % t.n1 : Nat))

/-- Destination address of row r. -/
def Tmpl.dstRow (t : Tmpl) (arg : W64) (r : Nat) : W64 :=
  t.dst + arg + BitVec.ofInt 64 (t.ds2 * (r / t.n1 : Nat) + t.ds1 * (r % t.n1 : Nat))

/-- A sector: its row, its first byte in the row, its length. -/
structure Sector where
  row : Nat
  off : Nat
  len : Nat
  deriving DecidableEq, Repr

/-- Sectors of a row: its parts in the 128-byte lines of the destination. -/
def Tmpl.rowSectors (t : Tmpl) (arg : W64) (r : Nat) : List Sector :=
  let a := (t.dstRow arg r).toNat % 128
  (List.range ((a + t.rowBytes + 127) / 128)).map fun i =>
    let lo := 128 * i - a
    let hi := if 128 * (i + 1) - a < t.rowBytes then 128 * (i + 1) - a else t.rowBytes
    ⟨r, lo, hi - lo⟩

/-- All sectors of a copy, numbered by their places in the list. -/
def Tmpl.sectors (t : Tmpl) (arg : W64) : List Sector := (List.range (t.n1 * t.n2)).flatMap (t.rowSectors arg)

/-- Destination address of a sector. -/
def Tmpl.dstOf (t : Tmpl) (arg : W64) (x : Sector) : W64 := t.dstRow arg x.row + w64 x.off

/-- The line of own local memory that an address lies in, for a core of a logical number (R261, R262). -/
def ownLine (lcore : BitVec 13) (a : W64) : Option Nat :=
  let off := field a 0 18
  if 0x30000 ≤ off then none
  else if field a 18 46 = 0x3FFFC0000000 then some (off / 128)
  else if field a 31 33 = 0x1FFFC0000 ∧ field a 18 13 = lcore.toNat then some (off / 128)
  else none

/-- Metadata bytes that a copy writes (R296). -/
def Tmpl.metaLen (t : Tmpl) : Nat := if t.xf = 2 then (t.groups + 1) / 2 else 0

/-- The line of own local memory that metadata byte b lies in. -/
def Tmpl.metaLine (t : Tmpl) (lcore : BitVec 13) (b : Nat) : Option Nat := ownLine lcore (t.meta_ + w64 b)

/-- Own local lines that a copy writes, with data or with metadata (R294). -/
def Tmpl.ownLines (t : Tmpl) (arg : W64) (lcore : BitVec 13) : List Nat :=
  insertNats ((List.range t.metaLen).filterMap (t.metaLine lcore))
    (insertNats ((t.sectors arg).filterMap fun x => ownLine lcore (t.dstOf arg x)) [])

/-- Lines of local memory become empty: what has landed in them before is over. -/
def Loc.clear (l : Loc) (lines : List Nat) : Loc :=
  { l with empty := insertNats lines l.empty, landed := l.landed.filter fun x => !lines.contains x }

/-! ## Starting a copy (R294, R295) -/

/-- A copy that becomes active. -/
def Start.active (x : Start) : Copy :=
  { slot := BitVec.ofNat 8 (startSlot x.data), arg := startArg x.data, tmpl := x.tmpl, landed := [], parked := [],
    bytes := 0, who := x.who, fork := x.fork }

/-- Change a channel of a core. -/
def Core.onChan (c : Core) (n : Nat) (f : Chan → Chan) : Core :=
  if h : n < 4 then { c with chans := c.chans.set n (f c.chans[n]) h } else c

/-- A channel of a core. -/
def Core.chan (c : Core) (n : Nat) : Chan := if h : n < 4 then c.chans[n] else ⟨none, []⟩

/-- A start enters its channel. -/
def Chan.enter (c : Chan) (x : Start) : Chan :=
  match c.active with
  | none => { c with active := some x.active }
  | some _ => { c with waiting := c.waiting ++ [x] }

/-- An aperture store (R294): an empty or missing slot and a base that is not aligned to the element refuse the start. (Log 46, DESIGN CHOICE.) -/
def State.startCopy (s : State) (ch : Nat) (data : W64) : Except Res State :=
  let c := s.me.chan ch
  if c.active.isSome && decide (3 ≤ c.waiting.length) then .error (.wait .chan s)
  else
    match (s.me.templates.toList[startSlot data]?).join with
    | none => .ok s
    | some raw =>
      let t := tmplOf raw
      let arg := startArg data
      if (t.src + arg).toNat % t.esz ≠ 0 ∨ (t.dst + arg).toNat % t.esz ≠ 0 then
        .ok (if t.sync = 0 then s else s.syncAdd s.issuer t.sync 0 0x11)
      else
        -- the fork of an engine operation is a release (R276, R305)
        let s := s.selfRelease
        let x : Start := ⟨data, raw, s.issuer, s.dev.netOrder⟩
        let lines := t.ownLines arg s.me.lcore
        .ok { s with me := ({ s.me with loc := s.me.loc.clear lines } : Core).onChan ch fun c => c.enter x }

/-! ## A sector (R296, R297, R302, R306) -/

/-- What reading a span comes to: bytes, each with its poison. -/
inductive EngBytes where
  | ok (l : List (Nat × Bool))
  | parked (page : Nat × Nat)
  | refused
  | later
  deriving DecidableEq, Repr

/-- Bytes of a span by pieces that lie in one line each: at most k pieces. before: the budgets at the beginning of the step. A peer that
refuses answers with poisoned data (R453). -/
def State.engineBytes (s : State) (who : Issuer) (before : List (Nat × Nat)) : Nat → W64 → Nat → EngBytes × State
  | 0, _, _ => (.ok [], s)
  | k + 1, va, n =>
    if n = 0 then (.ok [], s)
    else
      let piece := if n < 128 - va.toNat % 128 then n else 128 - va.toNat % 128
      let rest (s : State) (l : List (Nat × Bool)) : EngBytes × State :=
        match State.engineBytes s who before k (va + w64 piece) (n - piece) with
        | (.ok t, s) => (.ok (l ++ t), s)
        | r => r
      match s.enginePlace who va .read piece before with
      | (.parked v, s) => (.parked v, s)
      | (.refused, s) => (.refused, s)
      | (.later, s) => (.later, s)
      | (.denied, s) => rest s (List.replicate piece (0, true))
      | (.ok pl, s) =>
        let (x, bad, s) := s.engineRead who pl piece
        rest s ((List.range piece).map fun i => (x / 256 ^ i % 256, bad.contains ((pl.start + i) / 8)))

/-- Element i of bytes with its poison. -/
def elemAt (e : Nat) (l : List (Nat × Bool)) (i : Nat) : Nat × Bool :=
  let x := (l.drop (e * i)).take e
  (x.foldr (fun b t => b.1 + 256 * t) 0, x.any (·.2))

/-- Bytes of an element. -/
def elemBytes (e x : Nat) (bad : Bool) : List (Nat × Bool) := (List.range e).map fun i => (x / 256 ^ i % 256, bad)

/-- A group expanded by a nibble (R297), and whether the nibble is bad. -/
def expandGroup (e : Nat) (l : List (Nat × Bool)) (nib : Nat) (bad : Bool) : List (Nat × Bool) × Bool :=
  let j := nib % 4
  let k := nib / 4
  if k ≤ j then (elemBytes (4 * e) 0 bad, true)
  else
    ((List.range 4).flatMap fun i =>
      if i = j then elemBytes e (elemAt e l 0).1 (bad || (elemAt e l 0).2)
      else if i = k then elemBytes e (elemAt e l 1).1 (bad || (elemAt e l 1).2)
      else elemBytes e 0 bad, false)

/-- Magnitude for COMPACT24 (R297). -/
def magnitude (e : Nat) (twos : Bool) (x : Nat) : Nat :=
  if twos then (if x < 2 ^ (8 * e - 1) then x else 2 ^ (8 * e) - x) else x % 2 ^ (8 * e - 1)

/-- Elements of a group that rank above element i. -/
def above (m : Nat → Nat) (i : Nat) : Nat :=
  ((List.range 4).filter fun j => decide (m i < m j) || (m j == m i && decide (j < i))).length

/-- The two kept elements of a group of four, and their nibble (R297). -/
def compactGroup (e : Nat) (twos : Bool) (l : List (Nat × Bool)) : List (Nat × Bool) × Nat × Bool :=
  let m (i : Nat) := magnitude e twos (elemAt e l i).1
  let kept := (List.range 4).filter fun i => decide (above m i < 2)
  let j := kept.headD 0
  let k := kept.getD 1 0
  (kept.flatMap fun i => elemBytes e (elemAt e l i).1 (elemAt e l i).2, j + 4 * k, l.any (·.2))

/-- Outcome of a sector's reads: destination bytes, nibbles to write by group, and whether a nibble was bad. -/
inductive SectorData where
  | ok (l : List (Nat × Bool)) (nibs : List (Nat × Nat × Bool)) (badMeta : Bool)
  | stop (r : EngBytes)
  deriving DecidableEq, Repr

/-- A bounded number of 128-byte pieces covers any span that a sector needs. -/
def pieces : Nat := 12

/-- A sector whose source bytes are among its destination bytes (R299): each aligned destination word takes its source's value from before,
or one that the sector has written there, and which one is not stated. -/
def State.overlapped (s : State) (src dst : W64) (l : List (Nat × Bool)) : List (Nat × Bool) × State :=
  let shift := (src - dst).toNat
  if shift = 0 ∨ (l.length ≤ shift ∧ shift ≤ 2 ^ 64 - l.length) then (l, s)
  else
    let a := dst.toNat % 8
    (List.range ((a + l.length + 7) / 8)).foldl (fun r w =>
      let (again, s) := r.2.drawBool
      if !again then (r.1, s)
      else
        (r.1.zipIdx.map fun b =>
          let from_ := (b.2 + shift) % 2 ^ 64
          if (a + b.2) / 8 = w ∧ from_ < l.length then r.1.getD from_ b.1 else b.1, s)) (l, s)

/-- The destination bytes of a sector (R296, R297). -/
def State.sectorData (s : State) (who : Issuer) (t : Tmpl) (arg : W64) (x : Sector) : SectorData × State :=
  let before := s.dev.budget
  let e := t.esz
  let row := t.srcRow arg x.row
  let g0 := t.n0 / 4 * x.row
  match t.xf with
  | 0 =>
    match s.engineBytes who before pieces (row + w64 x.off) x.len with
    | (.ok l, s) =>
      let (l, s) := s.overlapped (row + w64 x.off) (t.dstOf arg x) l
      (.ok l [] false, s)
    | (r, s) => (.stop r, s)
  | 1 =>
    let lo := x.off / (4 * e)
    let hi := (x.off + x.len - 1) / (4 * e)
    let n := hi + 1 - lo
    match s.engineBytes who before pieces (row + w64 (2 * e * lo)) (2 * e * n) with
    | (.ok l, s) =>
      match s.engineBytes who before pieces (t.meta_ + w64 ((g0 + lo) / 2)) ((g0 + hi) / 2 + 1 - (g0 + lo) / 2) with
      | (.ok ms, s) =>
        let gs := (List.range n).map fun i =>
          let g := g0 + lo + i
          let b := ms.getD (g / 2 - (g0 + lo) / 2) (0, false)
          expandGroup e (l.drop (2 * e * i)) (b.1 / 16 ^ (g % 2) % 16) b.2
        (.ok (((gs.flatMap (·.1)).drop (x.off - 4 * e * lo)).take x.len) [] (gs.any (·.2)), s)
      | (r, s) => (.stop r, s)
    | (r, s) => (.stop r, s)
  | _ =>
    let lo := x.off / (2 * e)
    let hi := (x.off + x.len - 1) / (2 * e)
    let n := hi + 1 - lo
    match s.engineBytes who before pieces (row + w64 (4 * e * lo)) (4 * e * n) with
    | (.ok l, s) =>
      let gs := (List.range n).map fun i => (lo + i, compactGroup e t.twos ((l.drop (4 * e * i)).take (4 * e)))
      -- a nibble goes with the sector that holds its group's first byte
      let nibs := (gs.filter fun g => decide (x.off ≤ 2 * e * g.1)).map fun g => (g0 + g.1, g.2.2)
      (.ok (((gs.flatMap fun g => g.2.1).drop (x.off - 2 * e * lo)).take x.len) nibs false, s)
    | (r, s) => (.stop r, s)

/-- The number of the sector that holds the first byte of a group. -/
def Tmpl.groupSector (t : Tmpl) (ss : List Sector) (g : Nat) : Nat :=
  let row := g / (t.n0 / 4)
  let off := 2 * t.esz * (g % (t.n0 / 4))
  (ss.findIdx? fun x => x.row == row && decide (x.off ≤ off ∧ off < x.off + x.len)).getD 0

/-- Write bytes with poison at a place of one line. -/
def State.writeBytes (s : State) (who : Issuer) (pl : Place) (l : List (Nat × Bool)) : State :=
  let x := l.foldr (fun b t => b.1 + 256 * t) 0
  let s := s.engineWrite who pl l.length x
  l.zipIdx.foldl (fun s b => if b.1.2 then s.enginePoison who pl ((pl.start + b.2) / 8) else s) s

/-- Write one nibble of metadata at its byte's place; the last byte's unused high nibble becomes zero (R297). -/
def State.writeNibble (s : State) (who : Issuer) (t : Tmpl) (pl : Place) (g nib : Nat) (bad : Bool) : State :=
  let (old, _, s) := s.engineRead who pl 1
  let x :=
    if g % 2 = 1 then old % 16 + 16 * nib
    else if g + 1 = t.groups then nib
    else old / 16 * 16 + nib
  s.writeBytes who pl [(x, bad)]

/-- The places of the nibbles' bytes, none where a peer discards the store (R453); or the first check that does not pass. -/
def State.nibblePlaces (s : State) (who : Issuer) (t : Tmpl) (before : List (Nat × Nat)) :
    List (Nat × Nat × Bool) → Except EngBytes (List (Option Place)) × State
  | [] => (.ok [], s)
  | (g, _, _) :: r =>
    let rest (s : State) (p : Option Place) : Except EngBytes (List (Option Place)) × State :=
      match State.nibblePlaces s who t before r with
      | (.ok l, s) => (.ok (p :: l), s)
      | x => x
    match s.enginePlace who (t.meta_ + w64 (g / 2)) .write 1 before with
    | (.ok pl, s) => rest s (some pl)
    | (.denied, s) => rest s none
    | (.parked v, s) => (.error (.parked v), s)
    | (.refused, s) => (.error .refused, s)
    | (.later, s) => (.error .later, s)

/-- The sectors that write metadata byte b. -/
def Tmpl.metaSectors (t : Tmpl) (ss : List Sector) (b : Nat) : List Nat :=
  ([2 * b, 2 * b + 1].filter fun g => decide (g < t.groups)).map (t.groupSector ss)

/-- Metadata bytes that are complete once sector i has landed or been refused: each byte with its last nibble. (Log 47, DEDUCED.) -/
def Tmpl.metaDone (t : Tmpl) (ss : List Sector) (landed : List Nat) (i : Nat) : List Nat :=
  (List.range t.metaLen).filter fun b =>
    let xs := t.metaSectors ss b
    xs.contains i && xs.all fun x => x == i || landed.contains x

/-- Own lines that are complete with sector i: every byte that the copy writes in them has landed or been refused (R298). landed: the
sectors before it. -/
def Copy.linesDone (cp : Copy) (lcore : BitVec 13) (i : Nat) : List Nat :=
  let t := tmplOf cp.tmpl
  let ss := t.sectors cp.arg
  let lineOf (x : Sector) := ownLine lcore (t.dstOf cp.arg x)
  let out := insertNat i cp.landed
  let near := ((ss[i]?).bind lineOf).toList ++ (t.metaDone ss cp.landed i).filterMap (t.metaLine lcore)
  (insertNats near []).filter fun n =>
    (ss.zipIdx.all fun x => lineOf x.1 != some n || out.contains x.2) &&
      (List.range t.metaLen).all fun b => t.metaLine lcore b != some n || (t.metaSectors ss b).all out.contains

/-- A channel's active copy has ended: the next start becomes active (R295). -/
def Chan.next (c : Chan) : Chan :=
  match c.waiting with
  | [] => { c with active := none }
  | x :: t => { c with active := some x.active, waiting := t }

/-- Bytes that count when a sector has landed or been refused: its own, and those of the metadata that it completes (R301). -/
def Copy.sectorBytes (cp : Copy) (i : Nat) : Nat :=
  let t := tmplOf cp.tmpl
  let ss := t.sectors cp.arg
  ((ss[i]?).map (·.len)).getD 0 + (t.metaDone ss cp.landed i).length

/-- A copy after sector i has landed or been refused. -/
def Copy.after (cp : Copy) (i : Nat) : Copy :=
  { cp with landed := insertNat i cp.landed, parked := cp.parked.filter fun x => x.1 != i, bytes := cp.bytes + cp.sectorBytes i }

/-- A sector's addition to the sync object of its copy, with a status before it (R302). -/
def State.countSector (s : State) (cp : Copy) (i status : Nat) : State :=
  let t := tmplOf cp.tmpl
  if t.sync = 0 then s else s.syncAdd cp.who t.sync (cp.sectorBytes i) status

/-- A sector has landed or been refused: its bytes count, lines that are complete become full, the copy may end (R298,
R301). The addition to the sync object follows the sector. -/
def State.sectorDone (s : State) (k ch : Nat) (cp : Copy) (i status : Nat) : State :=
  let cp' := cp.after i
  let full := cp.linesDone (s.coreAt k).lcore i
  (s.countSector cp i status).onCore k fun c =>
    let c := { c with loc := { c.loc with empty := c.loc.empty.filter fun n => !full.contains n, landed := insertNats full c.loc.landed } }
    c.onChan ch fun x =>
      if cp'.landed.length = ((tmplOf cp.tmpl).sectors cp.arg).length then x.next else { x with active := some cp' }

/-- Remote stores of a core that come before a fork are still on their way (R305). -/
def State.forkWaits (s : State) (k : Nat) (fork : Nat) : Bool :=
  s.dev.net.any fun x => x.kind == .store && x.sentBy (s.coreAt k) && decide (x.order < fork)

/-- Park a sector on a page, in a kind of access (R306). -/
def State.sectorPark (s : State) (k ch i : Nat) (page : Nat × Nat) : State :=
  s.onCore k fun c => c.onChan ch fun x =>
    { x with active := x.active.map fun cp => { cp with parked := cp.parked ++ [(i, page)] } }

/-- The lowest sector of a copy that has not landed. -/
def Copy.first (c : Copy) : Nat :=
  ((List.range (c.landed.length + 1)).find? fun i => !c.landed.contains i).getD 0

/-- The sector after the highest that has landed. -/
def Copy.next (c : Copy) : Nat := c.landed.foldl (fun x i => if x ≤ i then i + 1 else x) 0

/-- A sector of an active copy moves: it lands, is parked or is refused (R296 to R307). (Log 88, DESIGN CHOICE.) -/
def State.moveSector (s : State) (k ch i : Nat) : State :=
  match ((s.coreAt k).chan ch).active with
  | none => s
  | some cp =>
    let t := tmplOf cp.tmpl
    match (t.sectors cp.arg)[i]? with
    | none => s
    | some x =>
      -- the sectors in flight lie among 64 (Table 5 of 19)
      if cp.landed.contains i || cp.parked.any (fun x => x.1 == i) || decide (cp.first + 64 ≤ i) || s.forkWaits k cp.fork then s
      else
        let back := s.here
        let s := s.focus k
        let before := s.dev.budget
        let stop (r : EngBytes) (s : State) : State := match r with
          | .parked v => s.sectorPark k ch i v
          | .refused => s.sectorDone k ch cp i 0x12
          | .later | .ok _ => s
        let s := match s.sectorData cp.who t cp.arg x with
          | (.ok l nibs badMeta, s) =>
            let land (s : State) (pl : Option Place) : State :=
              match s.nibblePlaces cp.who t before nibs with
              | (.error r, s) => stop r s
              | (.ok ps, s) =>
                let s := match pl with
                  | some pl => s.writeBytes cp.who pl l
                  | none => s
                let s := (nibs.zip ps).foldl (fun (s : State) (n : (Nat × Nat × Bool) × Option Place) => match n.2 with
                  | some pl => s.writeNibble cp.who t pl n.1.1 n.1.2.1 n.1.2.2
                  | none => s) s
                let status := if l.any (·.2) || nibs.any (·.2.2) then 0x13 else if badMeta then 0x15 else 0
                s.sectorDone k ch cp i status
            match s.enginePlace cp.who (t.dstOf cp.arg x) .write x.len before with
            | (.ok pl, s) => land s (some pl)
            | (.denied, s) => land s none
            | (.parked v, s) => stop (.parked v) s
            | (.refused, s) => stop .refused s
            | (.later, s) => stop .later s
          | (.stop r, s) => stop r s
        s.focus back

/-- Refuse a parked sector with FAULTKILLED (R306, R414). -/
def State.killSector (s : State) (k ch i : Nat) : State :=
  match ((s.coreAt k).chan ch).active with
  | none => s
  | some cp => s.sectorDone k ch cp i 0x14

/-- The parked sectors of core k, on each of its channels, are refused with FAULTKILLED. -/
def State.killSectors (s : State) (k : Nat) : State :=
  (List.range 4).foldl (fun s ch =>
    ((((s.coreAt k).chan ch).active.map (·.parked)).getD []).foldl (fun s x => s.killSector k ch x.1) s) s

/-- The same for a context that has no core: its sectors count for the sync object, and nothing else of it remains. -/
def State.killParked (s : State) (c : Core) : State :=
  (c.chans.toList.filterMap (·.active)).foldl (fun s cp =>
    (cp.parked.foldl (fun (r : State × Copy) x =>
      (r.1.countSector { r.2 with who := { r.2.who with core := deadCore } } x.1 0x14, r.2.after x.1)) (s, cp)).1) s

/-! ## The COPY instructions (R292) -/

/-- XTPL (R293). -/
def xtplBody (d a b : Reg) (s : State) : Res := settle do
  let va := s.g a
  if va.toNat % 64 ≠ 0 then trapHere s .misalign va
  else
    let (x, s) ← s.noPol.load va 64
    let raw := BitVec.ofNat 512 x
    let n := field (s.g b) 0 6
    if (tmplOf raw).valid then
      if h : n < 64 then return put d 0 { s with me.templates := s.me.templates.set n (some raw) h }
      else return put d 0 s
    else return put d 1 s

/-- SWINIT (R303): one indivisible operation on the object. -/
def swinitBody (d a b : Reg) (s : State) : Res := settle do
  let va := s.g a
  if va.toNat % 16 ≠ 0 then trapHere s .misalign va
  else
    let (pl, s) ← s.noPol.place va 16 .write false
    let (x, s) ← s.atomicAt pl va 16 10 (field (s.g b) 0 32) fun x => some (field (s.g b) 0 32 + 2 ^ 64 * (x / 2 ^ 64 % 2 ^ 32))
    return put d (w64 (x / 2 ^ 64 % 2 ^ 32)) s

/-- SWAIT (R304): it waits for the generation, then reads the status with acquire semantics. -/
def swaitBody (d a b : Reg) (s : State) : Res := settle do
  let va := s.g a
  if va.toNat % 16 ≠ 0 then trapHere s .misalign va
  else
    let (pl, s) ← s.noPol.place va 16 .read false
    let (x, s) ← s.readPlace pl va 16 false
    let s := s.acquire
    if x / 2 ^ 64 % 2 ^ 32 = field (s.g b) 0 32 then return .wait .swait s
    else return put d (w64 (x / 2 ^ 96)) s

/-- FESET (R300). -/
def fesetBody (a b : Reg) (full : Bool) (s : State) : Res :=
  let off := (s.g a).toNat
  let n := (s.g b).toNat
  if off % 128 ≠ 0 then .trap .misalign (s.g a) s
  else if n = 0 ∨ 1536 < n ∨ 0x30000 < off + 128 * n then .trap .localrange (s.g a) s
  else
    let lines := (List.range n).map fun i => off / 128 + i
    let l := s.me.loc.clear lines
    { s with me.loc := if full then { l with empty := l.empty.filter fun x => !lines.contains x } else l }.ok

/-- XTPL (R293). -/
def execXtpl (d a b : Reg) (s : State) : Out := issue (.xtpl d a b) (xtplBody d a b) s

/-- SWINIT (R303). -/
def execSwinit (d a b : Reg) (s : State) : Out := issue (.swinit d a b) (swinitBody d a b) s

/-- SWAIT (R304). -/
def execSwait (d a b : Reg) (s : State) : Out := issue (.swait d a b) (swaitBody d a b) s

/-- FESET.E (R300). -/
def execFesetE (a b : Reg) (s : State) : Out := issue (.fesetE a b) (fesetBody a b false) s

/-- FESET.F (R300). -/
def execFesetF (a b : Reg) (s : State) : Out := issue (.fesetF a b) (fesetBody a b true) s

/-- COPY_SECTOR (R296, R306). -/
def execCopySector (core : Nat) (chan : BitVec 2) (sector : Nat) (s : State) : Out :=
  event (fun s => s.moveSector core chan.toNat sector) s

end Sys2Proof.Machine
end

