-- ==== Sys2Proof/Machine/Fp.lean ====
section
/-! DEFINITION. Floating point (08_number_formats: R183 to R192): values as exact numbers, rounding once, and the exceptions
of each operation. Every operation works on bit patterns as numbers. -/

namespace Sys2Proof.Machine

/-! ## Formats and values -/

/-- A format: the widths of exponent and fraction (Table 2 of 08). -/
structure FpFmt where
  ex : Nat
  fr : Nat
  deriving DecidableEq, Repr

def fmt64 : FpFmt := ⟨11, 52⟩
def fmt32 : FpFmt := ⟨8, 23⟩
def fmt16 : FpFmt := ⟨5, 10⟩
def fmtB16 : FpFmt := ⟨8, 7⟩

/-- The sign bit's place, which is the width less 1. -/
def FpFmt.signAt (f : FpFmt) : Nat := f.ex + f.fr

/-- The exponent bias. -/
def FpFmt.bias (f : FpFmt) : Nat := 2 ^ (f.ex - 1) - 1

/-- The exponent of the last place of the subnormals. -/
def FpFmt.last (f : FpFmt) : Int := 1 - (f.bias : Int) - f.fr

/-- The pattern of +∞, above which the patterns without a sign are NaNs. -/
def FpFmt.inf (f : FpFmt) : Nat := (2 ^ f.ex - 1) * 2 ^ f.fr

/-- The canonical quiet NaN (R185). -/
def FpFmt.nan (f : FpFmt) : Nat := f.inf + 2 ^ (f.fr - 1)

/-- A sign at the top of a pattern. -/
def FpFmt.signed (f : FpFmt) (neg : Bool) (x : Nat) : Nat := x + bit neg * 2 ^ f.signAt

/-- What a pattern stands for: fin is ±m · 2^e, and zeros keep their sign. -/
inductive Fp where
  | nan (signalling : Bool)
  | inf (neg : Bool)
  | fin (neg : Bool) (m : Nat) (e : Int)
  deriving DecidableEq, Repr

/-- The value of a pattern (R183, R184). -/
def FpFmt.unpack (f : FpFmt) (x : Nat) : Fp :=
  let frac := x % 2 ^ f.fr
  let ex := x / 2 ^ f.fr % 2 ^ f.ex
  let neg := x.testBit f.signAt
  if ex = 2 ^ f.ex - 1 then (if frac = 0 then .inf neg else .nan (!frac.testBit (f.fr - 1)))
  else if ex = 0 then .fin neg frac f.last
  else .fin neg (frac + 2 ^ f.fr) (f.last + (ex - 1 : Nat))

/-! ## Exceptions, in the bit order of FPCTL.flags -/

def flNV : Nat := 1
def flDZ : Nat := 2
def flOF : Nat := 4
def flUF : Nat := 8
def flNX : Nat := 16

/-- A result: its pattern and the exceptions it raises. -/
structure FpRes where
  bits : Nat
  flags : Nat
  deriving DecidableEq, Repr

/-! ## Rounding (R50, R187, R189) -/

/-- m without its low n bits, rounded in a mode, and whether bits were lost. -/
def roundShift (mode : RMode) (neg : Bool) (m n : Nat) : Nat × Bool :=
  let q := m / 2 ^ n
  let r := m % 2 ^ n
  if r = 0 then (q, false)
  else
    let up : Bool := match mode with
      | .rne => decide (2 ^ n < 2 * r) || (2 * r == 2 ^ n && q % 2 == 1)
      | .rtz => false
      | .rup => !neg
      | .rdn => neg
    (q + bit up, true)

/-- ±m · 2^e as a multiple of 2^q, rounded in a mode. -/
def roundTo (mode : RMode) (neg : Bool) (m : Nat) (e q : Int) : Nat × Bool :=
  if q ≤ e then (m * 2 ^ (e - q).toNat, false)
  else
    -- bits far below half a unit act alike
    let n := (q - e).toNat
    let k := Nat.log2 m + 3
    if k < n then roundShift mode neg (bit (m != 0)) 2 else roundShift mode neg m n

/-- Round ±m · 2^e, m not zero, once into a format. -/
def FpFmt.roundFin (f : FpFmt) (mode : RMode) (neg : Bool) (m : Nat) (e : Int) : FpRes :=
  let top := e + Nat.log2 m
  let free := top - f.fr
  let q := if free < f.last then f.last else free
  let (x, lost) := roundTo mode neg m e q
  let bits := x + (q - f.last).toNat * 2 ^ f.fr
  if f.inf ≤ bits then
    let big : Bool := match mode with
      | .rne => true
      | .rtz => false
      | .rup => !neg
      | .rdn => neg
    ⟨f.signed neg (if big then f.inf else f.inf - 1), flOF + flNX⟩
  else
    -- tiny after rounding with an unbounded exponent range (R187)
    let tiny := decide (top < f.last + f.fr) &&
      decide ((roundTo mode neg m e free).1 < 2 ^ (f.fr + 1) ∨ top + 1 < f.last + f.fr)
    ⟨f.signed neg bits, if lost then flNX + (if tiny then flUF else 0) else 0⟩

/-- Round a value. -/
def FpFmt.round (f : FpFmt) (mode : RMode) (v : Fp) : FpRes :=
  match v with
  | .nan s => ⟨f.nan, if s then flNV else 0⟩
  | .inf neg => ⟨f.signed neg f.inf, 0⟩
  | .fin neg m e => if m = 0 then ⟨f.signed neg 0, 0⟩ else f.roundFin mode neg m e

/-! ## Exact values of sums and products -/

def Fp.isNan : Fp → Bool
  | .nan _ => true
  | _ => false

def Fp.isSig : Fp → Bool
  | .nan s => s
  | _ => false

def Fp.neg : Fp → Fp
  | .nan s => .nan s
  | .inf n => .inf !n
  | .fin n m e => .fin (!n) m e

/-- A value without the signalling mark, once its invalid has been raised. -/
def Fp.quiet : Fp → Fp
  | .nan _ => .nan false
  | v => v

/-- The exact product and the invalid that it raises: a signalling NaN, or 0 · ∞ (R209). -/
def Fp.mul (a b : Fp) : Fp × Nat :=
  match a, b with
  | .nan s, b => (.nan false, if s || b.isSig then flNV else 0)
  | _, .nan s => (.nan false, if s then flNV else 0)
  | .inf n, .inf k => (.inf (n != k), 0)
  | .inf n, .fin k m _ => if m = 0 then (.nan false, flNV) else (.inf (n != k), 0)
  | .fin n m _, .inf k => if m = 0 then (.nan false, flNV) else (.inf (n != k), 0)
  | .fin n m e, .fin k l d => (.fin (n != k) (m * l) (e + d), 0)

/-- Sign of a value that is no NaN. -/
def Fp.sign : Fp → Bool
  | .nan _ => false
  | .inf n => n
  | .fin n _ _ => n

def Fp.infSign : Fp → Option Bool
  | .inf n => some n
  | _ => none

/-- The lowest exponent among finite values that are not zero. -/
def lowExp : List Fp → Option Int
  | [] => none
  | .fin _ m e :: t =>
    if m = 0 then lowExp t
    else
      match lowExp t with
      | some d => some (if d < e then d else e)
      | none => some e
  | _ :: t => lowExp t

/-- The exact sum in units of 2^low. -/
def sumAt (low : Int) : List Fp → Int
  | [] => 0
  | .fin n m e :: t =>
    let x : Int := if m = 0 then 0 else (m * 2 ^ (e - low).toNat : Nat)
    (if n then -x else x) + sumAt low t
  | _ :: t => sumAt low t

/-- The exact sum of several terms and the invalid that it raises; the sign of an exact zero is that of R186. -/
def Fp.sum (mode : RMode) (ts : List Fp) : Fp × Nat :=
  let nv := if ts.any Fp.isSig then flNV else 0
  if ts.any Fp.isNan then (.nan false, nv)
  else
    match ts.filterMap Fp.infSign with
    | n :: t => if t.all fun k => k == n then (.inf n, 0) else (.nan false, flNV)
    | [] =>
      let low := (lowExp ts).getD 0
      let x := sumAt low ts
      if x = 0 then
        (.fin (ts.all Fp.sign || (mode == .rdn && ts.any Fp.sign)) 0 0, 0)
      else (.fin (decide (x < 0)) x.natAbs low, 0)

/-- Round a value with exceptions raised before. -/
def FpFmt.finish (f : FpFmt) (mode : RMode) (r : Fp × Nat) : FpRes :=
  let x := f.round mode r.1.quiet
  ⟨x.bits, x.flags ||| r.2⟩

/-! ## Operations on patterns -/

def FpFmt.add (f : FpFmt) (mode : RMode) (a b : Nat) : FpRes := f.finish mode (Fp.sum mode [f.unpack a, f.unpack b])

def FpFmt.sub (f : FpFmt) (mode : RMode) (a b : Nat) : FpRes :=
  f.finish mode (Fp.sum mode [f.unpack a, (f.unpack b).neg])

def FpFmt.mul (f : FpFmt) (mode : RMode) (a b : Nat) : FpRes := f.finish mode ((f.unpack a).mul (f.unpack b))

/-- The sum of a value and of products, rounded once into g (R192, R194, R229); sources in f. -/
def dotRound (g f : FpFmt) (mode : RMode) (d : Fp) (neg : Bool) (ps : List (Nat × Nat)) : FpRes :=
  let ms := ps.map fun p => (f.unpack p.1).mul (f.unpack p.2)
  let fl := ms.foldl (fun x m => x ||| m.2) 0
  let r := Fp.sum mode (d :: ms.map fun m => if neg then m.1.neg else m.1)
  g.finish mode (r.1, r.2 ||| fl)

/-- VFMA: a · b + d. -/
def FpFmt.fma (f : FpFmt) (mode : RMode) (a b d : Nat) : FpRes := dotRound f f mode (f.unpack d) false [(a, b)]

/-- VFNMA: d − a · b. -/
def FpFmt.fnma (f : FpFmt) (mode : RMode) (a b d : Nat) : FpRes := dotRound f f mode (f.unpack d) true [(a, b)]

/-- m / l · 2^e with enough bits for one rounding, the last of which marks a remainder. -/
def quotient (m l : Nat) (e : Int) : Nat × Int :=
  let k := Nat.log2 l + 66
  let q := m * 2 ^ k / l
  (2 * q + bit (m * 2 ^ k % l != 0), e - k - 1)

/-- VDIV (R209). -/
def FpFmt.div (f : FpFmt) (mode : RMode) (a b : Nat) : FpRes :=
  match f.unpack a, f.unpack b with
  | .nan s, b => ⟨f.nan, if s || b.isSig then flNV else 0⟩
  | _, .nan s => ⟨f.nan, if s then flNV else 0⟩
  | .inf _, .inf _ => ⟨f.nan, flNV⟩
  | .inf n, .fin k _ _ => ⟨f.signed (n != k) f.inf, 0⟩
  | .fin n _ _, .inf k => ⟨f.signed (n != k) 0, 0⟩
  | .fin n m e, .fin k l d =>
    if l = 0 then (if m = 0 then ⟨f.nan, flNV⟩ else ⟨f.signed (n != k) f.inf, flDZ⟩)
    else if m = 0 then ⟨f.signed (n != k) 0, 0⟩
    else
      let (q, x) := quotient m l (e - d)
      f.roundFin mode (n != k) q x

/-- VRCP (R212). -/
def FpFmt.rcp (f : FpFmt) (mode : RMode) (a : Nat) : FpRes := f.div mode (f.bias * 2 ^ f.fr) a

/-- Bits of an integer square root, from bit n − 1 down. -/
def sqrtBits (m : Nat) : Nat → Nat → Nat
  | 0, r => r
  | n + 1, r => if (r + 2 ^ n) * (r + 2 ^ n) ≤ m then sqrtBits m n (r + 2 ^ n) else sqrtBits m n r

/-- Integer square root. -/
def isqrt (m : Nat) : Nat := sqrtBits m (Nat.log2 m / 2 + 1) 0

/-- Square root of m · 2^e with enough bits for one rounding. -/
def rootOf (m : Nat) (e : Int) : Nat × Int :=
  let odd := e % 2
  let x := m * 2 ^ (132 + odd.toNat)
  let r := isqrt x
  (2 * r + bit (r * r != x), (e - odd) / 2 - 67)

/-- VSQRT (R212). -/
def FpFmt.sqrt (f : FpFmt) (mode : RMode) (a : Nat) : FpRes :=
  match f.unpack a with
  | .nan s => ⟨f.nan, if s then flNV else 0⟩
  | .inf n => if n then ⟨f.nan, flNV⟩ else ⟨f.inf, 0⟩
  | .fin n m e =>
    if m = 0 then ⟨f.signed n 0, 0⟩
    else if n then ⟨f.nan, flNV⟩
    else
      let (r, x) := rootOf m e
      f.roundFin mode false r x

/-- The order of totalOrder (R226). -/
def FpFmt.key (f : FpFmt) (x : Nat) : Int :=
  let mag := x % 2 ^ f.signAt
  if x.testBit f.signAt then -(mag : Int) - 1 else mag

/-- A pattern is a NaN. -/
def FpFmt.isNan (f : FpFmt) (x : Nat) : Bool := decide (f.inf < x % 2 ^ f.signAt)

/-- A pattern is a signalling NaN (R185). -/
def FpFmt.isSig (f : FpFmt) (x : Nat) : Bool := f.isNan x && !x.testBit (f.fr - 1)

/-- Invalid for a signalling operand. -/
def FpFmt.sigFlag (f : FpFmt) (a b : Nat) : Nat := if f.isSig a || f.isSig b then flNV else 0

/-- VMIN (R210): minimum with −0 below +0. -/
def FpFmt.min (f : FpFmt) (a b : Nat) : FpRes :=
  if f.isNan a || f.isNan b then ⟨f.nan, f.sigFlag a b⟩ else ⟨if f.key b < f.key a then b else a, 0⟩

/-- VMAX (R210). -/
def FpFmt.max (f : FpFmt) (a b : Nat) : FpRes :=
  if f.isNan a || f.isNan b then ⟨f.nan, f.sigFlag a b⟩ else ⟨if f.key a < f.key b then b else a, 0⟩

/-- Both zero, whatever their signs. -/
def FpFmt.zeros (f : FpFmt) (a b : Nat) : Bool := a % 2 ^ f.signAt == 0 && b % 2 ^ f.signAt == 0

/-- A < B of numbers (R215). -/
def FpFmt.lt (f : FpFmt) (a b : Nat) : Bool := decide (f.key a < f.key b) && !f.zeros a b

/-- A = B of numbers (R215). -/
def FpFmt.eq (f : FpFmt) (a b : Nat) : Bool := f.key a == f.key b || f.zeros a b

/-! ## Conversions (R191, R218) -/

/-- Between floating formats: one rounding, or exact. -/
def FpFmt.convert (src dst : FpFmt) (mode : RMode) (a : Nat) : FpRes :=
  dst.finish mode (src.unpack a, if src.isSig a then flNV else 0)

/-- An integer to a floating format. -/
def FpFmt.ofInt (f : FpFmt) (mode : RMode) (x : Int) : FpRes := f.round mode (.fin (decide (x < 0)) x.natAbs 0)

/-- A floating value to an integer in a range: rounded in the mode, the nearest end of the range when outside it. -/
def FpFmt.toInt (f : FpFmt) (mode : RMode) (a : Nat) (lo hi : Int) : Int × Nat :=
  match f.unpack a with
  | .nan _ => (0, flNV)
  | .inf n => (if n then lo else hi, flNV)
  | .fin n m e =>
    let (x, lost) := roundTo mode n m e 0
    let v : Int := if n then -(x : Int) else x
    if v < lo then (lo, flNV) else if hi < v then (hi, flNV) else (v, if lost then flNX else 0)

/-! ## Faithful functions (R213)

A value that the format cannot represent is bracketed by 400 binary places and rounded to the neighbour that
Config.faithfulUp chooses. -/

/-- Binary places of the brackets. -/
def fxBits : Nat := 400

/-- π · 2^400, rounded down. -/
def fxPi : Nat := 0x3243f6a8885a308d313198a2e03707344a4093822299f31d0082efa98ec4e6c89452821e638d01377be5466cf34e90c6cc0ac

/-- ln 2 · 2^400, rounded down. -/
def fxLn2 : Nat := 0xb17217f7d1cf79abc9e3b39803f2f6af40f343267298b62d8a0d175b8baafa2be7b876206debac98559552fb4afa1b10ed2e

/-- Product of two numbers of 400 places. -/
def fxMul (a b : Nat) : Nat := a * b / 2 ^ fxBits

/-- m · 2^e with 400 places. -/
def fxOf (m : Nat) (e : Int) : Nat :=
  if 0 ≤ e + fxBits then m * 2 ^ (e + fxBits).toNat else m / 2 ^ (-(e + fxBits)).toNat

/-- Sum of t, t·y/k, t·y²/(k(k+1)), …: n terms. -/
def fxExp (y : Nat) : Nat → Nat → Nat → Nat
  | 0, _, _ => 0
  | n + 1, k, t => t + fxExp y n (k + 1) (fxMul t y / k)

/-- e^y for y below 1. -/
def fxExp1 (y : Nat) : Nat := fxExp y 90 1 (2 ^ fxBits)

/-- The positive and the negative terms of a sine or cosine series: n pairs, the next term t, the next divisor k. -/
def fxTrig (y2 : Nat) : Nat → Nat → Nat → Nat × Nat
  | 0, _, _ => (0, 0)
  | n + 1, k, t =>
    let r := fxTrig y2 n (k + 2) (fxMul t y2 / (k * (k + 1)))
    (t + r.2, r.1)

/-- sin y for y up to π/2. -/
def fxSin (y : Nat) : Nat := let r := fxTrig (fxMul y y) 60 2 y; r.1 - r.2

/-- cos y for y up to π/2. -/
def fxCos (y : Nat) : Nat := let r := fxTrig (fxMul y y) 60 1 (2 ^ fxBits); r.1 - r.2

/-- Binary digits of log2 y for y in [1, 2), the first n. -/
def fxLog2 : Nat → Nat → Nat → Nat
  | 0, _, acc => acc
  | n + 1, y, acc =>
    let z := fxMul y y
    if 2 * 2 ^ fxBits ≤ z then fxLog2 n (z / 2) (2 * acc + 1) else fxLog2 n z (2 * acc)

/-- Squared n times. -/
def fxPow2 : Nat → Nat → Nat
  | 0, x => x
  | n + 1, x => fxPow2 n (fxMul x x)

/-- A value strictly between ±m · 2^e and ±(m + 1) · 2^e, as the neighbour that the device has chosen. (Log 84, DEDUCED.) -/
def FpFmt.near (f : FpFmt) (fn : Nat) (a : Nat) (neg : Bool) (m : Nat) (e : Int) : FpRes :=
  let up := Config.faithfulUp fn (f.ex * 64 + f.fr) a
  f.roundFin (if up then .rup else .rdn) neg (2 * m + 1) (e - 1)

/-- ±m · 2^e is an integer. -/
def isWhole (m : Nat) (e : Int) : Bool := decide (0 ≤ e) || m % 2 ^ (-e).toNat == 0

/-- The floor of m · 2^e. -/
def floorOf (m : Nat) (e : Int) : Nat := if 0 ≤ e then m * 2 ^ e.toNat else m / 2 ^ (-e).toNat

/-- m is a power of two: its exponent. -/
def powerOf (m : Nat) : Option Nat := if m = 2 ^ Nat.log2 m then some (Nat.log2 m) else none

/-- An exact result. -/
def FpFmt.exact (f : FpFmt) (neg : Bool) (m : Nat) (e : Int) : FpRes := ⟨(f.round .rne (.fin neg m e)).bits, 0⟩

/-- VRSQ. -/
def FpFmt.rsq (f : FpFmt) (a : Nat) : FpRes :=
  match f.unpack a with
  | .nan s => ⟨f.nan, if s then flNV else 0⟩
  | .inf n => if n then ⟨f.nan, flNV⟩ else ⟨0, 0⟩
  | .fin n m e =>
    if m = 0 then ⟨f.signed n f.inf, flDZ⟩
    else if n then ⟨f.nan, flNV⟩
    else
      let odd := (e % 2).toNat
      let m := m * 2 ^ odd
      let h := (e - odd) / 2
      match powerOf m with
      | some k => if k % 2 = 0 then f.exact false 1 (-h - (k / 2 : Nat)) else f.near 0 a false (isqrt (2 ^ 320 / m)) (-h - 160)
      | none => f.near 0 a false (isqrt (2 ^ 320 / m)) (-h - 160)

/-- VEXP2. -/
def FpFmt.exp2 (f : FpFmt) (a : Nat) : FpRes :=
  match f.unpack a with
  | .nan s => ⟨f.nan, if s then flNV else 0⟩
  | .inf n => ⟨if n then 0 else f.inf, 0⟩
  | .fin n m e =>
    let w := floorOf m e
    -- beyond 4,096 in magnitude every result has overflowed or underflowed
    if isWhole m e then
      let w := if 4096 < w then 4096 else w
      f.round .rne (.fin false 1 (if n then -(w : Int) else w))
    else if 4096 < w then f.near 1 a false 1 (if n then -4096 else 4096)
    else
      let frac := fxOf m e - w * 2 ^ fxBits
      let (k, y) : Int × Nat := if n then (-(w : Int) - 1, 2 ^ fxBits - frac) else (w, frac)
      f.near 1 a false (fxExp1 (fxMul y fxLn2)) (k - fxBits)

/-- VLOG2. -/
def FpFmt.log2 (f : FpFmt) (a : Nat) : FpRes :=
  match f.unpack a with
  | .nan s => ⟨f.nan, if s then flNV else 0⟩
  | .inf n => if n then ⟨f.nan, flNV⟩ else ⟨f.inf, 0⟩
  | .fin n m e =>
    if m = 0 then ⟨f.signed true f.inf, flDZ⟩
    else if n then ⟨f.nan, flNV⟩
    else
      let top := e + Nat.log2 m
      match powerOf m with
      | some _ => f.exact (decide (top < 0)) top.natAbs 0
      | none =>
        let y := fxOf m (-(Nat.log2 m : Int))
        let d := fxLog2 160 y 0
        if 0 ≤ top then f.near 2 a false (top.toNat * 2 ^ 160 + d) (-160)
        else f.near 2 a true (top.natAbs * 2 ^ 160 - d - 1) (-160)

/-- sin(π y) or cos(π y) for y = m · 2^e that is no multiple of 1/2: whether it is negative, and its magnitude. -/
def sinCosPi (cosine : Bool) (m : Nat) (e : Int) : Bool × Nat :=
  -- y mod 2 in 400 places: quadrant and rest
  let r := fxOf m e % (2 * 2 ^ fxBits)
  let half := 2 ^ fxBits / 2
  let quad := (r / half + bit cosine) % 4
  let u := fxMul (r % half) fxPi
  let x := if quad % 2 = 0 then fxSin u else fxCos u
  (decide (2 ≤ quad), if 2 ^ fxBits ≤ x then 2 ^ fxBits - 1 else x)

/-- VSINPI. -/
def FpFmt.sinpi (f : FpFmt) (a : Nat) : FpRes :=
  match f.unpack a with
  | .nan s => ⟨f.nan, if s then flNV else 0⟩
  | .inf _ => ⟨f.nan, flNV⟩
  | .fin n m e =>
    if isWhole m e then ⟨f.signed n 0, 0⟩
    else if isWhole m (e + 1) then f.exact (n != (floorOf m e % 2 == 1)) 1 0
    else
      let (k, x) := sinCosPi false m e
      f.near 3 a (n != k) x (-fxBits)

/-- VCOSPI. -/
def FpFmt.cospi (f : FpFmt) (a : Nat) : FpRes :=
  match f.unpack a with
  | .nan s => ⟨f.nan, if s then flNV else 0⟩
  | .inf _ => ⟨f.nan, flNV⟩
  | .fin _ m e =>
    if isWhole m e then f.exact (floorOf m e % 2 == 1) 1 0
    else if isWhole m (e + 1) then ⟨0, 0⟩
    else
      let (k, x) := sinCosPi true m e
      f.near 4 a k x (-fxBits)

/-- VTANH. -/
def FpFmt.tanh (f : FpFmt) (a : Nat) : FpRes :=
  match f.unpack a with
  | .nan s => ⟨f.nan, if s then flNV else 0⟩
  | .inf n => f.exact n 1 0
  | .fin n m e =>
    if m = 0 then ⟨f.signed n 0, 0⟩
    else
      let top := e + Nat.log2 m
      -- below 2^-60 the result lies just under the operand, from 128 up just under 1
      if top < -60 then f.near 5 a n (m * 2 ^ 100 - 1) (e - 100)
      else if 7 ≤ top then f.near 5 a n (2 ^ fxBits - 1) (-fxBits)
      else
        let x := fxPow2 9 (fxExp1 (fxOf m (e - 8)))
        f.near 5 a n ((x - 2 ^ fxBits) * 2 ^ fxBits / (x + 2 ^ fxBits)) (-fxBits)

end Sys2Proof.Machine
end

