-- ==== Sys2Proof/Machine/Flags.lean ====
section
/-! DEFINITION. FPCTL: the rounding mode of an instruction, and how it reports its exceptions (R188 to R190, R207). -/

namespace Sys2Proof.Machine

/-- The mode that two bits name (Table 3 of 08, Table 9 of 01). -/
def RMode.ofCode (c : Nat) : RMode :=
  match c % 4 with
  | 0 => .rne
  | 1 => .rtz
  | 2 => .rup
  | _ => .rdn

/-- FPCTL.rm. -/
def Core.rm (c : Core) : RMode := RMode.ofCode (field c.ctl.fpctl 0 2)

/-- The mode in which an instruction rounds: that of a HINT.ROUND before it, otherwise FPCTL.rm (R189, R32). -/
def Core.rounding (c : Core) : RMode := c.hints.round.getD c.rm

/-- FPCTL.en, in the order of the flags. -/
def Core.fpEnabled (c : Core) : Nat := field c.ctl.fpctl 12 5

/-- OR exceptions into FPCTL.flags. -/
def Core.raiseFlags (c : Core) (fl : Nat) : Core := { c with ctl.fpctl := c.ctl.fpctl ||| w64 (fl % 32 * 16) }

/-- Every exception of a list of elements. -/
def allFlags (fs : List (Nat × Nat)) : Nat := fs.foldl (fun x f => x ||| f.2) 0

/-- The lowest index of an element that raised an enabled exception. -/
def lowestEnabled (en : Nat) : List (Nat × Nat) → Option Nat
  | [] => none
  | (i, fl) :: t =>
    match lowestEnabled en t with
    | none => if fl &&& en ≠ 0 then some i else none
    | some k => if fl &&& en ≠ 0 ∧ i < k then some i else some k

/-- TVAL of FPEXC: the exceptions, the element within its 512 bits, the member (R190, R207). -/
def fpexcVal (fl lanes i : Nat) : W64 := w64 (fl + 256 * (i % lanes) + 65536 * (i / lanes))

/-- Report exceptions of active elements (R190): with none enabled they are ORed into the flags, otherwise FPEXC. -/
def State.report (s : State) (lanes : Nat) (fs : List (Nat × Nat)) : Except Res State :=
  match lowestEnabled s.me.fpEnabled fs with
  | some i => trapHere s .fpexc (fpexcVal (allFlags fs) lanes i)
  | none => .ok { s with me := s.me.raiseFlags (allFlags fs) }

end Sys2Proof.Machine
end

