-- ==== Sys2Proof/Machine/Operands.lean ====
section
/-! DEFINITION. Operand forms of the vector unit: lanes, predicates, stream operand queues (R19, R20, R203 to R208), and the
combined vector of a gang (R25, R207). -/

namespace Sys2Proof.Machine

/-! ## Lanes -/

/-- Element width (Table 4 of 01). -/
def ElemTy.width : ElemTy → Nat
  | .f64 | .i64 => 64
  | .f32 | .i32 => 32
  | .f16 | .bf16 | .i16 => 16
  | .i8 => 8

/-- The format of a floating type. -/
def ElemTy.fmt? : ElemTy → Option FpFmt
  | .f64 => some fmt64
  | .f32 => some fmt32
  | .f16 => some fmt16
  | .bf16 => some fmtB16
  | .i8 | .i16 | .i32 | .i64 => none

/-- Elements of a register (Table 4 of 01). -/
def ElemTy.lanes (ty : ElemTy) : Nat := 512 / ElemTy.width ty

/-- The elements of width n of a register, element 0 first (R203). -/
def lanesOf (n : Nat) (x : V512) : List Nat := (List.range (512 / n)).map fun i => field x (n * i) n

/-- The number that elements of width n form. -/
def packNat (n : Nat) : List Nat → Nat
  | [] => 0
  | x :: t => x % 2 ^ n + 2 ^ n * packNat n t

/-- A register from its elements. -/
def packLanes (n : Nat) (l : List Nat) : V512 := BitVec.ofNat 512 (packNat n l)

/-- An element read as two's complement. -/
def signedOf (n x : Nat) : Int := if x < 2 ^ (n - 1) then x else (x : Int) - 2 ^ n

/-- The low n bits of an integer (R182). -/
def lowBits (n : Nat) (x : Int) : Nat := (x % 2 ^ n).toNat

/-- The bits of a predicate that govern the elements of a register (R19). -/
def Core.mask (c : Core) (p : PReg) (lanes : Nat) : List Bool :=
  let x : W64 := if p = 0 then -1 else c.regs.p[p.toNat]'p.isLt
  (List.range lanes).map fun i => x.getLsbD i

/-- One element of a register. -/
def State.lane (s : State) (d : Reg) (n i : Nat) : Nat := field (s.v d.toNat) (n * i) n

/-- Replace one element of a register. -/
def State.setLane (s : State) (d : Reg) (n i x : Nat) : State :=
  s.setV d.toNat (withField (s.v d.toNat) (n * i) n x)

/-! ## Sources -/

/-- The slot that binds an operand queue (R338). -/
def Core.queueSlot (c : Core) (q : Nat) : Option Nat :=
  (List.range 16).find? fun i =>
    match c.slots.toList[i]? with
    | some t => t.bind.getLsbD 0 && t.bind.getLsbD 1 && field t.bind 2 3 == q
    | none => false

/-- Change a slot. -/
def Core.onSlot (c : Core) (i : Nat) (f : Slot → Slot) : Core :=
  if h : i < 16 then { c with slots := c.slots.set i (f c.slots[i]) h } else c

/-- The entries that an operand queue holds, the oldest first. -/
def Core.queue (c : Core) (q : Nat) : List QEntry := c.queues.toList.getD q []

/-- Replace the entries of an operand queue. -/
def Core.setQueue (c : Core) (q : Nat) (l : List QEntry) : Core :=
  if h : q < 8 then { c with queues := c.queues.set q l h } else c

/-- Take the next entry of an operand queue (R20, R348). The address that TVAL gives for a poisoned entry is not stated: a
free value (log 18, DESIGN CHOICE). -/
def State.takeQueue (s : State) (q : Nat) : Except Res (V512 × State) :=
  match s.me.queueSlot q with
  | none => trapHere s .streamOverflow (w64 q)
  | some i =>
    match s.me.queue q with
    | [] => .error (.wait .queue s)
    | e :: t =>
      if e.poison ≠ 0 then
        trapHere { s with fresh := s.fresh + 1 } .poison (w64 (Config.outside 1 s.fresh))
      else
        -- consuming an entry is an acquire (R344) and cannot be undone (R430)
        let s := s.acquire.irreversible
        .ok (e.data, { s with me := (s.me.setQueue q t).onSlot i fun x => { x with head := x.head + 1 } })

/-- A vector source field: a register, or the next entry of a queue (R20). -/
def State.vsrc (s : State) (r : Reg) : Except Res (V512 × State) :=
  if r.toNat < 56 then .ok (s.v r.toNat, s) else s.takeQueue (r.toNat - 56)

/-- What a core's source field holds, without taking it: skip entries of the same queue are taken before it. -/
def Core.vpeek (c : Core) (r : Reg) (skip : Nat) : V512 :=
  if r.toNat < 56 then c.v r.toNat
  else match (c.queue (r.toNat - 56))[skip]? with
    | some e => e.data
    | none => 0

/-! ## The combined vector of a gang -/

/-- The crew that a form addresses: the gang with x = 1, the core alone otherwise (R207). -/
def Crew.form (w : Crew) (x : Bool) (s : State) : Crew := if x then w else ⟨[s.me], 0⟩

/-- The combined elements of a source. -/
def Crew.lanes (w : Crew) (n : Nat) (r : Reg) (skip : Nat) : List Nat := w.cores.flatMap fun c => lanesOf n (c.vpeek r skip)

/-- Whether a core's source field can be taken: a register, or a queue whose oldest entry is there and not poisoned (R20, R348). -/
def Core.canTake (c : Core) (r : Reg) : Bool :=
  decide (r.toNat < 56) || ((c.queueSlot (r.toNat - 56)).isSome && ((c.queue (r.toNat - 56)).head?).any fun e => e.poison == 0)

/-- The members combine only entries that each can take; a member whose own is there leaves the stall or the report to the one whose
is not (R207, R20). -/
def Crew.meet (w : Crew) (r : Reg) (s : State) : Except Res State :=
  if w.cores.all fun c => c.canTake r then .ok s else .error (.wait .gang s)

/-- The combined predicate. -/
def Crew.mask (w : Crew) (p : PReg) (lanes : Nat) : List Bool := w.cores.flatMap fun c => c.mask p lanes

/-- A member's part of a combined list. -/
def Crew.part (w : Crew) (lanes : Nat) (l : List α) : List α := (l.drop (lanes * w.idx)).take lanes

/-- g[r] of member 0 (R207). -/
def Crew.g (w : Crew) (s : State) (r : Reg) : W64 := { s with me := w.lead s }.g r

/-- The mode of a gang-wide form: member 0's FPCTL, unless a HINT.ROUND applies (R207). -/
def Crew.rounding (w : Crew) (s : State) : RMode := s.me.hints.round.getD (w.lead s).rm

/-- Exceptions of a gang-wide form: member 0 reports them all (R207). -/
def Crew.report (w : Crew) (s : State) (lanes : Nat) (fs : List (Nat × Nat)) : Except Res State :=
  if w.idx = 0 then s.report lanes fs else .ok s

/-! ## Destinations -/

/-- Old elements, with new ones where there are any. -/
def mergeLanes : List Nat → List (Option Nat) → List Nat
  | x :: t, y :: u => y.getD x :: mergeLanes t u
  | l, _ => l

/-- Write those elements of a register that a list gives. -/
def State.writeLanes (s : State) (d : Reg) (n : Nat) (l : List (Option Nat)) : State :=
  s.setV d.toNat (packLanes n (mergeLanes (lanesOf n (s.v d.toNat)) l))

/-- The results of active elements, none elsewhere. -/
def activeRes : List Bool → List FpRes → List (Option FpRes)
  | a :: t, r :: u => (if a then some r else none) :: activeRes t u
  | _, _ => []

/-- Indices and exceptions of results, from an index on. -/
def flagsFrom : Nat → List (Option FpRes) → List (Nat × Nat)
  | _, [] => []
  | i, some r :: t => (i, r.flags) :: flagsFrom (i + 1) t
  | i, none :: t => flagsFrom (i + 1) t

/-- Report the exceptions of results and write them (R190, R206). -/
def State.finishLanes (s : State) (d : Reg) (n : Nat) (rs : List (Option FpRes)) : Except Res State := do
  let s ← s.report (512 / n) (flagsFrom 0 rs)
  return s.writeLanes d n (rs.map fun r => r.map (·.bits))

end Sys2Proof.Machine
end

