-- ==== Sys2Proof/Machine/Matrix.lean ====
section
/-! DEFINITION. The matrix unit, narrow formats, capabilities and matrix commands (10_matrix: R231 to R260; 08: R193 to
R202). -/

namespace Sys2Proof.Machine

/-! ## Operand blocks (R235, R236) -/

/-- An operand in the local memory of a core: its first byte's offset, and the address that names it. -/
structure Opnd where
  core : Nat
  off : Nat
  va : W64
  deriving DecidableEq, Repr

/-- An operand address: the self window, or the window of a core of the same physical cluster (R235). -/
def State.operand (s : State) (va : W64) : Except Res Opnd :=
  let top := field va 48 16
  let off := field va 0 18
  if top = 0xFFFF ∧ zeroAt va 18 30 then .ok ⟨s.here, off, va⟩
  else if top = 0xFFFE ∧ zeroAt va 31 17 then
    match s.stave.coreOf? (field va 18 13) with
    | some k => if clusterOf k = clusterOf s.here then .ok ⟨k, off, va⟩ else trapHere s .access va
    | none => trapHere s .access va
  else trapHere s .access va

/-- The core in focus has remote stores to the local memory of core k on their way, which its reads there follow (R362). -/
def State.storesTo (s : State) (k : Nat) : Bool :=
  k != s.here && s.dev.net.any fun x => x.kind == .store && !x.peer && x.sentBy s.me && x.dst == (s.coreAt k).lcore

/-- n bytes of an operand from byte i of it: beyond the local memory LOCALRANGE, an empty line is waited for, poison traps. A line of its
own that a copy has filled is joined (R354). -/
def State.opRead (s : State) (o : Opnd) (i n : Nat) : Except Res (Nat × State) :=
  let a := o.off + i
  if 0x30000 < a + n then
    trapHere s .localrange (o.va + w64 (if 0x30000 ≤ a then i else 0x30000 - o.off))
  else
    let l := (s.coreAt o.core).loc
    if s.storesTo o.core then .error (.wait .unack s)
    else if (List.range ((a + n - 1) / 128 + 1 - a / 128)).any fun k => l.empty.contains (a / 128 + k) then .error (.wait .empty s)
    else
      match firstPoison l.poison a n with
      | some w => trapHere s .poison (o.va + w64 (8 * w) - w64 o.off)
      | none =>
        let s := s.ckLocal o.core (a / 128) false
        .ok (l.bytes.readN a n, if o.core = s.here then s.joinLocal a n else s)

/-- Bits of an operand's elements (R239). -/
def MmaTy.bits : MmaTy → Nat
  | .f32 => 32
  | .bf16 | .f16 => 16
  | .q8 => 8
  | .q4 => 4

/-- Whether the elements are narrow codes. -/
def MmaTy.isCode : MmaTy → Bool
  | .q8 | .q4 => true
  | .f32 | .bf16 | .f16 => false

/-- The format of a float operand type. -/
def MmaTy.fmt : MmaTy → FpFmt
  | .bf16 => fmtB16
  | .f16 => fmt16
  | .f32 | .q8 | .q4 => fmt32

/-- Bytes of a block (R239). -/
def blockBytes (ty : MmaTy) (k : Nat) : Nat := 128 + 16 * k * (MmaTy.bits ty) / 8

/-- n elements of e bits of a number, element 0 first. -/
def elemsOf (e n x : Nat) : List Nat := (List.range n).map fun i => x / 2 ^ (e * i) % 2 ^ e

/-- The zero points in a header (Table 1 of 10). -/
def zeroPoints (ty : MmaTy) (header : Nat) : List Nat :=
  (elemsOf 8 16 (header / 2 ^ 128)).map fun z => if ty = .q4 then z % 16 else z

/-- Products of codes less their zero points (R195). -/
def codeDot (za zb : Nat) : List Nat → List Nat → Int
  | a :: t, b :: u => ((a : Int) - za) * ((b : Int) - zb) + codeDot za zb t u
  | _, _ => 0

/-- An f32 element advanced once per index (R193). -/
def floatDot : Nat → List Nat → List Nat → Nat
  | acc, a :: t, b :: u => floatDot (dotRound fmt32 fmt32 .rne (fmt32.unpack acc) false [(a, b)]).bits t u
  | acc, _, _ => acc

/-- An f32 element advanced once per pair of indices (R194). -/
def pairDot (f : FpFmt) : Nat → List Nat → List Nat → Nat
  | acc, a :: c :: t, b :: d :: u =>
    pairDot f (dotRound fmt32 f .rne (fmt32.unpack acc) false [(a, b), (c, d)]).bits t u
  | acc, _, _ => acc

/-- One element of an accumulator after an MMA (R239). -/
def mmaElem (ty : MmaTy) (acc za zb : Nat) (a b : List Nat) : Nat :=
  match ty with
  | .q8 | .q4 => lowBits 32 (acc + codeDot za zb a b)
  | .f32 => floatDot acc a b
  | .bf16 | .f16 => pairDot (MmaTy.fmt ty) acc a b

/-- Row i of an accumulator. -/
def State.zRow (s : State) (z : ZReg) (i : Nat) : List Nat := (List.range 16).map fun j => (s.zElem z (16 * i + j)).toNat

/-- Replace row i of an accumulator. -/
def State.setZRow (s : State) (z : ZReg) (i : Nat) (l : List Nat) : State :=
  s.setZ z ((List.range 16).foldl (fun v j => vset v (16 * i + j) (BitVec.ofNat 32 (l.getD j 0))) (s.z z))

/-- The vectors of a block as one number each, 16 of them, from the block's data. -/
def vectorOf (ty : MmaTy) (k x v : Nat) : List Nat := elemsOf (MmaTy.bits ty) k (x / 2 ^ (k * (MmaTy.bits ty) * v))

/-- K of a header (Table 1 of 10). -/
def blockK (header : Nat) : Nat := header % 65536

/-- The open group of `.mc` reads that the core in focus joins: one of the same physical block that has read as many bytes as the core
needs, whose bytes its MMA is using already, or one begun at most 64 cycles ago whose bytes the core has not yet used (R241). (Log 89, DEDUCED.) -/
def State.openGroup (s : State) (b : Opnd) (ty : MmaTy) : Option SharedB :=
  let same := s.dev.sharedB.filter fun x =>
    x.core == b.core && x.off == b.off && decide (blockBytes ty (blockK (x.bytes % 256 ^ 128)) ≤ x.len)
  let going := s.me.wait.isSome || s.me.ctl.pix != 0
  (same.find? fun x => going && x.takers.contains (s.here, s.me.pc)).orElse fun _ =>
    same.find? fun x => decide ((s.dev.cycle - x.since).toNat ≤ 64) && !x.users.contains s.here

/-- The header of the B block, from the group's read where there is one. -/
def State.headB (s : State) (b : Opnd) (ty : MmaTy) (mc : Bool) : Except Res (Nat × State) :=
  match if mc then s.openGroup b ty else none with
  | some x => .ok (x.bytes % 256 ^ 128, s)
  | none => s.opRead b 0 128

/-- The MMA of the core in focus is using the bytes of no group. -/
def State.leaveGroups (s : State) : List SharedB :=
  s.dev.sharedB.map fun y => { y with takers := y.takers.filter fun t => t != (s.here, s.me.pc) }

/-- The data of a B block of n bytes that a group shares (R241): the first core reads the block, the others receive its bytes. -/
def State.shareB (s : State) (b : Opnd) (ty : MmaTy) (n : Nat) : Except Res (Nat × State) :=
  let me := (s.here, s.me.pc)
  match s.openGroup b ty with
  | some x =>
    let sharedB := s.dev.sharedB.map fun y => if y = x then { x with takers := me :: x.takers.filter fun t => t != me } else y
    .ok (x.bytes / 256 ^ 128, { s with dev := { s.dev with sharedB := sharedB } })
  | none => do
    let (bytes, s) ← s.opRead b 0 n
    let live := s.leaveGroups.filter fun y => !y.takers.isEmpty || (decide ((s.dev.cycle - y.since).toNat ≤ 64) && !(y.core == b.core && y.off == b.off))
    return (bytes / 256 ^ 128, { s with dev := { s.dev with sharedB := ⟨b.core, b.off, s.dev.cycle, n, bytes, [], [me]⟩ :: live } })

/-- An MMA has used the bytes of its group. -/
def State.endShare (s : State) : State :=
  let used (y : SharedB) : SharedB := if y.takers.contains (s.here, s.me.pc) then { y with users := s.here :: y.users } else y
  { s with dev := { s.dev with sharedB := ({ s with dev := { s.dev with sharedB := s.dev.sharedB.map used } } : State).leaveGroups } }

/-- Row i of an MMA: its operand data are read now, those of B where no group shares them. -/
def State.mmaRow (s : State) (z : ZReg) (ty : MmaTy) (a b : Opnd) (k ha hb : Nat) (shared : Option Nat) (i : Nat) : Except Res State := do
  let n := k * (MmaTy.bits ty) / 8
  let (x, s) ← s.opRead a (128 + n * i) n
  let (y, s) ← match shared with
    | some y => .ok (y, s)
    | none => s.opRead b 128 (16 * n)
  let za := (zeroPoints ty ha).getD i 0
  let zb := zeroPoints ty hb
  let row := vectorOf ty k x 0
  let old := s.zRow z i
  return s.setZRow z i ((List.range 16).map fun j =>
    mmaElem ty (old.getD j 0) za (zb.getD j 0) row (vectorOf ty k y j))

/-- Rows from row i on, each committed with PIX (R239). -/
def mmaRows (z : ZReg) (ty : MmaTy) (a b : Opnd) (k ha hb : Nat) (shared : Option Nat) : Nat → Nat → State → Except Res State
  | 0, _, s => .ok s
  | n + 1, i, s => do
    let s ← s.element
    let s ← s.mmaRow z ty a b k ha hb shared i
    mmaRows z ty a b k ha hb shared n (i + 1) { s with me.ctl.pix := w64 (i + 1) }

/-- MMA from its operands on: the headers, the rows, the version. -/
def mmaRun (z : ZReg) (ty : MmaTy) (mc : Bool) (a b : Opnd) (s : State) : Except Res State := do
  let (ha, s) ← s.opRead a 0 128
  let (hb, s) ← s.headB b ty mc
  let k := blockK ha
  if k ≠ 32 ∧ k ≠ 64 ∧ k ≠ 128 then trapHere s .misalign a.va
  else if blockK hb ≠ k then trapHere s .misalign b.va
  else if 0x30000 < a.off + blockBytes ty k then trapHere s .localrange (a.va + w64 (0x30000 - a.off))
  else if 0x30000 < b.off + blockBytes ty k then trapHere s .localrange (b.va + w64 (0x30000 - b.off))
  else
    let (shared, s) ← if mc then (s.shareB b ty (blockBytes ty k)).map fun r => (some r.1, r.2) else .ok (none, s)
    let i := field s.me.ctl.pix 0 5
    let s ← mmaRows z ty a b k ha hb shared (16 - i) i s
    let s := if mc then s.endShare else s
    return { s with me.ctl.pix := 0 }.bumpZ z

/-- The version check (R233); the version that ends it is observed, a join with the commands that wrote it (R260, R354, R276). -/
def State.verWait (s : State) (z : ZReg) (ev : BitVec 4) (k : Bool) : Except Res State :=
  if !k then .ok s else if (s.zver z).extractLsb' 0 4 != ev then .error (.wait .version s) else .ok s.acquire

/-- An address that must be a multiple of n. -/
def aligned (s : State) (va : W64) (n : Nat) : Except Res Unit :=
  if va.toNat % n ≠ 0 then trapHere s .misalign va else .ok ()

/-- MMA (R239). -/
def mmaBody (z : ZReg) (ev : BitVec 4) (k : Bool) (a b : Reg) (mc : Bool) (ty : MmaTy) (s : State) : Res := settle do
  let s ← s.verWait z ev k
  aligned s (s.g a) 128
  let x ← s.operand (s.g a)
  aligned s (s.g b) 128
  let y ← s.operand (s.g b)
  let s ← mmaRun z ty mc x y s
  return s.ok

/-! ## ZOP (R243 to R246) -/

/-- The stride of ZLD and ZST (R244). -/
def State.zStride (s : State) (b : Reg) : W64 := if b = 0 then 64 else s.g b

/-- Rows of ZLD from row i on. -/
def zldRows (z : ZReg) (base stride : W64) : Nat → Nat → State → Except Res State
  | 0, _, s => .ok s
  | n + 1, i, s => do
    let s ← s.element
    let (x, s) ← s.noPol.load (base + stride * w64 i) 64
    zldRows z base stride n (i + 1) { (s.setZRow z i (elemsOf 32 16 x)).answered with me.ctl.pix := w64 (i + 1) }

/-- The 64 bytes of a row. -/
def State.rowBytes (s : State) (z : ZReg) (i : Nat) : Nat := packNat 32 (s.zRow z i)

/-- Rows of ZST from row i on. -/
def zstRows (z : ZReg) (base stride : W64) : Nat → Nat → State → Except Res State
  | 0, _, s => .ok s
  | n + 1, i, s => do
    let s ← s.element
    let s ← s.noPol.storeTo (base + stride * w64 i) 64 (s.rowBytes z i)
    zstRows z base stride n (i + 1) { s.answered with me.ctl.pix := w64 (i + 1) }

/-- ZLD (R244). -/
def zldBody (z : ZReg) (ev : BitVec 4) (k : Bool) (a b : Reg) (s : State) : Res := settle do
  let s ← s.verWait z ev k
  aligned s (s.g a) 64
  aligned s (s.zStride b) 64
  let i := field s.me.ctl.pix 0 5
  let s ← zldRows z (s.g a) (s.zStride b) (16 - i) i s
  return ({ s with me.ctl.pix := 0 }.bumpZ z).ok

/-- ZST (R244). -/
def zstBody (z : ZReg) (ev : BitVec 4) (k : Bool) (a b : Reg) (s : State) : Res := settle do
  let s ← s.verWait z ev k
  aligned s (s.g a) 64
  aligned s (s.zStride b) 64
  let i := field s.me.ctl.pix 0 5
  let s ← zstRows z (s.g a) (s.zStride b) (16 - i) i s
  return { s with me.ctl.pix := 0 }.ok

/-- Every element 0 (R243). -/
def State.clearZ (s : State) (z : ZReg) : State := s.setZ z (.replicate 256 0)

/-- ZCLR (R243): with k = 1 it waits first (R233). -/
def zclrBody (z : ZReg) (ev : BitVec 4) (k : Bool) (s : State) : Res := settle do
  let s ← s.verWait z ev k
  return (s.clearZ z).ok

/-- ZWAITV (R246). -/
def zwaitvBody (z : ZReg) (ev : BitVec 4) (s : State) : Res := settle do
  let s ← s.verWait z ev true
  return s.ok

/-! ## SCLACC and OUTLACC (R196, R247, R248) -/

/-- Element of SCLACC: acc + part · sa · sb, exact products, one rounding. -/
def scaleElem (acc part sa sb : Nat) : Nat :=
  let p := signedOf 32 part
  let x := (Fp.fin (decide (p < 0)) p.natAbs 0).mul ((fmt16.unpack sa).mul (fmt16.unpack sb)).1
  (fmt32.finish .rne (Fp.sum .rne [fmt32.unpack acc, x.1])).bits

/-- SCLACC from its scale block on. -/
def sclaccRun (z part : ZReg) (clr : Bool) (o : Opnd) (s : State) : Except Res State := do
  let (x, s) ← s.opRead o 0 64
  let sa := elemsOf 16 16 x
  let sb := elemsOf 16 16 (x / 2 ^ 256)
  let s := (List.range 16).foldl (fun (s : State) i =>
    let old := s.zRow z i
    let ps := s.zRow part i
    s.setZRow z i ((List.range 16).map fun j =>
      scaleElem (old.getD j 0) (ps.getD j 0) (sa.getD i 0) (sb.getD j 0))) s
  let s := if clr then (s.clearZ part).bumpZ part else s
  return s.bumpZ z

/-- SCLACC (R247). -/
def sclaccBody (z : ZReg) (ev : BitVec 4) (k : Bool) (part : ZReg) (b : Reg) (clr : Bool) (s : State) : Res := settle do
  let s ← s.verWait z ev k
  aligned s (s.g b) 64
  let o ← s.operand (s.g b)
  let s ← sclaccRun z part clr o s
  return s.ok

/-- Entries of OUTLACC from entry e on: one rounding per element per entry (R248). -/
def outlEntries (z : ZReg) (row : Nat) (list table : W64) : Nat → Nat → State → Except Res State
  | 0, _, s => .ok s
  | n + 1, e, s => do
    let s ← s.element
    let (x, s) ← s.noPol.load (list + 8 + w64 (8 * e)) 8
    let (w, s) ← s.noPol.load (table + w64 (64 * (x % 2 ^ 32))) 64
    let old := s.zRow z row
    let ws := elemsOf 32 16 w
    let new := (List.range 16).map fun j =>
      (dotRound fmt32 fmt32 .rne (fmt32.unpack (old.getD j 0)) false [(x / 2 ^ 32, ws.getD j 0)]).bits
    outlEntries z row list table n (e + 1) { (s.setZRow z row new).answered with me.ctl.pix := w64 (e + 1) }

/-- OUTLACC (R248): count and capacity are read at each start and resume. -/
def outlaccBody (z : ZReg) (ev : BitVec 4) (k : Bool) (a b : Reg) (row : BitVec 4) (s : State) : Res := settle do
  let s ← s.verWait z ev k
  aligned s (s.g a) 8
  aligned s (s.g b) 64
  let (count, s) ← s.noPol.load (s.g a) 4
  let (cap, s) ← s.noPol.load (s.g a + 4) 4
  let n := if count < cap then count else cap
  let e := field s.me.ctl.pix 0 32
  let s ← outlEntries z row.toNat (s.g a) (s.g b) (n - e) e s
  return ({ s with me.ctl.pix := 0 }.bumpZ z).ok

/-! ## QUANT and DQUANT (R197 to R202, R249 to R252) -/

/-- A parameter register (Table 6 of 10), for a code width and a number of lanes. -/
structure QParam where
  width : Nat
  index : Nat
  part : Nat
  zp : Nat
  scale : Nat
  deriving DecidableEq, Repr

/-- The fields of a parameter register. -/
def qparam (q4 : Bool) (lanes : Nat) (x : W64) : QParam :=
  let w := if q4 then 4 else 8
  { width := w, index := field x 32 32, part := field x 24 3 % (512 / (lanes * w)),
    zp := if q4 then field x 16 4 else field x 16 8, scale := field x 0 16 }

/-- Where the code of element i lies in the code register, in bits. -/
def QParam.at (q : QParam) (lanes i : Nat) : Nat := (q.part * lanes + i) * q.width

/-- The code of a value; none where the value is an outlier (R199). -/
def QParam.code (q : QParam) (x : Fp) : Option Nat :=
  match x, fmt16.unpack q.scale with
  | .fin n m e, .fin k l d =>
    if l = 0 then none
    else
      let r := quotient m l (e - d)
      let y := (roundTo .rne (n != k) r.1 r.2 0).1
      let c : Int := (if (n != k) then -(y : Int) else y) + q.zp
      if 0 ≤ c ∧ c < 2 ^ q.width then some c.toNat else none
  | _, _ => none

/-- QCTL: the list's header, and whether outliers are appended (R200). -/
def Core.qBase (c : Core) : W64 := c.ctl.qctl &&& ~~~7

def Core.qEnabled (c : Core) : Bool := c.ctl.qctl.getLsbD 0

/-- Append an outlier (R201, R251): the atomic add takes the slot, which PIX records, and the entry's write follows. The
capacity is read in the step of the add. -/
def State.appendOutlier (s : State) (i index value : Nat) : Except Res State := do
  let base := s.me.qBase
  let entry (s : State) (n : Nat) : Except Res State := s.noPol.storeTo (base + 8 + w64 (8 * n)) 8 (index + 2 ^ 32 * value) false
  if s.me.ctl.pix.getLsbD 6 then entry s (field s.me.ctl.pix 32 32)
  else
    let (pl, s) ← s.noPol.place base 8 .atomic false
    let (old, s) ← s.atomicAt pl base 8 1 1 fun x => if x % 2 ^ 32 = 2 ^ 32 - 1 then none else some (x + 1)
    let n := old % 2 ^ 32
    if n < old / 2 ^ 32 then entry { s with me.ctl.pix := w64 (i + 64 + 2 ^ 32 * n) } n else return s

/-- One element of QUANT. -/
def State.quantElem (s : State) (d : Reg) (q : QParam) (f : FpFmt) (lanes x i : Nat) : Except Res State := do
  let setCode (s : State) (c : Nat) := s.setV d.toNat (withField (s.v d.toNat) (q.at lanes i) q.width c)
  match q.code (f.unpack x) with
  | some c => return setCode s c
  | none =>
    let s ←
      if s.me.qEnabled then s.appendOutlier i ((q.index + i) % 2 ^ 32) (f.convert fmt32 .rne x).bits
      else .ok { s with me.ctl.qctl := s.me.ctl.qctl ||| 2 }
    return setCode s q.zp

/-- Elements of QUANT from element i on. (Log 29, DEDUCED.) -/
def quantFrom (d : Reg) (q : QParam) (f : FpFmt) (lanes : Nat) (mask : List Bool) (xs : List Nat) :
    Nat → Nat → State → Except Res State
  | 0, _, s => .ok s
  | n + 1, i, s => do
    let s ← s.element
    let s ← if mask.getD i false then s.quantElem d q f lanes (xs.getD i 0) i else .ok s
    quantFrom d q f lanes mask xs n (i + 1) { s.answered with me.ctl.pix := w64 (i + 1) }

/-- g[prm] as parameters. -/
def State.qparam (s : State) (q4 : Bool) (prm : BitVec 5) (ty : ElemTy) : QParam :=
  Sys2Proof.Machine.qparam q4 (ElemTy.lanes ty) (s.g (prm.setWidth 6))

/-- The float side of QUANT and DQUANT (R249). -/
def floatSide (ty : ElemTy) : FpFmt := (ElemTy.fmt? ty).getD fmt32

/-- Whether an address lies in another core's window or on a peer. -/
def State.isFar (s : State) (va : W64) : Bool :=
  match s.place va 8 .read false with
  | .ok (.far _ _, _) => true
  | .ok (.phys pa _ _ _, _) => match s.dev.paKind pa with | .peer _ => true | .dram | .host => false
  | _ => false

/-- The appends of QUANT are performed before it retires (R202): entries written to another core or to a peer are waited for, with every
element committed. A list whose header lies elsewhere may have entries in pages of a peer. -/
def State.appendsDone (s : State) : Except Res State :=
  let peers := s.dev.net.any fun x => x.kind == .store && x.peer && x.sentBy s.me
  if s.me.qEnabled && s.me.ctl.unack != 0 && (peers || s.isFar s.me.qBase) then .error (.wait .part s) else .ok s

/-- QUANT (R250). Its source register is read at its start and read anew where it goes on after it has stopped part-way: with d = a and a
part above 0 later elements then see codes that it has written (log 29, DEDUCED). -/
def quantBody (d a : Reg) (q4 : Bool) (prm : BitVec 5) (p : PReg) (ty : ElemTy) (s : State) : Res := settle do
  let (x, s) ← s.vsrc a
  let L := ElemTy.lanes ty
  let i := field s.me.ctl.pix 0 6
  let s ← quantFrom d (s.qparam q4 prm ty) (floatSide ty) L (s.me.mask p L) (lanesOf (ElemTy.width ty) x) (L - i) i s
  let s ← s.appendsDone
  return { s with me.ctl.pix := 0 }.ok

/-- DQUANT of one code (R198, R252). -/
def dquantElem (f : FpFmt) (q : QParam) (c : Nat) : Nat :=
  if c = q.zp then 0
  else
    let k : Int := (c : Int) - q.zp
    (f.finish .rne ((fmt16.unpack q.scale).mul (.fin (decide (k < 0)) k.natAbs 0))).bits

/-- DQUANT (R252). -/
def dquantBody (d a : Reg) (q4 : Bool) (prm : BitVec 5) (p : PReg) (ty : ElemTy) (s : State) : Res := settle do
  let (x, s) ← s.vsrc a
  let L := ElemTy.lanes ty
  let q := s.qparam q4 prm ty
  let rs := (List.range L).map fun i => dquantElem (floatSide ty) q (field x (q.at L i) q.width)
  let m := s.me.mask p L
  return (s.writeLanes d (ElemTy.width ty) ((m.zip rs).map fun t => if t.1 then some t.2 else none)).ok

/-! ## Capabilities (R253, R254) -/

/-- CAPGRANT. -/
def capgrantBody (d a b : Reg) (s : State) : Res :=
  let c := s.g a
  if c.extractLsb' 0 13 ≠ s.me.lcore then put d 1 s
  else if 1536 < field c 13 11 + field c 24 11 then put d 2 s
  else put d 0 { s with me.caps := vset s.me.caps (field (s.g b) 0 3) c }

/-- CAPDROP. -/
def capdropBody (b : Reg) (s : State) : Res := { s with me.caps := vset s.me.caps (field (s.g b) 0 3) 0 }.ok

/-! ## Sending a command (R255, R256) -/

/-- The instruction of a command block; none where MCMD must not send it. -/
def commandOf (block : BitVec 256) : Option Instr :=
  if field block 192 4 ≠ 0 then none
  else
    match decode (block.extractLsb' 0 32) with
    | .error _ => none
    | .ok i =>
      match i with
      | .mma _ _ _ a b mc _ => if a = 0 ∧ b = 0 ∧ mc = false then some i else none
      | .sclacc _ _ _ _ b _ => if b = 0 then some i else none
      | .zclr _ _ _ => some i
      | .zst _ _ _ a b => if a = 0 ∧ b = 0 then some i else none
      | _ => none

/-- Operands a and b of a command, and its sync object. -/
def MCmd.a (m : MCmd) : Nat := field m.block 64 64
def MCmd.b (m : MCmd) : Nat := field m.block 128 64
def MCmd.sync (m : MCmd) : W64 := m.block.extractLsb' 192 64

/-- Forget a `mcmd.t` that has its answer. -/
def Core.forget (c : Core) (pc : W64) : Core := { c with asked := c.asked.filter fun x => x.1 != pc }

/-- The answer to a command. -/
def State.answer (s : State) (m : MCmd) (good : Bool) : State :=
  match m.asks with
  | none => s
  | some pc => s.onIssuer m.sender fun c =>
    { c with asked := c.asked.map fun x => if x.1 = pc ∧ x.2.isNone then (pc, some good) else x }

/-- Send a command: the sender's earlier stores come before its reads at the target (R256). -/
def State.sendCommand (s : State) (cap : W64) (block : BitVec 256) (asks : Option W64) : State :=
  let s := (s.charge 32).selfRelease.irreversible
  let l := field cap 0 13
  let m : MCmd := ⟨cap, block, s.issuer, s.me.lcore, asks, s.dev.netOrder⟩
  s.inject { kind := .command, stave := s.me.stave, src := s.me.lcore, srcTag := s.me.ctl.ctxtag, dst := BitVec.ofNat 13 l,
             tag := s.tagOf s.me.stave l, stage := none, job := 0, stream := 0, slot := 0, off := 0, size := 32, data := 0,
             cmd := some m, peer := false, vol := false, inbox := false, refused := none, order := 0 }

/-- MCMD up to the send: the block, or none when it is not sent. -/
def State.commandBlock (s : State) (b : Reg) : Except Res (Option (BitVec 256) × State) := do
  aligned s (s.g b) 32
  let (x, s) ← s.noPol.load (s.g b) 32
  let block := BitVec.ofNat 256 x
  if !s.fits 32 then Except.error (.wait .budget s)
  return ((commandOf block).map fun _ => block, s)

/-- MCMD with fn 0. -/
def mcmdBody (d a b : Reg) (s : State) : Res := settle do
  let (block, s) ← s.commandBlock b
  match block with
  | none => return put d 1 s
  | some x => return put d 0 (s.sendCommand (s.g a) x none)

/-- MCMD with fn 1: it sends once and resumes waiting. -/
def mcmdTBody (d a b : Reg) (s : State) : Res :=
  match s.me.asked.find? fun x => x.1 == s.me.pc with
  | some (pc, some true) => put d 0 { s with me := s.me.forget pc }
  | some (pc, some false) => .trap .capability (s.g a) { s with me := s.me.forget pc }
  | some (_, none) => .wait .mcmd s
  | none => settle do
    let (block, s) ← s.commandBlock b
    match block with
    | none => return put d 1 s
    | some x =>
      let s := s.sendCommand (s.g a) x (some s.me.pc)
      return .wait .mcmd { s with me.asked := (s.me.pc, none) :: s.me.asked }

/-! ## Meanings -/

/-- ZCLR (R243). -/
def execZclr (z : ZReg) (ev : BitVec 4) (k : Bool) (s : State) : Out := issue (.zclr z ev k) (zclrBody z ev k) s

/-- ZLD (R244). -/
def execZld (z : ZReg) (ev : BitVec 4) (k : Bool) (a b : Reg) (s : State) : Out :=
  issue (.zld z ev k a b) (zldBody z ev k a b) s

/-- ZST (R244). -/
def execZst (z : ZReg) (ev : BitVec 4) (k : Bool) (a b : Reg) (s : State) : Out :=
  issue (.zst z ev k a b) (zstBody z ev k a b) s

/-- ZVER (R245): it does not wait, whatever its k; it observes the version (R260, R354). -/
def execZver (z : ZReg) (ev : BitVec 4) (k : Bool) (a : Reg) (s : State) : Out :=
  issue (.zver z ev k a) (fun s => put a (zext (s.zver z)) s.acquire) s

/-- MMA (R239, R241). -/
def execMma (z : ZReg) (ev : BitVec 4) (k : Bool) (a b : Reg) (mc : Bool) (ty : MmaTy) (s : State) : Out :=
  issue (.mma z ev k a b mc ty) (mmaBody z ev k a b mc ty) s

/-- SCLACC (R247). -/
def execSclacc (z : ZReg) (ev : BitVec 4) (k : Bool) (part : ZReg) (b : Reg) (clr : Bool) (s : State) : Out :=
  issue (.sclacc z ev k part b clr) (sclaccBody z ev k part b clr) s

/-- OUTLACC (R248). -/
def execOutlacc (z : ZReg) (ev : BitVec 4) (k : Bool) (a b : Reg) (row : BitVec 4) (s : State) : Out :=
  issue (.outlacc z ev k a b row) (outlaccBody z ev k a b row) s

/-- ZWAITV (R246). -/
def execZwaitv (z : ZReg) (ev : BitVec 4) (s : State) : Out := issue (.zwaitv z ev) (zwaitvBody z ev) s

/-- QUANT (R250). -/
def execQuant (d a : Reg) (q4 : Bool) (prm : BitVec 5) (p : PReg) (ty : ElemTy) (s : State) : Out :=
  issue (.quant d a q4 prm p ty) (quantBody d a q4 prm p ty) s

/-- DQUANT (R252). -/
def execDquant (d a : Reg) (q4 : Bool) (prm : BitVec 5) (p : PReg) (ty : ElemTy) (s : State) : Out :=
  issue (.dquant d a q4 prm p ty) (dquantBody d a q4 prm p ty) s

/-- CAPGRANT (R254). -/
def execCapgrant (d a b : Reg) (s : State) : Out := issue (.capgrant d a b) (capgrantBody d a b) s

/-- CAPDROP (R254). -/
def execCapdrop (b : Reg) (s : State) : Out := issue (.capdrop b) (capdropBody b) s

/-- MCMD (R256). -/
def execMcmd (d a b : Reg) (s : State) : Out := issue (.mcmd d a b) (mcmdBody d a b) s

/-- MCMD.T (R256). -/
def execMcmdT (d a b : Reg) (s : State) : Out := issue (.mcmdT d a b) (mcmdTBody d a b) s

end Sys2Proof.Machine
end

