-- ==== Sys2Proof/Machine/Fetch.lean ====
section
/-! DEFINITION. Fetching the next word: translation, the instruction cache, the loop buffer (R12, R136, R141), breakpoints
(R156, R157), and the words that a follower takes from its leader (R147, R148). -/

namespace Sys2Proof.Machine

/-- The word at an address within a 128-byte line. -/
def wordIn (data : BitVec 1024) (key : Nat) : Word := data.extractLsb' (8 * (key % 128)) 32

/-- Enter a line into the instruction cache, whose 256 lines fill 32 KiB: a full one gives a line up, and which one is not stated
(R136; log 10, DESIGN CHOICE). -/
def State.icacheFill (s : State) (l : ILine) : State :=
  let c := s.me
  if c.icache.length < 256 then { s with me := { c with icache := l :: c.icache } }
  else { s with me := { c with icache := l :: listDrop c.icache (Config.freeIndex s.fresh % c.icache.length) }, fresh := s.fresh + 1 }

/-- The 128 bytes of a line for the instruction cache (R136): through the home, or from the host, whose lines a member's fetch captures
or replays (R81). -/
def State.fetchData (s : State) (pa line : Nat) (cls : MemCls) : Except Res (Nat × State) := do
  let base := pa / 128 * 128
  let alloc := if cls = .unc then uncAlloc (128 * line) 0 else 0
  let s ← s.hostReady base 128 cls false
  let s ← s.askHome line 0xFFFF 128 false alloc
  let s := (s.request s.me.ctl.sid line 0xFFFF false alloc 0).ckGlobal (128 * line) false
  let (x, s) := s.looseRead cls (128 * line) 128 (s.dev.peek (128 * line) 128)
  s.hostAnswer base 128 x

/-- A word from a peer, which nothing on the device caches (R452): it is held for the fetch in progress alone. -/
def State.fetchPeer (s : State) (va : W64) : Except Res (Word × State) :=
  match s.me.peerWords.find? fun x => x.1 == va with
  | some x => .ok (x.2, s)
  | none =>
    if !s.me.granted va then (s.askFar va 4).map fun s => (0, s)
    else (s.peerAnswer va 4).map fun r =>
      let w : Word := BitVec.ofNat 32 r.1
      (w, { r.2 with me := { r.2.me with peerWords := (va, w) :: r.2.me.peerWords } })

/-- The word at va of a line, poisoned or not (R280). -/
def ILine.word (l : ILine) (va : W64) (key : Nat) (s : State) : Except Res (Word × State) :=
  if l.bad.getLsbD (key % 128 / 8) then trapHere s .poison (poisonVa va key (key / 8)) else .ok (wordIn l.data key, s)

/-- Fetch a word through the instruction cache at a physical place (R136): a line that the cache holds answers, another is
filled. The cache holds its lines until CTXSW or TLBINV invalidates it. -/
def State.fetchLine (s : State) (va : W64) (pa key : Nat) (cls : MemCls) : Except Res (Word × State) :=
  let line := key / 128
  match s.me.icache.find? fun l => l.sid == s.me.ctl.sid && l.line == line with
  | some l => l.word va key s
  | none => do
    let (x, s) ← s.fetchData pa line cls
    let bad := (poisonIn s.dev.poison (128 * line) 128).foldl (fun m w => m ||| spanMask (w % 16) (w % 16)) 0
    let l : ILine := ⟨s.me.ctl.sid, line, BitVec.ofNat 1024 x, bad⟩
    l.word va key (s.icacheFill l)

/-- Fetch the word at an address: translated with execute permission, never in a window (R12, R281). -/
def State.fetchMem (s : State) (va : W64) : Except Res (Word × State) :=
  if field va 48 16 < 0x100 then do
    let (pl, s) ← s.physCheck va .fetch
    match pl with
    | .phys pa key cls _ =>
      match s.dev.paKind pa with
      | .peer _ => s.fetchPeer va
      | .dram | .host => s.fetchLine va pa key cls
    | .own _ | .aperture _ | .table _ | .far _ _ => trapHere s .access va
  else trapHere s .access va

/-- The word at an address as the instruction cache or memory holds it, with nothing changed; none where a fetch there would not
succeed at once. -/
def State.wordAt (s : State) (va : W64) : Option Word :=
  match s.fetchMem va with
  | .ok r => some r.1
  | .error _ => none

/-- Addresses of the bodies of up to 256 words that are active and hold an address (R141). -/
def Core.bodyWords (c : Core) (a : W64) : List W64 :=
  ([0, 1, 2].filter fun n => c.loopAct n && c.inLoop n a && decide (c.loopLen n ≤ 256)).flatMap fun n =>
    (List.range (c.loopLen n)).map fun i => c.loopStart n + w64 (4 * i)

/-- The first pass captures an active body that holds the pc (R141): the word there, and the body's other words, also those that the pass
does not reach. (Log 108, DEDUCED.) -/
def State.captureBody (s : State) (w : Word) : State :=
  let pc := s.me.pc
  let as := (s.me.bodyWords pc).filter fun a => a != pc && !s.me.loopWords.any fun x => x.1 == a
  if (s.me.bodyWords pc).isEmpty then s
  else { s with me := { s.me with loopBuf := (pc, w) :: s.me.loopWords ++ as.filterMap fun a => (s.wordAt a).map fun w => (a, w) } }

/-- Fetch the word at the pc (R136, R141): a captured word of an active body issues from the loop buffer; another word of an
active body is captured. -/
def State.fetchHere (s : State) : Except Res (Word × State) :=
  let pc := s.me.pc
  if !s.me.inBody pc then s.fetchMem pc
  else
    match s.me.loopWords.find? fun x => x.1 == pc with
    | some x => .ok (x.2, s)
    | none => do
      let (w, s) ← s.fetchMem pc
      return (w, s.captureBody w)

/-- A word that a follower takes from its leader is captured like a fetched one (R141, R147). -/
def State.captureTaken (s : State) (w : Word) : State :=
  if s.me.inBody s.me.pc && !s.me.loopWords.any (fun x => x.1 == s.me.pc) then s.captureBody w else s

/-- The words that a follower has yet to issue after those of its HINT chain that it has issued (R147). -/
def Core.trailLeft (c : Core) : List TrailWord :=
  if (c.trail.head?.map (·.pc)) == c.hints.start then c.trail.drop c.hints.words.length else c.trail

/-- The word that comes next (R147): a follower takes its leader's oldest word after those of its HINT chain; a core that
fetches for itself fetches at its pc. -/
def State.fetchNext (s : State) : Except Res (Word × State) :=
  if s.me.bond = .follow ∧ s.me.rank ≠ 0 then
    match s.me.trailLeft with
    | x :: _ => .ok (x.word, s.captureTaken x.word)
    | [] => if s.me.orphan then { s with me := s.me.unbond }.fetchHere else .error (.wait .follow s)
  else s.fetchHere

/-- Whether a word is a HINT (R29). -/
def isHint (w : Word) : Bool := fOp w == 0x7E

/-- Fetch the words of the HINT chain that begins at an address, and its target, n words at most. A word that traps when it is
fetched ends the chain here; it traps when it comes. -/
def State.chainFetch (s : State) : Nat → W64 → Except Res (List (W64 × Word) × State)
  | 0, _ => .ok ([], s)
  | n + 1, a =>
    let back (t : State) : State := { t with me := { t.me with pc := s.me.pc } }
    match ({ s with me := { s.me with pc := a } } : State).fetchHere with
    | .ok (w, t) =>
      if isHint w then ((back t).chainFetch n (a + 4)).map fun r => ((a, w) :: r.1, r.2) else .ok ([(a, w)], back t)
    | .error (.wait w t) => .error (.wait w (back t))
    | .error _ => .ok ([], s)

/-- The words of a trail that make a HINT chain and its target. -/
def trailChain : List TrailWord → List (W64 × Word)
  | [] => []
  | x :: t => (x.pc, x.word) :: (if isHint x.word then trailChain t else [])

/-- The words of the chain at the pc, of four HINTs at most (R26), and its target. -/
def State.chainHere (s : State) : Except Res (List (W64 × Word) × State) :=
  match s.me.trailLeft with
  | x :: t => .ok (trailChain (x :: t), s)
  | [] => s.chainFetch 5 s.me.pc

/-- Instructions that resume part-way from PIX (R156): the long ones of R240, GATH, SCAT, VLUT and REPV. -/
def resumes (w : Word) : Bool :=
  match decode w with
  | .ok (.repv _ _ _ _ _) => true
  | .ok i => isLong i
  | .error _ => false

/-- The breakpoint test of some addresses (R156): the lowest enabled register that matches without skip, and the registers
whose skip bits the match uses up. -/
def Core.brkMatch (c : Core) (addrs : List W64) : Option W64 × List Nat :=
  (List.range 4).foldl (fun r n =>
    match c.ctl.brka.toList[n]? with
    | none => r
    | some b =>
      let a := withField b 0 2 0
      if !b.getLsbD 0 || !addrs.contains a then r
      else if b.getLsbD 1 then (r.1, n :: r.2)
      else (r.1.orElse fun _ => some a, r.2)) (none, [])

/-- Clear skip bits (Table 6 of 06). -/
def Core.useSkips (c : Core) (l : List Nat) : Core :=
  l.foldl (fun c n => if h : n < 4 then { c with ctl.brka := c.ctl.brka.set n (withField (c.ctl.brka[n]) 1 1 0) h } else c) c

/-- Whether a match is tested at this issue (R156): at the first word of a HINT chain or a word without one, when it has not issued
yet, also where it is tried anew after a wait for its fetch. -/
def Core.brkTested (c : Core) : Bool :=
  c.hints.start.isNone && !c.issued && c.ctl.brka.toList.any fun b => b.getLsbD 0

/-- The cores that issue the next word: a locked gang's, otherwise the core in focus (R150). -/
def State.team (s : State) : List Nat := if s.me.bond = .gang then s.me.crew else [s.here]

/-- The addresses that the breakpoint test of this issue takes (R156): none where an instruction resumes part-way. -/
def State.brkAddrs (s : State) : Except Res (List W64 × State) :=
  if !s.team.any fun k => (s.coreAt k).brkTested then .ok ([], s)
  else do
    let (ws, s) ← s.chainHere
    return (if s.me.ctl.pix != 0 && ws.any (fun w => resumes w.2) then [] else ws.map (·.1), s)

/-- The test of core k against these addresses: the address that matched, and the registers whose skips it uses up. -/
def State.brkAt (s : State) (addrs : List W64) (k : Nat) : Option W64 × List Nat :=
  if (s.coreAt k).brkTested then (s.coreAt k).brkMatch addrs else (none, [])

/-- A match at the issue of a word: BRK before the word or its HINT chain, in a locked gang with every member halted (R157, R151).
TPC is the first HINT's address (R27). (Log 19, DEDUCED.) -/
def State.breakTrap (s : State) (addrs : List W64) : State :=
  if s.me.bond = .gang then
    let rs := s.me.crew.map fun k =>
      match (s.brkAt addrs k).1 with
      | some b => (k, Res.trap .brk b (s.focus k))
      | none => (k, Res.wait .gang s)
    (haltCrew rs s).focus s.here
  else
    match (s.brkAt addrs s.here).1 with
    | some a => s.raise (Cause.brk).code a s.me.trapPc
    | none => s

/-- The word w issues: skips are used up, what it waited for before its issue is over, and the sequence of an earlier REPV with it. -/
def State.passIssue (s : State) (addrs : List W64) (w : Word) : State :=
  s.team.foldl (fun s k => s.onCore k fun c =>
    if c.issued then c
    else { c.useSkips (s.brkAt addrs k).2 with
      issued := true, wait := none, seq := if resumes w && c.ctl.pix != 0 then c.seq else [] }) s

/-! ## Follow strength (R147, R148) -/

/-- The followers that still issue the words of the core in focus. -/
def State.followers (s : State) : List Nat :=
  if s.me.bond = .follow ∧ s.me.rank = 0 then s.me.crew.filter s.follows else []

/-- The words that a follower has yet to issue. -/
def Core.behind (c : Core) : Nat := c.trail.foldl (fun n x => n + x.count) 0

/-- A follower would fall more than 64 words behind with n more: its leader stalls before them (R147). -/
def State.lagging (s : State) (n : Nat) : Bool :=
  !s.me.issued && s.followers.any fun k => decide (64 < (s.coreAt k).behind + n)

/-- The branch direction, or the skip of LOOP's body, that a word decides (R148). -/
def takes (i : Instr) (s : State) : Bool :=
  match i with
  | .beq a b _ => s.g a == s.g b
  | .bne a b _ => s.g a != s.g b
  | .blt a b _ => (s.g a).slt (s.g b)
  | .bge a b _ => !(s.g a).slt (s.g b)
  | .bltc a b _ => (s.g a).ult (s.g b)
  | .bgec a b _ => !(s.g a).ult (s.g b)
  | .loop a _ _ => s.g a == 0
  | _ => false

/-- The address after which a word's loop end steps come: of its sequence, of the body that it skips, or its own (R138, R139, R145). -/
def lastAddr (i : Instr) (s : State) : W64 :=
  match i with
  | .repv _ len _ _ _ => s.me.pc + w64 (4 * (len.toNat + 1))
  | .loop a _ len => if s.g a = 0 then s.me.pc + w64 (4 * len.toNat) else s.me.pc
  | _ => s.me.pc

/-- The control decision that a word makes from the state before it (R148): its direction, and which loop continues at its end. -/
def decision (i : Instr) (s : State) : Nat :=
  let c := s.me
  bit (takes i s) + 2 * (match (c.loopsEnding (lastAddr i s)).find? fun n => c.lc n != 1 with | some n => n + 1 | none => 0)

/-- The words of a HINT chain with their addresses. -/
def Hints.chain (h : Hints) : List (W64 × Word) :=
  h.words.zipIdx.map fun w => (h.start.getD 0 + w64 (4 * w.2), w.1)

/-- The leader has issued words: its followers are to issue them. -/
def State.leave (s : State) (fs : List Nat) (xs : List TrailWord) : State :=
  fs.foldl (fun s k => s.onCore k fun c => { c with trail := c.trail ++ xs }) s

/-- A follower has issued its leader's words up to x: when its decision or the address at which it goes on differs from the
leader's, it is released (R148). -/
def State.followed (s : State) (n choice : Nat) (x : TrailWord) : State :=
  let c := { s.me with trail := s.me.trail.drop n }
  let s := { s with me := c }
  if c.pc = x.next ∧ choice = x.choice then (if c.trail.isEmpty && c.orphan then { s with me := c.unbond } else s)
  else if c.orphan then { s with me := c.unbond }
  else s.leaveBond

end Sys2Proof.Machine
end

