-- ==== Sys2Proof/Machine/Signature.lean ====
section
/-! DEFINITION. The signature checker (R159 to R163, R64). -/

namespace Sys2Proof.Machine

/-- Register files, as the producers of R160 tell them apart. -/
inductive RFile where
  | g | v | p | z
  deriving DecidableEq, Repr

/-- The destination and the two sources of a word: a, and b or s (R160). A field that names a stream queue has no
producer. -/
structure RegUse where
  dest : Option (RFile × Nat)
  src1 : Option (RFile × Nat)
  src2 : Option (RFile × Nat)
  deriving DecidableEq, Repr

/-- The registers that an instruction names. -/
def regUse : Instr → RegUse
  | .add d a b => ⟨some (.g, d.toNat), some (.g, a.toNat), some (.g, b.toNat)⟩
  | .sub d a b => ⟨some (.g, d.toNat), some (.g, a.toNat), some (.g, b.toNat)⟩
  | .and d a b => ⟨some (.g, d.toNat), some (.g, a.toNat), some (.g, b.toNat)⟩
  | .or d a b => ⟨some (.g, d.toNat), some (.g, a.toNat), some (.g, b.toNat)⟩
  | .xor d a b => ⟨some (.g, d.toNat), some (.g, a.toNat), some (.g, b.toNat)⟩
  | .andn d a b => ⟨some (.g, d.toNat), some (.g, a.toNat), some (.g, b.toNat)⟩
  | .shl d a b => ⟨some (.g, d.toNat), some (.g, a.toNat), some (.g, b.toNat)⟩
  | .shr d a b => ⟨some (.g, d.toNat), some (.g, a.toNat), some (.g, b.toNat)⟩
  | .sar d a b => ⟨some (.g, d.toNat), some (.g, a.toNat), some (.g, b.toNat)⟩
  | .ror d a b => ⟨some (.g, d.toNat), some (.g, a.toNat), some (.g, b.toNat)⟩
  | .slt d a b => ⟨some (.g, d.toNat), some (.g, a.toNat), some (.g, b.toNat)⟩
  | .sltc d a b => ⟨some (.g, d.toNat), some (.g, a.toNat), some (.g, b.toNat)⟩
  | .min d a b => ⟨some (.g, d.toNat), some (.g, a.toNat), some (.g, b.toNat)⟩
  | .max d a b => ⟨some (.g, d.toNat), some (.g, a.toNat), some (.g, b.toNat)⟩
  | .minc d a b => ⟨some (.g, d.toNat), some (.g, a.toNat), some (.g, b.toNat)⟩
  | .maxc d a b => ⟨some (.g, d.toNat), some (.g, a.toNat), some (.g, b.toNat)⟩
  | .mul d a b => ⟨some (.g, d.toNat), some (.g, a.toNat), some (.g, b.toNat)⟩
  | .mulh d a b => ⟨some (.g, d.toNat), some (.g, a.toNat), some (.g, b.toNat)⟩
  | .mulhc d a b => ⟨some (.g, d.toNat), some (.g, a.toNat), some (.g, b.toNat)⟩
  | .mulhsc d a b => ⟨some (.g, d.toNat), some (.g, a.toNat), some (.g, b.toNat)⟩
  | .div d a b => ⟨some (.g, d.toNat), some (.g, a.toNat), some (.g, b.toNat)⟩
  | .divc d a b => ⟨some (.g, d.toNat), some (.g, a.toNat), some (.g, b.toNat)⟩
  | .rem d a b => ⟨some (.g, d.toNat), some (.g, a.toNat), some (.g, b.toNat)⟩
  | .remc d a b => ⟨some (.g, d.toNat), some (.g, a.toNat), some (.g, b.toNat)⟩
  | .addi d a _ => ⟨some (.g, d.toNat), some (.g, a.toNat), none⟩
  | .andi d a _ => ⟨some (.g, d.toNat), some (.g, a.toNat), none⟩
  | .ori d a _ => ⟨some (.g, d.toNat), some (.g, a.toNat), none⟩
  | .xori d a _ => ⟨some (.g, d.toNat), some (.g, a.toNat), none⟩
  | .slti d a _ => ⟨some (.g, d.toNat), some (.g, a.toNat), none⟩
  | .sltci d a _ => ⟨some (.g, d.toNat), some (.g, a.toNat), none⟩
  | .muli d a _ => ⟨some (.g, d.toNat), some (.g, a.toNat), none⟩
  | .shli d a _ => ⟨some (.g, d.toNat), some (.g, a.toNat), none⟩
  | .shri d a _ => ⟨some (.g, d.toNat), some (.g, a.toNat), none⟩
  | .sari d a _ => ⟨some (.g, d.toNat), some (.g, a.toNat), none⟩
  | .rori d a _ => ⟨some (.g, d.toNat), some (.g, a.toNat), none⟩
  | .bext d a _ _ => ⟨some (.g, d.toNat), some (.g, a.toNat), none⟩
  | .bexts d a _ _ => ⟨some (.g, d.toNat), some (.g, a.toNat), none⟩
  | .bins d a _ _ => ⟨some (.g, d.toNat), some (.g, a.toNat), none⟩
  | .lea d a b _ => ⟨some (.g, d.toNat), some (.g, a.toNat), some (.g, b.toNat)⟩
  | .laddr d a _ => ⟨some (.g, d.toNat), some (.g, a.toNat), none⟩
  | .laddrLen d _ => ⟨some (.g, d.toNat), none, none⟩
  | .clz d a => ⟨some (.g, d.toNat), some (.g, a.toNat), none⟩
  | .ctz d a => ⟨some (.g, d.toNat), some (.g, a.toNat), none⟩
  | .popc d a => ⟨some (.g, d.toNat), some (.g, a.toNat), none⟩
  | .brev d a => ⟨some (.g, d.toNat), some (.g, a.toNat), none⟩
  | .bswap d a => ⟨some (.g, d.toNat), some (.g, a.toNat), none⟩
  | .sextb d a => ⟨some (.g, d.toNat), some (.g, a.toNat), none⟩
  | .sexth d a => ⟨some (.g, d.toNat), some (.g, a.toNat), none⟩
  | .sextw d a => ⟨some (.g, d.toNat), some (.g, a.toNat), none⟩
  | .zexth d a => ⟨some (.g, d.toNat), some (.g, a.toNat), none⟩
  | .zextw d a => ⟨some (.g, d.toNat), some (.g, a.toNat), none⟩
  | .sel d a b _ => ⟨some (.g, d.toNat), some (.g, a.toNat), some (.g, b.toNat)⟩
  | .selz d a b _ => ⟨some (.g, d.toNat), some (.g, a.toNat), some (.g, b.toNat)⟩
  | .beq a b _ => ⟨none, some (.g, a.toNat), some (.g, b.toNat)⟩
  | .bne a b _ => ⟨none, some (.g, a.toNat), some (.g, b.toNat)⟩
  | .blt a b _ => ⟨none, some (.g, a.toNat), some (.g, b.toNat)⟩
  | .bge a b _ => ⟨none, some (.g, a.toNat), some (.g, b.toNat)⟩
  | .bltc a b _ => ⟨none, some (.g, a.toNat), some (.g, b.toNat)⟩
  | .bgec a b _ => ⟨none, some (.g, a.toNat), some (.g, b.toNat)⟩
  | .jal _ => ⟨some (.g, 63), none, none⟩
  | .jalr d a _ => ⟨some (.g, d.toNat), some (.g, a.toNat), none⟩
  | .jr a _ => ⟨none, some (.g, a.toNat), none⟩
  | .loop a _ _ => ⟨none, some (.g, a.toNat), none⟩
  | .follow d => ⟨some (.g, d.toNat), none, none⟩
  | .gang d => ⟨some (.g, d.toNat), none, none⟩
  | .ld d a _ _ _ => ⟨some (.g, d.toNat), some (.g, a.toNat), none⟩
  | .ldvol d a _ _ _ => ⟨some (.g, d.toNat), some (.g, a.toNat), none⟩
  | .st src a _ _ => ⟨none, some (.g, a.toNat), some (.g, src.toNat)⟩
  | .stvol src a _ _ => ⟨none, some (.g, a.toNat), some (.g, src.toNat)⟩
  | .ldv d a _ => ⟨some (.v, d.toNat), some (.g, a.toNat), none⟩
  | .stv src a _ => ⟨none, some (.g, a.toNat), some (.v, src.toNat)⟩
  | .gath d a b _ _ => ⟨some (.v, d.toNat), some (.g, a.toNat), some (.v, b.toNat)⟩
  | .scat _ a b _ _ => ⟨none, some (.g, a.toNat), some (.v, b.toNat)⟩
  | .pref a => ⟨none, some (.g, a.toNat), none⟩
  | .prefX a => ⟨none, some (.g, a.toNat), none⟩
  | .prefL2 a => ⟨none, some (.g, a.toNat), none⟩
  | .bpref _ a b => ⟨none, some (.g, a.toNat), some (.g, b.toNat)⟩
  | .clean a => ⟨none, some (.g, a.toNat), none⟩
  | .cleanP a => ⟨none, some (.g, a.toNat), none⟩
  | .cinv a => ⟨none, some (.g, a.toNat), none⟩
  | .ldAcq d a _ => ⟨some (.g, d.toNat), some (.g, a.toNat), none⟩
  | .stRel a b _ => ⟨none, some (.g, a.toNat), some (.g, b.toNat)⟩
  | .atswap d a b _ _ => ⟨some (.g, d.toNat), some (.g, a.toNat), some (.g, b.toNat)⟩
  | .atadd d a b _ _ => ⟨some (.g, d.toNat), some (.g, a.toNat), some (.g, b.toNat)⟩
  | .atand d a b _ _ => ⟨some (.g, d.toNat), some (.g, a.toNat), some (.g, b.toNat)⟩
  | .ator d a b _ _ => ⟨some (.g, d.toNat), some (.g, a.toNat), some (.g, b.toNat)⟩
  | .atxor d a b _ _ => ⟨some (.g, d.toNat), some (.g, a.toNat), some (.g, b.toNat)⟩
  | .atmin d a b _ _ => ⟨some (.g, d.toNat), some (.g, a.toNat), some (.g, b.toNat)⟩
  | .atmax d a b _ _ => ⟨some (.g, d.toNat), some (.g, a.toNat), some (.g, b.toNat)⟩
  | .atminc d a b _ _ => ⟨some (.g, d.toNat), some (.g, a.toNat), some (.g, b.toNat)⟩
  | .atmaxc d a b _ _ => ⟨some (.g, d.toNat), some (.g, a.toNat), some (.g, b.toNat)⟩
  | .cas d a b _ _ => ⟨some (.g, d.toNat), some (.g, a.toNat), some (.g, b.toNat)⟩
  | .mwait d a b => ⟨some (.g, d.toNat), some (.g, a.toNat), some (.g, b.toNat)⟩
  | .bar d _ _ => ⟨some (.g, d.toNat), none, none⟩
  | .send a b => ⟨none, some (.g, a.toNat), some (.g, b.toNat)⟩
  | .sendv a b => ⟨none, some (.g, a.toNat), some (.v, b.toNat)⟩
  | .sendEos a => ⟨none, some (.g, a.toNat), none⟩
  | .stbind d a b => ⟨some (.g, d.toNat), some (.g, a.toNat), some (.g, b.toNat)⟩
  | .stdrop d a b => ⟨some (.g, d.toNat), some (.g, a.toNat), some (.g, b.toNat)⟩
  | .waiteos d a b => ⟨some (.g, d.toNat), some (.g, a.toNat), some (.g, b.toNat)⟩
  | .xtpl d a b => ⟨some (.g, d.toNat), some (.g, a.toNat), some (.g, b.toNat)⟩
  | .swinit d a b => ⟨some (.g, d.toNat), some (.g, a.toNat), some (.g, b.toNat)⟩
  | .swait d a b => ⟨some (.g, d.toNat), some (.g, a.toNat), some (.g, b.toNat)⟩
  | .fesetE a b => ⟨none, some (.g, a.toNat), some (.g, b.toNat)⟩
  | .fesetF a b => ⟨none, some (.g, a.toNat), some (.g, b.toNat)⟩
  | .wreg d a b => ⟨some (.g, d.toNat), some (.g, a.toNat), some (.g, b.toNat)⟩
  | .wst _ a b => ⟨none, some (.g, a.toNat), some (.g, b.toNat)⟩
  | .whzn d a b => ⟨some (.g, d.toNat), some (.g, a.toNat), some (.g, b.toNat)⟩
  | .wretain d a b => ⟨some (.g, d.toNat), some (.g, a.toNat), some (.g, b.toNat)⟩
  | .wseed a => ⟨none, some (.g, a.toNat), none⟩
  | .wstat d a => ⟨some (.g, d.toNat), some (.g, a.toNat), none⟩
  | .wld d a b _ => ⟨some (.v, 2 * d.toNat), some (.g, a.toNat), some (.g, b.toNat)⟩
  | .wldT d a b _ => ⟨some (.v, 2 * d.toNat), some (.g, a.toNat), some (.g, b.toNat)⟩
  | .patrec d a => ⟨some (.g, d.toNat), some (.g, a.toNat), none⟩
  | .patplay d a => ⟨some (.g, d.toNat), some (.g, a.toNat), none⟩
  | .patoff d a => ⟨some (.g, d.toNat), some (.g, a.toNat), none⟩
  | .patstat d a => ⟨some (.g, d.toNat), some (.g, a.toNat), none⟩
  | .patdrop d a => ⟨some (.g, d.toNat), some (.g, a.toNat), none⟩
  | .quant d a _ prm _ _ => ⟨some (.v, d.toNat), some (.v, a.toNat), some (.g, prm.toNat)⟩
  | .dquant d a _ prm _ _ => ⟨some (.v, d.toNat), some (.v, a.toNat), some (.g, prm.toNat)⟩
  | .vadd d a b _ _ _ => ⟨some (.v, d.toNat), some (.v, a.toNat), some (.v, b.toNat)⟩
  | .vsub d a b _ _ _ => ⟨some (.v, d.toNat), some (.v, a.toNat), some (.v, b.toNat)⟩
  | .vmul d a b _ _ _ => ⟨some (.v, d.toNat), some (.v, a.toNat), some (.v, b.toNat)⟩
  | .vfma d a b _ _ _ => ⟨some (.v, d.toNat), some (.v, a.toNat), some (.v, b.toNat)⟩
  | .vfnma d a b _ _ _ => ⟨some (.v, d.toNat), some (.v, a.toNat), some (.v, b.toNat)⟩
  | .vdiv d a b _ _ _ => ⟨some (.v, d.toNat), some (.v, a.toNat), some (.v, b.toNat)⟩
  | .vmin d a b _ _ _ => ⟨some (.v, d.toNat), some (.v, a.toNat), some (.v, b.toNat)⟩
  | .vmax d a b _ _ _ => ⟨some (.v, d.toNat), some (.v, a.toNat), some (.v, b.toNat)⟩
  | .vcpys d a b _ _ _ => ⟨some (.v, d.toNat), some (.v, a.toNat), some (.v, b.toNat)⟩
  | .vabs d a _ _ _ => ⟨some (.v, d.toNat), some (.v, a.toNat), none⟩
  | .vneg d a _ _ _ => ⟨some (.v, d.toNat), some (.v, a.toNat), none⟩
  | .vnot d a _ _ _ => ⟨some (.v, d.toNat), some (.v, a.toNat), none⟩
  | .vsqrt d a _ _ _ => ⟨some (.v, d.toNat), some (.v, a.toNat), none⟩
  | .vrcp d a _ _ _ => ⟨some (.v, d.toNat), some (.v, a.toNat), none⟩
  | .vrsq d a _ _ _ => ⟨some (.v, d.toNat), some (.v, a.toNat), none⟩
  | .vexp2 d a _ _ _ => ⟨some (.v, d.toNat), some (.v, a.toNat), none⟩
  | .vlog2 d a _ _ _ => ⟨some (.v, d.toNat), some (.v, a.toNat), none⟩
  | .vsinpi d a _ _ _ => ⟨some (.v, d.toNat), some (.v, a.toNat), none⟩
  | .vcospi d a _ _ _ => ⟨some (.v, d.toNat), some (.v, a.toNat), none⟩
  | .vtanh d a _ _ _ => ⟨some (.v, d.toNat), some (.v, a.toNat), none⟩
  | .vand d a b _ _ _ => ⟨some (.v, d.toNat), some (.v, a.toNat), some (.v, b.toNat)⟩
  | .vor d a b _ _ _ => ⟨some (.v, d.toNat), some (.v, a.toNat), some (.v, b.toNat)⟩
  | .vxor d a b _ _ _ => ⟨some (.v, d.toNat), some (.v, a.toNat), some (.v, b.toNat)⟩
  | .vshl d a b _ _ _ => ⟨some (.v, d.toNat), some (.v, a.toNat), some (.v, b.toNat)⟩
  | .vshr d a b _ _ _ => ⟨some (.v, d.toNat), some (.v, a.toNat), some (.v, b.toNat)⟩
  | .vsar d a b _ _ _ => ⟨some (.v, d.toNat), some (.v, a.toNat), some (.v, b.toNat)⟩
  | .vcmp _ d a b _ _ _ => ⟨some (.p, d.toNat), some (.v, a.toNat), some (.v, b.toNat)⟩
  | .vsel d a b _ _ _ => ⟨some (.v, d.toNat), some (.v, a.toNat), some (.v, b.toNat)⟩
  | .vcvt d a _ _ _ _ _ _ => ⟨some (.v, d.toNat), some (.v, a.toNat), none⟩
  | .vbcast d a _ _ _ => ⟨some (.v, d.toNat), some (.g, a.toNat), none⟩
  | .vins d a b _ _ => ⟨some (.v, d.toNat), some (.g, a.toNat), some (.g, b.toNat)⟩
  | .vext d a b _ _ => ⟨some (.g, d.toNat), some (.v, a.toNat), some (.g, b.toNat)⟩
  | .vperm d a b _ _ _ => ⟨some (.v, d.toNat), some (.v, a.toNat), some (.v, b.toNat)⟩
  | .vslide d a b _ _ _ => ⟨some (.v, d.toNat), some (.v, a.toNat), some (.g, b.toNat)⟩
  | .vred d a _ _ _ _ => ⟨some (.v, d.toNat), some (.v, a.toNat), none⟩
  | .vscan d a _ _ _ _ => ⟨some (.v, d.toNat), some (.v, a.toNat), none⟩
  | .vcxs d a b _ _ _ => ⟨some (.v, d.toNat), some (.g, a.toNat), some (.g, b.toNat)⟩
  | .vcompr d a _ _ _ => ⟨some (.v, d.toNat), some (.v, a.toNat), none⟩
  | .vexpnd d a _ _ _ => ⟨some (.v, d.toNat), some (.v, a.toNat), none⟩
  | .vlut d a b _ _ => ⟨some (.v, d.toNat), some (.v, a.toNat), some (.g, b.toNat)⟩
  | .vdot d a b _ _ _ => ⟨some (.v, d.toNat), some (.v, a.toNat), some (.v, b.toNat)⟩
  | .pset d a => ⟨some (.p, d.toNat), some (.g, a.toNat), none⟩
  | .pand d a b => ⟨some (.p, d.toNat), some (.p, a.toNat), some (.p, b.toNat)⟩
  | .por d a b => ⟨some (.p, d.toNat), some (.p, a.toNat), some (.p, b.toNat)⟩
  | .pxor d a b => ⟨some (.p, d.toNat), some (.p, a.toNat), some (.p, b.toNat)⟩
  | .pnot d a => ⟨some (.p, d.toNat), some (.p, a.toNat), none⟩
  | .pcnt d a => ⟨some (.g, d.toNat), some (.p, a.toNat), none⟩
  | .pfirst d a => ⟨some (.g, d.toNat), some (.p, a.toNat), none⟩
  | .zclr z _ _ => ⟨some (.z, z.toNat), none, none⟩
  | .zld z _ _ a b => ⟨some (.z, z.toNat), some (.g, a.toNat), some (.g, b.toNat)⟩
  | .zst _ _ _ a b => ⟨none, some (.g, a.toNat), some (.g, b.toNat)⟩
  | .zver _ _ _ a => ⟨some (.g, a.toNat), none, none⟩
  | .mma z _ _ a b _ _ => ⟨some (.z, z.toNat), some (.g, a.toNat), some (.g, b.toNat)⟩
  | .sclacc z _ _ part b _ => ⟨some (.z, z.toNat), some (.z, part.toNat), some (.g, b.toNat)⟩
  | .outlacc z _ _ a b _ => ⟨some (.z, z.toNat), some (.g, a.toNat), some (.g, b.toNat)⟩
  | .mcmd d a b => ⟨some (.g, d.toNat), some (.g, a.toNat), some (.g, b.toNat)⟩
  | .mcmdT d a b => ⟨some (.g, d.toNat), some (.g, a.toNat), some (.g, b.toNat)⟩
  | .capgrant d a b => ⟨some (.g, d.toNat), some (.g, a.toNat), some (.g, b.toNat)⟩
  | .capdrop b => ⟨none, none, some (.g, b.toNat)⟩
  | .trap a => ⟨none, some (.g, a.toNat), none⟩
  | .idle a => ⟨none, some (.g, a.toNat), none⟩
  | .crd d _ => ⟨some (.g, d.toNat), none, none⟩
  | .cwr a _ => ⟨none, some (.g, a.toNat), none⟩
  | .tlbinv d a b => ⟨some (.g, d.toNat), some (.g, a.toNat), some (.g, b.toNat)⟩
  | .ctxsw d a b => ⟨some (.g, d.toNat), some (.g, a.toNat), some (.g, b.toNat)⟩
  | .freplay d a b => ⟨some (.g, d.toNat), some (.g, a.toNat), some (.g, b.toNat)⟩
  | .fkill d a b => ⟨some (.g, d.toNat), some (.g, a.toNat), some (.g, b.toNat)⟩
  | .fqack d a => ⟨some (.g, d.toNat), some (.g, a.toNat), none⟩
  | .cpair d => ⟨some (.g, d.toNat), none, none⟩
  | .unpair d => ⟨some (.g, d.toNat), none, none⟩
  | .launch d a => ⟨some (.g, d.toNat), some (.g, a.toNat), none⟩
  | .stvgrow d a b => ⟨some (.g, d.toNat), some (.g, a.toNat), some (.g, b.toNat)⟩
  | .stvshrink d a b => ⟨some (.g, d.toNat), some (.g, a.toNat), some (.g, b.toNat)⟩
  | .stvmap d a b => ⟨some (.g, d.toNat), some (.g, a.toNat), some (.g, b.toNat)⟩
  | .rhashBegin d a b => ⟨some (.g, d.toNat), some (.g, a.toNat), some (.g, b.toNat)⟩
  | .rhashCommit d a => ⟨some (.g, d.toNat), some (.g, a.toNat), none⟩
  | .migrate d a b => ⟨some (.g, d.toNat), some (.g, a.toNat), some (.g, b.toNat)⟩
  | .quar d a b => ⟨some (.g, d.toNat), some (.g, a.toNat), some (.g, b.toNat)⟩
  | _ => ⟨none, none, none⟩

/-- The destinations of an instruction: WLD and VCXS write a pair (R204, R320), SCLACC.clr also its part accumulator (R247). -/
def dests (i : Instr) : List (RFile × Nat) :=
  match i with
  | .vcxs d _ _ _ _ _ => [(.v, d.toNat), (.v, d.toNat + 1)]
  | .sclacc z _ _ part _ clr => (.z, z.toNat) :: (if clr then [(.z, part.toNat)] else [])
  | .wld d _ _ _ | .wldT d _ _ _ => [(.v, 2 * d.toNat), (.v, 2 * d.toNat + 1)]
  | i => (regUse i).dest.toList

/-- CRC-32C of one byte, reflected (R161). -/
def crcByte (c : BitVec 32) (b : Byte) : BitVec 32 :=
  (List.range 8).foldl (fun c _ => if c.getLsbD 0 then (c >>> 1) ^^^ 0x82F63B78 else c >>> 1) (c ^^^ b.setWidth 32)

/-- CRC-32C over bytes, from a running value that holds the final form (R161). -/
def crcOver (crc : BitVec 32) (bs : List Byte) : BitVec 32 := ~~~(bs.foldl crcByte (~~~crc))

/-- Formats of the majors, as the signature record reads them (R160, R34). -/
inductive Fmt where
  | r | i | s | b | j | v | m | h
  deriving DecidableEq, Repr

/-- The format of a major (Table 11 of 01). -/
def fmtOf (w : Word) : Fmt :=
  let op := (fOp w).toNat
  if op = 0x7E then .h
  else if op = 0x16 ∨ op = 0x17 then .j
  else if 0x10 ≤ op ∧ op ≤ 0x15 then .b
  else if op = 0x21 ∨ op = 0x23 ∨ op = 0x25 then .s
  else if op = 0x26 ∨ op = 0x27 ∨ op = 0x37 ∨ op = 0x38 ∨ (0x40 ≤ op ∧ op ≤ 0x5E) then .v
  else if (0x68 ≤ op ∧ op ≤ 0x6B) ∨ op = 0x6E then .m
  else if op = 0x01 ∨ op = 0x0B ∨ op = 0x0D ∨ op = 0x0E ∨ op = 0x1B ∨ (0x28 ≤ op ∧ op ≤ 0x36) ∨ op = 0x5F ∨
      op = 0x6C ∨ op = 0x6D ∨ op = 0x70 ∨ (0x73 ≤ op ∧ op ≤ 0x77) then .r
  else .i

/-- The signature record of a word with its producers (Table 8 of 06). -/
def sigRecord (w : Word) (p1 p2 : Nat) : List Byte :=
  let f := fmtOf w
  let b1 := match f with
    | .r => w.toNat % 128
    | .m => w.toNat % 32
    | .h => field w 22 3
    | _ => 0
  let b2 := match f with
    | .m => field w 22 3
    | .j | .h => 0
    | _ => field w 19 6
  let b3 := match f with
    | .m => field w 11 6
    | .j | .h => 0
    | _ => field w 13 6
  let b4 := match f with
    | .r | .v => field w 7 6
    | .m => field w 5 6
    | _ => 0
  [BitVec.ofNat 8 (field w 25 7), BitVec.ofNat 8 b1, BitVec.ofNat 8 b2, BitVec.ofNat 8 b3, BitVec.ofNat 8 b4]
    ++ leBytes 3 (p1 + 4096 * p2)

/-- n bytes at an address of the context, as the checker and placement read the object: through its tables, changing
nothing. -/
def State.glance (s : State) (sp : Space) (va : W64) (n : Nat) : Option Nat :=
  match s.translate sp va.toNat false with
  | .hit t s => some (s.dev.peek (s.dev.key (t.pa va.toNat)) n)
  | .miss _ _ _ => none

/-- Entry i of the SIG section (R64): 16 bytes. -/
def State.sigBlock (s : State) (i : Nat) : BitVec 128 :=
  BitVec.ofNat 128 ((s.glance s.me.space (s.me.ctl.sigtab + w64 (16 * i)) 16).getD 0)

/-- The index of the current block, the next word index and the running CRC (Table 7 of 06). SIGST's index has 12 bits: after word
4,096 of a block the words of the pass tell it from the block's start. -/
def Core.sigParts (c : Core) : Nat × Nat × BitVec 32 :=
  let idx := field c.ctl.sigst 32 12
  (field c.ctl.sigst 44 20, if c.pass.length % 4096 = idx then c.pass.length else idx, c.ctl.sigst.setWidth 32)

/-- SIGST from its parts. -/
def sigWord (block index : Nat) (crc : BitVec 32) : W64 := w64 (2 ^ 44 * block + 2 ^ 32 * (index % 4096) + crc.toNat)

/-- The words of the current pass through a block that starts at an address, up to the next index: those that the checker was fed;
where SIGST has been set to the midst of a block, those of TEXT. -/
def State.passWords (s : State) (start : W64) (idx : Nat) : List Word :=
  if s.me.pass.length = idx then s.me.pass
  else (List.range idx).map fun n => BitVec.ofNat 32 ((s.glance s.me.space (start + w64 (4 * n)) 4).getD 0)

/-- The index of the last word of a pass whose destination is a register; 0xFFF when there is none (R160). -/
def producer (ws : List Word) (r : Option (RFile × Nat)) : Nat :=
  match r with
  | none => 0xFFF
  | some x => ws.zipIdx.foldl (fun p w =>
    match decode w.1 with
    | .ok i => if (dests i).contains x then w.2 else p
    | .error _ => p) 0xFFF

/-- A source field that names a stream queue has no producer. -/
def vSource (r : Option (RFile × Nat)) : Option (RFile × Nat) :=
  match r with
  | some (.v, n) => if n < 56 then some (.v, n) else none
  | r => r

/-- The number of block entries of the SIG section, which come before its successor words (R64); the section table gives it
with the job (R55). For a checked core that belongs to no job the manual names none; it is 0 there, so that every block end
mismatches (log 97, DESIGN CHOICE). -/
def State.sigCount (s : State) : Nat := (s.job?.map (·.sigBlocks)).getD 0

/-- A block may be followed by another: bit 2 of its flags allows every block with bit 0 or bit 1, otherwise its successor
words do; a block with bit 3 may pass to any block (R64, R162). -/
def State.sigNextOk (s : State) (cur : BitVec 128) (next : Nat) : Bool :=
  let flags := cur.extractLsb' 56 8
  let nf := (s.sigBlock next).extractLsb' 56 8
  if flags.getLsbD 3 then true
  else if flags.getLsbD 2 then nf.getLsbD 0 || nf.getLsbD 1
  else (List.range (field cur 48 8)).any fun k =>
    (s.glance s.me.space (s.me.ctl.sigtab + w64 (16 * s.sigCount + 4 * (field cur 96 32 + k))) 4).getD 0 == next

/-- The block that starts at an address (R161). -/
def State.blockAt (s : State) (a : W64) (n : Nat) : Option Nat :=
  (List.range n).find? fun i => s.me.ctl.sigtext + w64 (field (s.sigBlock i) 0 32) == a

/-- The checker is active (R159). -/
def Core.sigActive (c : Core) : Bool := c.ctl.sigctl.getLsbD 0 && c.ctl.mode == .user

/-- A mismatch is pending from a word (R162). -/
def State.sigFail (s : State) (pc : W64) : State := { s with me := { s.me with sigPend := some pc } }

/-- Feed the record of one word that has issued at an address (R160, R161). -/
def State.sigWordIn (s : State) (w : Word) (pc : W64) : State :=
  if s.me.sigPend.isSome then s
  else
    let (blk, idx, crc) := s.me.sigParts
    let b := s.sigBlock blk
    if field b 32 16 ≤ idx then s.sigFail pc
    else
      let ws := s.passWords (s.me.ctl.sigtext + w64 (field b 0 32)) idx
      let u := match decode w with
        | .ok i => regUse i
        | .error _ => ⟨none, none, none⟩
      let crc := if (b.extractLsb' 56 8).getLsbD 3 then crc
        else crcOver crc (sigRecord w (producer ws (vSource u.src1)) (producer ws (vSource u.src2)))
      { s with me := { s.me with ctl.sigst := sigWord blk (idx + 1) crc, pass := ws ++ [w] } }

/-- The current block ends at a word, and the core goes on to another address: its CRC is compared, and the block that starts there
is looked up (R161, R162). -/
def State.sigCheck (s : State) (pc next : W64) : State :=
  let (blk, _, crc) := s.me.sigParts
  let b := s.sigBlock blk
  if !(b.extractLsb' 56 8).getLsbD 3 && crc != b.extractLsb' 64 32 then s.sigFail pc
  else
    match s.blockAt next s.sigCount with
    | none => s.sigFail pc
    | some n =>
      if s.sigNextOk b n then { s with me := { s.me with ctl.sigst := sigWord n 0 0, pass := [] } } else s.sigFail pc

/-- After a word at an address, the core goes on to another: at the block's last word, or at a taken transfer out of the
sequence, the block is checked (R161). -/
def State.sigBlockEnd (s : State) (pc next : W64) : State :=
  let (blk, idx, _) := s.me.sigParts
  if s.me.sigPend.isSome || (decide (idx < field (s.sigBlock blk) 32 16) && next == pc + 4) then s else s.sigCheck pc next

/-- Feed words at consecutive addresses. -/
def State.sigWords (s : State) (ws : List Word) (a : W64) : State :=
  ws.zipIdx.foldl (fun s w => s.sigWordIn w.1 (a + w64 (4 * w.2))) s

/-- Words j up to k - 1 of a REPV's sequence in a repetition after the first: each equals the word that repetition 0 fed, which stands
last in the pass (R161). -/
def State.sigAgain (s : State) (pc : W64) (j k : Nat) : State :=
  let (blk, idx, _) := s.me.sigParts
  let ws := s.passWords (s.me.ctl.sigtext + w64 (field (s.sigBlock blk) 0 32)) idx
  let first := ws.drop (ws.length - s.me.seq.length)
  match ((List.range (k - j)).map (· + j)).find? fun i => s.me.seq[i]? != first[i]? with
  | some i => if s.me.sigPend.isSome then s else s.sigFail (pc + 4 + w64 (4 * i))
  | none => s

/-- Feed a step of a REPV: its word at the beginning, the words that it has issued in repetition 0; those of later repetitions are
compared (R160, R161). pix0 is PIX before the step. -/
def State.sigRepv (s : State) (w : Word) (pc : W64) (len : Nat) (pix0 : W64) : State :=
  let rep := field pix0 0 6
  let j := field pix0 6 3
  let done := s.me.ctl.pix == 0
  let stop := if done || field s.me.ctl.pix 0 6 != rep then len else field s.me.ctl.pix 6 3
  let s := if pix0 = 0 then s.sigWordIn w pc else s
  let s := if rep = 0 then s.sigWords ((s.me.seq.take stop).drop j) (pc + 4 + w64 (4 * j)) else s.sigAgain pc j stop
  if done then s.sigBlockEnd (pc + w64 (4 * len)) s.me.pc else s

/-- Feed an instruction that the core in focus has retired at an address in user mode with checking on (R159 to R163). For a
word that retires and then traps, the next pc is TPC once the trap has been entered. -/
def State.sigFeed (s : State) (w : Word) (i : Instr) (pc pix0 : W64) : State :=
  match i with
  | .repv _ len _ _ _ => s.sigRepv w pc (len.toNat + 1) pix0
  | .trap _ | .brk _ => (s.sigWordIn w pc).sigBlockEnd pc (if s.me.entering then s.me.ctl.tpc else s.me.pc)
  | _ => (s.sigWordIn w pc).sigBlockEnd pc s.me.pc

end Sys2Proof.Machine
end

