-- ==== Sys2Proof/Machine/Area.lean ====
section
/-! DEFINITION. The save area of a context and its shadow (R400 to R403, R429; Table 5 of 19, Table 3 of 22): writing a
context into memory and reading it back. -/

namespace Sys2Proof.Machine

/-! ## Bytes of words -/

/-- The bytes of 64-bit words from an address up, in canonical form. -/
def cellsOf (a : Nat) (ws : List W64) : Cells :=
  ws.zipIdx.flatMap fun w => (List.range 8).filterMap fun j =>
    let b := byteOf w.1.toNat j
    if b = unlistedByte then none else some (a + 8 * w.2 + j, b)

/-- Words that make up a number of n words. (Log 52, DESIGN CHOICE.) -/
def split64 (n x : Nat) : List W64 := (List.range n).map fun i => w64 (x / 2 ^ (64 * i))

/-- Bytes of an address range, moved to start at 0. -/
def Cells.cut (m : Cells) (a n : Nat) : Cells :=
  (m.filter fun c => decide (a ≤ c.1 ∧ c.1 < a + n)).map fun c => (c.1 - a, c.2)

/-- Replace the n bytes from an address up by bytes that start at 0. -/
def Cells.paste (m : Cells) (a n : Nat) (x : Cells) : Cells :=
  (m.filter fun c => decide (c.1 < a)) ++ ((x.filter fun c => decide (c.1 < n)).map fun c => (c.1 + a, c.2)) ++
    m.filter fun c => decide (a + n ≤ c.1)

/-- A structure of n bytes is written whole from an address up, whatever poison its words had (R280). -/
def Dev.fill (d : Dev) (a n : Nat) (x : Cells) : Dev :=
  { d with mem := d.mem.paste a n x, poison := d.poison.filter fun w => !decide (a ≤ 8 * w ∧ 8 * w + 8 ≤ a + n) }

/-- Words from an address up. -/
def Cells.words (m : Cells) (a n : Nat) : List W64 :=
  let c := m.cut a (8 * n)
  (List.range n).map fun i => w64 (c.readN (8 * i) 8)

/-! ## Parts of an area -/

/-- Offsets of the parts (Table 5 of 19). -/
def areaSize : Nat := 0x44000

/-- How a context came to be saved: slot 0 of the control slots. -/
structure AreaState where
  tagged : Bool
  origin : Nat
  paired : Bool
  free : Bool
  deriving DecidableEq, Repr

/-- Slot 0. -/
def AreaState.word (a : AreaState) : W64 := w64 (bit a.tagged + 2 * a.origin + 8 * bit a.paired + 16 * bit a.free)

/-- The state word that slot 0 holds. -/
def areaStateOf (x : W64) : AreaState := ⟨x.getLsbD 0, field x 1 2, x.getLsbD 3, x.getLsbD 4⟩

/-- MODE (Table 1 of 19). -/
def Ctl.modeWord (c : Ctl) : W64 := w64 ((Mode.code c.mode).toNat + 4 * bit c.ie)

/-- Control slots 0 to 30, with the resume address in TPC's place. -/
def Ctl.slots (c : Ctl) (a : AreaState) (tpc : W64) : List W64 :=
  [a.word, c.tvec, c.tcause, c.tval, tpc, c.tstat, c.pix, c.modeWord, c.fpctl, c.qctl, c.wlimit, c.wstat, c.patctl,
   zext c.sid, c.ptbase, c.poolbase] ++ c.lbody.toList ++ [c.llen, c.sigctl, c.sigtab, c.sigtext, c.sigst] ++
  c.brka.toList ++ [c.retired, zext c.ctxtag, zext c.unack]

/-- Keep the bits of x that a mask selects. -/
def keep (x : W64) (mask : Nat) : W64 := x &&& w64 mask

/-- The bits of a context's control register, by its number, that are not reserved (Table 6 of 19, R9). -/
def ctlMask (n : Nat) : Nat :=
  if n = 0x08 then 0x1F1F3
  else if n = 0x09 then 0xFFFFFFFFFFFFFFFB
  else if n = 0x0A then 0x7FFFFFFFFFFFFFFF
  else if n = 0x0B then 0x1F0F
  else if n = 0x0C then 0x1FF
  else if n = 0x10 ∨ n = 0x13 ∨ (0x62 ≤ n ∧ n ≤ 0x64) ∨ n = 0x67 then 0xFFFFFFFFFFFFFFFC
  else if n = 0x11 then 0xFF
  else if n = 0x14 then 0x1FF
  else if n = 0x20 then 1
  else if n = 0x40 then 0xFFFFFFFF00001
  else if n = 0x50 then 0xFFFFFFFFFFFFFFF0
  else if n = 0x65 then 0x3FFFFFFF
  else if n = 0x66 then 0xFFFFFFFFFFFFFF80
  else 0xFFFFFFFFFFFFFFFF

/-- Control registers from slots; REGBASE is not among them, and SID keeps its stave, which the stave map gives (R271). Reserved bits read as zero and are ignored (R9); a reserved mode is taken
as user mode (log 52, DESIGN CHOICE). -/
def Ctl.ofSlots (c : Ctl) (l : List W64) : Ctl :=
  let g (i n : Nat) := keep (listGet 0 l i) (ctlMask n)
  { c with
    tvec := g 1 0x10, tcause := g 2 0x11, tval := g 3 0x12, tpc := g 4 0x13, tstat := g 5 0x14, pix := g 6 0x15,
    mode := (Mode.ofCode ((g 7 0x05).extractLsb' 0 2)).getD .user, ie := (g 7 0x05).getLsbD 2,
    fpctl := g 8 0x08, qctl := g 9 0x09, wlimit := g 10 0x0A, wstat := g 11 0x0B, patctl := g 12 0x0C,
    sid := c.sid.extractLsb' 10 6 ++ (g 13 0x03).extractLsb' 0 10, ptbase := g 14 0x40, poolbase := g 15 0x50, lbody := #v[g 16 0x62, g 17 0x63, g 18 0x64],
    llen := g 19 0x65, sigctl := g 20 0x20, sigtab := g 21 0x66, sigtext := g 22 0x67, sigst := g 23 0x68,
    brka := #v[g 24 0x1C, g 25 0x1D, g 26 0x1E, g 27 0x1F], retired := g 28 0x31, ctxtag := (g 29 0x42).setWidth 32,
    unack := (g 30 0x17).setWidth 16 }

/-- Slot 31: operand-queue counts and the inbox count. -/
def Core.countSlot (c : Core) (inbox : Nat) : W64 :=
  w64 ((List.range 8).foldl (fun x q => x + 2 ^ (5 * q) * ((c.queue q).length % 32)) 0 + 2 ^ 40 * (inbox % 256))

/-- Full/empty bits. -/
def Loc.fullBits (l : Loc) : Nat := l.empty.foldl (fun x n => if n < 1536 then x - 2 ^ n else x) (2 ^ 1536 - 1)

/-- Empty lines of full/empty bits. -/
def emptyOf (x : Nat) : List Nat := (List.range 1536).filter fun n => !x.testBit n

/-- 128 bytes of a channel: active template, start data, next sector, bytes done, the sectors not landed among the 64 below
next (bit i for sector next − 1 − i), and the data of the waiting starts. -/
def Chan.words (c : Chan) : List W64 :=
  let wait := (List.range 3).map fun i => ((c.waiting[i]?).map (·.data)).getD 0
  match c.active with
  | none => split64 12 0 ++ wait
  | some a =>
    let map := (List.range 64).foldl (fun x i =>
      if i < a.next && !a.landed.contains (a.next - 1 - i) then x + 2 ^ i else x) 0
    split64 8 a.tmpl.toNat ++ [a.arg <<< 8 ||| zext a.slot, w64 a.next, w64 a.bytes, w64 map] ++ wait

/-- The 64 bytes of a command: capability, block, sender, and the address of an `mcmd.t` that waits for its answer. -/
def MCmd.words (m : MCmd) : List W64 :=
  [m.cap] ++ split64 4 m.block.toNat ++
  [w64 (m.lcore.toNat + 2 ^ 16 * m.sender.sid.toNat + 2 ^ 32 * (Mode.code m.sender.mode).toNat), m.sender.ptbase,
   (m.asks.map fun a => a + 1).getD 0]

/-- The command that 64 bytes hold; none where the capability is 0. core gives where a logical core is. -/
def mcmdOf (core : Nat → Nat) (fork : Nat) (l : List W64) : Option MCmd :=
  let g (i : Nat) := listGet 0 l i
  if g 0 = 0 then none
  else
    some { cap := g 0, block := g 4 ++ g 3 ++ g 2 ++ g 1, lcore := (g 5).extractLsb' 0 13,
           asks := if g 7 = 0 then none else some (g 7 - 1), fork := fork,
           sender := ⟨core (field (g 5) 0 13), (g 5).extractLsb' 16 16, (Mode.ofCode ((g 5).extractLsb' 32 2)).getD .user, g 6, none⟩ }

/-- An entry of the store-count table, which names its line by bits 51:7 of the physical address (Table 5 of 19). -/
def StoreCount.word (x : StoreCount) (d : Dev) : W64 :=
  w64 (2 ^ 63 + 2 ^ 45 * x.count.toNat + d.linePa x.line / 128 % 2 ^ 45)

/-- The entry that a word holds. -/
def countOfWord (d : Dev) (w : W64) : Option StoreCount :=
  if w.getLsbD 63 then some ⟨d.key (128 * field w 0 45) / 128, w.extractLsb' 45 16⟩ else none

/-- The slots of the stream table. -/
def Core.streamWords (c : Core) : List W64 := c.slots.toList.flatMap fun t => split64 8 t.word

/-- A slot from its 64 bytes; reserved bits of the bind word are ignored (R9). -/
def slotOf (l : List W64) : Slot :=
  let w := listGet 0 l 1
  ⟨keep (listGet 0 l 0) 0x7FF0FFF01FF, w.extractLsb' 0 32, w.extractLsb' 32 32, (listGet 0 l 2).extractLsb' 0 32⟩

/-- The template slots. -/
def Core.templateWords (c : Core) : List W64 := c.templates.toList.flatMap fun t => split64 8 ((t.map (·.toNat)).getD 0)

/-- A template slot; 64 zero bytes are an empty one. -/
def templateOf (l : List W64) : Option V512 :=
  if l.all fun w => w == 0 then none
  else some ((l.reverse.foldl (fun x w => x * 2 ^ 64 + w.toNat) 0 : Nat) : BitVec 512)

/-- The operand queues. -/
def Core.queueWords (c : Core) : List W64 :=
  (List.range 8).flatMap fun q => (List.range 16).flatMap fun e => split64 8 ((((c.queue q)[e]?).map (·.data.toNat)).getD 0)

/-- The register image (Table 3 of 01). -/
def Regs.words (r : Regs) : List W64 := (List.range 2048).map r.word

/-- The registers that an image holds. -/
def Regs.ofWords (l : List W64) : Regs := l.zipIdx.foldl (fun r w => r.setWord w.2 w.1) Regs.reset

/-- Code of an item's kind in an inbox entry (R405). -/
def NetKind.inboxCode : NetKind → Nat
  | .message => 1 | .eos => 2 | .store => 3 | .command => 4 | .report => 0

/-- The 16 words of an inbox entry (R405). -/
def NetItem.inboxWords (x : NetItem) : List W64 :=
  let data := match x.cmd with
    | some m => m.words
    | none => split64 8 x.data.toNat
  [w64 (x.kind.inboxCode + 2 ^ 8 * x.size + 2 ^ 16 * x.slot.toNat + 2 ^ 32 * x.src.toNat), w64 x.off, 0, 0, 0, 0, 0, 0] ++ data

/-- The part of an area between the local memory image and the register image. -/
def Core.upper (c : Core) (d : Dev) (a : AreaState) (tpc : W64) : Cells :=
  cellsOf 0x30000 (split64 24 c.loc.fullBits) ++
  cellsOf 0x30100 (c.ctl.slots a tpc ++ [c.countSlot c.inbox.length]) ++
  cellsOf 0x30200 c.caps.toList ++
  (List.range 4).flatMap (fun n => cellsOf (0x30400 + 128 * n) (c.chan n).words) ++
  cellsOf 0x30800 c.streamWords ++
  cellsOf 0x31000 c.templateWords ++
  cellsOf 0x32000 c.queueWords ++
  cellsOf 0x34000 (c.mcmds.flatMap MCmd.words) ++
  cellsOf 0x34800 (c.counts.map fun x => x.word d) ++
  cellsOf 0x38000 (c.inbox.flatMap NetItem.inboxWords)

/-- Poisoned words of an area: those of the local memory and of the operand queues. -/
def Core.areaPoison (c : Core) : List Nat :=
  c.loc.poison ++ (List.range 8).flatMap fun q => (c.queue q).zipIdx.flatMap fun e =>
    (List.range 8).filterMap fun i => if e.1.poison.getLsbD i then some (0x32000 / 8 + 128 * q + 8 * e.2 + i) else none

/-! ## Tags (R402) -/

/-- The tag of line n of an area. -/
def lineTag (m : Cells) (base n : Nat) (tag : BitVec 32) : W64 :=
  Config.integrityTag (m.readN (base + 128 * n) 128) (128 * n) tag.toNat

/-- Write the tag of line n. -/
def State.retag (s : State) (base n : Nat) (tag : BitVec 32) : State :=
  { s with dev := s.dev.poke (base + 0x40000 + 8 * n) 8 (lineTag s.dev.mem base n tag).toNat }

/-- Whether every tag of an area matches. -/
def State.tagsMatch (s : State) (base : Nat) : Bool :=
  let tag : BitVec 32 := BitVec.ofNat 32 (s.dev.peek (base + 0x30100 + 8 * 29) 4)
  (List.range 2048).all fun n => w64 (s.dev.peek (base + 0x40000 + 8 * n) 8) == lineTag s.dev.mem base n tag

/-- The address of a poisoned word of an area that a restore reads as an uncorrectable error (R434): one in the local memory image or in
an operand queue stays poisoned in the context (R280), and any other is one. (Log 52, DESIGN CHOICE.) -/
def State.areaError (s : State) (base : Nat) : Option Nat :=
  (s.dev.poison.find? fun w => decide (base ≤ 8 * w ∧ 8 * w < base + areaSize) &&
    let off := 8 * w - base
    !(decide (off < 0x30000) || decide (0x32000 ≤ off ∧ off < 0x34000))).map fun w => 8 * w

/-- Entries that the inbox of an area holds. -/
def State.inboxCount (s : State) (base : Nat) : Nat := s.dev.peek (base + 0x30100 + 248 + 5) 1

/-- The state word of an area. -/
def State.areaState (s : State) (base : Nat) : AreaState := areaStateOf (w64 (s.dev.peek (base + 0x30100) 8))

/-! ## Saving and restoring -/

/-- Write a context into an area, tagged (R401, R402), with what its inbox holds. -/
def State.saveArea (s : State) (base : Nat) (c : Core) (a : AreaState) (tpc : W64) (g0 : Option Reg) : State :=
  let regs := match g0 with
    | some d => { c.regs with g := vset c.regs.g d.toNat 0 }
    | none => c.regs
  let body : Cells := (c.loc.bytes.filter fun x => decide (x.1 < 0x30000)) ++ c.upper s.dev a tpc ++ cellsOf 0x3C000 regs.words
  let mem := s.dev.mem.paste base areaSize body
  let tags := (List.range 2048).map fun n => lineTag mem base n c.ctl.ctxtag
  let mem := mem.paste (base + 0x40000) 0x4000 (cellsOf 0 tags)
  let old := s.dev.poison.filter fun w => !decide (base ≤ 8 * w ∧ 8 * w < base + areaSize)
  { s with dev := { s.dev with mem := mem, poison := insertNats (c.areaPoison.map fun w => w + base / 8) old } }

/-- Chunks of n words. -/
def chunks (n : Nat) (l : List W64) : Nat → List (List W64)
  | 0 => []
  | k + 1 => l.take n :: chunks n (l.drop n) k

/-- The waiting starts that a channel's bytes name: each start word that was saved comes back with the template and the issuer that the
start took (R293, R307), which old holds; another word, which software wrote, takes the template of its slot now, and 0 is none. -/
def startsOf (l : List W64) (old : List Start) (tmpls : Vector (Option V512) 64) (who : Issuer) (fork : Nat) : List Start :=
  l.zipIdx.filterMap fun d =>
    match (old[d.2]?).filter fun x => x.data == d.1 with
    | some x => some { x with who := { x.who with core := who.core } }
    | none => if d.1 = 0 then none else ((tmpls.toList[startSlot d.1]?).join).map fun t => (⟨d.1, t, who, fork⟩ : Start)

/-- A channel from its 128 bytes, for a context with its templates; old: what the device keeps of it. -/
def chanOf (l : List W64) (old : Chan) (tmpls : Vector (Option V512) 64) (who : Issuer) (fork : Nat) : Chan :=
  let g (i : Nat) := listGet 0 l i
  let wait := startsOf ((l.drop 12).take 3) old.waiting tmpls who fork
  match templateOf (l.take 8) with
  | none => ⟨none, wait⟩
  | some t =>
    let next := (g 9).toNat
    let out := (List.range 64).filterMap fun i => if (g 11).getLsbD i then some (next - 1 - i) else none
    ⟨some { slot := (g 8).extractLsb' 0 8, arg := sext ((g 8).extractLsb' 8 56), tmpl := t,
            landed := (List.range next).filter fun i => !out.contains i, parked := [], bytes := (g 10).toNat,
            who := (old.active.map fun a => { a.who with core := who.core }).getD who,
            fork := (old.active.map (·.fork)).getD fork }, wait⟩

/-- The context that an area holds, for physical core k; what an area does not hold is as the device kept it (rest; log 21, DESIGN
CHOICE). Its loop buffer is among that (R141), and core k keeps its instruction cache (R136). -/
def State.areaCore (s : State) (base k : Nat) (rest : Core) : Core :=
  let m := s.dev.mem
  let ctl := rest.ctl.ofSlots (m.words (base + 0x30100) 31)
  let cnt := w64 (m.readN (base + 0x30100 + 248) 8)
  let who : Issuer := ⟨k, ctl.sid, ctl.mode, ctl.ptbase, rest.member.map (·.job)⟩
  let fork := s.dev.netOrder
  let bad := s.dev.poison.filterMap fun w => if base ≤ 8 * w ∧ 8 * w < base + areaSize then some (w - base / 8) else none
  let tmpls : Vector (Option V512) 64 :=
    (chunks 8 (m.words (base + 0x31000) 512) 64).zipIdx.foldl (fun v t => vset v t.2 (templateOf t.1)) (.replicate 64 none)
  let slots : Vector Slot 16 :=
    (chunks 8 (m.words (base + 0x30800) 128) 16).zipIdx.foldl (fun v t => vset v t.2 (slotOf t.1)) (.replicate 16 .reset)
  let entry (q e : Nat) : QEntry :=
    let w := 0x32000 / 8 + 128 * q + 8 * e
    ⟨BitVec.ofNat 512 (m.readN (base + 8 * w) 64),
     BitVec.ofNat 8 ((List.range 8).foldl (fun x i => if bad.contains (w + i) then x + 2 ^ i else x) 0)⟩
  let queues : Vector (List QEntry) 8 :=
    (List.range 8).foldl (fun v q => vset v q ((List.range (min 16 (field cnt (5 * q) 5))).map (entry q))) (.replicate 8 [])
  let chans : Vector Chan 4 :=
    (chunks 16 (m.words (base + 0x30400) 64) 4).zipIdx.foldl (fun v t => vset v t.2 (chanOf t.1 (vget ⟨none, []⟩ rest.chans t.2) tmpls who fork))
      (.replicate 4 ⟨none, []⟩)
  let empty := emptyOf (m.readN (base + 0x30000) 192)
  { rest with
    pc := ctl.tpc
    hints := .none
    regs := Regs.ofWords (m.words (base + 0x3C000) 2048)
    ctl := { ctl with regbase := w64 (field s.dev.trcfg 0 9 * 2 ^ 43 + base + 0x3C000) }
    loc := ⟨m.cut base 0x30000, empty, bad.filter fun w => decide (w < 0x30000 / 8),
            rest.loc.landed.filter fun n => !empty.contains n⟩
    l1 := [], icache := (s.coreAt k).icache, tlb := [], notes := [], seq := [], issued := false, quota := none
    templates := tmpls, chans := chans, slots := slots, queues := queues
    caps := (m.words (base + 0x30200) 8).zipIdx.foldl (fun v w => vset v w.2 w.1) (.replicate 8 0)
    mcmds := (chunks 8 (m.words (base + 0x34000) 256) 32).zipIdx.filterMap fun l =>
      ((rest.mcmds[l.2]?).filter fun x => x.words == l.1).orElse fun _ =>
        mcmdOf (fun l => ((s.dev.stave who.stave).coreOf? l).getD (16384 + l)) fork l.1
    counts := (m.words (base + 0x34800) 256).filterMap (countOfWord s.dev)
    wait := none, live := true }

/-! ## The L1 and the TLBs of a core that stops (R133, R400) -/

/-- Core k's copies of every DIR line are written back and dropped; a pushed copy that was not read counts nothing (R376). -/
def State.dropL1 (s : State) (k : Nat) : State :=
  let s := { s with dev := { s.dev with unread := s.dev.unread.filter fun u => u.holder != k } }
  (s.dev.dir.filter fun d => d.has k != 0 || d.segs.any fun g => g.holders.contains k).foldl
    (fun s d => s.putDir (d.drop k 0xFFFF)) s

/-- Core k's L1 and TLB are invalidated, SELF bytes written through and DIR lines written back (R400); its instruction cache and the
loop buffer stay (R136, R141). -/
def State.quietCore (s : State) (k : Nat) : State :=
  (s.at k fun s => { s.acquire with me.l1 := [], me.tlb := [], me.notes := [] }).dropL1 k

end Sys2Proof.Machine
end

