-- ==== Sys2Proof/Machine/Tenant.lean ====
section
/-! DEFINITION. Jobs, stages and instances: the records of a job (R55, R60, R61), slots (R87 to R89), readiness (R79), the
start of an instance (R93 to R95), routing (R100), and the end of contexts, instances and jobs (R99, R410). -/

namespace Sys2Proof.Machine

/-! ## Records -/

/-- Fields of a stage record (Table 5 of 02). -/
def Stage.entry (t : Stage) : W64 := t.record.extractLsb' 128 64
def Stage.width (t : Stage) : Nat := field t.record 192 8
def Stage.gang (t : Stage) : Bool := field t.record 200 8 == 1
def Stage.prio (t : Stage) : Nat := field t.record 208 8
def Stage.tmplCount (t : Stage) : Nat := field t.record 216 8
def Stage.minInst (t : Stage) : Nat := field t.record 224 16
def Stage.maxInst (t : Stage) : Nat := field t.record 240 16
def Stage.cols (t : Stage) : Nat := field t.record 256 8
def Stage.rows (t : Stage) : Nat := field t.record 264 8
def Stage.tmplFirst (t : Stage) : Nat := field t.record 288 32
def Stage.sigFirst (t : Stage) : Nat := field t.record 320 32
def Stage.sigCount (t : Stage) : Nat := field t.record 352 32

/-- Fields of a stream record (R61). -/
def streamTo (r : BitVec 256) : Nat := field r 16 16
def streamCap (r : BitVec 256) : Nat := field r 32 32
def streamByKey (r : BitVec 256) : Bool := field r 64 8 == 1
def streamQueued (r : BitVec 256) : Bool := field r 72 8 == 1
def streamQueue (r : BitVec 256) : Nat := field r 80 8
def streamSlot (r : BitVec 256) : Nat := field r 88 8
def streamOff (r : BitVec 256) : Nat := field r 96 32

/-- The bind word that placement writes for stream i (R338, R61). -/
def streamBind (r : BitVec 256) (i : Nat) : W64 :=
  w64 (1 + 2 * bit (streamQueued r) + 4 * (if streamQueued r then streamQueue r else 0) +
    2 ^ 5 * (Nat.log2 (streamCap r) - 4) + 2 ^ 16 * i + 2 ^ 32 * (if streamQueued r then 0 else streamOff r / 128))

/-- Input streams of a stage, with their indices. -/
def Job.inputs (j : Job) (stage : Nat) : List (BitVec 256 × Nat) :=
  j.streams.zipIdx.filter fun r => streamTo r.1 == stage

/-- Change a stage of a job. -/
def Job.onStage (j : Job) (i : Nat) (f : Stage → Stage) : Job :=
  { j with stages := j.stages.zipIdx.map fun t => if t.2 = i then f t.1 else t.1 }

/-- A stage of a job of a stave. -/
def State.stageOf (s : State) (n job : BitVec 6) (i : Nat) : Option Stage :=
  ((s.dev.stave n).job? job).bind fun j => j.stages[i]?

/-- Effective priority of a stage before aging (R80). -/
def Job.prio (j : Job) (stage : Nat) : Nat :=
  match j.stages[stage]? with
  | some t => if t.prio < j.cap then t.prio else j.cap
  | none => 0

/-- Instances of a stage, in ascending number. -/
def Job.stageInsts (j : Job) (stage : Nat) : List Inst := j.insts.filter fun i => i.stage == stage

/-- The instance table of a stage, by which messages are routed (R98, R100). -/
def Job.table (j : Job) (stage : Nat) : List Inst := (j.stageInsts stage).filter fun i => !i.withdrawn

/-- INSTID (Table 2 of 04). -/
def Job.instid (j : Job) (m : Member) : W64 :=
  match j.stages[m.stage]? with
  | none => 0
  | some t => w64 (m.stage + 2 ^ 8 * m.inst + 2 ^ 24 * m.member + 2 ^ 27 * Nat.log2 t.width + 2 ^ 29 * bit t.gang +
      2 ^ 32 * ((j.stageInsts m.stage).length % 65536))

/-- DOMAIN (Table 5 of 16). -/
def domainWord (m : Member) (l : BitVec 13) : W64 :=
  w64 (l.toNat + 2 ^ 13 * m.member + 2 ^ 24 * m.inst + 2 ^ 40 * m.stage + 2 ^ 48 * m.job.toNat)

/-! ## Slots (R86 to R89) -/

/-- The state of a unit for a stave. -/
def Dev.ownState (d : Dev) (k : UnitKind) (id : Nat) (n : BitVec 6) : Option OwnState :=
  (d.own k id).bind fun o => if o.stave = n then some o.st else none

/-- Clusters that a stave owns and that are not leaving it, as die · 256 + cluster, ascending. -/
def Dev.clustersOf (d : Dev) (n : BitVec 6) : List Nat :=
  insertNats ((d.owns.filter fun o => o.kind == .cluster && o.stave == n && o.st == .owned).map (·.id)) []

/-- Whether an instance stands on a core, by the instance tables of a stave. -/
def Stave.holdsCore (t : Stave) (k : Nat) : Bool := t.jobs.any fun j => j.insts.any fun i => i.cores.contains k

/-- Whether an accepted move of an instance is to take a core (R132). -/
def Stave.awaits (t : Stave) (k : Nat) : Bool := t.moves.any fun m => m.dest.any fun c =>
  decide (c ≤ k ∧ k < c + (((t.job? m.job).bind fun j => j.stages[m.stage]?).map Stage.width).getD 1)

/-- A core of a stave that placement may give out (R87), for a request to which the cores in mine are reserved. A core that
runs a context of no instance is not free. (Log 53, DEDUCED.) -/
def State.coreFree (s : State) (n : BitVec 6) (mine : List Nat) (k : Nat) : Bool :=
  let t := s.dev.stave n
  s.dev.ownState .cluster (clusterOf k) n == some .owned && !s.dev.bootMask.contains k &&
    !s.dev.quarantined.contains (coreUnit k) && !t.holdsCore k && !t.awaits k && !(s.coreAt k).live &&
    (mine.contains k || !t.ready.any fun r => r.reserved.contains k)

/-- Cores of a slot. -/
def slotCores (c w : Nat) : List Nat := (List.range w).map fun i => c + i

/-- First cores of the slots of a width in a cluster, ascending. -/
def slotsIn (cluster w : Nat) : List Nat := (List.range (8 / w)).map fun i => 8 * cluster + w * i

/-- The first free slot of a width among clusters (R89); cores in taken count as taken. -/
def State.firstSlot (s : State) (n : BitVec 6) (w : Nat) (mine taken : List Nat) (clusters : List Nat) : Option Nat :=
  (clusters.flatMap fun c => slotsIn c w).find? fun c =>
    (slotCores c w).all fun k => s.coreFree n mine k && !taken.contains k

/-- Free cores of a stave on a die; cores in taken count as taken. -/
def State.freeCores (s : State) (n : BitVec 6) (mine taken : List Nat) (die : Nat) : Nat :=
  ((s.dev.clustersOf n).filter fun c => c / 256 == die).foldl (fun x c =>
    x + ((slotCores (8 * c) 8).filter fun k => s.coreFree n mine k && !taken.contains k).length) 0

/-- Among dies, the one with the most free cores, the lowest number on a tie (R86). -/
def State.bestDie (s : State) (n : BitVec 6) (mine taken : List Nat) (dies : List Nat) : Option Nat :=
  dies.foldl (fun b d =>
    match b with
    | none => some d
    | some e => if s.freeCores n mine taken e < s.freeCores n mine taken d then some d else some e) none

/-- Clusters of a rectangle of C columns by R rows from its lowest cluster (R4, R88). -/
def rectClusters (die low cols rows : Nat) : List Nat :=
  (List.range rows).flatMap fun r => (List.range cols).map fun c => 256 * die + low + 20 * r + c

/-- The clusters in which a stage's instances may be placed on a die. -/
def State.clustersFor (s : State) (n : BitVec 6) (t : Stage) (die : Nat) : List Nat :=
  let own := (s.dev.clustersOf n).filter fun c => c / 256 == die
  match t.rect with
  | some (d, low) => if d = die then own.filter fun c => (rectClusters d low t.cols t.rows).contains c else []
  | none => if t.cols = 0 then own else []

/-- The slot for one instance of a stage (R86, R89). -/
def State.slotFor (s : State) (n : BitVec 6) (t : Stage) (mine taken : List Nat) : Option Nat :=
  let fits (d : Nat) := (s.firstSlot n t.width mine taken (s.clustersFor n t d)).isSome
  (s.bestDie n mine taken ((List.range 4).filter fits)).bind fun d =>
    s.firstSlot n t.width mine taken (s.clustersFor n t d)

/-- Slots for several instances of a stage. -/
def State.slotsFor (s : State) (n : BitVec 6) (t : Stage) (mine : List Nat) : Nat → List Nat → Option (List Nat)
  | 0, _ => some []
  | k + 1, taken =>
    match s.slotFor n t mine taken with
    | none => none
    | some c => (s.slotsFor n t mine k (taken ++ slotCores c t.width)).map fun l => c :: l

/-- The lowest cluster of the rectangle for a stage on a die: its clusters belong to the stave and hold enough free slots
for the minimum (R88), the cores in mine being reserved for the stage's own request. -/
def State.rectOn (s : State) (n : BitVec 6) (t : Stage) (mine : List Nat) (die : Nat) : Option Nat :=
  let own := s.dev.clustersOf n
  (List.range 200).find? fun low =>
    let cs := rectClusters die low t.cols t.rows
    decide (low % 20 + t.cols ≤ 20 ∧ low / 20 + t.rows ≤ 10) && cs.all (fun c => own.contains c) &&
      decide (t.minInst ≤ ((cs.flatMap fun c => slotsIn c t.width).filter fun c =>
        (slotCores c t.width).all (s.coreFree n mine)).length)

/-- Cores that compaction and pre-emption have reserved for a stage's requests for new instances (R102, R103). -/
def Stave.reservedFor (t : Stave) (job : BitVec 6) (stage : Nat) : List Nat :=
  (t.ready.filter fun r => r.job == job && r.stage == stage && r.inst.isNone).flatMap (·.reserved)

/-- Fix a stage's rectangle where one qualifies: the one whose lowest cluster has the smallest number (R88). On dies that have the same
number free, the die is chosen as for an instance (R86). (Log 90, DESIGN CHOICE.) -/
def State.fixRect (s : State) (n job : BitVec 6) (stage : Nat) : State :=
  match s.stageOf n job stage with
  | none => s
  | some t =>
    if t.cols = 0 ∨ t.rect.isSome then s
    else
      let mine := (s.dev.stave n).reservedFor job stage
      let found := (List.range 4).filterMap fun d => (s.rectOn n t mine d).map fun low => (d, low)
      match (found.map (·.2)).min? with
      | none => s
      | some low =>
        match s.bestDie n mine [] ((found.filter fun x => x.2 == low).map (·.1)) with
        | none => s
        | some d => s.onStave n fun x => x.onJob job fun j => j.onStage stage fun t => { t with rect := some (d, low) }

/-! ## Readiness (R79) -/

/-- A request for instances of a stage. -/
def newReady (job : BitVec 6) (stage : Nat) (inst : Option Nat) (need prio : Nat) (growth : Bool) (now : W64) : Ready :=
  { job := job, stage := stage, inst := inst, need := need, growth := growth, prio := prio, readyAt := now, since := now, fails := 0,
    notBefore := now, reserved := [], compacting := false }

/-- A stage is made ready with its minimum instance count: one request for all of them where it has an adjacency block, one
for each otherwise (R79, R90). -/
def State.readyStage (s : State) (n job : BitVec 6) (stage : Nat) : State :=
  match (s.dev.stave n).job? job with
  | none => s
  | some j =>
    match j.stages[stage]? with
    | none => s
    | some t =>
      if t.ready then s
      else
        let r (need : Nat) := newReady job stage none need (j.prio stage) false s.dev.cycle
        let rs := if t.cols = 0 then List.replicate t.minInst (r 1) else [r t.minInst]
        let s := s.onStave n fun x =>
          { x with ready := x.ready ++ rs }.onJob job fun j => j.onStage stage fun t => { t with ready := true }
        s.fixRect n job stage

/-! ## The start of an instance (R93) -/

/-- A fresh context tag (R402). -/
def State.newTag (s : State) : BitVec 32 × State := (Config.contextTag s.fresh, { s with fresh := s.fresh + 1 })

/-- Template records that a stage loads (R63). A record whose page has no usable mapping at the commit leaves its slot empty, and a
poisoned record is loaded as it stands, of which the manual states neither (log 91, DESIGN CHOICE). -/
def State.stageTemplates (s : State) (j : Job) (t : Stage) : Vector (Option V512) 64 × State :=
  (List.range t.tmplCount).foldl (fun r i =>
    match r.2.peekSpace j.space (j.tmpl + w64 (64 * (t.tmplFirst + i))) 64 with
    | some (x, s) => (vset r.1 i (some (BitVec.ofNat 512 x)), s)
    | none => r) (.replicate 64 none, s)

/-- The stream table of a member at its start: the stage's input streams bound, counts 0. -/
def Job.startSlots (j : Job) (stage : Nat) : Vector Slot 16 :=
  (j.inputs stage).foldl (fun v r => vset v (streamSlot r.1) ⟨streamBind r.1 r.2, 0, 0, 0⟩) (.replicate 16 .reset)

/-- REGBASE of a running context (R401); 0 while the stave has no save areas. (Log 54, DEDUCED.) -/
def Stave.regbaseOf (t : Stave) (l : Nat) : W64 :=
  if field t.savebase 19 33 = 0 then 0 else w64 (field t.savebase 19 33 * 2 ^ 19 + 0x80000 * l + 0x3C000)

/-- Member i at its first instruction (Table 1 of 04). A SIG section at an address that is not a multiple of 128 stands whole in SIGTAB,
whose bits 6:0 R159 reads as zero, and the first word of a TEXT section at an address that is no multiple of 4 begins at the multiple
below it (R12): the manual does not say what happens then (log 92, DESIGN CHOICE). (Log 42, DEDUCED.) -/
def startCore (t : Stave) (j : Job) (g : Stage) (m : Member) (lcore : BitVec 13) (crew : List Nat) (held : Bool)
    (tag : BitVec 32) (tmpls : Vector (Option V512) 64) : Core :=
  let regs := { Regs.reset with g := ((Regs.reset.g.set 1 j.arg).set 2 (w64 j.argLen)).set 3 (j.instid m) }
  { Core.reset with
    pc := withField (j.text + g.entry) 0 2 0
    regs := regs
    ctl := { Ctl.reset with
      mode := .user, ie := true, tvec := withField t.svec 0 2 0, poolbase := j.pool, sid := j.sid, ptbase := j.ptbase,
      ctxtag := tag, regbase := t.regbaseOf lcore.toNat, sigctl := w64 (bit j.checked),
      sigtab := if j.checked then j.sig else 0, sigtext := if j.checked then j.text else 0,
      sigst := if j.checked then sigWord g.sigFirst 0 0 else 0 }
    lcore := lcore
    templates := tmpls
    slots := j.startSlots m.stage
    member := some m
    bond := if g.width = 1 then .none else if g.gang then .gang else .follow
    rank := if g.width = 1 then 0 else m.member
    crew := if g.width = 1 then [] else crew
    held := held
    live := true }

/-- Whether an instance of a stage that growth commits is held (R95): the stage has completed a level-2 barrier. -/
def Job.holdsNew (j : Job) (stage : Nat) : Bool :=
  j.doms.any fun d => d.level == 2 && d.stage == stage && d.count != 0

/-- A core without a context: it keeps its logical number and its instruction cache (R136, R461). -/
def Core.vacant (c : Core) : Core := { Core.reset with lcore := c.lcore, icache := c.icache }

/-- Compaction, which waits for a change of occupancy, may try again (R102): for a request for which it is under way, and whose
reserved cores are empty. -/
def State.occupancy (s : State) (n : BitVec 6) : State :=
  s.onStave n fun t =>
    let again (r : Ready) := decide (3 ≤ r.fails) && r.reserved.all fun k => !t.holdsCore k
    { t with ready := t.ready.map fun r => if again r then { r with compacting := true } else r }

/-- A slot becomes free or a cluster joins: requests that wait out a back-off after three failures are retried at once (R424). -/
def State.slotFreed (s : State) (n : BitVec 6) : State :=
  (s.occupancy n).onStave n fun t => { t with ready := t.ready.map fun r =>
    if 3 ≤ r.fails then { r with notBefore := s.dev.cycle } else r }

/-- Commit an instance of a stage on the slot at a core (R93). -/
def State.commitInst (s : State) (n job : BitVec 6) (stage c : Nat) (growth : Bool) : State :=
  match (s.dev.stave n).job? job with
  | none => s
  | some j =>
    match j.stages[stage]? with
    | none => s
    | some g =>
      let cores := slotCores c g.width
      let held := growth && j.holdsNew stage
      let i : Inst := { stage := stage, num := g.next, lcores := cores.map fun k => (s.coreAt k).lcore, cores := cores,
                        held := held, done := [], withdrawn := false, placedAt := s.dev.cycle, moving := false }
      let s := s.onStave n fun t => t.onJob job fun j =>
        { j with insts := j.insts ++ [i] }.onStage stage fun g => { g with next := g.next + 1 }
      let j' := ((s.dev.stave n).job? job).getD j
      let (tmpls, s) := s.stageTemplates j g
      (cores.zipIdx.foldl (fun s k =>
        let (tag, s) := s.newTag
        let old := s.coreAt k.1
        s.setCore k.1 { startCore (s.dev.stave n) j' g ⟨job, stage, g.next, k.2⟩ old.lcore cores held tag tmpls with
          icache := old.icache }) s).occupancy n

/-! ## Routing (R100, R342, R423) -/

/-- The instance that a message to a stage goes to, and the job with its counter moved on. A producer that has not sent on the stream
before begins with the first entry (log 110, DESIGN CHOICE). -/
def Job.route (j : Job) (stream : Nat) (producer : BitVec 13) (key : W64) : Option (Inst × Job) :=
  match j.streams[stream]? with
  | none => none
  | some r =>
    let tab := j.table (streamTo r)
    if streamByKey r then
      let h := (field key 0 32 ^^^ field key 32 32) * 0x9E3779B1 % 2 ^ 32
      (tab[h * tab.length / 2 ^ 32]?).map fun i => (i, j)
    else
      let same (x : BitVec 13 × Nat × Nat) := x.1 == producer && x.2.1 == stream
      let pick := match j.rr.find? same with
        | some x => (tab.find? fun (i : Inst) => decide (x.2.2 < i.num)).orElse fun _ => tab[0]?
        | none => tab[0]?
      pick.map fun (i : Inst) => (i, { j with rr := (producer, stream, i.num) :: j.rr.filter fun x => !same x })

/-- The first logical core of an instance (R423). -/
def Inst.first (i : Inst) : BitVec 13 := i.lcores.headD 0

/-- Address an item to a logical core, stamped with the tag of its context (R404). -/
def State.addressed (s : State) (x : NetItem) (l : BitVec 13) : NetItem :=
  { x with dst := l, tag := s.tagOf x.stave l.toNat, stage := none }

/-- Inject a message or an end-of-stream word for a stage (R342); the stage becomes ready with its first message. -/
def State.injectToStage (s : State) (x : NetItem) (stage : Nat) : State :=
  match (s.dev.stave x.stave).job? x.job with
  | none => s
  | some j =>
    let tab := j.table stage
    if tab.isEmpty then
      match j.stages[stage]? with
      | none => s
      | some t =>
        if t.closing then s
        else (s.inject { x with stage := some stage }).readyStage x.stave x.job stage
    else if x.kind = .eos then tab.foldl (fun s i => s.inject (s.addressed x i.first)) s
    else
      match j.route x.stream.toNat x.src (x.data.extractLsb' 0 64) with
      | none => s
      | some (i, j') => (s.onStave x.stave fun t => t.onJob x.job fun _ => j').inject (s.addressed x i.first)

/-! ## Where a context is (R404, R461) -/

/-- Where a context of a stave is: on a core, absent under its logical number, or saved by CTXSW in an area. -/
inductive Whereabouts where
  | core (k : Nat)
  | absent (l : Nat)
  | saved (base : Nat)
  deriving DecidableEq, Repr

/-- Whether a core's context is the one that a stamp names: by its tag, and by its number where it has none. -/
def Core.named (c : Core) (l : Nat) (tag : BitVec 32) : Bool := c.ctl.ctxtag == tag && (tag != 0 || c.lcore.toNat == l)

/-- The core on which the context of a stamp runs under the stamp's number. -/
def State.coreFor (s : State) (n : BitVec 6) (l : Nat) (tag : BitVec 32) : Option Nat :=
  ((s.dev.stave n).coreOf? l).bind fun k =>
    let c := s.coreAt k
    if c.live && c.ctl.ctxtag == tag && c.stave == n then some k else none

/-- Where the context of a stamp is, under whichever number; none once it has ended (R404). -/
def State.whereIs (s : State) (n : BitVec 6) (l : Nat) (tag : BitVec 32) : Option Whereabouts :=
  let t := s.dev.stave n
  match s.coreFor n l tag with
  | some k => some (.core k)
  | none =>
    match t.absent.find? fun x => x.2.named l tag with
    | some x => some (.absent x.1)
    | none =>
      match t.saved.find? fun x => x.2.named l tag with
      | some x => some (.saved x.1)
      | none => (s.cores.find? fun k => (s.coreAt k).live && (s.coreAt k).stave == n && (s.coreAt k).named l tag).map .core

/-- The context that is somewhere: of one without a core, what the device keeps. -/
def State.contextAt (s : State) (n : BitVec 6) : Whereabouts → Core
  | .core k => s.coreAt k
  | .absent l => assocGet Core.reset l (s.dev.stave n).absent
  | .saved base => assocGet Core.reset base (s.dev.stave n).saved

/-- Change it. -/
def State.onWhere (s : State) (n : BitVec 6) (w : Whereabouts) (f : Core → Core) : State :=
  match w with
  | .core k => s.onCore k f
  | .absent l => s.onStave n fun t => { t with absent := t.absent.map fun x => if x.1 = l then (l, f x.2) else x }
  | .saved base => s.onStave n fun t => { t with saved := t.saved.map fun x => if x.1 = base then (base, f x.2) else x }

/-- The save area of a context: that of a running one lies below its REGBASE (R401). -/
def State.areaAt (s : State) (n : BitVec 6) : Whereabouts → Nat
  | .core k => (s.coreAt k).imageAt - 0x3C000
  | .absent l => (s.dev.stave n).areaOf l
  | .saved base => base

/-- The member that a stamp names. -/
def State.memberFor (s : State) (n : BitVec 6) (l : Nat) (tag : BitVec 32) : Option Member :=
  (s.whereIs n l tag).bind fun w => (s.contextAt n w).member

/-- Items that the inboxes of all contexts hold. -/
def State.inboxItems (s : State) : List NetItem :=
  (s.cores.flatMap fun k => (s.coreAt k).inbox) ++
    s.dev.staves.flatMap fun t => (t.2.absent ++ t.2.saved).flatMap fun x => x.2.inbox

/-! ## The end of contexts, instances and jobs -/

/-- Change every issuer that a list of commands holds. -/
def mapCommands (f : Issuer → Issuer) (l : List MCmd) : List MCmd := l.map fun m => { m with sender := f m.sender }

/-- Change the issuer of an item's command. -/
def NetItem.mapIssuer (f : Issuer → Issuer) (x : NetItem) : NetItem :=
  { x with cmd := x.cmd.map fun m => { m with sender := f m.sender } }

/-- Change every issuer of the commands that a context holds or that its inbox holds. -/
def Core.mapIssuers (f : Issuer → Issuer) (c : Core) : Core :=
  { c with mcmds := mapCommands f c.mcmds, inbox := c.inbox.map (NetItem.mapIssuer f) }

/-- Change every issuer that a stave's engine and its contexts without a core hold. -/
def Stave.mapIssuers (t : Stave) (f : Issuer → Issuer) : Stave :=
  { t with trans := t.trans.map fun x => { x with who := f x.who },
           shrinks := t.shrinks.map fun x => { x with who := f x.who },
           moves := t.moves.map fun x => { x with who := f x.who },
           absent := t.absent.map fun x => (x.1, x.2.mapIssuers f),
           saved := t.saved.map fun x => (x.1, x.2.mapIssuers f) }

/-- Change every issuer of an operation that is not a copy. -/
def State.mapIssuers (s : State) (f : Issuer → Issuer) : State :=
  let bprefs : List Bpref := s.dev.bprefs.map fun x => { x with who := f x.who }
  let syncs : List SyncAdd := s.dev.syncs.map fun x => { x with who := f x.who }
  let staves : List (Nat × Stave) := s.dev.staves.map fun t => (t.1, t.2.mapIssuers f)
  let s := { s with dev := { s.dev with bprefs := bprefs, syncs := syncs, net := s.dev.net.map (NetItem.mapIssuer f),
                                        staves := staves } }
  s.cores.foldl (fun s k => s.onCore k fun c => c.mapIssuers f) s

/-- The issuers of a stave that a number names get another one. -/
def State.moveIssuers (s : State) (n : BitVec 6) (a b : Nat) : State :=
  s.mapIssuers fun i => if i.core = a ∧ i.stave = n then { i with core := b } else i

/-- An access that is parked completes as FAULT_KILLED, and its core stops at that trap entry (R53, R414). -/
def State.killParkedAccess (s : State) (k : Nat) : State :=
  match (s.coreAt k).wait with
  | some (.park _ va _) => s.at k fun s => { s.trapEntry Cause.faultKilled.code va s.me.trapPc with me.stopped := true }
  | _ => s

/-- What is left on a core whose context has ended: nothing, but the trap registers of an entry at which it has stopped (R414). -/
def Core.ended (c : Core) : Core :=
  if !c.stopped then c.vacant
  else
    { c.vacant with
      pc := c.pc, stopped := true,
      ctl := { Ctl.reset with mode := c.ctl.mode, ie := c.ctl.ie, tvec := c.ctl.tvec, tcause := c.ctl.tcause, tval := c.ctl.tval,
                              tpc := c.ctl.tpc, tstat := c.ctl.tstat, sid := c.ctl.sid } }

/-- The words that a context retired count for its job (R83, R463). -/
def State.countRetired (s : State) (c : Core) : State :=
  match c.member with
  | some m => s.onStave c.stave fun t => t.onJob m.job fun j => { j with nretired := j.nretired + c.nretired }
  | none => s

/-- What a context that ends holds of others ends with it: its accepted matrix commands and those of its inbox are refused, as commands are
whose capability table is empty (R258, R84). (Log 94, DESIGN CHOICE.) -/
def State.dropHeld (s : State) (c : Core) : State :=
  let s := c.mcmds.foldl (fun (s : State) m => s.completeOp m.sender m.sync 0x20) s
  (c.inbox.filterMap (·.cmd)).foldl (fun (s : State) m => (s.answer m false).completeOp m.sender m.sync 0x20) s

/-- The context of core k ends: its L1 is written back as at pre-emption (R400, R414), its retired words count, operations that it
forked go on without it, and its logical number stays with the core (R461). (Log 43, DEDUCED.) -/
def State.freeCore (s : State) (k : Nat) : State :=
  let s := (s.killParkedAccess k).quietCore k
  let c := s.coreAt k
  (((s.countRetired c).setCore k c.ended).moveIssuers c.stave k deadCore).dropHeld c

/-- An absent context ends: its number becomes free (R461). -/
def State.freeAbsent (s : State) (n : BitVec 6) (l : Nat) : State :=
  let c := assocGet Core.reset l (s.dev.stave n).absent
  let s := (s.countRetired c).onStave n fun t => { t with map := assocErase l t.map, absent := assocErase l t.absent }
  (s.moveIssuers n (16384 + l) deadCore).dropHeld c

/-- A context that CTXSW has saved ends with its area. -/
def State.freeSaved (s : State) (n : BitVec 6) (base : Nat) : State :=
  let c := assocGet Core.reset base (s.dev.stave n).saved
  let s := (s.countRetired c).onStave n fun t => { t with saved := assocErase base t.saved }
  (s.moveIssuers n (savedIssuer base) deadCore).dropHeld c

/-- Members that a domain counts, by logical core (Table 6 of 16). -/
def Job.counted (j : Job) (d : Dom) : List (BitVec 13) :=
  (j.insts.filter fun i => !i.held).flatMap fun i =>
    (i.lcores.zipIdx.filter fun l => !i.done.contains l.2 && d.holds ⟨j.num, i.stage, i.num, l.2⟩).map (·.1)

/-- A job retires once every instance has ended and no request of a stage made ready is open (R410). -/
def State.jobCheck (s : State) (n job : BitVec 6) : State :=
  let t := s.dev.stave n
  match t.job? job with
  | none => s
  | some j =>
    if j.status.isNone && j.insts.isEmpty && !t.ready.any fun r => r.job == job then
      s.onStave n fun t => t.onJob job fun j => { j with status := some 1 }
    else s

end Sys2Proof.Machine
end

