-- ==== Sys2Proof/Machine/Barrier.lean ====
section
/-! DEFINITION. Barriers and what their completion does (R349 to R353): pattern boundaries (R366 to R376), checkpointed
supersteps (R428 to R431), the start of held instances (R95); and the end of members and instances (R98, R99, R410). -/

namespace Sys2Proof.Machine

/-! ## Pattern boundaries (R367, R373, R376) -/

/-- A pattern that an index without one stands for. -/
def Pattern.off : Pattern := ⟨.off, 0, 0, 0, false, false, 0, 0, 0, 4, false, none, [], []⟩

/-- Pattern i of a job of a stave. -/
def State.patOf (s : State) (n job : BitVec 6) (i : Nat) : Pattern :=
  (((s.dev.stave n).job? job).map fun j => j.pats.toList.getD i .off).getD .off

/-- Whether a pattern is bound to a domain (R365). -/
def Pattern.boundTo (p : Pattern) (d : Dom) : Bool :=
  p.st != .off && p.level == d.level && (d.level == 3 || (p.stage == d.stage && (d.level != 1 || p.inst == d.inst)))

/-- Arm an entry (R373): its note goes to the producer's L1 when the producer owns a word of the span, otherwise it waits at
the home; a producer whose context is absent, has stopped or is not of the bound domain (R365) gets none. -/
def State.armEntry (s : State) (n job : BitVec 6) (i : Nat) (e : PatEntry) : State :=
  let same (x : PatEntry) := x.line == e.line && x.producer == e.producer
  match (s.runningCore n e.producer).filter fun k => (s.coreAt k).member.any fun m => m.job == job && (s.patOf n job i).holds m with
  | none => s.onPat n job i fun p => p.disarm e.line e.producer
  | some k =>
    let s := s.onPat n job i fun p =>
      { p with entries := p.entries.map fun x => if same x then { x with armed := true } else x }
    let owns := (s.dev.dirLine e.line e.sid).segs.any fun g =>
      g.meets e.span && (g.st == .m || g.st == .e) && g.owner == some k
    if owns then s.onCore k fun c => { c with notes := c.notes ++ [⟨job, BitVec.ofNat 4 i, e.line, e.count⟩] } else s

/-- A PLAY iteration begins: the tear-out count is 0 and every entry is armed. -/
def State.beginPlay (s : State) (n job : BitVec 6) (i : Nat) : State :=
  let s := s.onPat n job i fun p => { p with
    st := .play, auto := false, tears := 0, played := if p.played < 65535 then p.played + 1 else p.played }
  (s.patOf n job i).entries.foldl (fun s e => s.armEntry n job i e) s

/-- What a boundary does to a pattern (Table 1 of 17, R376 item 3, R385). -/
def State.patBoundary (s : State) (n job : BitVec 6) (i : Nat) : State :=
  let p := s.patOf n job i
  match p.st with
  | .off | .recorded | .paused | .fallback => s
  | .armed => s.onPat n job i fun p => { p with
    st := .record, entries := [], barred := [], ovf := false, tears := 0, played := 0 }
  | .record =>
    if p.auto then s.beginPlay n job i else s.onPat n job i fun p => { p with st := .recorded, auto := false }
  | .cued => s.beginPlay n job i
  | .play =>
    let unfired := p.entries.filter fun e => e.armed
    let s := (unfired.foldl (fun s _ => s.tearOut n job i) s).dropNotes n job i
    if (s.patOf n job i).st = .play then s.beginPlay n job i else s

/-- Every store count of a list of logical cores returns to 0 (R369), also that of an absent one, whose area holds it. -/
def State.zeroCounts (s : State) (n : BitVec 6) (ls : List (BitVec 13)) : State :=
  ls.foldl (fun s l =>
    match (s.dev.stave n).coreOf? l.toNat with
    | some k => s.onCore k fun c => { c with counts := [] }
    | none =>
      match (s.dev.stave n).absent.find? fun x => x.1 == l.toNat with
      | none => s
      | some x =>
        let base := (s.dev.stave n).areaOf l.toNat
        let s := s.onWhere n (.absent l.toNat) fun c => { c with counts := [] }
        let s := { s with dev := { s.dev with mem := s.dev.mem.zero (base + 0x34800) 2048 } }
        (List.range 16).foldl (fun s i => s.retag base (0x34800 / 128 + i) x.2.ctl.ctxtag) s) s

/-- The boundary of every pattern that is bound to a domain. -/
def State.boundary (s : State) (n job : BitVec 6) (d : Dom) (members : List (BitVec 13)) : State :=
  let bound := (List.range 16).filter fun i => (s.patOf n job i).boundTo d
  if bound.isEmpty then s
  else
    let s := bound.foldl (fun s i => s.patBoundary n job i) s
    s.zeroCounts n members

/-! ## Checkpointed supersteps (R429, R430) -/

/-- Free the journal entries of a superstep (R430). -/
def State.freeEntries (s : State) (n : BitVec 6) (l : List Nat) : State :=
  l.foldl (fun s i =>
    let a := (s.dev.stave n).journalAt i
    { s with dev := s.dev.poke a 8 (s.dev.peek a 8 / 2 * 2) }) s

/-- Clear the journal bitmaps of members; a stave with SAVEBASE 0 has none (R430, reason 6). -/
def State.clearBitmaps (s : State) (n : BitVec 6) (ls : List (BitVec 13)) : State :=
  if field (s.dev.stave n).savebase 19 33 = 0 then s
  else ls.foldl (fun s l => { s with dev := s.dev.poke ((s.dev.stave n).areaOf l.toNat + 0x48100) 256 0 }) s

/-- Why a superstep that begins is unprotected: the lowest reason that holds (Table 4 of 22). -/
def State.beginReason (s : State) (n job : BitVec 6) (all : Bool) : Option (BitVec 4) :=
  let t := s.dev.stave n
  if field t.ckbase 20 32 = 0 then some 1
  else if !all then some 2
  else if (t.job? job).any fun j => j.doms.any fun d => d.ck.active && !d.ck.unprot then some 5
  else if field t.savebase 19 33 = 0 then some 6
  else none

/-- No checkpointed superstep. -/
def Ckpt.none : Ckpt := ⟨false, false, 0, false, [], [], []⟩

/-- Whether a pattern is bound to a domain or to a domain within it (R381). -/
def Pattern.within (p : Pattern) (d : Dom) : Bool :=
  p.st != .off && (d.level == 3 || (d.level == 2 && decide (p.level ≤ 2) && p.stage == d.stage) || p.boundTo d)

/-- The superstep of a domain that has ended, and the one that begins, for checkpoints. (Log 56, DEDUCED.) -/
def State.checkpoint (s : State) (n job : BitVec 6) (d : Dom) (members : List (BitVec 13)) (any all : Bool) : State :=
  let s := if d.ck.active then (s.freeEntries n d.ck.entries).clearBitmaps n members else s
  let set (s : State) (c : Ckpt) := s.onStave n fun t => t.onJob job fun j =>
    j.onDoms (fun x => x.level == d.level && x.stage == d.stage && x.inst == d.inst && x.member == d.member)
      fun x => { x with ck := c }
  let s := set s .none
  if !any then s
  else
    match s.beginReason n job all with
    | some r => set s ⟨true, true, r, false, [], [], []⟩
    | none =>
      let s := s.clearBitmaps n members
      let s := members.foldl (fun s l =>
        match (s.dev.stave n).coreOf? l.toNat with
        | some k =>
          { s with dev := s.dev.poke ((s.dev.stave n).areaOf l.toNat + 0x48200) 256 (s.coreAt k).loc.fullBits }
        | none =>
          let a := (s.dev.stave n).areaOf l.toNat
          { s with dev := s.dev.poke (a + 0x48200) 256 (s.dev.peek (a + 0x30000) 256) }) s
      let s := set s ⟨true, false, 0, false, [], [], []⟩
      s.onStave n fun t => t.onJob job fun j => { j with
        patsAt := (List.range 16).filterMap fun i =>
          let p := j.pats.toList.getD i .off
          some (i, p) }

/-- What a checkpoint keeps of a member's bond and pair. -/
def State.ckMember (s : State) (m : Member) (c : Core) : CkMember :=
  let cores := ((s.job?.bind fun j => j.inst? m.stage m.inst).map (·.cores)).getD []
  let idx (k : Nat) := (cores.findIdx? fun x => x == k).getD 0
  ⟨c.lcore, c.bond, c.rank, c.crew.map idx, c.pair.map idx, c.pass⟩

/-- The shadow of the member in focus, which goes on from the BAR that began a protected superstep (Table 3 of 22). -/
def State.shadow (s : State) (m : Member) (level : Level) : State :=
  let n := s.me.stave
  match (s.job?.bind fun j => j.doms.find? fun d =>
      d.ck.active && !d.ck.unprot && d.isFor level m && !d.ck.members.any fun x => x.lcore == s.me.lcore) with
  | none => s
  | some d =>
    let c := s.me
    let a := s.stave.areaOf c.lcore.toNat
    let slots := c.ctl.slots ⟨false, 0, c.pair.isSome, false⟩ c.pc ++ [c.countSlot 0]
    let d0 := s.dev.fill (a + 0x44000) 0x4000 (cellsOf 0 c.regs.words)
    let d0 := d0.fill (a + 0x48000) 0x100 (cellsOf 0 slots)
    let d0 := d0.fill (a + 0x48300) 0x400 (cellsOf 0 c.streamWords)
    let d0 := d0.fill (a + 0x48700) 0x40 (cellsOf 0 c.caps.toList)
    let d0 := d0.fill (a + 0x48800) 0x1000 (cellsOf 0 c.templateWords)
    { s with dev := d0 }.onStave n fun t => t.onJob m.job fun j => j.onDoms (fun x => x == d) fun x =>
      { x with ck := { x.ck with members := x.ck.members ++ [s.ckMember m c] } }

/-! ## Barrier completion (R351, R352) -/

/-- Held instances of a stage start (R95). -/
def State.startHeld (s : State) (n job : BitVec 6) (stage : Nat) : State :=
  match (s.dev.stave n).job? job with
  | none => s
  | some j =>
    let cores := ((j.stageInsts stage).filter fun i => i.held).flatMap (·.cores)
    let s := s.onStave n fun t => t.onJob job fun j => { j with
      insts := j.insts.map fun i => if i.stage = stage then { i with held := false } else i }
    cores.foldl (fun s k => s.onCore k fun c => { c with held := false }) s

/-- End a superstep of a domain. -/
def State.endSuperstep (s : State) (n job : BitVec 6) (j : Job) (d : Dom) : State :=
  let members := j.counted d
  let arrived := d.arrived.filter fun a => members.contains a.1
  let s := s.onStave n fun t => t.onJob job fun j =>
    j.onDoms (fun x => x == d) fun x => { x with count := x.count + 1, arrived := [] }
  let s := s.boundary n job d members
  let s := s.checkpoint n job d members (arrived.any (·.2)) (arrived.all (·.2))
  if d.level = 2 then s.startHeld n job d.stage else s

/-- Whether every counted member of a domain has arrived. -/
def Job.complete (j : Job) (d : Dom) : Bool :=
  let l := j.counted d
  !l.isEmpty && l.all fun x => d.arrived.any fun a => a.1 == x

/-- End the superstep of every domain of a job that is complete. -/
def State.tryBarriers (s : State) (n job : BitVec 6) : State :=
  match (s.dev.stave n).job? job with
  | none => s
  | some j => (j.doms.filter j.complete).foldl (fun s d => s.endSuperstep n job j d) s

/-- The domain at a level that holds a member, as it stands. -/
def Job.domAt (j : Job) (level : Level) (m : Member) : Dom :=
  (j.doms.find? fun d => d.isFor level m).getD
    { level := level, stage := if level = 3 then 0 else m.stage, inst := if level = 3 ∨ level = 2 then 0 else m.inst,
      member := if level = 0 then m.member else 0, count := 0, arrived := [], ck := .none }

/-- Record the arrival of a member (R351). -/
def State.arrive (s : State) (n : BitVec 6) (m : Member) (l : BitVec 13) (level : Level) (ck : Bool) : State :=
  s.onStave n fun t => t.onJob m.job fun j =>
    let d := j.domAt level m
    let d' := if d.arrived.any fun a => a.1 == l then d else { d with arrived := d.arrived ++ [(l, ck)] }
    if j.doms.any fun x => x.isFor level m then j.onDoms (fun x => x.isFor level m) fun _ => d'
    else { j with doms := j.doms ++ [d'] }

/-- The superstep count of the domain at a level of a member. -/
def State.superstep (s : State) (n : BitVec 6) (m : Member) (level : Level) : W64 :=
  (((s.dev.stave n).job? m.job).map fun j => (j.domAt level m).count).getD 0

/-! ## The end of members and instances (R98, R99, R410) -/

/-- The accepted moves of a stave that a test selects end with their instances. (Log 70, DEDUCED.) -/
def State.endMoves (s : State) (n : BitVec 6) (p : Move → Bool) : State :=
  let gone := (s.dev.stave n).moves.filter p
  gone.foldl (fun s m => s.completeOp m.who m.sync 0) (s.onStave n fun t => { t with moves := t.moves.filter fun m => !p m })

/-- The checkpointed superstep of a domain is no more: it frees its journal entries and clears the bitmaps of the members (R430). -/
def State.dropCk (s : State) (n : BitVec 6) (d : Dom) (members : List (BitVec 13)) : State :=
  if d.ck.active then (s.freeEntries n d.ck.entries).clearBitmaps n members else s

/-- An instance ends: its contexts are discarded and its members, with what they have arrived at, are counted no more. -/
def State.endInst (s : State) (n job : BitVec 6) (stage num : Nat) : State :=
  match ((s.dev.stave n).job? job).bind fun j => j.inst? stage num with
  | none => s
  | some i =>
    let mine (d : Dom) : Bool := decide (d.level ≤ 1) && d.stage == stage && d.inst == num
    let s := ((((s.dev.stave n).job? job).map (·.doms)).getD []).foldl (fun (s : State) d => if mine d then s.dropCk n d i.lcores else s) s
    let s := i.cores.foldl (fun s k => s.freeCore k) s
    let s := if i.cores.isEmpty then i.lcores.foldl (fun s l => s.freeAbsent n l.toNat) s else s
    let s := s.onStave n fun t =>
      { t with ready := t.ready.filter fun r => !(r.job == job && r.stage == stage && r.inst == some num) }.onJob job
        fun j => { j with
          insts := j.insts.filter fun x => !(x.stage == stage && x.num == num)
          doms := (j.doms.filter fun d => !mine d).map fun (d : Dom) =>
            { d with arrived := d.arrived.filter fun a => !i.lcores.contains a.1 } }
    let s := s.endMoves n fun m => m.job == job && m.stage == stage && m.inst == num
    ((s.slotFreed n).tryBarriers n job).jobCheck n job

/-- A stage is closing (R99): it gains no instance by growth. -/
def State.closeStage (s : State) (n job : BitVec 6) (stage : Nat) : State :=
  s.onStave n fun t =>
    { t with ready := t.ready.filter fun r => !(r.growth && r.job == job && r.stage == stage) }.onJob job fun j =>
      j.onStage stage fun g => { g with closing := true }

/-- A member has executed DONE (R352, R410). -/
def State.memberDone (s : State) (n : BitVec 6) (k : Nat) (m : Member) : State :=
  let s := s.onCore k fun c => { c with finished := true }
  let s := s.onStave n fun t => t.onJob m.job fun j => j.onInst m.stage m.inst fun i =>
    { i with done := insertNat m.member i.done }
  match ((s.dev.stave n).job? m.job).bind fun j => j.inst? m.stage m.inst with
  | none => s
  | some i =>
    if i.lcores.zipIdx.all fun l => i.done.contains l.2 then
      (s.closeStage n m.job m.stage).endInst n m.job m.stage m.inst
    else s.tryBarriers n m.job

end Sys2Proof.Machine
end

