-- ==== Sys2Proof/Machine/Sync.lean ====
section
/-! DEFINITION. SYNC, BAR and MSG (16_ordering: R337 to R364). -/

namespace Sys2Proof.Machine

/-! ## SYNC (R360, R363, R364) -/

/-- FENCE and FENCE.SC: accesses are performed in program order (log 7, DESIGN CHOICE), so what a fence does is to release and acquire; at
cluster scope or wider it waits for UNACK. -/
def fenceBody (scope : Scope) (s : State) : Res :=
  let s := s.selfRelease
  if scope ≠ .core ∧ s.me.ctl.unack ≠ 0 then .wait .unack s else s.acquire.ok

/-- Whether an address lies in the window of another core. -/
def State.farWindow (s : State) (va : W64) : Bool :=
  field va 48 16 == 0xFFFE && zeroAt va 31 17 && field va 18 13 != s.me.lcore.toNat

/-- MWAIT (R364): tail says that the word is the head and tail of a bound slot (R347). (Log 86, DEDUCED.) -/
def mwaitBody (d a b : Reg) (s : State) : Res := settle do
  let va := s.g a
  if va.toNat % 8 ≠ 0 then trapHere s .misalign va
  else if s.farWindow va then trapHere s .access va
  else
    let (pl, s) ← s.noPol.place va 8 .read false
    let (x, s) ← s.readPlace pl va 8 false
    let s := s.acquire
    if w64 x ≠ s.g b then return put d (w64 x) s
    else
      let tail := match pl with
        | .table off => off % 64 == 8 && (s.me.slots.toList[off / 64]?).any fun t => t.bind.getLsbD 0
        | .own _ | .aperture _ | .far _ _ | .phys _ _ _ _ => false
      return .wait (.mwait tail) s

/-! ## BAR (R350 to R353) -/

/-- A core goes on from a barrier whose superstep count is now c: it acquires, g[d] := c, and a protected superstep keeps its
shadow as it stands after the word. -/
def State.passBar (s : State) (i : Instr) (d : Reg) (level : Level) (c : W64) : Res :=
  let s := s.acquire.setG d c
  match s.me.member with
  | none => s.ok
  | some m =>
    let after := s.retire .seq
    let after := if s.me.sigActive then after.sigFeed (encode i) i s.me.pc 0 else after
    let shadowed := after.shadow m level
    { s with dev := shadowed.dev }.ok

/-- The release of a barrier (R351). -/
def State.barRelease (s : State) : Except Res State := s.release

/-- The release of every member of a crew: it waits until UNACK is 0 on each. -/
def State.crewRelease (s : State) (crew : List Nat) : Except Res State :=
  let s := crew.foldl (fun s k => s.at k fun s => s.selfRelease) s
  if crew.all fun k => (s.coreAt k).ctl.unack == 0 then .ok s else .error (.wait .unack s)

/-- Record the arrival of a core as it waits at a barrier. (Log 58, DEDUCED.) -/
def State.arriveCore (s : State) (k : Nat) (level : Level) (ck : Bool) (d : Reg) : State :=
  let c := s.coreAt k
  match c.member with
  | none => s
  | some m =>
    let n := c.stave
    let w : Wait := .bar level (s.superstep n m level) d
    (s.arrive n m c.lcore level ck).onCore k fun c => { c with wait := some w }

/-- BAR. A locked gang arrives as one: member 0 records every member's arrival, and all go on in the next step (R352). -/
def barBody (i : Instr) (d : Reg) (level : Level) (ck : Bool) (w : Crew) (s : State) : Res :=
  let gang := decide (1 < w.cores.length)
  match s.me.wait, s.me.member with
  | some (.bar l c r), some m =>
    if l = level then (if s.superstep s.me.stave m level ≠ c then s.passBar i d level (c + 1) else .wait (.bar l c r) s)
    else .wait (.bar l c r) s
  | _, none =>
    settle do
      let s ← s.barRelease
      let n := s.me.count0 + 1
      return { s with me.count0 := n }.passBar i d level n
  | _, some m =>
    if gang then
      (if w.idx ≠ 0 then .wait .gang s
       else settle do
        let crew := s.me.crew
        let s ← s.crewRelease crew
        let c := s.superstep s.me.stave m level
        let s := crew.foldl (fun s k => s.arriveCore k level ck d) s
        return .wait (.bar level c d) (s.tryBarriers s.me.stave m.job))
    else settle do
      let s ← s.barRelease
      let c := s.superstep s.me.stave m level
      let s := (s.arrive s.me.stave m s.me.lcore level ck).tryBarriers s.me.stave m.job
      if s.superstep s.me.stave m level ≠ c then return s.passBar i d level (c + 1)
      else return .wait (.bar level c d) s

/-! ## SEND (R339, R341) -/

/-- The fields of a destination word (Table 3 of 16). -/
def destStream (x : W64) : Nat := field x 0 12
def destDirect (x : W64) : Bool := x.getLsbD 15
def destCore (x : W64) : BitVec 13 := x.extractLsb' 16 13

/-- The job that a send goes out for, with the stream's record; none where SEND traps ACCESS. -/
def State.sendFor (s : State) (x : W64) : Option (Member × BitVec 256) :=
  match s.me.member, s.job? with
  | some m, some j =>
    match j.streams[destStream x]? with
    | none => none
    | some r =>
      if !zeroAt x 12 3 || !zeroAt x 29 35 || (destDirect x && !s.stave.valid (destCore x).toNat) then none
      else some (m, r)
  | _, _ => none

/-- Items of the core that have been injected and not accepted, in the network or in an inbox. -/
def State.inFlight (s : State) : Nat :=
  ((s.dev.net ++ s.inboxItems).filter fun x => (x.kind == .message || x.kind == .eos) && x.stave == s.me.stave &&
    x.src == s.me.lcore && x.srcTag == s.me.ctl.ctxtag).length

/-- Inject a message or an end-of-stream word. -/
def State.injectMessage (s : State) (x : W64) (m : Member) (r : BitVec 256) (kind : NetKind) (data : V512) : State :=
  let s := s.irreversible
  let item : NetItem :=
    { kind := kind, stave := s.me.stave, src := s.me.lcore, srcTag := s.me.ctl.ctxtag, dst := 0, tag := 0, stage := none,
      job := m.job, stream := BitVec.ofNat 12 (destStream x), slot := BitVec.ofNat 4 (streamSlot r), off := 0, size := 64,
      data := data, cmd := none, peer := false, vol := false, inbox := false, refused := none, order := 0 }
  if destDirect x then s.inject (s.addressed item (destCore x)) else s.injectToStage item (streamTo r)

/-- SEND, SENDV and SEND.EOS: entry gives the 64 bytes after the release. -/
def sendBody (a : Reg) (kind : NetKind) (pk : PairKind) (entry : State → Except Res (V512 × State)) (s : State) : Res :=
  settle do
    let x := s.g a
    match s.sendFor x with
    | none => trapHere s .access x
    | some (m, r) =>
      let s ← s.release
      let (e, s) ← entry s
      if 4 ≤ s.inFlight then .error (.wait .inject s)
      else if !s.fits 64 then .error (.wait .budget s)
      else
        let s ← s.paired pk x 64 e.toNat fun s => .ok ((s.charge 64).injectMessage x m r kind e)
        return s.ok

/-! ## STBIND, STDROP, WAITEOS (R345 to R347) -/

/-- Whether a slot is bound, and empty. -/
def Slot.bound (t : Slot) : Bool := t.bind.getLsbD 0
def Slot.isEmpty (t : Slot) : Bool := t.tail == t.head

/-- The slot that a register names. -/
def State.slotAt (s : State) (a : Reg) : Nat := field (s.g a) 0 4

/-- A slot of a core. -/
def Core.slot (c : Core) (i : Nat) : Slot := vget .reset c.slots i

/-- Whether a bind word is refused as BAD (R345). -/
def badBind (c : Core) (i streams : Nat) (w : W64) : Bool :=
  !zeroAt w 43 21 || !zeroAt w 28 4 || !zeroAt w 9 7 || decide (streams ≤ field w 16 12) ||
    (!w.getLsbD 1 && decide (12 < field w 5 4 ∨ 0x30000 < 128 * field w 32 11 + 64 * 2 ^ (field w 5 4 + 4))) ||
    (w.getLsbD 1 && (match c.queueSlot (field w 2 3) with | some k => k != i | none => false))

/-- STBIND. (Log 57, DEDUCED.) -/
def stbindBody (d a b : Reg) (s : State) : Res :=
  let i := s.slotAt a
  let w := s.g b
  let t := s.me.slot i
  let busy := t.bound && !t.isEmpty
  if !w.getLsbD 0 then
    (if busy then put d 2 s else put d 0 { s with me := s.me.onSlot i fun t => { t with bind := 0 } })
  else if badBind s.me i ((s.job?.map fun j => j.streams.length).getD 0) w then put d 1 s
  else if busy then put d 2 s
  else put d 0 { s with me := s.me.onSlot i fun _ => ⟨w, 0, 0, 0⟩ }

/-- STDROP; an operand-queue entry that it discards is consumed, an irreversible action (R430). -/
def stdropBody (d a b : Reg) (s : State) : Res :=
  let i := s.slotAt a
  let t := s.me.slot i
  let want := field (s.g b) 0 32
  if !t.bound then put d 0 s
  else
    let q := field t.bind 2 3
    let have_ := if t.bind.getLsbD 1 then (s.me.queue q).length else (t.tail - t.head).toNat
    let n := if want < have_ then want else have_
    let s := if t.bind.getLsbD 1 && n != 0 then s.irreversible else s
    let c := if t.bind.getLsbD 1 then s.me.setQueue q ((s.me.queue q).drop n) else s.me
    put d (w64 n) { s with me := c.onSlot i fun t => { t with head := t.head + BitVec.ofNat 32 n } }

/-- WAITEOS. -/
def waiteosBody (d a b : Reg) (s : State) : Res :=
  let t := s.me.slot (s.slotAt a)
  if t.eos.toNat < field (s.g b) 0 32 then .wait .eos s
  else put d (zext t.tail) s.acquire

/-! ## Meanings -/

/-- FENCE (R360). -/
def execFence (scope : Scope) (s : State) : Out := issue (.fence scope) (fenceBody scope) s

/-- FENCE.SC (R360). -/
def execFenceSc (scope : Scope) (s : State) : Out := issue (.fenceSc scope) (fun s => fenceBody scope s) s

/-- MWAIT (R364). -/
def execMwait (d a b : Reg) (s : State) : Out := issue (.mwait d a b) (mwaitBody d a b) s

/-- BAR (R351). -/
def execBar (d : Reg) (level : Level) (ck : Bool) (s : State) : Out :=
  issueG (.bar d level ck) (barBody (.bar d level ck) d level ck) s

/-- SEND (R341). -/
def execSend (a b : Reg) (s : State) : Out :=
  issue (.send a b) (fun s0 => sendBody a .message .send (fun s => .ok (zext512 (s.g b), s)) s0) s
where
  /-- 56 zero bytes above the 8 bytes. -/
  zext512 (x : W64) : V512 := x.setWidth 512

/-- SENDV (R341). -/
def execSendv (a b : Reg) (s : State) : Out :=
  issue (.sendv a b) (fun s0 => sendBody a .message .sendv (fun s => s.vsrc b) s0) s

/-- SEND.EOS (R341). -/
def execSendEos (a : Reg) (s : State) : Out :=
  issue (.sendEos a) (fun s0 => sendBody a .eos .sendEos (fun s => .ok (0, s)) s0) s

/-- STBIND (R345). -/
def execStbind (d a b : Reg) (s : State) : Out := issue (.stbind d a b) (stbindBody d a b) s

/-- STDROP (R346). -/
def execStdrop (d a b : Reg) (s : State) : Out := issue (.stdrop d a b) (stdropBody d a b) s

/-- WAITEOS (R347). -/
def execWaiteos (d a b : Reg) (s : State) : Out := issue (.waiteos d a b) (waiteosBody d a b) s

end Sys2Proof.Machine
end

