-- ==== Sys2Proof/Machine/Arrival.lean ====
section
/-! DEFINITION. What reaches a core from the network (R266, R343, R404, R405), matrix commands at their target (R257 to R259),
requests at the homes (R278, R279), and pushes at their consumers (R375). -/

namespace Sys2Proof.Machine

/-! ## Contexts that are not in place (R404) -/

/-- Change a 64-bit word of an area, with its line's tag. -/
def State.areaWord (s : State) (base off : Nat) (tag : BitVec 32) (f : W64 → W64) : State :=
  let s := { s with dev := s.dev.poke (base + off) 8 (f (w64 (s.dev.peek (base + off) 8))).toNat }
  s.retag base (off / 128) tag

/-- A remote store of a context leaves its UNACK (R266): of the running context, or of the saved one (R400). -/
def State.unackDown (s : State) (n : BitVec 6) (l : Nat) (tag : BitVec 32) : State :=
  match s.whereIs n l tag with
  | none => s
  | some (.core k) => s.onCore k fun c => { c with ctl.unack := c.ctl.unack - 1 }
  | some w => s.areaWord (s.areaAt n w) (0x30100 + 240) tag fun w => if w = 0 then 0 else w - 1

/-! ## The network -/

/-- Remove item i from the network. -/
def State.takeItem (s : State) (i : Nat) : State := { s with dev := { s.dev with net := listDrop s.dev.net i } }

/-- Replace item i. -/
def State.setItem (s : State) (i : Nat) (x : NetItem) : State := { s with dev := { s.dev with net := listSet s.dev.net i x } }

/-- Items before item i that a test selects. -/
def State.ahead (s : State) (i : Nat) (p : NetItem → Bool) : Bool := (s.dev.net.take i).any p

/-- Two items come from one context. -/
def NetItem.sameSender (x y : NetItem) : Bool := x.stave == y.stave && x.src == y.src && x.srcTag == y.srcTag

/-- Two items go to one context. -/
def NetItem.sameTarget (x y : NetItem) : Bool :=
  x.stave == y.stave && x.dst == y.dst && x.tag == y.tag && x.stage == y.stage

/-- Among items from one inbox, the later waits for the earlier (R405): commands, and messages with end-of-stream words, in arrival
order; a command for its sender's stores (R256); remote stores so far as a thread can tell, of one sender (R362) or to one line.
(Log 93, DEDUCED.) -/
def NetItem.behind (x y : NetItem) : Bool :=
  match x.kind with
  | .store => y.kind == .store && (x.sameSender y || x.off / 128 == y.off / 128)
  | .message | .eos => y.kind == .message || y.kind == .eos
  | .command => y.kind == .command || (y.kind == .store && x.sameSender y)
  | .report => false

/-- The stage whose instance an item goes to, or on whose first instance it waits (R342). -/
def State.goalStage (s : State) (x : NetItem) : Option Nat :=
  x.stage.orElse fun _ => ((s.memberFor x.stave x.dst.toNat x.tag).filter fun m => m.job == x.job).map (·.stage)

/-- The network's order makes item i wait for an earlier one (R343, R362, R256, R452); and every other item for those that come from
the inbox of its target (R405). -/
def State.mustWait (s : State) (i : Nat) (x : NetItem) : Bool :=
  if x.kind = .report then false
  else if x.inbox then s.ahead i fun y => y.inbox && y.sameTarget x && x.behind y
  else
    (!x.peer && x.stage.isNone && s.dev.net.any fun y => y.inbox && y.sameTarget x) ||
    match x.kind with
    | .store => s.ahead i fun y => y.kind == .store && x.sameSender y && x.peer == y.peer &&
        (if x.peer then x.off / 128 == y.off / 128 else x.sameTarget y)
    | .message => s.ahead i fun y => (y.kind == .message || y.kind == .eos) && x.sameSender y && y.stream == x.stream &&
        (if y.stage.isSome then y.job == x.job && y.stage == s.goalStage x else x.sameTarget y && y.slot == x.slot)
    | .eos => s.ahead i fun y => y.kind == .message && x.sameSender y && y.stream == x.stream && x.sameTarget y
    | .command => s.ahead i (fun y => y.kind == .command && x.sameSender y && x.sameTarget y) ||
        s.dev.net.any fun y => y.kind == .store && x.sameSender y && decide (y.order < ((x.cmd.map (·.fork)).getD 0))
    | .report => false

/-- Every message that the sender of an end-of-stream word sent earlier on its stream has been accepted (R343). -/
def State.eosReady (s : State) (x : NetItem) : Bool :=
  !(s.dev.net ++ s.inboxItems).any fun y =>
    y.kind == .message && x.sameSender y && y.stream == x.stream && decide (y.order < x.order)

/-! ## Acceptance by a core -/

/-- A remote store is performed at core k; none while its line is empty (R265). -/
def State.acceptStore (s : State) (k : Nat) (who : Option Member) (off n x : Nat) : Option State :=
  if (s.coreAt k).loc.empty.contains (off / 128) then none
  else
    let s := s.ckLocalBy who k (off / 128) true
    some (s.onCore k fun c => { c with loc := c.loc.store off n x })

/-- Capacity of a ring slot, and the place of its entries (R338). -/
def Slot.cap (t : Slot) : Nat := 2 ^ (field t.bind 5 4 + 4)
def Slot.ringAt (t : Slot) : Nat := 128 * field t.bind 32 11 + 64 * (t.tail.toNat % t.cap)

/-- The next arrival that a replayed job's log records for a slot is of this message (R441). -/
def State.logAllows (s : State) (k : Nat) (slot : Nat) (src : BitVec 13) (stream : BitVec 12) : Bool × State :=
  let c := s.coreAt k
  match c.member.bind fun m => (s.dev.stave c.stave).job? m.job with
  | none => (true, s)
  | some j =>
    if !j.replays then (true, s)
    else
      let (r, s) := s.logFind j (fun r => r.kind == 4 && r.lcore == c.lcore.toNat && r.slot == slot)
        (j.logCountOf (16384 + 16 * c.lcore.toNat + slot))
      (r.any fun r => field r.aux 0 16 == src.toNat && field r.aux 16 16 == stream.toNat, s)

/-- A message has been accepted by a member of a job: the log takes or leaves a record (R441), and IDLE ends (R409). -/
def State.accepted (s : State) (k slot : Nat) (src : BitVec 13) (stream : BitVec 12) (data : V512) : State :=
  let s := s.onCore k fun c => { c with accepted := true }
  let c := s.coreAt k
  match c.member with
  | none => s
  | some m =>
    let s := s.capture c.stave m.job ⟨4, 64, slot, c.lcore.toNat, w64 (src.toNat + 2 ^ 16 * stream.toNat), 0, data⟩
    s.onStave c.stave fun t => t.onJob m.job fun j =>
      if j.replays then j.logStep (16384 + 16 * c.lcore.toNat + slot) else j

/-- Room for a message in a bound slot of a core (R343). -/
def Core.slotRoom (c : Core) (t : Slot) : Bool :=
  if t.bind.getLsbD 1 then decide ((c.queue (field t.bind 2 3)).length < 16) else decide ((t.tail - t.head).toNat < t.cap)

/-- A message lands in slot i of a core, of which t is the slot. -/
def Core.land (c : Core) (i : Nat) (t : Slot) (x : V512) : Core :=
  let q := field t.bind 2 3
  let c := if t.bind.getLsbD 1 then c.setQueue q (c.queue q ++ [⟨x, 0⟩]) else { c with loc := c.loc.store t.ringAt 64 x.toNat }
  c.onSlot i fun t => { t with tail := t.tail + 1 }

/-- Whether an item is for a context of another job, or for a slot that is bound to another stream (R342). An entry of an inbox that
software wrote names no job. -/
def Core.strange (c : Core) (x : NetItem) : Bool :=
  let t := c.slot x.slot.toNat
  (x.srcTag != 0 && c.member.map (·.job) != some x.job) || (t.bound && field t.bind 16 12 != x.stream.toNat)

/-- A message is accepted at core k into its slot, or discarded; none while it waits (R342, R343). -/
def State.acceptMessage (s : State) (k : Nat) (x : NetItem) : Option State :=
  let c := s.coreAt k
  let i := x.slot.toNat
  let t := c.slot i
  if c.strange x then some s
  else if !t.bound || !c.slotRoom t then none
  else
    let (good, s) := s.logAllows k i x.src x.stream
    if good then some ((s.onCore k fun c => c.land i t x.data).accepted k i x.src x.stream x.data) else none

/-- An end-of-stream word is accepted at core k. (Log 75, DEDUCED.) -/
def State.acceptEos (s : State) (k : Nat) (x : NetItem) : Option State :=
  let c := s.coreAt k
  if c.strange x then some s
  else if !(c.slot x.slot.toNat).bound || !s.eosReady x then none
  else some (s.onCore k fun c => { c.onSlot x.slot.toNat fun t => { t with eos := t.eos + 1 } with accepted := true })

/-! ## Matrix commands at their target (R257 to R259) -/

/-- Rights and window of a capability (Table 8 of 10). -/
def capRight (cap : W64) (i : Nat) : Bool := cap.getLsbD (35 + i)
def capCovers (cap : W64) (off n : Nat) : Bool :=
  decide (128 * field cap 13 11 ≤ off ∧ off + n ≤ 128 * (field cap 13 11 + field cap 24 11))

/-- The instruction of a command. -/
def MCmd.instr (m : MCmd) : Option Instr := commandOf m.block

/-- Header of the block at an offset of core k. -/
def State.headerAt (s : State) (k off : Nat) : Nat := (s.coreAt k).loc.bytes.readN off 128

/-- Bytes of an MMA's block at an offset: its header alone while the header's line is empty, so that K is not known yet, and where K
is none of its values. The blocks are checked again at the start, when the headers are there. (Log 51, DEDUCED.) -/
def State.blockSpan (s : State) (k off : Nat) (ty : MmaTy) : Nat :=
  let n := blockK (s.headerAt k off)
  if (n = 32 ∨ n = 64 ∨ n = 128) ∧ !(s.coreAt k).loc.empty.contains (off / 128) then blockBytes ty n else 128

/-- Offset of row i of a ZST command. -/
def MCmd.row (m : MCmd) (i : Nat) : Nat := (w64 m.a + w64 m.b * w64 i).toNat

/-- The checks of R257 at core k: the status that refuses the command. (Log 51, DEDUCED.) -/
def State.checkCommand (s : State) (k : Nat) (m : MCmd) : Option Nat :=
  let c := s.coreAt k
  if !c.caps.toList.contains m.cap || m.cap == 0 then some 0x20
  else
    match m.instr with
    | some (.mma _ _ _ _ _ _ ty) =>
      if !capRight m.cap 2 || !capRight m.cap 0 || !capCovers m.cap m.a 128 || !capCovers m.cap m.b 128 ||
          !capCovers m.cap m.a (s.blockSpan k m.a ty) || !capCovers m.cap m.b (s.blockSpan k m.b ty) then some 0x20
      else if m.a % 128 ≠ 0 ∨ m.b % 128 ≠ 0 then some 0x21
      else none
    | some (.sclacc _ _ _ _ _ _) =>
      if !capRight m.cap 2 || !capRight m.cap 0 || !capCovers m.cap m.b 64 then some 0x20
      else if m.b % 64 ≠ 0 then some 0x21
      else none
    | some (.zclr _ _ _) => if capRight m.cap 2 then none else some 0x20
    | some (.zst _ _ _ _ _) =>
      if !capRight m.cap 1 || !(List.range 16).all fun i => capCovers m.cap (m.row i) 64 then some 0x20
      else if m.a % 64 ≠ 0 ∨ m.b % 64 ≠ 0 then some 0x21
      else none
    | _ => some 0x21

/-- A command with a sync object ends with a status (R259). -/
def State.endCommand (s : State) (m : MCmd) (status : Nat) : State := s.completeOp m.sender m.sync status

/-- A command is refused (R257, R258). -/
def State.refuseCommand (s : State) (m : MCmd) (status : Nat) : State := (s.answer m false).endCommand m status

/-- A command arrives at core k: it is refused, accepted, or waits while 32 are held (R257). -/
def State.acceptCommand (s : State) (k : Nat) (m : MCmd) : Option State :=
  match s.checkCommand k m with
  | some st => some (s.refuseCommand m st)
  | none =>
    if 32 ≤ (s.coreAt k).mcmds.length then none
    else some ((s.onCore k fun c => { c with mcmds := c.mcmds ++ [m] }).answer m true)

/-- Lines of local memory that a command reads, from an offset. -/
def linesFull (l : Loc) (off n : Nat) : Bool :=
  (List.range ((off + n - 1) / 128 + 1 - off / 128)).all fun i => !l.empty.contains (off / 128 + i)

/-- Whether a command may start on the core in focus (R258): its version check passes, and every line that it reads or writes is full
(R265). -/
def State.commandReady (s : State) (m : MCmd) : Bool :=
  let ver (z : ZReg) (ev : BitVec 4) (k : Bool) := !k || (s.zver z).extractLsb' 0 4 == ev
  match m.instr with
  | some (.mma z ev k _ _ _ ty) =>
    ver z ev k && linesFull s.me.loc m.a 128 && linesFull s.me.loc m.b 128 &&
      linesFull s.me.loc m.a (s.blockSpan s.here m.a ty) && linesFull s.me.loc m.b (s.blockSpan s.here m.b ty)
  | some (.sclacc z ev k _ _ _) => ver z ev k && linesFull s.me.loc m.b 64
  | some (.zclr z ev k) => ver z ev k
  | some (.zst z ev k _ _) => ver z ev k && (List.range 16).all fun i => linesFull s.me.loc (m.row i) 64
  | _ => true

/-- The local operand of a command. -/
def State.ownOpnd (s : State) (off : Nat) : Opnd := ⟨s.here, off, w64 off⟩

/-- The member whose context issued an engine operation or a command; none once it has ended. -/
def State.issuerMember (s : State) (who : Issuer) : Option Member :=
  if who.core < 16384 then (s.coreAt who.core).member
  else (assocGet Core.reset (who.core - 16384) (s.dev.stave who.stave).absent).member

/-- The effect of a command on the core in focus, whose local memory the sender's thread reads and writes (R430); a stop on poison keeps
what is complete. -/
def State.commandEffect (s : State) (m : MCmd) : Except Res State :=
  let by_ := s.issuerMember m.sender
  match m.instr with
  | some (.mma z _ _ _ _ _ ty) =>
    if capCovers m.cap m.a (s.blockSpan s.here m.a ty) && capCovers m.cap m.b (s.blockSpan s.here m.b ty) then
      let s := s.ckLocalBy by_ s.here (m.b / 128) false
      mmaRun z ty false (s.ownOpnd m.a) (s.ownOpnd m.b) s
    else trapHere s .capability m.cap
  | some (.sclacc z _ _ part _ clr) =>
    let s := s.ckLocalBy by_ s.here (m.b / 128) false
    sclaccRun z part clr (s.ownOpnd m.b) s
  | some (.zclr z _ _) => .ok (s.clearZ z)
  | some (.zst z _ _ _ _) =>
    .ok ((List.range 16).foldl (fun (s : State) i =>
      let s := s.ckLocalBy by_ s.here (m.row i / 128) true
      { s with me.loc := s.me.loc.store (m.row i) 64 (s.rowBytes z i) }) s)
  | _ => .ok s

/-- The first accepted command of core k runs to its end (R258). What the core's own stopped instruction keeps is untouched. -/
def State.runCommand (s : State) (k : Nat) : State :=
  let back := s.here
  let t := s.focus k
  match t.me.mcmds with
  | [] => s
  | m :: rest =>
    if !t.me.live || !t.commandReady m then s
    else
      let old := t.me
      let t := { t with me.mcmds := rest, me.ctl.pix := 0, me.quota := none }
      let (t, status) := match t.commandEffect m with
        | .ok t => (t, 0)
        | .error (.trap .poison _ t) => (t, 0x22)
        | .error (.trap .capability _ t) => (t, 0x20)
        | .error (.trap _ _ t) => (t, 0x21)
        | .error (.done t _) | .error (.wait _ t) => (t, 0x22)
      let t := { t with me.ctl.pix := old.ctl.pix, me.quota := old.quota, me.wait := old.wait }
      (t.endCommand m status).focus back

/-! ## Items at their target -/

/-- An item reaches the router of a target that cannot take it: it is refused from now on (R404). A stamp that names an ended context
discards it: a discarded remote store leaves UNACK, and a matrix command is refused, since the capability table is empty (R258). -/
def State.refuseItem (s : State) (i : Nat) (x : NetItem) : State :=
  if (s.whereIs x.stave x.dst.toNat x.tag).isSome then
    (if x.refused.isSome then s else s.setItem i { x with refused := some s.dev.cycle })
  else
    let s := s.takeItem i
    match x.cmd with
    | some m => s.refuseCommand m 0x20
    | none => if x.kind = .store && !x.inbox then s.unackDown x.stave x.src.toNat x.srcTag else s

/-- An item is accepted by the running context of its stamp. -/
def State.acceptItem (s : State) (k : Nat) (x : NetItem) : Option State :=
  match x.kind with
  | .store => s.acceptStore k (s.memberFor x.stave x.src.toNat x.srcTag) x.off x.size x.data.toNat
  | .message => s.acceptMessage k x
  | .eos => s.acceptEos k x
  | .command => match x.cmd with
    | some m => s.acceptCommand k m
    | none => some s
  | .report => some s

/-- A store to a peer is performed there, or the peer's own check drops it, which is not reported (R452, R453). -/
def State.peerStore (s : State) (x : NetItem) : State :=
  let (good, s) := s.drawBool
  if good && !zeroAt s.dev.trcfg 9 7 then { s with dev := s.dev.put (s.dev.key x.off) x.size x.data.toNat } else s

/-- The ATS invalidations whose accesses have all been performed return their completions (R450, step 3). -/
def State.atsSettle (s : State) : State :=
  let open_ (w : AtsWait) : Bool := s.dev.net.any fun x => x.kind == .store && x.peer && w.orders.contains x.order
  let ended := (s.dev.atsWaits.filter fun w => !open_ w).length
  { s with dev := { s.dev with atsWaits := s.dev.atsWaits.filter open_, atsDone := s.dev.atsDone + ended } }

/-- A message that waits for an instance of its stage is routed once there is one (R342). -/
def State.routeWaiting (s : State) (i : Nat) (x : NetItem) (st : Nat) : State :=
  match (s.dev.stave x.stave).job? x.job with
  | none => s.takeItem i
  | some j =>
    let tab := j.table st
    if tab.isEmpty then
      (match j.stages[st]? with
       | some g => if g.closing then s.takeItem i else s
       | none => s.takeItem i)
    else if x.kind = .eos then
      let l := s.dev.net
      { s with dev := { s.dev with net := l.take i ++ (tab.map fun n => s.addressed x n.first) ++ l.drop (i + 1) } }
    else
      match j.route x.stream.toNat x.src (x.data.extractLsb' 0 64) with
      | none => s
      | some (n, j') => (s.onStave x.stave fun t => t.onJob x.job fun _ => j').setItem i (s.addressed x n.first)

/-- Item i arrives at its target, if it is of a kind. A remote store that has been performed goes back as a report, unless it has left
UNACK with its entry in the inbox (R405). -/
def State.arriveItem (s : State) (i : Nat) (kind : NetKind) : State :=
  match s.dev.net[i]? with
  | none => s
  | some x =>
    if x.kind ≠ kind ∨ s.mustWait i x then s
    else if x.peer then ((s.peerStore x).setItem i { x with kind := .report }).atsSettle
    else
      match x.stage with
      | some st => s.routeWaiting i x st
      | none =>
        match s.coreFor x.stave x.dst.toNat x.tag with
        | none => s.refuseItem i x
        | some k =>
          match s.acceptItem k x with
          | none => s
          | some s => if x.kind = .store && !x.inbox then s.setItem i { x with kind := .report } else s.takeItem i

/-! ## The inbox (R404, R405) -/

/-- Item i, refused for 2,048 cycles, goes to the inbox of the context that its stamp names (R404): into its save area, and what an
entry does not tell stays with the context. One whose target is in place again is refused no more, and a store that has been in an inbox
has left UNACK already. (Log 59, DEDUCED.) -/
def State.divertItem (s : State) (i : Nat) : State :=
  match s.dev.net[i]? with
  | none => s
  | some x =>
    match x.refused, s.whereIs x.stave x.dst.toNat x.tag with
    | some since, some w =>
      let base := s.areaAt x.stave w
      let n := match w with
        | .core k => (s.coreAt k).inbox.length
        | .absent _ | .saved _ => s.inboxCount base
      if x.kind = .report ∨ base = 0 ∨ (s.coreFor x.stave x.dst.toNat x.tag).isSome ∨ s.mustWait i x ∨ (s.dev.cycle - since).toNat < 2048 ∨ 128 ≤ n then s
      else
        let at0 := 0x38000 + 128 * n
        let s := { s with dev := s.dev.fill (base + at0) 128 (cellsOf 0 x.inboxWords) }.retag base (at0 / 128) x.tag
        let s := s.areaWord base (0x30100 + 248) x.tag fun w => withField w 40 8 (n + 1)
        let s := (s.takeItem i).onWhere x.stave w fun c => { c with inbox := c.inbox ++ [x] }
        if x.kind = .store && !x.inbox then s.unackDown x.stave x.src.toNat x.srcTag else s
    | _, _ => s

/-- The item that entry i of an inbox holds, for the context on core k: the one that was diverted, or what the entry of an area that
software wrote tells. -/
def State.inboxItem (s : State) (base i k : Nat) : Option NetItem :=
  let ws := s.dev.mem.words (base + 0x38000 + 128 * i) 16
  let c := s.coreAt k
  match (c.inbox[i]?).filter fun x => x.inboxWords == ws with
  | some x => some { x with dst := c.lcore, tag := c.ctl.ctxtag, inbox := true, refused := none }
  | none =>
    let h := listGet 0 ws 0
    let kind : Option NetKind := match field h 0 8 with
      | 1 => some .message | 2 => some .eos | 3 => some .store | 4 => some .command | _ => none
    let where_ (l : Nat) := ((s.dev.stave c.stave).coreOf? l).getD (16384 + l)
    kind.map fun kind =>
      { kind := kind, stave := c.stave, src := h.extractLsb' 32 13, srcTag := 0, dst := c.lcore, tag := c.ctl.ctxtag,
        stage := none, job := (c.member.map (·.job)).getD 0,
        stream := (c.slot (field h 16 4)).bind.extractLsb' 16 12, slot := h.extractLsb' 16 4,
        off := field (listGet 0 ws 1) 0 32, size := field h 8 8,
        data := (BitVec.ofNat 512 ((ws.drop 8).reverse.foldl (fun x w => x * 2 ^ 64 + w.toNat) 0)),
        cmd := if kind = .command then mcmdOf where_ 0 (ws.drop 8) else none, peer := false, vol := false, inbox := true,
        refused := none, order := 0 }

/-- Apply the inbox of an area to the context that has been restored on core k, in arrival order. What cannot be accepted yet
waits in the network before every later item (R405). -/
def State.applyInbox (s : State) (base k : Nat) : State :=
  let xs := (List.range (s.inboxCount base)).filterMap fun i => s.inboxItem base i k
  let s := s.onCore k fun c => { c with inbox := [] }
  let r := xs.foldl (fun (r : State × List NetItem) x =>
    match if r.2.any x.behind then none else r.1.acceptItem k x with
    | some s => (s, r.2)
    | none => (r.1, r.2 ++ [x])) (s, [])
  { r.1 with dev := { r.1.dev with net := r.2 ++ r.1.dev.net } }

/-! ## The steps -/

/-- READ_REQUEST (R278): the home serves a read of a core that runs a context of the SID. -/
def execReadRequest (core : Nat) (sid : BitVec 16) (line : Nat) (span : BitVec 16) (s : State) : Out :=
  event (fun s => if (s.coreAt core).live && (s.coreAt core).ctl.sid == sid && span != 0
    then s.serveRead core sid line span else s) s

/-- WRITE_REQUEST (R278). -/
def execWriteRequest (core : Nat) (sid : BitVec 16) (line : Nat) (span : BitVec 16) (s : State) : Out :=
  event (fun s => if (s.coreAt core).live && (s.coreAt core).ctl.sid == sid && span != 0
    then s.serveWrite core sid line span else s) s

/-- NON_ALLOCATING_REQUEST (R279): a load changes no entry; a store is performed at the home. -/
def execNonAllocatingRequest (core : Nat) (sid : BitVec 16) (line : Nat) (span : BitVec 16) (store : Bool) (s : State) : Out :=
  event (fun s =>
    if (s.coreAt core).live && (s.coreAt core).ctl.sid == sid && span != 0 then
      (if store then s.serveHome sid line span 1 0 else s.serveLoad core sid line span 1 0)
    else s) s

/-- REMOTE_STORE_PERFORM (R266). -/
def execRemoteStorePerform (i : Nat) (s : State) : Out := event (fun s => s.arriveItem i .store) s

/-- REMOTE_STORE_ACK (R266): the report reaches the sender. -/
def execRemoteStoreAck (i : Nat) (s : State) : Out :=
  event (fun s =>
    match s.dev.net[i]? with
    | some x => if x.kind = .report then (s.takeItem i).unackDown x.stave x.src.toNat x.srcTag else s
    | none => s) s

/-- REMOTE_ACCESS (R266, R362): the target of a core's remote load or atomic answers, after the core's earlier stores to it. -/
def execRemoteAccess (core : Nat) (s : State) : Out :=
  event (fun s =>
    let c := s.coreAt core
    match c.wait with
    | some (.remote va got) =>
      let far := decide (field va 48 16 = 0xFFFE)
      let earlier := s.dev.net.any fun x => x.kind == .store && x.stave == c.stave && x.src == c.lcore &&
        x.srcTag == c.ctl.ctxtag && (if far then !x.peer && x.dst.toNat == field va 18 13 else x.peer)
      let there := !far || ((s.dev.stave c.stave).coreOf? (field va 18 13)).any fun k => (s.coreAt k).live
      if got.contains va || earlier || !there then s else s.setCore core { c with wait := some (.remote va (va :: got)) }
    | _ => s) s

/-- MATRIX_COMMAND_ARRIVAL (R257). -/
def execMatrixCommandArrival (i : Nat) (s : State) : Out := event (fun s => s.arriveItem i .command) s

/-- MATRIX_COMMAND_RUN (R258). -/
def execMatrixCommandRun (core : Nat) (s : State) : Out := event (fun s => s.runCommand core) s

/-- MESSAGE_ARRIVAL (R343). -/
def execMessageArrival (i : Nat) (s : State) : Out := event (fun s => s.arriveItem i .message) s

/-- END_OF_STREAM_ARRIVAL (R343). -/
def execEndOfStreamArrival (i : Nat) (s : State) : Out := event (fun s => s.arriveItem i .eos) s

/-- INBOX_DIVERSION (R404). -/
def execInboxDiversion (i : Nat) (s : State) : Out := event (fun s => s.divertItem i) s

/-- PUSH_DELIVERY (R375). -/
def execPushDelivery (i : Nat) (s : State) : Out := event (fun s => s.deliverPush i) s

end Sys2Proof.Machine
end

