-- ==== Sys2Proof/Machine/Control.lean ====
section
/-! DEFINITION. LOOP, GROUP, BRK and the HINT words (06_fetch_and_issue: R137 to R158; 01: R26 to R33), and words that are no
instruction (R35, R38). -/

namespace Sys2Proof.Machine

/-! ## LOOP (R138) -/

/-- The effect of LOOP; a locked gang takes member 0's count and loop state (R150). -/
def loopBody (i : Instr) (a : Reg) (lc : BitVec 2) (len : Nat) (w : Crew) (s : State) : Res :=
  let l := w.lead s
  let n := lc.toNat
  let pc := s.me.pc
  let last := pc + w64 (4 * len)
  if l.loopAct n || [0, 1, 2].any fun k => l.loopAct k && l.inLoop k pc && decide ((l.loopEnd k).toNat < last.toNat) then
    .trap .illegal (zext (encode i)) s
  else
    let count := { s with me := l }.g a
    let c := s.me.setLc n count
    if count = 0 then .done { s with me := c } (.skip len)
    else
      let llen := withField (withField c.ctl.llen (10 * n) 9 len) (10 * n + 9) 1 1
      if h : n < 3 then
        -- words captured for a loop that has ended are captured anew (R141)
        .done { s with me := { c with ctl.lbody := c.ctl.lbody.set n (pc + 4) h, ctl.llen := llen, loopBuf := c.loopWords } } .seq
      else .done { s with me := c } .seq

/-! ## GROUP (R152 to R155) -/

/-- The members of the instance of the core in focus that have not executed DONE, in member order (R153). A core that runs
no instance counts as an instance of width 1 (log 17, DEDUCED). -/
def State.mates (s : State) : List Nat :=
  match s.me.member, s.job? with
  | some m, some j =>
    match j.inst? m.stage m.inst with
    | some i => i.cores.filter fun k => k == s.here || !(s.coreAt k).finished
    | none => [s.here]
  | _, _ => [s.here]

/-- The fields of a join's word: its function and its register (R152). -/
def joinFn (w : Word) : Nat := w.toNat % 128
def joinReg (w : Word) : Reg := w.extractLsb' 19 6

/-- What two joins must have in common: their instruction but for its register. -/
def joinKind (w : Word) : Nat := w.toNat / 2 ^ 25 * 128 + joinFn w

/-- The address and the word of a join at which a core waits. -/
def Core.joinAt (c : Core) : Option (W64 × Word) :=
  match c.wait with
  | some (.join w) => some (c.pc, w)
  | _ => none

/-- The strength that a join's function names. -/
def joinBond (fn : Nat) : Bond := if fn = 0 then .follow else .gang

/-- A core bonded in a strength. -/
def Core.bonded (c : Core) (b : Bond) (crew : List Nat) (rank : Nat) : Core :=
  { c with bond := b, crew := crew, rank := rank, released := false, trail := [], orphan := false, handed := false }

/-- Core k completes a join with an outcome. -/
def State.endJoin (s : State) (k : Nat) (d : Reg) (x : W64) : State := s.at k fun s => (s.setG d x).retire .seq

/-- Every core of a list that waits at a join completes its own with an outcome (R153). -/
def State.endJoins (s : State) (ks : List Nat) (x : W64) : State :=
  ks.foldl (fun s k => match (s.coreAt k).joinAt with | some j => s.endJoin k (joinReg j.2) x | none => s) s

/-- The members of a crew, in member order, enter a bond. -/
def State.formBond (s : State) (b : Bond) (crew : List Nat) : State :=
  (List.range crew.length).foldl (fun s n => s.onCore (listGet s.here crew n) fun c => c.bonded b crew n) s

/-- The members of the instance of the core in focus (R94): 1 for a core that runs none. -/
def State.width (s : State) : Nat :=
  ((s.me.member.bind fun m => s.job?.bind fun j => j.inst? m.stage m.inst).map (·.lcores.length)).getD 1

/-- A join of an unbonded member, by its word (R153): the last member to come decides for all. In an instance of width 1 it forms no bond;
the only counted member of a wider one forms its bond alone. -/
def joinAlone (w : Word) (s : State) : Res :=
  let mates := s.mates
  let others := mates.filter fun k => k != s.here
  let d := joinReg w
  if others.isEmpty then put d 1 (if s.width = 1 then s else s.formBond (joinBond (joinFn w)) mates)
  else if !others.all fun k => (s.coreAt k).joinAt.isSome then .wait (.join w) s
  else if others.all fun k => (s.coreAt k).joinAt.any fun j => j.1 == s.me.pc && joinKind j.2 == joinKind w then
    put d 1 ((s.endJoins others 1).formBond (joinBond (joinFn w)) mates)
  else put d 0 (s.endJoins others 0)

/-- FOLLOW (R153, R154). -/
def followBody (d : Reg) (s : State) : Res :=
  match s.me.bond with
  | .none => joinAlone (encode (.follow d)) s
  | .follow => put d 1 s
  | .gang => put d 1 { s with me := { s.me with bond := .follow, released := false, trail := [], orphan := false, handed := false } }

/-- The addresses of the HINT chain at which the core in focus is, and of its target. -/
def Core.chainAddrs (c : Core) : List W64 := c.hints.chain.map (·.1) ++ [c.pc]

/-- The followers issue the GANG at which their leader is: those with a breakpoint there trap and are released (R149, R156). -/
def State.gangBreaks (s : State) (fs : List Nat) : State :=
  let addrs := s.me.chainAddrs
  let at0 := s.me.trapPc
  fs.foldl (fun s k =>
    match (s.coreAt k).brkMatch addrs with
    | (some a, _) => s.at k fun s => s.raise Cause.brk.code a at0
    | (none, l) => s.onCore k fun c => c.useSkips l) s

/-- GANG (R153, R154). In follow strength the leader waits at it until every follower has issued every word before, and has taken what
is pending from these (R162). -/
def gangBody (d : Reg) (s : State) : Res :=
  let w := encode (.gang d)
  match s.me.bond with
  | .none => joinAlone w s
  | .gang => put d 1 s
  | .follow =>
    if s.me.rank ≠ 0 ∨ s.me.released then joinAlone w s.leaveBond
    else
      let fs := s.followers
      if !fs.all fun k => (s.coreAt k).trail.isEmpty && (s.coreAt k).sigPend.isNone then .wait .follow s
      else
        let s := s.gangBreaks fs
        if s.me.released then joinAlone w s.leaveBond
        else
          let s := fs.foldl (fun s k => s.at k fun t =>
            let t := ({ t with me := { t.me with pc := s.me.pc, hints := s.me.hints } } : State).setG d 1
            t.retireTo (t.me.goOnWith s.me .seq) .seq) s
          put d 1 (s.formBond .gang s.me.crew)

/-- UNFOLLOW (R155): the leader releases its followers, each of which still issues the words before and this one. -/
def unfollowBody (s : State) : Res :=
  if s.me.bond = .follow ∧ s.me.rank = 0 then s.leaveBond.ok else s.ok

/-- DISBAND (R155). -/
def disbandBody (s : State) : Res := if s.me.bond = .gang then s.leaveBond.ok else s.ok

/-! ## HINT (R26 to R33) -/

/-- A HINT word: ILLEGAL when its kind stands in its chain already (R26) or when it is the last word of an active body (R28),
with its own address in TPC (R27). -/
def hintBody (i : Instr) (present : Bool) (f : Hints → Hints) (s : State) : Res :=
  if present || s.me.endsBody s.me.pc then .trap .illegal (zext (encode i)) { s with me.hints := .none }
  else
    let h := f s.me.hints
    .done { s with me.hints := { h with start := some (h.start.getD s.me.pc), words := h.words ++ [encode i] } } .chain

/-! ## The instructions -/

/-- LOOP (R138). -/
def execLoop (a : Reg) (lc : BitVec 2) (len : BitVec 9) (s : State) : Out :=
  issueG (.loop a lc len) (loopBody (.loop a lc len) a lc len.toNat) s

/-- FOLLOW (R153, R154). -/
def execFollow (d : Reg) (s : State) : Out := issue (.follow d) (followBody d) s

/-- GANG (R153, R154). -/
def execGang (d : Reg) (s : State) : Out := issue (.gang d) (gangBody d) s

/-- UNFOLLOW (R155). -/
def execUnfollow (s : State) : Out := issue .unfollow unfollowBody s

/-- DISBAND (R155). -/
def execDisband (s : State) : Out := issue .disband disbandBody s

/-- BRK (R158): it retires and then traps, TVAL its own address + 1. -/
def execBrk (code : BitVec 13) (s : State) : Out :=
  issue (.brk code) (fun s => .done s (.trapAfter Cause.brk.code (s.me.pc + 1))) s

/-- HINT.WIDE (R30). -/
def execHintWide (hi : BitVec 22) (s : State) : Out :=
  issue (.hintWide hi) (fun s => hintBody (.hintWide hi) s.me.hints.wide.isSome (fun h => { h with wide := some hi }) s) s

/-- HINT.MEMPOL (R31). -/
def execHintMempol (llc alloc : BitVec 2) (s : State) : Out :=
  issue (.hintMempol llc alloc)
    (fun s => hintBody (.hintMempol llc alloc) s.me.hints.mempol.isSome (fun h => { h with mempol := some (llc, alloc) }) s) s

/-- HINT.ROUND (R32). -/
def execHintRound (mode : RMode) (s : State) : Out :=
  issue (.hintRound mode)
    (fun s => hintBody (.hintRound mode) s.me.hints.round.isSome (fun h => { h with round := some mode }) s) s

/-- HINT.SCHED (R33): it changes only timing. -/
def execHintSched (taken : Bool) (gap : BitVec 4) (s : State) : Out :=
  issue (.hintSched taken gap)
    (fun s => hintBody (.hintSched taken gap) s.me.hints.sched.isSome (fun h => { h with sched := some (taken, gap) }) s) s

/-- A word that is no instruction raises ILLEGAL when it issues (R35, R37, R38); a HINT word does so with its own address
in TPC (R27). -/
def execIllegalWord (w : Word) (s : State) : Out :=
  issueBy (fun _ => none) (fun _ s =>
    .trap .illegal (zext w) (if w.extractLsb' 25 7 = 0x7E then { s with me.hints := .none } else s)) s

end Sys2Proof.Machine
end

