-- ==== Sys2Proof/Machine/Save.lean ====
section
/-! DEFINITION. Stopping contexts and writing them to their save areas, and reading them back (R400 to R405, R461): the shared
operations of pre-emption, migration, resumption and CTXSW. -/

namespace Sys2Proof.Machine

/-! ## The stave map (R108, R461) -/

/-- A map entry that names a physical core, and one of an absent context. -/
def mapEntry (k : Nat) : BitVec 16 := BitVec.ofNat 16 (0x8000 + k)
def absentEntry : BitVec 16 := 0xC000

/-- The lowest logical number whose entry is invalid. -/
def Stave.freeNumber (t : Stave) : Nat := ((List.range 8192).find? fun l => !t.valid l).getD 0

/-- A physical core without a context receives the lowest free logical number (R108). -/
def State.numberCore (s : State) (n : BitVec 6) (k : Nat) : State :=
  let l := (s.dev.stave n).freeNumber
  let s := s.onStave n fun t => { t with map := assocSet l (mapEntry k) t.map }
  s.onCore k fun c => { c with lcore := BitVec.ofNat 13 l }

/-! ## Stopping (R379, R400) -/

/-- The notes that core k's L1 holds return to their homes unfired; their entries stay unarmed (R379). -/
def State.returnNotes (s : State) (k : Nat) : State :=
  let c := s.coreAt k
  let s := c.notes.foldl (fun s x => s.onPat c.stave x.job x.pat.toNat fun p => p.disarm x.line c.lcore) s
  s.onCore k fun c => { c with notes := [] }

/-- Step 3 of R400 for a core. Its copies keep what has not landed (R307). -/
def State.stopCore (s : State) (k : Nat) : State := (s.returnNotes k).quietCore k

/-- The bond and the pair of a member with the other members in place of their cores. -/
def Core.packed (c : Core) (cores : List Nat) : Core :=
  let idx (k : Nat) := (cores.findIdx? fun x => x == k).getD 0
  { c with crew := c.crew.map idx, pair := c.pair.map idx }

/-- The same with the cores of the members. -/
def Core.unpacked (c : Core) (cores : List Nat) : Core :=
  { c with crew := c.crew.map (listGet 0 cores), pair := c.pair.map (listGet 0 cores) }

/-- The context of core k is written to its area and leaves the core, which receives a new logical number (R400, R461). cores:
the cores of its instance, in member order. -/
def State.saveAway (s : State) (n : BitVec 6) (k origin : Nat) (cores : List Nat) : State :=
  let s := s.stopCore k
  let c := s.coreAt k
  let l := c.lcore.toNat
  let s := s.saveArea ((s.dev.stave n).areaOf l) c ⟨true, origin, c.pair.isSome, c.member.isNone⟩ c.trapPc none
  let s := s.onStave n fun t => { t with map := assocSet l absentEntry t.map, absent := assocSet l (c.packed cores) t.absent }
  ((s.setCore k c.vacant).moveIssuers n k (16384 + l)).numberCore n k

/-- What a context waits for when it goes on: a recorded barrier arrival stays (R352), every other wait is withdrawn. -/
def Core.keptWait (c : Core) : Option Wait :=
  match c.wait with
  | some (.bar l n d) => some (.bar l n d)
  | _ => none

/-! ## Restoring (R403, R405) -/

/-- The absent context of a logical core continues on core k, whose own number ends (R461). An area that software wrote gives it a new
context tag (R402). -/
def State.bringBack (s : State) (n : BitVec 6) (l k : Nat) (cores : List Nat) : State :=
  let t := s.dev.stave n
  let rest := assocGet Core.reset l t.absent
  let base := t.areaOf l
  let own := (s.coreAt k).lcore.toNat
  let map := if t.coreOf? own = some k then assocErase own t.map else t.map
  let s := s.onStave n fun t => { t with map := assocSet l (mapEntry k) map, absent := assocErase l t.absent }
  let c := ((s.areaCore base k rest).unpacked cores)
  let (tag, s) := if (s.areaState base).tagged then (c.ctl.ctxtag, s) else s.newTag
  let s := s.setCore k { c with
    ctl := { c.ctl with ctxtag := tag, regbase := t.regbaseOf l }, lcore := BitVec.ofNat 13 l, wait := rest.keptWait }
  let s := (s.moveIssuers n (16384 + l) k).applyInbox base k
  s.retrySyncs fun x => x.who.core == k

/-! ## Instances -/

/-- Every member of an instance is saved (R400). -/
def State.saveInst (s : State) (n job : BitVec 6) (stage num origin : Nat) : State :=
  match ((s.dev.stave n).job? job).bind fun j => j.inst? stage num with
  | none => s
  | some i =>
    let s := i.cores.foldl (fun s k => s.saveAway n k origin i.cores) s
    s.onStave n fun t => t.onJob job fun j => j.onInst stage num fun i => { i with cores := [] }

/-- A saved instance continues on the slot at core c. A migration is no new placement (R104). -/
def State.restoreInst (s : State) (n job : BitVec 6) (stage num c : Nat) (placed : Bool) : State :=
  match ((s.dev.stave n).job? job).bind fun j => j.inst? stage num with
  | none => s
  | some i =>
    let cores := slotCores c i.lcores.length
    let s := i.lcores.zipIdx.foldl (fun s l => s.bringBack n l.1.toNat (c + l.2) cores) s
    let s := cores.foldl (fun s k => s.onCore k fun c => { c with held := i.held }) s
    s.onStave n fun t => t.onJob job fun j => j.onInst stage num fun i =>
      { i with cores := cores, placedAt := if placed then s.dev.cycle else i.placedAt, moving := false }

/-- Whether the tags of every saved member of an instance match; those of an area that software wrote are not checked (R402). -/
def State.instTags (s : State) (n : BitVec 6) (i : Inst) : Bool :=
  i.lcores.all fun l =>
    let base := (s.dev.stave n).areaOf l.toNat
    !(s.areaState base).tagged || s.tagsMatch base

/-- A pre-empted instance is ready again at its stage's effective priority (R101); the cores that it leaves are reserved for
the request that caused it (R103). -/
def State.preemptInst (s : State) (n job : BitVec 6) (stage num : Nat) : State :=
  match ((s.dev.stave n).job? job).bind fun j => (j.inst? stage num).map fun i => (j, i) with
  | none => s
  | some (j, i) =>
    if i.cores.isEmpty ∨ field (s.dev.stave n).savebase 19 33 = 0 then s
    else
      let s := s.saveInst n job stage num 1
      let s := s.onStave n fun t =>
        { t with ready := t.ready ++ [newReady job stage (some num) 1 (j.prio stage) false s.dev.cycle] }
      (s.endMoves n fun m => m.job == job && m.stage == stage && m.inst == num).slotFreed n

end Sys2Proof.Machine
end

