-- ==== Sys2Proof/Machine/Launch.lean ====
section
/-! DEFINITION. The life of a job: LAUNCH with its checks of the record and of the object (02: R55 to R69; 03: R71 to R80),
the end of a job before its instances have ended (R414, R433), and the completion record (R83, R84). -/

namespace Sys2Proof.Machine

/-! ## Ending a job (R414) -/

/-- Whether an access of another job, or of none, is parked under a record's key, its kind with it (R398): of a core, of a copy, or of an
addition to a sync object. -/
def State.sharedRecord (s : State) (n job : BitVec 6) (r : FaultRec) : Bool :=
  let copies (c : Core) : Bool := c.chans.toList.any fun x => x.active.any fun a =>
    a.who.job != some job && a.who.sid == r.sid && a.parked.any fun p => p.2 == (r.vpn, r.kind)
  s.cores.any (fun k =>
    let c := s.coreAt k
    copies c || (c.stave == n && c.member.map (·.job) != some job &&
      (match c.wait with
       | some (.park sid va kind) => sid == r.sid && vpnOf va == r.vpn && kind == r.kind
       | _ => false))) ||
    ((s.dev.stave n).absent ++ (s.dev.stave n).saved).any (fun x => copies x.2) ||
    s.dev.syncs.any fun x => x.parked && r.kind == AccKind.atomic.code && x.who.job != some job && x.who.sid == r.sid && vpnOf x.addr == r.vpn

/-- The areas in which CTXSW has saved contexts of a job's members. -/
def Stave.savedOf (t : Stave) (job : BitVec 6) : List Nat :=
  (t.saved.filter fun x => x.2.member.map (·.job) == some job).map (·.1)

/-- Every core of a job stops as at pre-emption and its context is discarded, saved areas included; its parked sectors are refused, its
parked additions to sync objects are made no more (R462), its requests and moves end, its checkpointed supersteps free what they took
(R430); records whose accesses all belonged to it are
resolved. -/
def State.stopJob (s : State) (n job : BitVec 6) : State :=
  match (s.dev.stave n).job? job with
  | none => s
  | some j =>
    let s := j.doms.foldl (fun (s : State) d => s.dropCk n d (j.counted d)) s
    let s := j.insts.foldl (fun s i =>
      let s := i.cores.foldl (fun s k => (s.killSectors k).freeCore k) s
      if i.cores.isEmpty then i.lcores.foldl (fun s l =>
        (s.killParked (assocGet Core.reset l.toNat (s.dev.stave n).absent)).freeAbsent n l.toNat) s else s) s
    let s := ((s.dev.stave n).savedOf job).foldl (fun s base =>
      (s.killParked (assocGet Core.reset base (s.dev.stave n).saved)).freeSaved n base) s
    let s := { s with dev := { s.dev with
      syncs := s.dev.syncs.filter fun x => !(x.parked && x.who.job == some job && x.who.stave == n) } }
    let gone := (s.dev.stave n).faults.filter fun r => r.job == job && !s.sharedRecord n job r
    let s := s.onStave n fun t =>
      { t with
        ready := t.ready.filter fun r => r.job != job,
        faults := t.faults.filter fun r => !gone.contains r }.onJob job fun j =>
        { j with insts := [], doms := j.doms.map fun (d : Dom) => { d with arrived := [], ck := .none } }
    (s.endMoves n fun m => m.job == job).slotFreed n

/-- A job ends with a status and a reason; the first of them stands. -/
def State.endJob (s : State) (n job : BitVec 6) (status : Nat) (reason : W64) : State :=
  let s := s.onStave n fun t => t.onJob job fun j =>
    if j.status.isNone then { j with status := some (BitVec.ofNat 16 status), reason := reason } else j
  s.stopJob n job

/-- A job-ending cause names a unit (R435). -/
def State.blame (s : State) (n job : BitVec 6) (unit : BitVec 32) : State :=
  s.onStave n fun t => t.onJob job fun j => if j.failUnit = 0 then { j with failUnit := unit } else j

/-! ## The completion record (R83, R84) -/

/-- A counter of n bits that saturates. -/
def sat (n x : Nat) : Nat := if x < 2 ^ n then x else 2 ^ n - 1

/-- The 64 bytes of a job's completion record at a cycle. -/
def Job.completionWord (j : Job) (now : W64) : Nat :=
  j.jobid.toNat + 2 ^ 64 * ((j.status.getD 1).toNat + 2 ^ 16 * (bit j.logFull + 2 * bit j.rolled) +
    2 ^ 32 * j.failUnit.toNat) + 2 ^ 128 * (now - j.acceptedAt).toNat + 2 ^ 192 * sat 64 j.nretired +
  2 ^ 256 * (sat 32 j.nfaults + 2 ^ 32 * sat 16 j.nrollbacks + 2 ^ 48 * sat 16 j.nmigrations) +
  2 ^ 320 * (sat 32 j.nfallbacks + 2 ^ 32 * (if j.captures then sat 32 j.logUsed else 0)) + 2 ^ 384 * j.reason.toNat +
  2 ^ 448 * j.sequence.toNat

/-- Raise an MSI-X vector of a stave's VF: a masked one is pending until its mask bit is cleared (R84, R449; log 112, PRESUMED). -/
def State.raiseVector (s : State) (n : BitVec 6) (v : Nat) : State :=
  let d := s.dev
  if d.unmasked.contains (n.toNat, v) then { s with dev := { d with msix := d.msix ++ [(n.toNat, v)] } }
  else if d.pendingMsix.contains (n.toNat, v) then s
  else { s with dev := { d with pendingMsix := d.pendingMsix ++ [(n.toNat, v)] } }

/-- A remote store of a context that has ended is still on its way. -/
def State.strayStore (s : State) (n : BitVec 6) : Bool :=
  s.dev.net.any fun x => x.kind == .store && x.stave == n && x.srcTag != 0 && (s.whereIs n x.src.toNat x.srcTag).isNone

/-- Matrix commands that have been sent and have not run, wherever they are. -/
def State.openCommands (s : State) : List MCmd :=
  (s.dev.net ++ s.inboxItems).filterMap (·.cmd) ++ (s.cores.flatMap fun k => (s.coreAt k).mcmds) ++
    s.dev.staves.flatMap fun t => (t.2.absent ++ t.2.saved).flatMap fun x => x.2.mcmds

/-- An engine operation of a job has not yet completed or been refused: a prefetch, a matrix command or an addition to a sync object that
its contexts forked. -/
def State.jobBusy (s : State) (n job : BitVec 6) : Bool :=
  let of (i : Issuer) := i.job == some job && i.stave == n
  s.dev.bprefs.any (fun x => of x.who) || s.dev.syncs.any (fun x => of x.who) || s.openCommands.any fun m => of m.sender

/-- What the homes keep of a job ends with it: pushes on their way and unread marks of its patterns (R365, R375), and the values noted of
words in the memory of its regions, which is plain memory again (R314). -/
def State.forgetJob (s : State) (n job : BitVec 6) (regions : List Region) : State :=
  { s with dev := { s.dev with
    pushes := s.dev.pushes.filter fun x => !(x.stave == n && x.job == job)
    unread := s.dev.unread.filter fun x => !(x.stave == n && x.job == job)
    stored := s.dev.stored.filter fun x => !regions.any fun r => r.holds (8 * x.1) } }

/-- A job that has ended retires (R84): its record is written, its vector is raised; after a thermal shutdown no record is
written (R457). (Log 63, DEDUCED.) -/
def State.completeJob (s : State) (n job : BitVec 6) : State :=
  match (s.dev.stave n).job? job with
  | none => s
  | some j =>
    if j.status.isNone || s.dev.shutdown then s
    else
      let s := if j.insts.isEmpty then s else s.stopJob n job
      if s.strayStore n || s.jobBusy n job then s
      else
        let j := ((s.dev.stave n).job? job).getD j
        let s := s.writeSpace j.space j.completion 64 (j.completionWord s.dev.cycle)
        let s := s.raiseVector n j.vector
        (s.forgetJob n job j.regions).onStave n fun t => { t with jobs := t.jobs.filter fun x => x.num != job }

/-! ## Reading the object (R55, R56, R60, R61) -/

/-- n bytes from any address, by pieces of one line each: at most k pieces. Each piece is checked as a load. -/
def State.readBytes (s : State) : Nat → W64 → Nat → Except Res (Nat × State)
  | 0, _, _ => .ok (0, s)
  | k + 1, va, n =>
    if n = 0 then .ok (0, s)
    else do
      let piece := if n < 128 - va.toNat % 128 then n else 128 - va.toNat % 128
      let (pl, s) ← s.placeSpan va piece .read false
      let (x, s) ← s.readPlace pl va piece false
      let (y, s) ← State.readBytes s k (va + w64 piece) (n - piece)
      return (x + 256 ^ piece * y, s)

/-- m records of n bytes, at most 128, from an address. -/
def State.readRecords (s : State) (n : Nat) : Nat → W64 → Except Res (List Nat × State)
  | 0, _ => .ok ([], s)
  | m + 1, va => do
    let (x, s) ← s.readBytes 2 va n
    let (l, s) ← State.readRecords s n m (va + w64 n)
    return (x :: l, s)

/-- A section table entry (Table 2 of 02). -/
structure Section where
  kind : Nat
  align : Nat
  off : W64
  size : Nat
  count : Nat
  res : Nat
  deriving DecidableEq, Repr

/-- The fields of an entry. -/
def sectionOf (x : Nat) : Section :=
  ⟨x % 2 ^ 32, x / 2 ^ 32 % 2 ^ 32, w64 (x / 2 ^ 64), x / 2 ^ 128 % 2 ^ 64, x / 2 ^ 192 % 2 ^ 32, x / 2 ^ 224 % 2 ^ 32⟩

/-- Whether a section table is well-formed (R55, R56, R69). -/
def sectionsOk (l : List Section) : Bool :=
  l.all (fun x => decide (1 ≤ x.kind ∧ x.kind ≤ 11 ∧ x.align ≤ 12 ∧ x.res = 0 ∧ (x.kind ≤ 3 → x.count = 0))) &&
    ([1, 4, 5, 6, 7, 8, 9, 10, 11].all fun k => decide ((l.filter fun x => x.kind == k).length ≤ 1))

/-- A section of a kind. -/
def sectionOfKind (l : List Section) (k : Nat) : Option Section := l.find? fun x => x.kind == k

/-- Whether a stage record keeps the limits of R60, for TEXT of a size and a number of template records. A stage with no template, or
with no SIG block, is accepted whatever its first index: the manual does not say whether an empty range can run past the end (log 95,
DESIGN CHOICE). -/
def stageOk (r : BitVec 512) (textSize templates sigBlocks : Nat) (checked : Bool) : Bool :=
  let w := field r 192 8
  let cols := field r 256 8
  let rows := field r 264 8
  decide (w = 1 ∨ w = 2 ∨ w = 4 ∨ w = 8) && decide (field r 200 8 ≤ 1) && (w != 1 || zeroAt r 200 8) &&
    decide (field r 208 8 ≤ 7 ∧ field r 216 8 ≤ 64 ∧ 1 ≤ field r 224 16 ∧ field r 224 16 ≤ field r 240 16) &&
    decide (cols ≤ 20 ∧ rows ≤ 10 ∧ (cols = 0 ↔ rows = 0)) && zeroAt r 272 16 && zeroAt r 384 128 &&
    decide (field r 128 64 % 4 = 0 ∧ field r 128 64 < textSize) &&
    (zeroAt r 216 8 || decide (field r 288 32 + field r 216 8 ≤ templates)) &&
    (!checked || zeroAt r 352 32 || decide (field r 320 32 + field r 352 32 ≤ sigBlocks))

/-- Whether a stream record keeps the limits of R61, for a number of stages. -/
def streamOk (r : BitVec 256) (stages : Nat) : Bool :=
  let cap := streamCap r
  decide (16 ≤ cap ∧ cap ≤ 65536 ∧ cap = 2 ^ Nat.log2 cap) && decide (field r 64 8 ≤ 1 ∧ field r 72 8 ≤ 1) &&
    decide (streamQueue r ≤ 7) && (streamQueued r || streamQueue r == 0) && decide (streamSlot r ≤ 15) &&
    decide (streamOff r % 128 = 0) && (streamQueued r || decide (streamOff r + 64 * cap ≤ 0x30000)) && zeroAt r 128 128 &&
    decide (field r 0 16 < stages ∧ streamTo r < stages)

/-- Whether two streams that one stage consumes share a slot or a queue. -/
def streamsClash : List (BitVec 256) → Bool
  | [] => false
  | r :: t =>
    (t.any fun q => streamTo q == streamTo r && (streamSlot q == streamSlot r ||
      (streamQueued q && streamQueued r && streamQueue q == streamQueue r))) || streamsClash t

/-- Slots of a width in clusters that hold no headstock core and no quarantined core. -/
def Dev.slotCount (d : Dev) (w : Nat) (clusters : List Nat) : Nat :=
  ((clusters.flatMap fun c => slotsIn c w).filter fun c => (slotCores c w).all fun k =>
    !d.bootMask.contains k && !d.quarantined.contains (coreUnit k)).length

/-- Whether a stage's minimum instance count can be placed in an empty stave (R69). -/
def Dev.placeable (d : Dev) (n : BitVec 6) (r : BitVec 512) : Bool :=
  let own := d.clustersOf n
  let w := field r 192 8
  let need := field r 224 16
  let cols := field r 256 8
  let rows := field r 264 8
  if cols = 0 then decide (need ≤ d.slotCount w own)
  else (List.range 4).any fun die => (List.range 200).any fun low =>
    let cs := rectClusters die low cols rows
    decide (low % 20 + cols ≤ 20 ∧ low / 20 + rows ≤ 10) && cs.all (fun c => own.contains c) &&
      decide (need ≤ d.slotCount w cs)

/-- What LAUNCH takes from an object. -/
structure Loaded where
  text : W64
  sig : W64
  tmpl : W64
  checked : Bool
  sigBlocks : Nat
  first : Nat
  stages : List (BitVec 512)
  streams : List (BitVec 256)
  deriving DecidableEq, Repr

/-- Read and check the object whose header lies at an address (R69); none: BAD_OBJECT. -/
def State.readObject (s : State) (obj : W64) : Except Res (Option Loaded × State) := do
  let (h, s) ← s.readBytes 2 obj 128
  if h % 2 ^ 32 ≠ 0x58565455 ∨ h / 2 ^ 32 % 2 ^ 16 ≠ 1 then return (none, s)
  let nsec := h / 2 ^ 64 % 2 ^ 32
  let tab := w64 (h / 2 ^ 128)
  if nsec = 0 ∨ 64 < nsec ∨ tab.toNat % 8 ≠ 0 then return (none, s)
  let (es, s) ← s.readRecords 32 nsec (obj + tab)
  let secs := es.map sectionOf
  let checked := h.testBit 48
  let first := h / 2 ^ 192 % 2 ^ 32
  match sectionOfKind secs 1, sectionOfKind secs 5 with
  | some text, some stg =>
    let str := (sectionOfKind secs 6).getD ⟨6, 0, 0, 0, 0, 0⟩
    let tpl := (sectionOfKind secs 8).getD ⟨8, 0, 0, 0, 0, 0⟩
    let sig := (sectionOfKind secs 9).getD ⟨9, 0, 0, 0, 0, 0⟩
    if !sectionsOk secs || stg.count == 0 || decide (256 < stg.count) || stg.size != 64 * stg.count ||
        str.size != 32 * str.count || tpl.size != 64 * tpl.count || decide (stg.count ≤ first) then return (none, s)
    else
      let (gs, s) ← s.readRecords 64 stg.count (obj + stg.off)
      let (rs, s) ← s.readRecords 32 str.count (obj + str.off)
      let (ts, s) ← s.readRecords 64 tpl.count (obj + tpl.off)
      let stages : List (BitVec 512) := gs.map fun x => BitVec.ofNat 512 x
      let streams : List (BitVec 256) := rs.map fun x => BitVec.ofNat 256 x
      let good := stages.all (fun r => stageOk r text.size tpl.count sig.count checked && s.dev.placeable s.me.stave r) &&
        streams.all (fun r => streamOk r stg.count) && !streamsClash streams &&
        ts.all fun x => (tmplOf (BitVec.ofNat 512 x)).valid
      if good then
        return (some { text := obj + text.off, sig := obj + sig.off, tmpl := obj + tpl.off, checked := checked,
                       sigBlocks := sig.count, first := first, stages := stages, streams := streams }, s)
      else return (none, s)
  | _, _ => return (none, s)

/-! ## LAUNCH (R77 to R79) -/

/-- Whether a launch record fails its checks. -/
def badRecord (r : BitVec 1024) : Bool :=
  let fl := field r 416 2
  !zeroAt r 418 14 || !zeroAt r 440 8 || !zeroAt r 656 368 || fl == 3 || zeroAt r 64 64 || !zeroAt r 448 6 ||
    decide (2047 < field r 640 16) || decide (65536 < field r 384 32) || !zeroAt r 256 4 ||
    (fl != 0 && (!zeroAt r 512 7 || !zeroAt r 576 12 || zeroAt r 576 64))

/-- The completion record of a refused launch. Its job id is the record's own whatever the status; a vector above 2,047, of which the
stave's VF has none, is not raised; without a usable mapping for the record nothing is written, the vector is raised all the same, and the
LAUNCH goes on (log 96, DESIGN CHOICE). -/
def State.refuseLaunch (s : State) (r : BitVec 1024) (status : Nat) : State :=
  if !zeroAt r 448 6 then s
  else
    let word := field r 128 64 + 2 ^ 64 * status + 2 ^ 448 * field r 64 64
    let s := s.irreversible.writeSpace s.me.space (r.extractLsb' 448 64) 64 word
    if 2047 < field r 640 16 then s else s.raiseVector s.me.stave (field r 640 16)

/-- A stage of an accepted job, before it is made ready. -/
def newStage (r : BitVec 512) : Stage :=
  { record := r, ready := false, closing := false, next := 0, rect := none, samples := [], nsamples := 0, below := 0,
    removing := none }

/-- An accepted job. -/
def newJob (num : BitVec 6) (r : BitVec 1024) (c : Core) (x : Loaded) (now : W64) : Job :=
  { num := num, record := r, sid := c.ctl.sid, ptbase := c.ctl.ptbase, mode := c.ctl.mode, text := x.text, sig := x.sig,
    tmpl := x.tmpl, checked := x.checked, sigBlocks := x.sigBlocks, stages := x.stages.map newStage, streams := x.streams,
    insts := [], doms := [], regions := [], pats := .replicate 16 .off, patsAt := [], rr := [], acceptedAt := now,
    nretired := 0, nfaults := 0, nrollbacks := 0, nmigrations := 0, nfallbacks := 0, rolled := false, failUnit := 0,
    status := none, reason := 0, logUsed := if r.getLsbD 416 then 128 else 0, logCount := 0, logFull := false, logNext := [] }

/-- Accept a job (R78, R79): the lowest free number, the records of its launch in its log, its first stage made ready. The two records carry
64 as size and the launching core as logical core (log 55, DESIGN CHOICE). -/
def State.acceptJob (s : State) (r : BitVec 1024) (x : Loaded) : State :=
  let n := s.me.stave
  let num := BitVec.ofNat 6 (((List.range 64).find? fun i => (s.stave.job? (BitVec.ofNat 6 i)).isNone).getD 0)
  let j := newJob num r s.me x s.dev.cycle
  let s := s.onStave n fun t => { t with jobs := t.jobs ++ [j] }
  let l := s.me.lcore.toNat
  let s := s.capture n num ⟨1, 64, 0, l, 0, 0, r.extractLsb' 0 512⟩
  let s := s.capture n num ⟨2, 64, 0, l, 0, 0, r.extractLsb' 512 512⟩
  s.readyStage n num x.first

/-- LAUNCH. -/
def launchBody (d a : Reg) (s : State) : Res := settle do
  let rec_ := s.g a
  aligned s rec_ 128
  let (x, s) ← s.noPol.load rec_ 128
  let r := BitVec.ofNat 1024 x
  if badRecord r then return put d 2 (s.refuseLaunch r 2)
  else if s.stave.jobs.any fun j => j.jobid == r.extractLsb' 128 64 then return put d 5 (s.refuseLaunch r 5)
  else if 64 ≤ s.stave.jobs.length then return put d 4 (s.refuseLaunch r 4)
  else
    let (o, s) ← s.readObject (r.extractLsb' 192 64)
    match o with
    | none => return put d 3 (s.refuseLaunch r 3)
    | some o => return put d 0 (s.irreversible.acceptJob r o)

/-- LAUNCH (R77). -/
def execLaunch (d a : Reg) (s : State) : Out := issue (.launch d a) (launchBody d a) s

/-- JOB_COMPLETION (R84). -/
def execJobCompletion (stave job : BitVec 6) (s : State) : Out := event (fun s => s.completeJob stave job) s

end Sys2Proof.Machine
end

