-- ==== Sys2Proof/Machine/Rollback.lean ====
section
/-! DEFINITION. The rollback of a protected superstep (R432, R381), and an uncorrectable error that a restore reads (R434). -/

namespace Sys2Proof.Machine

/-- Copies of lines that a test selects are dropped without writeback, with the pushes of them. -/
def State.dropLines (s : State) (p : Nat → Bool) : State :=
  let d := s.dev
  let s := { s with dev := { d with
    dir := d.dir.filter (fun x => !p x.line), l2 := d.l2.filter (fun x => !p x.line), llc := d.llc.filter (fun x => !p x.line),
    stored := d.stored.filter (fun x => !p (x.1 / 16)), unread := d.unread.filter (fun u => !p u.line),
    pushes := d.pushes.filter fun x => !p x.line } }
  s.cores.foldl (fun s k => s.onCore k fun c =>
    { c with l1 := c.l1.filter (fun w => !p (w.word / 16)), notes := c.notes.filter fun x => !p x.line }) s

/-! ## A member's state, placed or saved -/

/-- The member of an instance whose logical core is l. -/
def Job.memberOf (j : Job) (l : BitVec 13) : Option Member :=
  j.insts.findSome? fun i => (i.lcores.findIdx? fun x => x == l).map fun x => ⟨j.num, i.stage, i.num, x⟩

/-- Where the context of a member of a job is: on a core, absent, or saved by CTXSW, under whichever number. -/
def State.memberAt (s : State) (n : BitVec 6) (j : Job) (l : BitVec 13) : Option Whereabouts :=
  (j.memberOf l).bind fun m =>
    let t := s.dev.stave n
    let is (c : Core) : Bool := c.member == some m
    ((s.cores.find? fun k => (s.coreAt k).live && (s.coreAt k).stave == n && is (s.coreAt k)).map Whereabouts.core).orElse fun _ =>
      ((t.absent.find? fun x => is x.2).map fun x => Whereabouts.absent x.1).orElse fun _ =>
        (t.saved.find? fun x => is x.2).map fun x => Whereabouts.saved x.1

/-- The number that stands for a context among issuers of engine operations. -/
def Whereabouts.issuer : Whereabouts → Nat
  | .core k => k
  | .absent l => 16384 + l
  | .saved base => savedIssuer base

/-- The context itself, of one without a core as its area holds it. -/
def State.memberCore (s : State) (n : BitVec 6) (w : Whereabouts) : Core :=
  let rest := s.contextAt n w
  match w with
  | .core _ => rest
  | .absent _ | .saved _ => { s.areaCore (s.areaAt n w) w.issuer rest with wait := rest.wait }

/-- Put it back: on its core, or into its save area. -/
def State.putMember (s : State) (n : BitVec 6) (w : Whereabouts) (c : Core) : State :=
  match w with
  | .core k => s.setCore k c
  | .absent _ | .saved _ =>
    let base := s.areaAt n w
    (s.saveArea base c (s.areaState base) c.pc none).onWhere n w fun _ => c

/-! ## Rollback (R432, R381) -/

/-- A journal entry goes back: the line's old data and poison stand at its home, no copy of it is left, the entry is free. -/
def State.undoEntry (s : State) (n : BitVec 6) (i : Nat) : State :=
  let at0 := (s.dev.stave n).journalAt i
  let line := s.entryLine n i / 128
  let mask := s.dev.peek (at0 + 10) 2
  let s := s.dropLines fun l => l == line
  let d := s.dev.poke (128 * line) 128 (s.dev.peek (at0 + 128) 128)
  let d := { d with poison := insertNats ((onesOf 16 mask).map fun b => 16 * line + b) d.poison }
  { s with dev := d.poke at0 8 (d.peek at0 8 / 2 * 2) }

/-- The local lines whose bitmap bit is set are those from before, with the poison that they had. -/
def undoLines (d : Dev) (area : Nat) (l : Loc) : Loc :=
  let m := d.mem
  let lines := onesOf 1536 (m.readN (area + 0x48100) 192)
  let empty := emptyOf (m.readN (area + 0x48200) 192)
  let shadow := (area + 0x50000) / 8
  let back := (d.poison.filter fun w => decide (shadow ≤ w) && lines.contains ((w - shadow) / 16)).map fun w => w - shadow
  { bytes := lines.foldl (fun b n => b.paste (128 * n) 128 (m.cut (area + 0x50000 + 128 * n) 128)) l.bytes,
    empty := empty,
    poison := insertNats back (l.poison.filter fun w => !lines.contains (w / 16)),
    landed := l.landed.filter fun n => !empty.contains n }

/-- A member goes back to the barrier, from its shadow (Table 3 of 22): all but the local lines when it still waits there. The
stream table keeps tail and eos. (Log 78, DEDUCED.) -/
def undoCore (m : Cells) (area : Nat) (x : CkMember) (cores : List Nat) (c : Core) : Core :=
  let slots : Vector Slot 16 := (chunks 8 (m.words (area + 0x48300) 128) 16).zipIdx.foldl (fun v t =>
    let old := vget .reset c.slots t.2
    vset v t.2 { slotOf t.1 with tail := old.tail, eos := old.eos }) c.slots
  let tmpls : Vector (Option V512) 64 :=
    (chunks 8 (m.words (area + 0x48800) 512) 64).zipIdx.foldl (fun v t => vset v t.2 (templateOf t.1)) (.replicate 64 none)
  let ctl := c.ctl.ofSlots (m.words (area + 0x48000) 31)
  { c with
    pc := ctl.tpc
    hints := .none
    regs := Regs.ofWords (m.words (area + 0x44000) 2048)
    ctl := { ctl with unack := 0, regbase := c.ctl.regbase }
    caps := (m.words (area + 0x48700) 8).zipIdx.foldl (fun v w => vset v w.2 w.1) (.replicate 8 0)
    templates := tmpls, slots := slots
    bond := x.bond, rank := x.rank, crew := x.crew.map (listGet 0 cores), released := false, trail := [], orphan := false, handed := false
    pair := x.pair.map (listGet 0 cores), pairOps := [], pass := x.pass, seq := [], issued := false, quota := none
    wait := none, asked := [], entering := false }

/-- Engine operations that a context forked are abandoned, remote stores that it sent are gone, and nothing waits in its L1. -/
def State.abandon (s : State) (n : BitVec 6) (w : Whereabouts) : State :=
  let c := s.memberCore n w
  let d := s.dev
  let mine (i : Issuer) : Bool := i.core == w.issuer && i.stave == n
  let sent (x : NetItem) : Bool := (x.kind == .store || x.kind == .report) && x.sentBy c
  let s := { s with dev := { d with
    net := d.net.filter (fun x => !sent x), bprefs := d.bprefs.filter (fun x => !mine x.who),
    syncs := d.syncs.filter fun x => !mine x.who } }
  let s := s.putMember n w { c with
    chans := .replicate 4 ⟨none, []⟩, l1 := [], notes := [], counts := [], async := none, sigPend := none }
  -- those that the inboxes of contexts without a core hold
  let t := s.dev.stave n
  let away : List (Whereabouts × Core) := t.absent.map (fun x => (.absent x.1, x.2)) ++ t.saved.map fun x => (.saved x.1, x.2)
  (away.filter fun x => x.2.inbox.any sent).foldl (fun (s : State) x =>
    let c := s.memberCore n x.1
    s.putMember n x.1 { c with inbox := c.inbox.filter fun y => !sent y }) s

/-- A member of the domain of a protected superstep goes back. -/
def State.undoMember (s : State) (n : BitVec 6) (j : Job) (d : Dom) (l : BitVec 13) : State :=
  match s.memberAt n j l with
  | none => s
  | some at0 =>
  let s := s.abandon n at0
  let area := (s.dev.stave n).areaOf l.toNat
  let c := s.memberCore n at0
  let cores := ((j.insts.find? fun i => i.lcores.contains l).map (·.cores)).getD []
  let c := { c with loc := undoLines s.dev area c.loc }
  let c := match d.ck.members.find? fun x => x.lcore == l with
    | some x => undoCore s.dev.mem area x cores c
    | none => { c with ctl.unack := 0 }
  (s.putMember n at0 c).clearBitmaps n [l]

/-- A pattern that is bound to a domain, or to one within it, or was at the barrier, returns to its state at the barrier (R381): a RECORD
iteration of the domain begins empty, a PLAY iteration arms every entry again; the fall-backs that it has reached since count no more. -/
def State.undoPattern (s : State) (n job : BitVec 6) (d : Dom) (i : Nat) (p : Pattern) : State :=
  let now := s.patOf n job i
  if !now.within d && !p.within d then s
  else
    let fell := now.falls - p.falls
    let s := s.dropNotes n job i
    let s := s.onPat n job i fun _ =>
      if p.st = .record then (if p.within d then { p with entries := [], barred := [] } else p)
      else { p with entries := p.entries.map fun e => { e with armed := false } }
    let s := s.onStave n fun t => t.onJob job fun j => { j with nfallbacks := j.nfallbacks - fell }
    if p.st = .play then p.entries.foldl (fun s e => s.armEntry n job i e) s else s

/-- A word that a rollback reads, in a journal entry or in a shadow (Table 3 of 22), is an uncorrectable error: it is poisoned, and not with the local
line that the shadow keeps. -/
def State.ckPoisoned (s : State) (n : BitVec 6) (d : Dom) (members : List (BitVec 13)) : Option Nat :=
  let t := s.dev.stave n
  let poison := s.dev.poison.filter fun w => !d.ck.carried.contains w
  let entry := d.ck.entries.findSome? fun i => firstPoison poison (t.journalAt i) 256
  entry.orElse fun _ => members.findSome? fun l =>
    let a := t.areaOf l.toNat
    let start := if d.ck.members.any fun x => x.lcore == l then (a + 0x44000, 0x5800) else (a + 0x48100, 0x200)
    (firstPoison poison start.1 start.2).orElse fun _ => (onesOf 1536 (s.dev.peek (a + 0x48100) 192)).findSome? fun i =>
      firstPoison poison (a + 0x50000 + 128 * i) 128

/-- The domain of a protected superstep is rolled back; an error in what it reads ends the job, whose record names the channel (R435). -/
def State.rollBack (s : State) (n : BitVec 6) (j : Job) (d : Dom) : State :=
  let members := j.counted d
  match s.ckPoisoned n d members with
  | some w => (s.blame n j.num (channelUnit (granuleOf (8 * w) / 16))).endJob n j.num 0x22 0
  | none =>
    let s := d.ck.entries.foldl (fun s i => s.undoEntry n i) s
    let s := members.foldl (fun s l => s.undoMember n j d l) s
    let s := j.patsAt.foldl (fun s p => s.undoPattern n j.num d p.1 p.2) s
    s.onStave n fun t => t.onJob j.num fun j => { j with
      nrollbacks := j.nrollbacks + 1, rolled := true
      doms := j.doms.map fun (x : Dom) =>
        let x := { x with arrived := x.arrived.filter fun a => !members.contains a.1 }
        if x.level = d.level ∧ x.stage = d.stage ∧ x.inst = d.inst ∧ x.member = d.member then
          { x with ck := { x.ck with rerun := true, entries := [], carried := [] } }
        else x }

/-! ## An error in a save area (R434) -/

/-- The member whose saved context an address belongs to: an absent one, or one that CTXSW has saved. -/
def Stave.savedAt (t : Stave) (addr : Nat) : Option Member :=
  let at0 (base : Nat) := decide (base ≤ addr ∧ addr < base + areaSize)
  match t.absent.find? fun x => at0 (t.areaOf x.1) with
  | some x => x.2.member
  | none => (t.saved.find? fun x => at0 x.1).bind fun x => x.2.member

/-- A restore reads an uncorrectable error in a member's area: its domain goes back where it is protected, and otherwise its job ends;
the record names the unit where the error is. -/
def State.restoreError (s : State) (n : BitVec 6) (m : Member) (u : BitVec 32) (addr : Nat) : State :=
  match (s.dev.stave n).job? m.job with
  | none => s
  | some j =>
    let s := s.blame n m.job u
    match (j.ckpt? m).bind fun d => if d.ck.unprot || d.ck.rerun then none else some d with
    | some d => s.rollBack n j d
    | none => s.endJob n m.job 0x22 (w64 addr)

end Sys2Proof.Machine
end

