-- ==== Sys2Proof/Machine/Registers.lean ====
section
/-! DEFINITION. CRD and CWR: the control registers (R406, Table 6 of 19, and the chapters that describe each register), the
readable structures behind RBSEL and RBDATA (R442), and the writes of FQBASE and SAVEBASE (R396, R403). -/

namespace Sys2Proof.Machine

/-! ## Reading (R406, R407) -/

/-- CKSTAT (Table 5 of 22). -/
def ckstatWord (d : Dom) : W64 :=
  w64 (bit d.ck.active + 2 * bit d.ck.unprot + 4 * d.level.toNat + 16 * d.ck.reason.toNat + 2 ^ 8 * bit d.ck.rerun +
    2 ^ 32 * d.ck.entries.length)

/-- CKSTAT of the core in focus: the checkpointed superstep of a domain that holds it, and 0 where none is in progress. -/
def State.ckstat (s : State) : W64 :=
  match s.me.member, s.job? with
  | some m, some j => ((j.ckpt? m).map ckstatWord).getD 0
  | _, _ => 0

/-- INSTID and DOMAIN of the core in focus; 0 outside every instance (R94, R349). -/
def State.instid (s : State) : W64 :=
  match s.me.member, s.job? with
  | some m, some j => j.instid m
  | _, _ => 0
def State.domain (s : State) : W64 := (s.me.member.map fun m => domainWord m s.me.lcore).getD 0

/-- The stave that STVSEL selects (R113). -/
def Dev.selected (d : Dev) : BitVec 6 := d.stvsel.setWidth 6

/-- The value of a control register, but for RBDATA. -/
def State.control (s : State) (num : BitVec 12) : W64 :=
  let c := s.me.ctl
  let n := num.toNat
  let sel := s.dev.stave s.dev.selected
  if n = 0x00 then w64 s.here
  else if n = 0x01 then zext s.me.lcore
  else if n = 0x02 then zext s.me.stave
  else if n = 0x03 then zext c.sid
  else if n = 0x04 then s.domain
  else if n = 0x05 then c.modeWord
  else if n = 0x08 then c.fpctl
  else if n = 0x09 then c.qctl
  else if n = 0x0A then c.wlimit
  else if n = 0x0B then c.wstat
  else if n = 0x0C then c.patctl
  else if n = 0x10 then c.tvec
  else if n = 0x11 then c.tcause
  else if n = 0x12 then c.tval
  else if n = 0x13 then c.tpc
  else if n = 0x14 then c.tstat
  else if n = 0x15 then c.pix
  else if n = 0x16 then c.regbase
  else if n = 0x17 then zext c.unack
  else if 0x18 ≤ n ∧ n ≤ 0x1A then s.me.lc (n - 0x18)
  else if 0x1C ≤ n ∧ n ≤ 0x1F then vget 0 c.brka (n - 0x1C)
  else if n = 0x20 then c.sigctl
  else if n = 0x30 then s.dev.cycle
  else if n = 0x31 then c.retired
  else if n = 0x40 then c.ptbase
  else if n = 0x41 then s.stave.fqbase
  else if n = 0x42 then zext c.ctxtag
  else if n = 0x50 then c.poolbase
  else if n = 0x51 then s.instid
  else if n = 0x52 then s.stave.pltune
  else if n = 0x53 then s.dev.stvsel
  else if n = 0x54 then sel.srate
  else if n = 0x55 then s.stave.wwait
  else if n = 0x56 then ((s.stave.seeds.find? fun x => x.1 == c.sid).map (·.2)).getD 0
  else if 0x58 ≤ n ∧ n ≤ 0x61 then vget 0 sel.smask (n - 0x58)
  else if 0x62 ≤ n ∧ n ≤ 0x64 then vget 0 c.lbody (n - 0x62)
  else if n = 0x65 then c.llen
  else if n = 0x66 then c.sigtab
  else if n = 0x67 then c.sigtext
  else if n = 0x68 then c.sigst
  else if n = 0x69 then s.stave.savebase
  else if n = 0x6A then s.stave.svec
  else if n = 0x6B then s.stave.ckbase
  else if n = 0x6C then s.ckstat
  else if n = 0x6D then s.dev.rbsel
  else if n = 0x6F then s.dev.trcfg
  else if n = 0x70 then sel.peertab
  else 0

/-! ## RBDATA (R442) -/

/-- Code of a segment's state (Table 8 of 22). -/
def SegState.code : SegState → Nat
  | .i => 0 | .s => 1 | .e => 2 | .o => 3 | .m => 4

/-- Dwords of a directory entry: the line's number above the SID (log 20, DESIGN CHOICE), then its segments. -/
def DirLine.dwords (d : DirLine) : List W64 :=
  w64 (d.sid.toNat + 2 ^ 16 * d.line) :: d.segs.map fun g =>
    w64 (g.lo + 2 ^ 4 * g.hi + 2 ^ 8 * g.st.code + 2 ^ 11 * g.owner.getD 0)

/-- Dwords of a pattern-table entry (Table 3 of 17). -/
def PatEntry.dwords (e : PatEntry) (d : Dev) (job : BitVec 6) (pat : Nat) : List W64 :=
  let cons := (List.range 8).map fun i => ((e.consumers[i]?).map fun l => 0x8000 + l.toNat).getD 0
  let half (l : List Nat) := w64 (l.reverse.foldl (fun x y => x * 65536 + y) 0)
  [w64 (2 ^ 63 + 2 ^ 59 * pat + 2 ^ 58 * bit e.armed + d.linePa e.line % 2 ^ 52 + 2 ^ 6 * bit e.dest + job.toNat),
   w64 (2 ^ 48 * e.sid.toNat + 2 ^ 32 * e.span.toNat + 2 ^ 16 * e.count.toNat + e.producer.toNat),
   half (cons.take 4), half (cons.drop 4)]

/-- Pattern-table entries of a slice, in the order of staves, jobs and patterns. -/
def Dev.patternTable (d : Dev) (slice : Nat) : List (List W64) :=
  d.staves.flatMap fun t => t.2.jobs.flatMap fun j => j.pats.toList.zipIdx.flatMap fun p =>
    (p.1.entries.filter fun e => e.home == slice).map fun e => e.dwords d j.num p.2

/-- The directory entry of a slice at set · 16 + way: the set of a line is the one that it has in the slice, and its entries stand in
the order of their lines (log 20, DESIGN CHOICE). -/
def Dev.directory (d : Dev) (slice i : Nat) : List W64 :=
  let set := d.dir.filter fun e => d.homeOf (e.sid.extractLsb' 10 6) e.line == slice && e.line % 1536 == i / 16
  (set.map DirLine.dwords).getD (i % 16) []

/-- Headstock cores of a stave, ascending. -/
def Dev.headstocks (d : Dev) (n : BitVec 6) : List Nat :=
  insertNats ((d.owns.filter fun o => o.kind == .headstock && o.stave == n && o.st == .owned).map (·.id)) []

/-- The ready queue of the placement engine of a die: the queues of the staves whose lead engine it is (R86). -/
def Dev.readyQueue (d : Dev) (die : Nat) : List (List W64) :=
  (d.staves.filter fun t => (d.headstocks (BitVec.ofNat 6 t.1)).head?.any fun k => dieOf k == die).flatMap fun t =>
    t.2.ready.map fun r => [w64 t.1, w64 r.stage, w64 (r.inst.getD 0), w64 r.prio, d.cycle - r.readyAt]

/-- Dwords of a TLB entry. -/
def TlbEntry.dwords (e : TlbEntry) : List W64 := [zext e.sid, w64 e.vpn, e.pte]

/-- The dwords of the entry that RBSEL selects. -/
def State.readable (s : State) : List W64 :=
  let b := s.dev.rbsel
  let unit := field b 32 32
  let slice := unit / 2 ^ 26 % 4 * 256 + unit / 2 ^ 18 % 256
  let core := 8 * slice + unit / 2 ^ 15 % 8
  let i := field b 8 20
  match field b 28 4 with
  | 0 => s.dev.directory slice i
  | 1 => (s.dev.patternTable slice).getD i []
  | 2 =>
    let t := s.dev.stave (BitVec.ofNat 6 (i / 1024))
    zext (vget 0 t.buckets (i % 1024)) :: t.smask.toList
  | 3 => [zext ((s.dev.stave (BitVec.ofNat 6 (i / 8192))).entry (i % 8192))]
  | 4 => if i < 16 then split64 8 ((s.coreAt core).slot i).word else []
  | 5 => (s.dev.readyQueue (unit / 2 ^ 26 % 4)).getD i []
  | 6 =>
    let l := if unit / 2 ^ 28 = 1 then (s.coreAt core).tlb else assocGet [] slice s.dev.tlbs
    (l.map TlbEntry.dwords).getD i []
  | _ => []

/-- The dword that a read of RBDATA returns. -/
def State.rbdata (s : State) : W64 := s.readable.getD (field s.dev.rbsel 3 5) 0

/-- RBSEL after a read of RBDATA. -/
def State.rbAdvance (s : State) : State :=
  { s with dev := { s.dev with rbsel := withField s.dev.rbsel 3 5 (field s.dev.rbsel 3 5 + 1) } }

/-- The spare map as shop mode reads it, and below shop mode nothing (R5). The manual names no register, instruction or structure of
RBSEL for that read, so no instruction of the model gives it (log 98, DESIGN CHOICE). -/
def State.readSpareMap (s : State) : Option (List Nat) := if s.me.may .shop then some s.dev.spareMap else none

/-- One dword of a readable structure reaches g[d]. -/
def State.rbRead (s : State) (d : Reg) : State := s.rbAdvance.setG d s.rbdata

/-! ## Writing (R406) -/

/-- A write of FQBASE (R396): a new queue with its header, unless the code is reserved. Pending records that stand in the old
queue reach no entry any more. -/
def State.writeFqbase (s : State) (n : BitVec 6) (x : W64) : State :=
  let v := w64 (field x 7 45 * 128 + field x 0 4)
  let key := field x 7 36 * 128
  if 13 ≤ field x 0 4 then s
  else
    let s := s.onStave n fun t => { t with
      fqbase := v, fqTail := 0, fqHead := 0, fqSeq := 0
      faults := t.faults.map fun r => if r.entry.isSome then { r with old := true } else r }
    if field x 7 45 = 0 then s
    else ({ s with dev := s.dev.poke key 128 (2 ^ 64 * 2 ^ (field x 0 4 + 4)) }).appendWaiting n

/-- A write of SAVEBASE (R401, R403): the running contexts of the stave have their areas there. -/
def State.writeSavebase (s : State) (n : BitVec 6) (x : W64) : State :=
  let old := s.dev.stave n
  let s := s.onStave n fun t => { t with savebase := w64 (field x 19 33 * 2 ^ 19) }
  let new := s.dev.stave n
  s.cores.foldl (fun s k => s.onCore k fun c =>
    if c.live ∧ c.stave = n ∧ c.ctl.regbase = old.regbaseOf c.lcore.toNat then
      { c with ctl.regbase := new.regbaseOf c.lcore.toNat }
    else c) s

/-- Whether the fields of PLTUNE lie in their ranges (R96). -/
def pltuneOk (x : W64) : Bool :=
  decide (10 ≤ field x 0 5 ∧ field x 0 5 ≤ 20 ∧ 1 ≤ field x 8 4 ∧ field x 8 4 ≤ 8 ∧ field x 12 4 ≤ 7 ∧ 1 ≤ field x 16 4)

/-- Whether a field of SRATE is a limit, or none (R114). -/
def rateOk (x : Nat) : Bool := decide (x ≠ 1 ∧ x ≤ 1024)

/-- Write a control register of the context, of which reserved bits stay zero; none for one that is not the context's to write. -/
def Ctl.write (c : Ctl) (n : Nat) (x0 : W64) : Option Ctl :=
  let x := keep x0 (ctlMask n)
  if n = 0x03 then some { c with sid := c.sid.extractLsb' 10 6 ++ x.extractLsb' 0 10 }
  else if n = 0x05 then some { c with ie := x.getLsbD 2 }
  else if n = 0x08 then some { c with fpctl := x }
  else if n = 0x09 then some { c with qctl := x }
  else if n = 0x0A then some { c with wlimit := x }
  else if n = 0x0B then some { c with wstat := x }
  else if n = 0x0C then (if field x 0 8 = 0 then some c else some { c with patctl := x })
  else if n = 0x10 then some { c with tvec := x }
  else if n = 0x11 then some { c with tcause := x }
  else if n = 0x12 then some { c with tval := x }
  else if n = 0x13 then some { c with tpc := x }
  else if n = 0x14 then some { c with tstat := x }
  else if n = 0x15 then some { c with pix := x }
  else if 0x1C ≤ n ∧ n ≤ 0x1F then some { c with brka := vset c.brka (n - 0x1C) x }
  else if n = 0x20 then some { c with sigctl := x }
  else if n = 0x31 then some { c with retired := x }
  else if n = 0x40 then some { c with ptbase := x }
  else if n = 0x50 then some { c with poolbase := x }
  else if 0x62 ≤ n ∧ n ≤ 0x64 then some { c with lbody := vset c.lbody (n - 0x62) x }
  else if n = 0x65 then some { c with llen := x }
  else if n = 0x66 then some { c with sigtab := x }
  else if n = 0x67 then some { c with sigtext := x }
  else if n = 0x68 then some { c with sigst := x }
  else none

/-- Write a register that a stave or the device holds; the others are read-only and stay as they are (R406). -/
def State.writeShared (s : State) (n : Nat) (x : W64) : State :=
  let me := s.me.stave
  let sel := s.dev.selected
  if n = 0x41 then s.writeFqbase me x
  else if n = 0x52 then (if pltuneOk x then s.onStave me fun t => { t with pltune := keep x 0xFFF1F, winAt := s.dev.cycle.toNat } else s)
  else if n = 0x53 then { s with dev := { s.dev with stvsel := keep x 0x3F } }
  else if n = 0x54 then
    if rateOk (field x 0 11) && rateOk (field x 32 11) then s.onStave sel fun t => { t with srate := keep x 0x7FF000007FF }
    else s
  else if n = 0x55 then (if field x 0 32 = 0 then s else s.onStave me fun t => { t with wwait := keep x 0xFFFFFFFF })
  else if n = 0x69 then s.writeSavebase me x
  else if n = 0x6A then s.onStave me fun t => { t with svec := keep x 0xFFFFFFFFFFFFFFFC }
  else if n = 0x6B then
    if 11 ≤ field x 0 4 then s else s.onStave me fun t => { t with ckbase := keep x 0xFFFFFFFF0000F }
  else if n = 0x6D then { s with dev := { s.dev with rbsel := keep x 0xFFFFFFFFFFFFFFF8 } }
  else if n = 0x6F then
    if s.dev.opened then s
    else { s with dev := { s.dev with trcfg := withField s.dev.trcfg 0 9 (field x 0 9) } }
  else if n = 0x70 then s.onStave sel fun t => { t with peertab := keep x 0xFFFFFFFFFFF80 }
  else s

/-- Write a control register. A new SIGST begins a pass (R160). -/
def State.setControl (s : State) (num : BitVec 12) (x : W64) : State :=
  let n := num.toNat
  if 0x18 ≤ n ∧ n ≤ 0x1A then { s with me := s.me.setLc (n - 0x18) x }
  else
    match s.me.ctl.write n x with
    | some c => { s with me := { s.me with ctl := c, pass := if n = 0x68 then [] else s.me.pass } }
    | none => s.writeShared n x

/-! ## The instructions -/

/-- CRD (R407). A read of RBDATA advances RBSEL (R442). -/
def execCrd (d : Reg) (num : BitVec 12) (s : State) : Out :=
  issue (.crd d num) (fun s => if num = 0x6E then (s.rbRead d).ok else put d (s.control num) s) s

/-- The value that CWR writes. A write of RETIRED takes effect for the next instruction (R406): the CWR itself, and the HINTs
before it, count no more. -/
def State.cwrValue (s : State) (num : BitVec 12) (x : W64) : W64 := if num = 0x31 then x - w64 (s.me.counts1 .seq) else x

/-- Registers of the loop state (R142). -/
def isLoopReg (num : BitVec 12) : Bool := decide (0x18 ≤ num.toNat ∧ num.toNat ≤ 0x1A) || decide (0x62 ≤ num.toNat ∧ num.toNat ≤ 0x65)

/-- CWR's effect. A write of the loop state takes effect at the next word to retire: the CWR goes on under the state from before
(R142, R406). -/
def cwrBody (a : Reg) (num : BitVec 12) (w : Crew) (s : State) : Res :=
  if isLoopReg num then
    let c := s.me.goOnWith (w.lead s) .seq
    .done ({ s with me := { c with loopBuf := c.loopWords } }.setControl num (s.g a)) .stay
  else (s.setControl num (s.cwrValue num (s.g a))).ok

/-- CWR (R407). -/
def execCwr (a : Reg) (num : BitVec 12) (s : State) : Out := issueG (.cwr a num) (cwrBody a num) s

/-- RBDATA_READ (R442): what the CRD does, in shop mode. -/
def execRbdataRead (d : Reg) (s : State) : Out := event (fun s => if s.me.may .shop then s.rbRead d else s) s

/-- FQBASE_WRITE (R396). -/
def execFqbaseWrite (stave : BitVec 6) (v : W64) (s : State) : Out := event (fun s => s.writeFqbase stave v) s

/-- SAVEBASE_WRITE (R403). -/
def execSavebaseWrite (stave : BitVec 6) (v : W64) (s : State) : Out := event (fun s => s.writeSavebase stave v) s

end Sys2Proof.Machine
end

