-- ==== Sys2Proof/Machine/Faults.lean ====
section
/-! DEFINITION. TLBINV and FAULTQ (R411, R413 to R415), and the host's answers to page and translation requests (R399,
R450). -/

namespace Sys2Proof.Machine

/-! ## TLBINV (R411) -/

/-- Remove the TLB entries that a test selects from every core and cluster TLB. -/
def State.dropTlb (s : State) (p : TlbEntry → Bool) : State :=
  let keep (l : List TlbEntry) := l.filter fun t => !p t
  let tlbs : List (Nat × List TlbEntry) := (s.dev.tlbs.map fun t => (t.1, keep t.2)).filter fun t => !t.2.isEmpty
  let s := { s with dev := { s.dev with tlbs := tlbs } }
  s.cores.foldl (fun s k => s.onCore k fun c => { c with tlb := keep c.tlb }) s

/-- The accesses of a stave's contexts that wait in their L1 are performed: dirty SELF bytes are written through. (Log 81, DEDUCED.) -/
def State.performAll (s : State) (p : Core → Bool) : State :=
  s.cores.foldl (fun s k => if (s.coreAt k).live && p (s.coreAt k) then s.at k fun s => s.selfRelease else s) s

/-- Whether a request word that names an SID is refused: other bits set, or another stave in stave mode. -/
def State.badSid (s : State) (x : W64) (top : Nat) : Bool :=
  !zeroAt x top (64 - top) || (s.me.ctl.mode == .stave && x.extractLsb' 10 6 != s.me.stave)

/-- The entries that TLBINV removes. -/
def tlbinvHits (a b : W64) (t : TlbEntry) : Bool :=
  match field b 16 2 with
  | 0 => t.hits (b.setWidth 16) a.toNat
  | 1 => t.sid == b.setWidth 16
  | _ => t.sid.extractLsb' 10 6 == b.extractLsb' 10 6

/-- TLBINV: it waits while stores to a peer that the stave's contexts translated are on their way. -/
def tlbinvBody (d a b : Reg) (s : State) : Res :=
  let x := s.g b
  if s.badSid x 18 || field x 16 2 == 3 then put d 1 s
  else
    let n : BitVec 6 := x.extractLsb' 10 6
    let s := (s.performAll fun c => c.stave == n).dropTlb (tlbinvHits (s.g a) x)
    let s := { s with me := { s.me with icache := [] } }
    if s.dev.net.any fun x => x.kind == .store && x.peer && x.stave == n then .wait .unack s else put d 0 s

/-! ## Releasing parked accesses (R398, R413) -/

/-- Whether a core is parked on a page of an SID, among the kinds of a test. -/
def Core.parkedOn (c : Core) (sid : BitVec 16) (vpn : Nat) (kinds : Nat → Bool) : Bool :=
  match c.wait with
  | some (.park i va kind) => i == sid && vpnOf va == vpn && kinds kind
  | _ => false

/-- The parked core accesses to a page translate again. -/
def State.unparkCores (s : State) (sid : BitVec 16) (vpn : Nat) (kinds : Nat → Bool) : State :=
  s.cores.foldl (fun s k => s.onCore k fun c => if c.parkedOn sid vpn kinds then { c with wait := none } else c) s

/-- Whether a copy has a sector parked on a page of an SID. -/
def Copy.parkedOn (c : Copy) (sid : BitVec 16) (vpn : Nat) : Bool := c.who.sid == sid && c.parked.any fun x => x.2.1 == vpn

/-- The sectors of a context that are parked on a page of an SID are parked no more. -/
def Core.unpark (c : Core) (sid : BitVec 16) (vpn : Nat) : Core :=
  let copy (a : Copy) : Copy := if a.who.sid = sid then { a with parked := a.parked.filter fun x => x.2.1 != vpn } else a
  { c with chans := c.chans.map fun x => { x with active := x.active.map copy } }

/-- Parked sectors on a page of an SID move again, those of a context without a core when it resumes (R307, R413). -/
def State.unparkSectors (s : State) (n : BitVec 6) (sid : BitVec 16) (vpn : Nat) : State :=
  let s := s.cores.foldl (fun s k => s.onCore k fun c => c.unpark sid vpn) s
  s.onStave n fun t => { t with absent := t.absent.map (fun x => (x.1, x.2.unpark sid vpn)),
                                saved := t.saved.map fun x => (x.1, x.2.unpark sid vpn) }

/-- An addition to a sync object is parked on a page of an SID. -/
def SyncAdd.parkedOn (x : SyncAdd) (sid : BitVec 16) (vpn : Nat) : Bool := x.parked && x.who.sid == sid && vpnOf x.addr == vpn

/-- FREPLAY. -/
def freplayBody (d a b : Reg) (s : State) : Res :=
  let x := s.g b
  if s.badSid x 16 then put d (-1) s
  else
    let sid : BitVec 16 := x.setWidth 16
    let n : BitVec 6 := x.extractLsb' 10 6
    let vpn := vpnOf (s.g a)
    let hit (r : FaultRec) := r.sid == sid && r.vpn == vpn
    let count := ((s.dev.stave n).faults.filter hit).length
    let s := s.onStave n fun t => { t with faults := t.faults.filter fun r => !hit r }
    let s := (s.unparkCores sid vpn fun k => decide (k < 4)).unparkSectors n sid vpn
    put d (w64 count) (s.retrySyncs fun x => x.parkedOn sid vpn)

/-- FKILL (R414). -/
def fkillBody (d a b : Reg) (s : State) : Res :=
  let x := s.g b
  let job : BitVec 6 := x.extractLsb' 0 6
  if !zeroAt x 6 2 || !zeroAt x 12 52 then put d 2 s
  else if (s.stave.job? job).isNone then put d 1 s
  else put d 0 (s.endJob s.me.stave job (0x10 + field x 8 4) (s.g a))

/-- FQACK (R415). -/
def fqackBody (d a : Reg) (s : State) : Res :=
  let t := s.stave
  let x : BitVec 32 := (s.g a).setWidth 32
  if (t.fqTail - t.fqHead).toNat < (x - t.fqHead).toNat then put d 1 s
  else
    let n := s.me.stave
    let s := s.onStave n fun t => { t with fqHead := x }
    let base := t.fqKey
    if field t.fqbase 7 45 = 0 then put d 0 s
    else put d 0 (({ s with dev := s.dev.poke (base + 4) 4 x.toNat }).appendWaiting n)

/-! ## The host's answers (R399, R450) -/

/-- Whether a page request of a page of an SID is outstanding. (Log 76, DESIGN CHOICE.) -/
def Stave.asked (t : Stave) (sid : BitVec 16) (vpn : Nat) : Bool := t.pri.any fun q => q.sid == sid && q.vpn == vpn

/-- A page request ends. -/
def State.endRequest (s : State) (n : BitVec 6) (sid : BitVec 16) (vpn : Nat) : State :=
  s.onStave n fun t => { t with pri := t.pri.filter fun q => !(q.sid == sid && q.vpn == vpn) }

/-- Every sector that is parked on a page of an SID is refused with ACCESS. -/
def State.refuseSectors (s : State) (sid : BitVec 16) (vpn : Nat) : State :=
  s.cores.foldl (fun s k => (List.range 4).foldl (fun s ch =>
    match ((s.coreAt k).chan ch).active with
    | none => s
    | some cp => if cp.who.sid = sid then
        (cp.parked.filter fun x => x.2.1 == vpn).foldl (fun s x =>
          match ((s.coreAt k).chan ch).active with
          | some a => s.sectorDone k ch a x.1 0x12
          | none => s) s
      else s) s) s

/-- The host answers a page request. Success releases every access that is parked on the page; a failure makes each of them
non-replayable: a core access traps PAGE, a sector is refused with ACCESS, an addition to a sync object is dropped. -/
def State.priAnswer (s : State) (sid : BitVec 16) (vpn : Nat) (success : Bool) : State :=
  let n : BitVec 6 := sid.extractLsb' 10 6
  if !(s.dev.stave n).asked sid vpn then s
  else
    let s := s.endRequest n sid vpn
    if success then
      ((s.unparkCores sid vpn fun k => k == 4).unparkSectors n sid vpn).retrySyncs fun x => x.parkedOn sid vpn
    else
      let s := s.cores.foldl (fun s k =>
        match (s.coreAt k).wait with
        | some (.park i va 4) => if i = sid ∧ vpnOf va = vpn then s.raiseAt k .page va else s
        | _ => s) s
      let s := s.refuseSectors sid vpn
      { s with dev := { s.dev with syncs := s.dev.syncs.filter fun x => !x.parkedOn sid vpn } }

/-- A translation arrives from the host: a usable one enters the TLBs of the cores that wait for it, also where an operation of an ended
context does (R84), and their accesses go on (R399, R450). -/
def State.atsArrive (s : State) (sid : BitVec 16) (vpn : Nat) (pte : W64) : State :=
  let n : BitVec 6 := sid.extractLsb' 10 6
  if !pte.getLsbD 0 || !pte.getLsbD 1 || pteMalformed pte 0 then s
  else
    let t : TlbEntry := ⟨sid, vpn, 0, pte, 0, []⟩
    let waits (s : State) (k : Nat) := (s.coreAt k).parkedOn sid vpn (fun k => k == 4) ||
      (s.coreAt k).chans.toList.any (fun x => x.active.any fun a => a.parkedOn sid vpn) ||
      s.dev.syncs.any fun x => x.who.core == k && x.parkedOn sid vpn
    let s := (s.cores ++ [deadCore]).foldl (fun s k => if waits s k then s.at k fun s => s.tlbFill t else s) s
    let s := s.endRequest n sid vpn
    ((s.unparkCores sid vpn fun k => k == 4).unparkSectors n sid vpn).retrySyncs fun x => x.parkedOn sid vpn

/-- The host invalidates a range of pages of an SID (R450): the entries go, every access that they translated is performed,
and the completion returns; where stores of the stave's contexts to a peer are on their way, once these have been performed. -/
def State.atsInvalidate (s : State) (sid : BitVec 16) (first count : Nat) : State :=
  let n : BitVec 6 := sid.extractLsb' 10 6
  let hit (t : TlbEntry) : Bool :=
    t.sid == sid && decide (t.vpn < first + count ∧ first < t.vpn + 512 ^ t.level)
  let s := (s.performAll fun c => c.stave == n).dropTlb hit
  let out := (s.dev.net.filter fun x => x.kind == .store && x.peer && x.stave == n).map (·.order)
  if out.isEmpty then { s with dev := { s.dev with atsDone := s.dev.atsDone + 1 } }
  else { s with dev := { s.dev with atsWaits := s.dev.atsWaits ++ [⟨sid, out⟩] } }

/-! ## The instructions -/

/-- TLBINV (R411). -/
def execTlbinv (d a b : Reg) (s : State) : Out := issue (.tlbinv d a b) (tlbinvBody d a b) s

/-- FREPLAY (R413). -/
def execFreplay (d a b : Reg) (s : State) : Out := issue (.freplay d a b) (freplayBody d a b) s

/-- FKILL (R414). -/
def execFkill (d a b : Reg) (s : State) : Out := issue (.fkill d a b) (fkillBody d a b) s

/-- FQACK (R415). -/
def execFqack (d a : Reg) (s : State) : Out := issue (.fqack d a) (fqackBody d a) s

/-- PRI_RESPONSE (R399). -/
def execPriResponse (sid : BitVec 16) (vpn : BitVec 44) (success : Bool) (s : State) : Out :=
  event (fun s => s.priAnswer sid vpn.toNat success) s

/-- ATS_INVALIDATION (R450). -/
def execAtsInvalidation (sid : BitVec 16) (first count : Nat) (s : State) : Out :=
  event (fun s => s.atsInvalidate sid first count) s

/-- ATS_TRANSLATION_COMPLETION (R399, R450). -/
def execAtsTranslationCompletion (sid : BitVec 16) (vpn : BitVec 44) (pte : W64) (s : State) : Out :=
  event (fun s => s.atsArrive sid vpn.toNat pte) s

end Sys2Proof.Machine
end

