-- ==== Sys2Proof/Machine/System.lean ====
section
/-! DEFINITION. TRAP, TRET, IDLE, DONE, CTXSW and PAIR (R408 to R412, R416), and taking an interrupt (R393, R394). -/

namespace Sys2Proof.Machine

/-! ## TRET (R408) -/

/-- TRET: a mode that the context may not return to traps PRIV. -/
def tretBody (s : State) : Res :=
  match Mode.ofCode (s.me.ctl.tstat.extractLsb' 0 2) with
  | none => .trap .priv (zext (encode .tret)) s
  | some m => if s.me.may m then .done (s.trapReturn m) .stay else .trap .priv (zext (encode .tret)) s

/-! ## IDLE (R409) -/

/-- IDLE ends with an item accepted into a slot, a pending interrupt or its time limit. -/
def idleBody (a : Reg) (s : State) : Res :=
  match s.me.wait with
  | some (.idle since limit elapsed) =>
    if elapsed || s.me.accepted || !s.me.irqs.isEmpty then s.ok else .wait (.idle since limit false) s
  | _ =>
    if !s.me.irqs.isEmpty then s.ok
    else .wait (.idle s.dev.cycle (s.g a) false) { s with me := { s.me with accepted := false } }

/-- The time limit of an IDLE passes. -/
def Core.idleElapse (c : Core) (now : W64) : Core :=
  match c.wait with
  | some (.idle since limit false) =>
    if limit ≠ 0 ∧ limit.toNat ≤ (now - since).toNat then { c with wait := some (.idle since limit true) } else c
  | _ => c

/-! ## DONE (R410) -/

/-- Whether an engine operation that core k forked has not completed. -/
def State.engineBusy (s : State) (k : Nat) : Bool :=
  let mine (i : Issuer) := i.core == k
  (s.coreAt k).chans.toList.any (fun x => x.active.isSome || !x.waiting.isEmpty) ||
    s.dev.bprefs.any (fun x => mine x.who) || s.dev.syncs.any (fun x => mine x.who) ||
    s.openCommands.any (fun m => mine m.sender) ||
    s.dev.staves.any fun t => t.2.trans.any (fun x => mine x.who && !x.swept) || t.2.shrinks.any (fun x => mine x.who) ||
      t.2.moves.any fun x => mine x.who

/-- DONE up to the end of the member: the waits, and the tables that become empty. -/
def doneBody (s : State) : Res :=
  if s.me.member.isNone then .trap .illegal (zext (encode .done)) s
  else
    let s := s.selfRelease
    if s.me.ctl.unack ≠ 0 || s.engineBusy s.here || !s.me.mcmds.isEmpty then .wait .done s
    else
      let c := { s.me with caps := .replicate 8 0, slots := s.me.slots.map fun t => { t with bind := 0 } }
      { s with me := c }.irreversible.ok

/-- The member on core k is counted no more; the last of its instance ends it. -/
def State.finishAt (s : State) (k : Nat) : State :=
  match (s.coreAt k).member with
  | some m => s.memberDone (s.coreAt k).stave k m
  | none => s

/-- Every core of a list that has retired DONE ends as a member. -/
def State.finishAll (s0 s : State) (l : List Nat) : State :=
  l.foldl (fun u k => if (s.coreAt k).nretired = (s0.coreAt k).nretired then u else u.finishAt k) s

/-! ## CTXSW (R412) -/

/-- The first address of an area of which a line lies outside the granules of a stave. -/
def State.areaBad (s : State) (n : BitVec 6) (a : W64) : Option W64 :=
  let ok (x : Nat) : Bool := decide (x < 2 ^ 52) && s.dev.paKind x == .dram && s.dev.granuleOk .stave n (x % 2 ^ 43)
  let next := (a.toNat / 2 ^ 26 + 1) * 2 ^ 26
  if !ok a.toNat then some a
  else if next < a.toNat + areaSize && !ok next then some (w64 next)
  else none

/-- The context in focus leaves its core at a CTXSW that it retires with: its L1 is written back. -/
def State.quitCore (s : State) : State :=
  let n := s.me.counts1 .seq
  let s := ((s.returnNotes s.here).acquire).dropL1 s.here
  { s with me := { s.me with ctl.retired := s.me.ctl.retired + w64 n, nretired := s.me.nretired + n, hints := .none, wait := none,
                             issued := false, entering := false } }

/-- Save the context in focus, at a CTXSW that names g[d], into an area. One that was saved there before is no more. -/
def State.switchOut (s : State) (base : Nat) (d : Reg) : State :=
  let n := s.me.stave
  let s := if s.stave.saved.any fun x => x.1 == base then s.freeSaved n base else s
  let s := s.quitCore
  let c := s.me
  let s := s.saveArea base c ⟨true, 0, false, c.member.isNone⟩ (c.pc + 4) (some d)
  (s.onStave n fun t => { t with saved := assocSet base c t.saved }).moveIssuers n s.here (savedIssuer base)

/-- The context in focus is discarded at a CTXSW. -/
def State.dropHere (s : State) : State :=
  let s := s.quitCore
  ((s.countRetired s.me).moveIssuers s.me.stave s.here deadCore).dropHeld s.me

/-- What the device keeps of the context that an area holds (log 21, DESIGN CHOICE): a context that CTXSW or pre-emption wrote there, or
nothing. Its own entry of the stave map, if it was pre-empted, ends. -/
def State.keptOf (s : State) (n : BitVec 6) (base : Nat) : Core × State :=
  let t := s.dev.stave n
  match assocFind? (fun b _ => b == base) t.saved with
  | some (_, c) => (c, s.onStave n fun t => { t with saved := assocErase base t.saved })
  | none =>
    match assocFind? (fun l _ => t.areaOf l == base) t.absent with
    | some (l, c) =>
      (c, (s.onStave n fun t => { t with map := assocErase l t.map, absent := assocErase l t.absent }).moveIssuers n (16384 + l) s.here)
    | none => ({ Core.reset with ctl := { Ctl.reset with sid := n ++ (0 : BitVec 10) } }, s)

/-- Restore the context that an area holds on the core in focus, which keeps its logical number, its TLB and the interrupts
held for it, and of which the instruction cache is emptied. An area that software wrote gets a new context tag (R402). -/
def State.switchIn (s : State) (n : BitVec 6) (base : Nat) : State :=
  let old := s.me
  let tagged := (s.areaState base).tagged
  let (rest, s) := s.keptOf n base
  let k := s.here
  let s := s.moveIssuers n (savedIssuer base) k
  let c := s.areaCore base k rest
  let (tag, s) := if tagged then (c.ctl.ctxtag, s) else s.newTag
  let c := { c with
    ctl.ctxtag := tag, lcore := old.lcore, tlb := old.tlb, icache := [], irqs := old.irqs, async := none, sigPend := none,
    held := false, stopped := false, finished := false, entering := false, pair := none, pairOps := [], bond := .none,
    rank := 0, crew := [], released := false, trail := [], orphan := false, handed := false, accepted := false }
  ({ s with me := c }.applyInbox base k).retrySyncs fun x => x.who.core == k

/-- The member whose context an area holds that CTXSW has saved (R434). -/
def State.areaMember (s : State) (base : Nat) : Option Member :=
  (s.stave.saved.find? fun x => x.1 == base).bind fun x => x.2.member

/-- Whether CTXSW refuses the context that an area holds: it is a member's that pre-emption or migration saved, or its mode is
above the present one. -/
def State.areaRefused (s : State) (base : Nat) : Bool :=
  let a := s.areaState base
  a.origin == 2 || a.origin == 3 || (a.origin == 1 && !a.free) ||
    decide (Mode.rank s.me.ctl.mode < s.dev.peek (base + 0x30100 + 8 * 7) 1 % 4)

/-- CTXSW. A tag that fails ends the job whose member the area holds (R402, R434). An uncorrectable error in the area that it restores waits for ROLLBACK where the context is a member's (R434); of another
context the manual names no outcome, and CTXSW refuses it as one whose tag fails (log 99, DESIGN CHOICE). -/
def ctxswBody (d a b : Reg) (s : State) : Res := settle do
  let x := s.g a
  let y := s.g b
  let n := s.me.stave
  let base := y.toNat % 2 ^ 43
  aligned s x (2 ^ 16)
  if y = 0 then trapHere s .misalign y
  else
    aligned s y (2 ^ 16)
    match (if x = 0 then none else s.areaBad n x).orElse fun _ => s.areaBad n y with
    | some v => trapHere s .access v
    | none =>
      if s.me.bond ≠ .none ∨ s.me.pair.isSome then return put d 3 s
      else if s.areaRefused base then return put d 2 s
      else if (s.areaState base).tagged && !s.tagsMatch base then
        let s := match s.areaMember base with
          | some m => s.endJob n m.job 0x23 0
          | none => s
        return put d 1 s
      else
        match s.areaError base, s.areaMember base with
        | some addr, some _ => .error (.wait (.area addr) s)
        | some _, none => return put d 1 s
        | none, _ =>
          let s := if x = 0 then s.dropHere else s.switchOut (x.toNat % 2 ^ 43) d
          return .done (s.switchIn n base) .switched

/-! ## PAIR (R416) -/

/-- A core of a checked pair, or of none. -/
def Core.paired (c : Core) (k : Option Nat) : Core := { c with pair := k, pairOps := [] }

/-- The other core of a pair of members m and m xor 1. -/
def State.partner (s : State) : Option Nat :=
  s.me.member.bind fun m =>
    s.mates.find? fun k => k != s.here && (s.coreAt k).member.any fun x => decide (x.member = m.member ^^^ 1)

/-- CPAIR and UNPAIR, by their word: joins of two members (R153). -/
def pairBody (w : Word) (on : Bool) (s : State) : Res :=
  let d := joinReg w
  if s.me.bond ≠ .none then put d 0 s
  else
    match s.partner with
    | none => put d 0 s
    | some k =>
      match (s.coreAt k).joinAt.filter fun j => j.2.toNat / 2 ^ 25 == w.toNat / 2 ^ 25 with
      | some j =>
        if j.1 = s.me.pc ∧ joinKind j.2 = joinKind w then
          let s := (s.endJoins [k] 1).onCore k fun c => c.paired (if on then some s.here else none)
          put d 1 { s with me := s.me.paired (if on then some k else none) }
        else put d 0 (s.endJoins [k] 0)
      | none => .wait (.join w) s

/-! ## Interrupts (R393, R394) -/

/-- A core that waits in IDLE. -/
def Core.idles (c : Core) : Bool :=
  match c.wait with
  | some (.idle _ _ _) => true
  | _ => false

/-- An asynchronous cause or an interrupt of core k can be taken: its HINT chain, if any, has ended or waits. A pending
interrupt ends an IDLE first (R409). -/
def Core.interruptDue (c : Core) : Bool :=
  c.live && !c.stopped && !c.held && !c.finished && (c.hints.start.isNone || c.wait.isSome || c.ctl.pix != 0) &&
    (c.async.isSome || (!c.irqs.isEmpty && c.ctl.ie && c.ctl.mode != .user && !c.idles))

/-- Cause and value of an interrupt. -/
def Irq.cause : Irq → Cause × W64
  | .preempt area => (.preempt, area)
  | .moved word => (.staveMoved, word)

/-- Core k takes what is pending: PAIR_MISMATCH, otherwise its oldest interrupt. -/
def State.takeInterrupt (s : State) (k : Nat) : State :=
  let c := s.coreAt k
  if !c.interruptDue then s
  else
    match c.async, c.irqs with
    | some a, _ => (s.onCore k fun c => { c with async := none }).raiseAt k .pairMismatch a
    | none, x :: t => (s.onCore k fun c => { c with irqs := t }).raiseAt k x.cause.1 x.cause.2
    | none, [] => s

/-- STAVE_MOVED becomes pending on every headstock core of a stave; a 17th merges them into one with value 0 (R394). -/
def State.staveMoved (s : State) (n : BitVec 6) (word : W64) : State :=
  let moved (x : Irq) : Bool := match x with | .moved _ => true | .preempt _ => false
  (s.dev.headstocks n).foldl (fun s k => s.onCore k fun c =>
    if (c.irqs.filter moved).length < 16 then { c with irqs := c.irqs ++ [.moved word] }
    else { c with irqs := (c.irqs.filter fun x => !moved x) ++ [.moved 0] }) s

/-! ## The instructions -/

/-- TRAP (R408). -/
def execTrap (a : Reg) (s : State) : Out :=
  issue (.trap a) (fun s => .done s (.trapAfter Cause.trap.code (s.g a))) s

/-- TRET (R408). -/
def execTret (s : State) : Out := issue .tret tretBody s

/-- IDLE (R409). -/
def execIdle (a : Reg) (s : State) : Out := issue (.idle a) (idleBody a) s

/-- DONE (R410): a locked gang executes it at once. -/
def execDone (s : State) : Out :=
  match issue .done doneBody s with
  | .next t => .next (s.finishAll t (if s.me.bond = .gang then s.me.crew else [s.here]))
  | .fault f => .fault f
  | .refused r => .refused r

/-- CTXSW (R412). -/
def execCtxsw (d a b : Reg) (s : State) : Out := issue (.ctxsw d a b) (ctxswBody d a b) s

/-- CPAIR (R416). -/
def execCpair (d : Reg) (s : State) : Out := issue (.cpair d) (pairBody (encode (.cpair d)) true) s

/-- UNPAIR (R416). -/
def execUnpair (d : Reg) (s : State) : Out := issue (.unpair d) (fun s => pairBody (encode (.unpair d)) false s) s

/-- INTERRUPT (R393, R394). -/
def execInterrupt (core : Nat) (s : State) : Out := event (fun s => s.takeInterrupt core) s

/-- IDLE_TIMEOUT (R409). -/
def execIdleTimeout (core : Nat) (s : State) : Out := event (fun s => s.onCore core fun c => c.idleElapse s.dev.cycle) s

end Sys2Proof.Machine
end

