-- ==== Sys2Proof/Machine/Placement.lean ====
section
/-! DEFINITION. The placement engine's own steps (04_placement: R90, R91, R97 to R103), and moving, pre-empting and resuming
instances (R133, R400, R403). -/

namespace Sys2Proof.Machine

/-! ## Requests (R90, R91, R101) -/

/-- Change entry i of the ready queue. -/
def Stave.onReady (t : Stave) (i : Nat) (f : Ready → Ready) : Stave :=
  { t with ready := t.ready.zipIdx.map fun r => if r.2 = i then f r.1 else r.1 }

/-- Whether entry i of the ready queue is served next: among those whose back-off has ended, the highest priority, and the
earliest of these. -/
def Stave.serves (t : Stave) (now : W64) (i : Nat) : Bool :=
  match t.ready[i]? with
  | none => false
  | some r => decide (r.notBefore ≤ now) && t.ready.zipIdx.all fun x =>
      decide (x.2 = i ∨ now < x.1.notBefore ∨ x.1.prio < r.prio ∨ (x.1.prio = r.prio ∧ i < x.2))

/-- A failed reservation of entry i (R91): the back-off, and at the third failure in a row compaction. -/
def State.failReady (s : State) (n : BitVec 6) (i : Nat) : State :=
  s.onStave n fun t => t.onReady i fun r =>
    let f := r.fails + 1
    let back := if f < 11 then 64 * 2 ^ (f - 1) else 65536
    { r with fails := f, notBefore := s.dev.cycle + w64 back, compacting := r.compacting || f == 3 }

/-- Entry i leaves the ready queue. -/
def State.dropReady (s : State) (n : BitVec 6) (i : Nat) : State :=
  s.onStave n fun t => { t with ready := listDrop t.ready i }

/-- Entry i is served: it leaves the ready queue, the moves that compaction has accepted for it, of the instances that still occupy cores
reserved for it, are no more, and those cores are free for others (R424). -/
def State.takeReady (s : State) (n : BitVec 6) (i : Nat) (r : Ready) : State :=
  let on (m : Move) : Bool := (((s.dev.stave n).job? m.job).bind fun j => j.inst? m.stage m.inst).any fun x =>
    x.cores.any fun k => r.reserved.contains k
  let gone := (s.dev.stave n).moves.filter fun m => m.sync == 0 && m.dest.isSome && on m
  let s := (s.dropReady n i).onStave n fun t => { t with moves := t.moves.filter fun m => !gone.contains m }
  let s := gone.foldl (fun (s : State) m => s.onStave n fun t => t.onJob m.job fun j =>
    j.onInst m.stage m.inst fun x => { x with moving := false }) s
  if r.reserved.isEmpty then s else s.slotFreed n

/-- Try a request for new instances: slots for all of them, or a failed reservation (R90). -/
def State.placeNew (s : State) (n : BitVec 6) (i : Nat) (r : Ready) : State :=
  let s := s.fixRect n r.job r.stage
  match s.stageOf n r.job r.stage with
  | none => s.dropReady n i
  | some g =>
    match s.slotsFor n g r.reserved r.need [] with
    | none => s.failReady n i
    | some l => l.foldl (fun s c => s.commitInst n r.job r.stage c r.growth) (s.takeReady n i r)

/-- The first uncorrectable error in the saved areas of an instance (R434). -/
def State.instError (s : State) (n : BitVec 6) (i : Inst) : Option (Member × Nat) :=
  i.lcores.findSome? fun l => (s.areaError ((s.dev.stave n).areaOf l.toNat)).bind fun a =>
    (assocGet Core.reset l.toNat (s.dev.stave n).absent).member.map fun m => (m, a)

/-- Try to resume a pre-empted instance (R403): a saved member whose tag fails ends the job (R402), and an uncorrectable error in
its area is a restore's (R434). -/
def State.resume (s : State) (n : BitVec 6) (i : Nat) (r : Ready) (num : Nat) : State :=
  match s.stageOf n r.job r.stage, ((s.dev.stave n).job? r.job).bind fun j => j.inst? r.stage num with
  | some g, some x =>
    match s.slotFor n g r.reserved [] with
    | none => s.failReady n i
    | some c =>
      if !s.instTags n x then s.endJob n r.job 0x23 0
      else
        match s.instError n x with
        | some (m, a) => s.restoreError n m (channelUnit (granuleOf a / 16)) a
        | none => ((s.takeReady n i r).restoreInst n r.job r.stage num c true).occupancy n
  | _, _ => s.dropReady n i

/-- Serve entry i of the ready queue. -/
def State.serveReady (s : State) (n : BitVec 6) (i : Nat) (p : Ready → Bool) : State :=
  let t := s.dev.stave n
  match t.ready[i]? with
  | none => s
  | some r =>
    if !p r || !t.serves s.dev.cycle i then s
    else
      match r.inst with
      | none => s.placeNew n i r
      | some num => s.resume n i r num

/-- Requests of a stave that have failed three times or more and whose back-off has ended are tried at once, at most k of them (R424). -/
def State.retryReady (s : State) (n : BitVec 6) : Nat → State
  | 0 => s
  | k + 1 =>
    let s := s.retryReady n k
    let t := s.dev.stave n
    match (List.range t.ready.length).find? fun i => t.serves s.dev.cycle i && (t.ready[i]?).any fun r => decide (3 ≤ r.fails) with
    | some i => s.serveReady n i fun _ => true
    | none => s

/-- Entry i ages (R101). A higher priority can make a candidate of R102, for which compaction looks again (R104). -/
def Ready.age (r : Ready) (now : W64) : Ready :=
  if r.prio < 7 ∧ 2 ^ 20 ≤ (now - r.since).toNat then
    { r with prio := r.prio + 1, since := r.since + w64 (2 ^ 20), compacting := r.compacting || decide (3 ≤ r.fails) }
  else r

/-! ## Slots to be freed (R102, R103) -/

/-- The placed instances of a stave that occupy a core of a list, with their jobs, in the order of their jobs. -/
def Stave.occupants (t : Stave) (cores : List Nat) : List (Job × Inst) :=
  t.jobs.flatMap fun j => (j.insts.filter fun i => i.cores.any fun k => cores.contains k).map fun i => (j, i)

/-- Whether a core can be part of a slot that is to be freed for entry i: it belongs to the stave and is not leaving, it is
neither a headstock core nor quarantined, it runs no context outside every instance, and no other request or move has it. -/
def State.usable (s : State) (n : BitVec 6) (i k : Nat) : Bool :=
  let t := s.dev.stave n
  s.dev.ownState .cluster (clusterOf k) n == some .owned && !s.dev.bootMask.contains k &&
    !s.dev.quarantined.contains (coreUnit k) && (t.holdsCore k || !(s.coreAt k).live) && !t.awaits k &&
    !t.ready.zipIdx.any fun x => x.2 != i && x.1.reserved.contains k

/-- Slots that can serve a request of a stage, by clusters in ascending order. A stage that waits for its rectangle is served by a
whole rectangle (R104), of which it needs the slots without a headstock core or a quarantined one, as many as its minimum. -/
def State.slotsOf (s : State) (n : BitVec 6) (g : Stage) : List (List (List Nat)) :=
  let sound (k : Nat) := !s.dev.bootMask.contains k && !s.dev.quarantined.contains (coreUnit k)
  if g.cols ≠ 0 ∧ g.rect.isNone then
    let own := s.dev.clustersOf n
    (List.range 4).flatMap fun d => (List.range 200).filterMap fun low =>
      let cs := rectClusters d low g.cols g.rows
      let slots := ((cs.flatMap fun c => slotsIn c g.width).map fun k => slotCores k g.width).filter fun x => x.all sound
      if low % 20 + g.cols ≤ 20 ∧ low / 20 + g.rows ≤ 10 ∧ g.minInst ≤ slots.length ∧ cs.all own.contains then
        some [slots.flatMap id]
      else none
  else
    ((List.range 4).flatMap fun d => s.clustersFor n g d).map fun c => (slotsIn c g.width).map fun k => slotCores k g.width

/-- Whether slots for a request are free at once: compaction moves nothing for it then (R424). -/
def State.fitsNow (s : State) (n : BitVec 6) (r : Ready) : Bool :=
  let s := s.fixRect n r.job r.stage
  (s.stageOf n r.job r.stage).any fun g => (s.slotsFor n g r.reserved r.need []).isSome

/-- Slots for the instances that occupy a candidate, outside it: none where one has none (R102). -/
def State.rehouse (s : State) (n : BitVec 6) (prio : Nat) : List (Job × Inst) → List Nat → Option (List (Job × Inst × Nat))
  | [], _ => some []
  | (j, i) :: rest, taken =>
    if prio < j.prio i.stage ∨ i.moving then none
    else
      (j.stages[i.stage]?).bind fun g => (s.slotFor n g [] taken).bind fun c =>
        (s.rehouse n prio rest (taken ++ slotCores c g.width)).map fun l => (j, i, c) :: l

/-- Whether a slot can be emptied for entry i: it is occupied, and not one that has been reserved for it already. -/
def State.occupied (s : State) (n : BitVec 6) (i : Nat) (r : Ready) (cand : List Nat) : Bool :=
  (cand.all fun k => s.usable n i k) && !(cand.any fun k => r.reserved.contains k) && !((s.dev.stave n).occupants cand).isEmpty

/-- How a candidate can be freed for entry i. -/
def State.freeing (s : State) (n : BitVec 6) (i : Nat) (r : Ready) (cand : List Nat) : Option (List (Job × Inst × Nat)) :=
  if s.occupied n i r cand then s.rehouse n r.prio ((s.dev.stave n).occupants cand) cand else none

/-- Cores that a move of instances moves. -/
def movedCores (l : List (Job × Inst × Nat)) : Nat := l.foldl (fun x m => x + m.2.1.cores.length) 0

/-- The candidate of a cluster that moves the fewest cores, the first on a tie. -/
def fewest : List (List Nat × List (Job × Inst × Nat)) → Option (List Nat × List (Job × Inst × Nat))
  | [] => none
  | x :: t =>
    match fewest t with
    | none => some x
    | some y => if movedCores y.2 < movedCores x.2 then some y else some x

/-- An issuer for moves that the placement engine starts itself: their sync object is 0. -/
def noIssuer : Issuer := ⟨0, 0, .user, 0, none⟩

/-- An accepted move of an instance. -/
def State.addMove (s : State) (n : BitVec 6) (m : Move) : State :=
  s.onStave n fun t => { t with moves := t.moves ++ [m] }.onJob m.job fun j =>
    j.onInst m.stage m.inst fun i => { i with moving := true }

/-- Reserve cores for entry i (R102, R103). -/
def State.reserve (s : State) (n : BitVec 6) (i : Nat) (cores : List Nat) : State :=
  s.onStave n fun t => t.onReady i fun r => { r with reserved := insertNats cores r.reserved, compacting := false }

/-- What compaction chooses for entry i (R102): the candidate of the first cluster that holds one which can be freed. -/
def State.candidate (s : State) (n : BitVec 6) (i : Nat) (r : Ready) (g : Stage) : Option (List Nat × List (Job × Inst × Nat)) :=
  (s.slotsOf n g).findSome? fun cl => fewest (cl.filterMap fun cand => (s.freeing n i r cand).map fun l => (cand, l))

/-- Whether a slot is to be emptied for a request: none fits it, and what has been reserved for it is empty. -/
def State.wanting (s : State) (n : BitVec 6) (r : Ready) : Bool :=
  !(r.reserved.any fun k => (s.dev.stave n).holdsCore k) && !s.fitsNow n r

/-- Compaction for entry i (R102). With no candidate it waits for the next change of occupancy. (Log 66, DESIGN CHOICE.) -/
def State.compact (s : State) (n : BitVec 6) (i : Nat) : State :=
  match (s.dev.stave n).ready[i]? with
  | none => s
  | some r =>
    match s.stageOf n r.job r.stage with
    | none => s
    | some g =>
      if !r.compacting ∨ !s.wanting n r then s
      else
        match s.candidate n i r g with
        | none => s.onStave n fun t => t.onReady i fun r => { r with compacting := false }
        | some (cand, l) =>
          (l.foldl (fun s m => s.addMove n ⟨m.1.num, m.2.1.stage, m.2.1.num, some m.2.2, 0, noIssuer⟩) s).reserve n i cand

/-- Whether entry r may pre-empt a placed instance (R103). -/
def mayPreempt (r : Ready) (now : W64) (x : Job × Inst) : Bool :=
  let p := x.1.prio x.2.stage
  !x.2.moving && (decide (p < r.prio) ||
    (r.prio == 7 && p == 7 && decide (2 ^ 22 ≤ (now - r.since).toNat ∧ 2 ^ 24 ≤ (now - x.2.placedAt).toNat)))

/-- The slot whose highest-priority occupant has the lowest priority, the first on a tie. -/
def lowestSlot : List (List Nat × List (Job × Inst)) → Option (List Nat × List (Job × Inst))
  | [] => none
  | x :: t =>
    let top (y : List Nat × List (Job × Inst)) := y.2.foldl (fun m o => max m (o.1.prio o.2.stage)) 0
    match lowestSlot t with
    | none => some x
    | some y => if top y < top x then some y else some x

/-- Pre-emption for entry i (R103), for which compaction has found no candidate: while compaction is under way and can serve it, as in
Table 4 of 04, nothing is pre-empted (log 24, DEDUCED). (Log 62, DEDUCED.) -/
def State.decidePreempt (s : State) (n : BitVec 6) (i : Nat) : State :=
  let t := s.dev.stave n
  match t.ready[i]? with
  | none => s
  | some r =>
    match s.stageOf n r.job r.stage with
    | none => s
    | some g =>
      if r.fails < 3 ∨ !s.wanting n r ∨ field t.savebase 19 33 = 0 ∨ (r.compacting && (s.candidate n i r g).isSome) then s
      else
        let slots := ((s.slotsOf n g).flatMap fun cl => cl).filterMap fun c =>
          let o := t.occupants c
          if s.occupied n i r c && o.all (mayPreempt r s.dev.cycle) then some (c, o) else none
        match lowestSlot slots with
        | none => s
        | some (c, o) =>
          (o.foldl (fun s x => s.addMove n ⟨x.1.num, x.2.stage, x.2.num, none, 0, noIssuer⟩) s).reserve n i c

/-! ## Fill (R97) -/

/-- Entries of a stream that a stream table's slots hold. -/
def entriesIn (slots : List Slot) (stream : Nat) : Nat :=
  (slots.filter fun t => t.bound && field t.bind 16 12 == stream).foldl (fun x t => x + (t.tail - t.head).toNat) 0

/-- The stream table of a member, placed or saved. -/
def State.slotsAt (s : State) (n : BitVec 6) (l : Nat) : List Slot :=
  let t := s.dev.stave n
  match t.coreOf? l with
  | some k => (s.coreAt k).slots.toList
  | none => (chunks 8 (s.dev.mem.words (t.areaOf l + 0x30800) 128) 16).map slotOf

/-- Entries of a stream over every member of every instance of its stage. -/
def State.waiting (s : State) (n : BitVec 6) (j : Job) (stage stream : Nat) : Nat :=
  ((j.stageInsts stage).flatMap fun i => i.lcores).foldl (fun x l => x + entriesIn (s.slotsAt n l.toNat) stream) 0

/-- Add numbers one by one. -/
def addEach : List Nat → List Nat → List Nat
  | x :: a, y :: b => (x + y) :: addEach a b
  | [], b => b
  | a, [] => a

/-- A multiple of n cycles lies after cycle a, up to the present one. (Log 64, DEDUCED.) -/
def boundaryDue (now : W64) (n a : Nat) : Bool := decide (a < now.toNat / n * n)

/-- Sample every stage that is ready. -/
def State.sampleFill (s : State) (n : BitVec 6) : State :=
  let t := s.dev.stave n
  if !boundaryDue s.dev.cycle 1024 t.lastSample then s
  else
    let s := t.jobs.foldl (fun s j => j.stages.zipIdx.foldl (fun s g =>
      if !g.1.ready then s
      else
        let xs := (j.inputs g.2).map fun r => s.waiting n j g.2 r.2
        s.onStave n fun t => t.onJob j.num fun j => j.onStage g.2 fun g =>
          { g with samples := addEach g.samples xs, nsamples := g.nsamples + 1 }) s) s
    s.onStave n fun t => { t with lastSample := s.dev.cycle.toNat }

/-- Whether a stage's fill is at least, or at most, x eighths; false where the stage has no fill: one without committed instances, and one
without input streams, of which the manual gives none (log 64, DEDUCED). -/
def Job.fillIs (j : Job) (stage : Nat) (g : Stage) (least : Bool) (x : Nat) : Bool :=
  let count := (j.stageInsts stage).length
  let one (r : (BitVec 256 × Nat) × Nat) : Bool :=
    let sum := 8 * listGet 0 g.samples r.2
    let full := x * (streamCap r.1.1 * count * g.nsamples)
    if least then decide (full ≤ sum) else decide (sum ≤ full)
  decide (0 < count ∧ 0 < g.nsamples) && (j.inputs stage).length != 0 &&
    (if least then (j.inputs stage).zipIdx.any one else (j.inputs stage).zipIdx.all one)

/-- Whether a stage may grow by a request (R88, R97). A placement request that is outstanding is one for new instances: the entry of a
pre-empted instance in the ready queue is not counted (log 64, DEDUCED). -/
def State.mayGrow (s : State) (n : BitVec 6) (j : Job) (stage : Nat) (g : Stage) : Bool :=
  decide ((j.stageInsts stage).length < g.maxInst) && !g.closing &&
    !((s.dev.stave n).ready.any fun r => r.job == j.num && r.stage == stage && r.inst.isNone) &&
    (g.cols == 0 || (List.range 4).any fun d => (s.firstSlot n g.width [] [] (s.clustersFor n g d)).isSome && g.rect.isSome)

/-- The highest instance number of a stage. -/
def Job.lastInst (j : Job) (stage : Nat) : Option Nat := (j.stageInsts stage).foldl (fun x i => some (max (x.getD 0) i.num)) none

/-- What the end of a window does to a stage that has a fill. One that meets both thresholds grows and does not shrink (log 64, DEDUCED). -/
def State.windowStage (s : State) (n job : BitVec 6) (stage : Nat) : State :=
  let tune := (s.dev.stave n).pltune
  match (s.dev.stave n).job? job with
  | none => s
  | some j =>
    match j.stages[stage]? with
    | none => s
    | some g =>
      let set (s : State) (f : Stage → Stage) : State := s.onStave n fun t => t.onJob job fun j => j.onStage stage f
      let withdrawn := g.removing.any fun k => (j.inst? stage k).any fun i => i.withdrawn
      let low := field tune 12 4 != 0 && j.fillIs stage g false (field tune 12 4)
      let high := field tune 8 4 != 8 && j.fillIs stage g true (field tune 8 4)
      let below := if low then g.below + 1 else 0
      let s := set s fun g => { g with samples := [], nsamples := 0, below := below }
      -- the instance has not reached a removable point in the window
      let s := if g.removing.isSome && !withdrawn then set s fun g => { g with removing := none, below := 0 } else s
      if high && s.mayGrow n j stage g then
        s.onStave n fun t => { t with ready := t.ready ++ [newReady job stage none 1 (j.prio stage) true s.dev.cycle] }
      else if decide (field tune 16 4 ≤ below ∧ g.minInst < (j.stageInsts stage).length ∧ g.removing = none) then
        set s fun g => { g with removing := j.lastInst stage }
      else s

/-- A window of the stave ends: at a multiple of the window in force, and at the multiple of a length written since at which this comes
into force (R97). -/
def State.windowEnd (s : State) (n : BitVec 6) : State :=
  let t := s.dev.stave n
  let new := field t.pltune 0 5
  let takes := new != t.winNow && boundaryDue s.dev.cycle (2 ^ new) t.winAt
  if !takes && !boundaryDue s.dev.cycle (2 ^ t.winNow) t.lastWindow then s
  else
    let s := t.jobs.foldl (fun s j => if j.status.isSome then s
      else (List.range j.stages.length).foldl (fun s g => s.windowStage n j.num g) s) s
    s.onStave n fun t => { t with lastWindow := s.dev.cycle.toNat, winNow := if takes then new else t.winNow }

/-! ## Removal (R98) -/

/-- Whether a member is stalled where it can be removed. -/
def Core.atRest (c : Core) : Bool :=
  match c.wait with
  | some (.bar l _ _) => decide (2 ≤ l)
  | some .eos | some .queue | some (.mwait true) | some (.idle _ _ _) => true
  | _ => false

/-- Whether an instance is at a removable point. A locked gang stalls where a member does (R150). -/
def State.removable (s : State) (i : Inst) : Bool :=
  !i.cores.isEmpty && i.cores.all fun k =>
    let c := s.coreAt k
    (c.atRest || (c.wait == some .gang && c.bond == .gang && c.crew.any fun j => (s.coreAt j).atRest)) && c.slots.toList.all (fun t => !t.bound || t.isEmpty) && c.queues.toList.all (·.isEmpty) &&
      c.ctl.unack == 0 && !s.engineBusy k

/-- Whether a message that was routed to an instance is on its way. -/
def State.onTheWay (s : State) (n : BitVec 6) (i : Inst) : Bool :=
  s.dev.net.any fun x => (x.kind == .message || x.kind == .eos) && x.stave == n && x.stage.isNone && i.lcores.contains x.dst

/-- A removal goes on: the instance is withdrawn, restored to its table, or ends. The count of windows below the
threshold starts again after it, also where it has ended the instance. (Log 67, DEDUCED. Log 100, DESIGN CHOICE.) -/
def State.removeInst (s : State) (n job : BitVec 6) (stage num : Nat) : State :=
  match s.stageOf n job stage, ((s.dev.stave n).job? job).bind fun j => j.inst? stage num with
  | some g, some i =>
    if g.removing ≠ some num then s
    else
      let draw (s : State) (b : Bool) : State := s.onStave n fun t => t.onJob job fun j =>
        j.onInst stage num fun i => { i with withdrawn := b }
      let stop (s : State) : State := s.onStave n fun t => t.onJob job fun j =>
        j.onStage stage fun g => { g with removing := none, below := 0 }
      if !i.withdrawn then (if s.removable i then draw s true else s)
      else if s.onTheWay n i then s
      else if s.removable i then (stop s).endInst n job stage num
      else stop (draw s false)
  | _, _ => s

/-! ## Moves, pre-emption (R133, R400, R403) -/

/-- The map entries of source and destination cores are exchanged (R133): each source core, whose number the moved member
kept, receives the one that the destination core had. -/
def State.exchange (s : State) (n : BitVec 6) (src : List Nat) (nums : List (BitVec 13)) : State :=
  (src.zip nums).foldl (fun s x =>
    let own := (s.coreAt x.1).lcore.toNat
    let s := s.onStave n fun t => { t with map := assocSet x.2.toNat (mapEntry x.1) (assocErase own t.map) }
    s.onCore x.1 fun c => { c with lcore := x.2 }) s

/-- A destination slot can still be taken: its cluster is the stave's and not leaving, no core of it is quarantined. -/
def State.destOk (s : State) (n : BitVec 6) (l : List Nat) : Bool :=
  l.all fun k => s.dev.ownState .cluster (clusterOf k) n == some .owned && !s.dev.quarantined.contains (coreUnit k)

/-- An instance moves to the slot at a core (R133). (Log 65, DESIGN CHOICE.) -/
def State.migrateInst (s : State) (n job : BitVec 6) (stage num c : Nat) : State :=
  match ((s.dev.stave n).job? job).bind fun j => j.inst? stage num with
  | none => s
  | some i =>
    let nums := (slotCores c i.cores.length).map fun k => (s.coreAt k).lcore
    let s := ((s.saveInst n job stage num 2).restoreInst n job stage num c false).exchange n i.cores nums
    (s.onStave n fun t => t.onJob job fun j => { j with nmigrations := j.nmigrations + 1 }).slotFreed n

/-- Whether a store of an instance has not been performed: a migration performs it before the instance goes on (R355). -/
def State.storesOut (s : State) (i : Inst) : Bool :=
  s.dev.net.any fun x => x.kind == .store && i.cores.any fun k => x.sentBy (s.coreAt k)

/-- The cluster that a STVSHRINK or a QUAR takes from a stave. -/
def Shrink.cluster (x : Shrink) : Option Nat :=
  if x.quar then (if field x.word 28 4 = 2 ∨ field x.word 28 4 = 4 then some (field x.word 26 2 * 256 + field x.word 18 8) else none)
  else if field x.word 12 4 = 0 then some (field x.word 16 13 / 8) else none

/-- An instance for which no slot is left in a stave whose cluster leaves is pre-empted: move i has no destination any more, and the
shrink has suspended an instance (R125). -/
def State.suspendMove (s : State) (n : BitVec 6) (i : Nat) (cores : List Nat) : State :=
  s.onStave n fun t => { t with
    moves := t.moves.zipIdx.map fun m => if m.2 = i then { m.1 with dest := none } else m.1,
    shrinks := t.shrinks.map fun x =>
      if x.cluster.any fun c => cores.any fun k => clusterOf k == c then { x with suspended := true } else x }

/-- Accepted move i of a stave runs, where it has a destination (R133); while SAVEBASE is 0 it waits (R403). The instance stops first
and goes on once its stores have been performed (R355). A destination that can be taken no more is replaced by the first free slot,
or, where the instance need not leave, waited for (log 103, DESIGN CHOICE). -/
def State.runMove (s : State) (n : BitVec 6) (i : Nat) : State :=
  match (s.dev.stave n).moves[i]? with
  | none => s
  | some m =>
    match m.dest, s.stageOf n m.job m.stage, ((s.dev.stave n).job? m.job).bind fun j => j.inst? m.stage m.inst with
    | some c, some g, some x =>
      if field (s.dev.stave n).savebase 19 33 = 0 then s
      else
        let t := s.onStave n fun t => { t with moves := listDrop t.moves i }
        match if s.destOk n (slotCores c g.width) then some c else t.slotFor n g [] [] with
        | none =>
          if x.cores.any fun k => s.dev.ownState .cluster (clusterOf k) n == some .draining then s.suspendMove n i x.cores else s
        | some c =>
          if s.storesOut x then x.cores.foldl (fun s k => s.onCore k fun c => { c with held := true }) s
          else (t.migrateInst n m.job m.stage m.inst c).completeOp m.who m.sync 0
    | _, _, _ => s

/-- Shop firmware asks for a headstock core back for a context that was pre-empted there or elsewhere: PREEMPT names the area
of a saved free context, and which one is not stated (R394). -/
def State.askCore (s : State) (n : BitVec 6) (k : Nat) : State :=
  let t := s.dev.stave n
  match t.absent.filter fun x => x.2.member.isNone with
  | [] => s
  | l =>
    let a := t.areaOf (listGet 0 (l.map (·.1)) (Config.freeIndex s.fresh % l.length))
    let x : Irq := .preempt (w64 a)
    { s with fresh := s.fresh + 1 }.onCore k fun c => if c.irqs.contains x then c else { c with irqs := c.irqs ++ [x] }

/-- Pre-emption at core k (R400): of the instance whose member it runs and which is to be pre-empted; of a context outside
every instance in a cluster that is leaving, where the core is no headstock core of the cluster's stave (R125); on a headstock core,
PREEMPT is raised (R394). -/
def State.preemptAt (s : State) (k : Nat) : State :=
  let c := s.coreAt k
  let n := c.stave
  let t := s.dev.stave n
  if !c.live || c.stopped then s
  else
    match c.member with
    | some m =>
      if t.moves.any fun x => x.job == m.job && x.stage == m.stage && x.inst == m.inst && x.dest.isNone then
        s.preemptInst n m.job m.stage m.inst
      else s
    | none =>
      match (s.dev.own .cluster (clusterOf k)).filter fun o => o.st == .draining && !s.dev.ownedBy .headstock k o.stave with
      | some o => if field (s.dev.stave o.stave).savebase 19 33 = 0 then s else s.saveAway o.stave k 1 [k]
      | none => if s.dev.ownedBy .headstock k n then s.askCore n k else s

/-! ## The steps -/

/-- PLACEMENT_REQUEST (R90). -/
def execPlacementRequest (stave : BitVec 6) (i : Nat) (s : State) : Out :=
  event (fun s => s.serveReady stave i fun r => r.fails == 0 && r.inst.isNone) s

/-- BACKOFF_EXPIRY (R91). -/
def execBackoffExpiry (stave : BitVec 6) (i : Nat) (s : State) : Out :=
  event (fun s => s.serveReady stave i fun r => r.fails != 0) s

/-- RESUMPTION (R403). -/
def execResumption (stave : BitVec 6) (i : Nat) (s : State) : Out :=
  event (fun s => s.serveReady stave i fun r => r.fails == 0 && r.inst.isSome) s

/-- AGING (R101). -/
def execAging (stave : BitVec 6) (i : Nat) (s : State) : Out :=
  event (fun s => s.onStave stave fun t => t.onReady i fun r => r.age s.dev.cycle) s

/-- COMPACTION (R102). -/
def execCompaction (stave : BitVec 6) (i : Nat) (s : State) : Out := event (fun s => s.compact stave i) s

/-- PREEMPTION_DECISION (R103). -/
def execPreemptionDecision (stave : BitVec 6) (i : Nat) (s : State) : Out := event (fun s => s.decidePreempt stave i) s

/-- FILL_SAMPLE (R97). -/
def execFillSample (stave : BitVec 6) (s : State) : Out := event (fun s => s.sampleFill stave) s

/-- PLACEMENT_WINDOW_END (R97). -/
def execPlacementWindowEnd (stave : BitVec 6) (s : State) : Out := event (fun s => s.windowEnd stave) s

/-- INSTANCE_REMOVAL (R98). -/
def execInstanceRemoval (stave job : BitVec 6) (stage inst : Nat) (s : State) : Out :=
  event (fun s => s.removeInst stave job stage inst) s

end Sys2Proof.Machine
end

