-- ==== Sys2Proof/Machine/World.lean ====
section
/-! DEFINITION. World memory (14_world_memory: R311 to R331): regions, keys and their homes, and the WORLD instructions. The
key blocks stand in memory at the frames that their binding fixed (R313). -/

namespace Sys2Proof.Machine

/-! ## Regions (R311, R312) -/

/-- The empty time. -/
def emptyTime : W64 := 0x8000000000000000

/-- Fields of a descriptor (Table 1 of 14). -/
def Region.keys (r : Region) : Nat := field r.desc 64 32
def Region.retained (r : Region) : Nat := field r.desc 96 8
def Region.recBytes (r : Region) : Nat := 16 * 2 ^ field r.desc 104 8
def Region.step (r : Region) : Bool := field r.desc 112 8 == 1
def Region.readers (r : Region) : Nat := field r.desc 120 8

/-- Bytes of a key block. -/
def keyBlock (k rec_ : Nat) : Nat := (128 + k * rec_ + 127) / 128 * 128

/-- Whether a descriptor is valid (R311). -/
def descValid (d : BitVec 512) : Bool :=
  let k := field d 96 8
  let rc := field d 104 8
  zeroAt d 0 7 && !zeroAt d 64 32 && decide (2 ≤ k ∧ k ≤ 16 ∧ rc ≤ 3 ∧ field d 112 8 ≤ 1 ∧ field d 120 8 ≤ 16) &&
    zeroAt d 193 31 && zeroAt d 224 32 && zeroAt d 320 192 &&
    decide (field d 64 32 * keyBlock k (16 * 2 ^ rc) ≤ field d 256 64)

/-- The key of memory of the byte at an offset of a region. -/
def Region.at (r : Region) (off : Nat) : Nat :=
  let x := r.base.toNat % 4096 + off
  listGet 0 r.frames (x / 4096) + x % 4096

/-- The offset of a key's block. -/
def Region.block (r : Region) (k : Nat) : Nat := k * keyBlock r.retained r.recBytes

/-- The slots of a key that hold a state, each with its time, in the order of their times. -/
def insertTime (x : Int × Nat) : List (Int × Nat) → List (Int × Nat)
  | [] => [x]
  | y :: t => if x.1 ≤ y.1 then x :: y :: t else y :: insertTime x t

/-- The time of a slot. -/
def Region.time (r : Region) (d : Dev) (k i : Nat) : W64 := w64 (d.peek (r.at (r.block k + 8 * i)) 8)

/-- The states of a key, oldest first. -/
def Region.states (r : Region) (d : Dev) (k : Nat) : List (Int × Nat) :=
  ((List.range r.retained).filter fun i => r.time d k i != emptyTime).foldl
    (fun l i => insertTime ((r.time d k i).toInt, i) l) []

/-- The record of a slot. -/
def Region.record (r : Region) (d : Dev) (k i : Nat) : Nat := d.peek (r.at (r.block k + 128 + i * r.recBytes)) r.recBytes

/-- The address of the first poisoned word among n bytes of a key's block from an offset (R280). (Log 61, DEDUCED.) -/
def Region.poisonAt (r : Region) (d : Dev) (k off n : Nat) : Option W64 :=
  let a := r.at (r.block k + off)
  (firstPoison d.poison a n).map fun w => r.base + w64 (r.block k + off) + w64 (8 * w) - w64 a

/-! ## Keys and homes (R315, R316) -/

/-- A region that a job has bound. -/
def Job.region? (j : Job) (n : BitVec 6) : Option Region := j.regions.find? fun r => r.num == n

/-- Change a region of the job of the context in focus. -/
def State.onRegion (s : State) (n : BitVec 6) (f : Region → Region) : State :=
  match s.me.member with
  | none => s
  | some m => s.onJob m.job fun j => { j with regions := j.regions.map fun r => if r.num = n then f r else r }

/-- The region that a handle names; none where it traps ACCESS. -/
def State.worldRegion (s : State) (h : W64) : Option Region :=
  if !zeroAt h 38 26 then none else s.job?.bind fun j => j.region? (h.extractLsb' 32 6)

/-- The region and the key that a handle names (R315). -/
def State.worldKey (s : State) (h : W64) : Option (Region × Nat) :=
  (s.worldRegion h).bind fun r => if field h 0 32 < r.keys then some (r, field h 0 32) else none

/-- The home of a key under a bucket table (R316): die · 256 + cluster. -/
def Stave.keyHome (t : Stave) (buckets : Vector (BitVec 16) 1024) (sid : BitVec 16) (r : Region) (k : Nat) : Nat :=
  let seed := ((t.seeds.find? fun x => x.1 == sid).map (·.2)).getD 0
  let x := (w64 (r.num.toNat * 2 ^ 32 + k) ^^^ seed) * 0x9E3779B97F4A7C15
  (buckets.toList.getD (field x 54 10) 0).toNat % 1024

/-- The first line of a key's block, by which its handover is recorded (R130). -/
def Region.lineOf (r : Region) (k : Nat) : Nat := r.at (r.block k) / 128

/-- The home of a key in force: a block that a transition has handed over has its new home (R129). -/
def State.worldHome (s : State) (sid : BitVec 16) (r : Region) (k : Nat) : Nat :=
  let t := s.dev.stave (sid.extractLsb' 10 6)
  match t.trans with
  | some y => t.keyHome (if y.swept || y.handed.contains (r.lineOf k) then y.buckets else t.buckets) sid r k
  | none => t.keyHome t.buckets sid r k

/-- The key blocks of a stave that a transition has still to hand over, by their first lines (R316). -/
def Stave.keysToHand (t : Stave) : List Nat :=
  match t.trans with
  | none => []
  | some y => t.jobs.flatMap fun j => j.regions.flatMap fun r => ((List.range r.keys).filter fun k =>
      t.keyHome y.buckets j.sid r k != t.keyHome t.buckets j.sid r k && !y.handed.contains (r.lineOf k)).map r.lineOf

/-! ## Answers (R320 to R323) -/

/-- The f32 nearest to (t′ − t0) / (t1 − t0), for t0 < t′ and t0 < t1. -/
def weight (t0 t t1 : Int) : Nat :=
  let q := quotient (t - t0).toNat (t1 - t0).toNat 0
  (fmt32.roundFin .rne false q.1 q.2).bits

/-- An interpolated record of n elements (R321). -/
def interpRecord (w s0 s1 : Nat) : Nat → Nat
  | 0 => 0
  | n + 1 =>
    let a := s0 % 2 ^ 32
    let d := (fmt32.sub .rne (s1 % 2 ^ 32) a).bits
    (fmt32.fma .rne w d a).bits + 2 ^ 32 * interpRecord w (s0 / 2 ^ 32) (s1 / 2 ^ 32) n

/-- What an evaluation of a load comes to. -/
inductive WorldEval where
  | answer (a : WorldAnswer)
  | blocked
  deriving DecidableEq, Repr

/-- An answer with the records of some slots; a poisoned word among what it reads is reported (R280). -/
def Region.answer (r : Region) (d : Dev) (k code : Nat) (slots : List Nat) (x : Nat) : WorldEval :=
  let n := (r.states d k).length
  .answer { code := BitVec.ofNat 4 code, count := BitVec.ofNat 5 n, data := BitVec.ofNat 1024 x,
            poison := slots.findSome? fun i => r.poisonAt d k (128 + i * r.recBytes) r.recBytes }

/-- The value at t′ on the line through two states (R321, R322). -/
def Region.between (r : Region) (d : Dev) (k : Nat) (t : Int) (a b : Int × Nat) (stepSlot : Nat) : Nat :=
  if r.step then r.record d k stepSlot
  else interpRecord (weight a.1 t b.1) (r.record d k a.2) (r.record d k b.2) (r.recBytes / 4)

/-- Table 3 of 14. -/
def Region.eval (r : Region) (d : Dev) (k : Nat) (t : Int) (limit : Nat) : WorldEval :=
  match r.poisonAt d k 0 128 with
  | some a => .answer ⟨0, 0, 0, some a⟩
  | none =>
    let l := r.states d k
    match l, l.reverse with
    | old :: _, new :: older =>
      if t < old.1 then r.answer d k 4 [] 0
      else
        match l.find? fun x => x.1 == t with
        | some x => r.answer d k 0 [x.2] (r.record d k x.2)
        | none =>
          if t < new.1 then
            let a := ((l.filter fun x => decide (x.1 < t)).getLast?).getD old
            let b := (l.find? fun x => decide (t < x.1)).getD new
            r.answer d k 1 (if r.step then [a.2] else [a.2, b.2]) (r.between d k t a b a.2)
          else if t ≤ new.1 + limit then
            match older with
            | [] => r.answer d k 2 [new.2] (r.record d k new.2)
            | a :: _ => r.answer d k 2 (if r.step then [new.2] else [a.2, new.2]) (r.between d k t a new new.2)
          else if t ≤ r.horizon.toInt then .blocked
          else r.answer d k 3 [] 0
    | _, _ => r.answer d k 5 [] 0

/-- WSTAT: a code and a count. -/
def wstatWord (code count : Nat) : W64 := w64 (code + 256 * count)

/-- A core's load is answered (R323): an answer with a state acquires (R331). -/
def finishLoad (d : BitVec 5) (h : W64) (t : Bool) (bytes : Nat) (a : WorldAnswer) (s : State) : Res :=
  match a.poison with
  | some va => .trap .poison va s
  | none =>
    let stat (s : State) : State := { s with me.ctl.wstat := wstatWord a.code.toNat a.count.toNat }
    if a.code.toNat ≤ 2 then
      let s := stat (s.acquire.setV (2 * d.toNat) (a.data.setWidth 512))
      (if bytes = 128 then s.setV (2 * d.toNat + 1) (a.data.extractLsb' 512 512) else s).ok
    else if t then .trap .worldRefused h (stat s)
    else (stat s).ok

/-! ## WREG (R313) -/

/-- The frames of the pages of a region from an address on, every one translated; none where one is not DIR, writable and owned.
(Log 60, DEDUCED.) -/
def State.regionPages (s : State) (va : Nat) : Nat → Option (List Nat) → Except Res (Option (List Nat) × State)
  | 0, l => .ok (l.map List.reverse, s)
  | n + 1, l =>
    if 2 ^ 56 ≤ va then .ok (none, s)
    else
      match s.translate s.me.space va false with
      | .miss lv bad s => .error (s.parkAccess (w64 va) .write lv bad)
      | .hit t s =>
        let pa := t.pa va
        if permitted t.pte s.me.ctl.mode .write && MemCls.ofPte t.pte == .dir && s.dev.paKind pa == .dram &&
            s.dev.granuleOk .stave s.me.stave (pa % 2 ^ 43) then
          let s := match s.translate s.me.space va true with | .hit _ s => s | .miss _ _ s => s
          State.regionPages s (va + 4096) n (l.map fun l => s.dev.key pa :: l)
        else State.regionPages s (va + 4096) n none

/-- The homes store n bytes at a key of a bound region: what stood there and what stands there now are values stored to these words
(R314). -/
def State.worldPoke (s : State) (key n x : Nat) : State :=
  let s := (wordsOf key n).zipIdx.foldl (fun s w => s.noteStored w.1 (wordPart key x w.2) (wordMask key n w.1)) s
  { s with dev := s.dev.poke key n x }

/-- Every slot time of every key becomes the empty time. -/
def State.initKeys (s : State) (r : Region) : Nat → State
  | 0 => s
  | k + 1 => (State.initKeys s r k).worldPoke (r.at (r.block k)) 128
      ((List.range 16).foldl (fun x i => x + 2 ^ (64 * i) * emptyTime.toNat) 0)

/-- WREG. -/
def wregBody (d a b : Reg) (s : State) : Res := settle do
  let va := s.g b
  let n := (s.g a).toNat
  if va.toNat % 64 ≠ 0 then trapHere s .misalign va
  else
    match s.me.member, s.job? with
    | some m, some _ =>
      if 63 < n then return put d 3 s
      else
        let (x, s) ← s.noPol.load va 64
        let desc := BitVec.ofNat 512 x
        if !descValid desc then return put d 3 s
        else
          let base := field desc 0 64
          let pages := (base % 4096 + field desc 256 64 + 4095) / 4096
          let (frames, s) ← s.regionPages (base / 4096 * 4096) pages (some [])
          match frames, s.job?.bind fun j => j.region? (BitVec.ofNat 6 n) with
          | none, _ => return put d 3 s
          | some _, some r => return put d (if r.addr = va then 1 else 2) s
          | some fs, none =>
            let r : Region := { num := BitVec.ofNat 6 n, addr := va, desc := desc, horizon := desc.extractLsb' 128 64,
                                marks := List.replicate (field desc 120 8) emptyTime, frames := fs }
            let s := if desc.getLsbD 192 then s.initKeys r r.keys else s
            return put d 0 (s.onJob m.job fun j => { j with regions := j.regions ++ [r] })
    | _, _ => return put d 3 s

/-! ## WST (R319, R324, R329) -/

/-- Whether a store that finds a full key may evict its oldest state (R329): the second-oldest state's time is at most the
least mark. -/
def Region.mayEvict (r : Region) (l : List (Int × Nat)) : Bool :=
  r.readers == 0 || (match l with
    | _ :: x :: _ => r.marks.all fun m => decide (x.1 ≤ m.toInt)
    | _ => true)

/-- The loads blocked on a key are evaluated again (R324). -/
def State.reevaluate (s : State) (h : W64) (r : Region) (k : Nat) : State :=
  s.cores.foldl (fun s n =>
    let c := s.coreAt n
    match c.wait with
    | some (.world w) =>
      match w.load, w.answer with
      | some (t, limit), none =>
        if w.handle ≠ h ∨ c.stave ≠ s.me.stave ∨ c.member.map (·.job) ≠ s.me.member.map (·.job) then s
        else
          match r.eval s.dev k t.toInt limit with
          | .blocked => s
          | .answer a => s.setCore n { c with wait := some (.world { w with answer := some a }) }
      | _, _ => s
    | _ => s) s

/-- Since when the world access in focus has been at its home. -/
def State.worldSince (s : State) : W64 :=
  match s.me.wait with
  | some (.world w) => w.since
  | _ => s.dev.cycle

/-- A world access of n bytes of records goes to the home of its key: its request waits for the router's budget and is charged once; a
re-evaluation at the home is no request (R115). (Log 22, DESIGN CHOICE.) -/
def State.askKey (s : State) (n : Nat) : Except Res State :=
  match s.me.wait with
  | some (.world _) => .ok s
  | _ => if s.fits n then .ok (s.charge n) else .error (.wait .budget s)

/-- The effect of a WST at the home of its key: the WSTAT word that it writes. -/
def State.worldStore (s : State) (h t : W64) (r : Region) (k x : Nat) : Except Res (W64 × State) :=
  match r.poisonAt s.dev k 0 128 with
  | some va => trapHere s .poison va
  | none =>
    let l := r.states s.dev k
    let stat (code count : Nat) (s : State) : W64 × State := (wstatWord code count, { s with me.ctl.wstat := wstatWord code count })
    let newest := (l.getLast?.map (·.1)).getD emptyTime.toInt
    if t.toInt ≤ newest ∨ t = emptyTime then .ok (stat 7 l.length s)
    else if l.length = r.retained ∧ !r.mayEvict l then .error (.wait (.world ⟨s.worldSince, h, none, none⟩) s)
    else
      let slot :=
        if l.length = r.retained then (l.headD (0, 0)).2
        else ((List.range r.retained).find? fun i => r.time s.dev k i == emptyTime).getD 0
      let s := (s.worldPoke (r.at (r.block k + 128 + slot * r.recBytes)) r.recBytes x).worldPoke (r.at (r.block k + 8 * slot)) 8 t.toNat
      let (w, s) := stat 6 (if l.length = r.retained then l.length else l.length + 1) s
      .ok (w, s.reevaluate h r k)

/-- WST. A checked pair compares it as a store (R416): its handle, its record and its time. Member 1 receives the WSTAT of member 0, as
it receives the results of atomics (log 105, DESIGN CHOICE). -/
def wstBody (src : BitVec 5) (a b : Reg) (s : State) : Res := settle do
  let h := s.g a
  match s.worldKey h with
  | none => trapHere s .access h
  | some (r, k) =>
    let s ← s.irreversible.release
    let x := ((s.v (2 * src.toNat)).toNat + 2 ^ 512 * (s.v (2 * src.toNat + 1)).toNat) % 256 ^ r.recBytes
    let op (w : W64) : PairOp := ⟨PairKind.store.code, h, r.recBytes, (s.g b).toNat + 2 ^ 64 * x, w⟩
    let s ← s.pairedResult op (fun w s => { s with me.ctl.wstat := w }) fun s => do
      let s ← s.askKey r.recBytes
      s.worldStore h (s.g b) r k x
    return s.ok

/-! ## WLD (R320, R324) -/

/-- Loads that are blocked at a home. -/
def State.blockedAt (s : State) (home : Nat) : Nat :=
  (s.cores.filter fun n =>
    let c := s.coreAt n
    match c.wait with
    | some (.world w) =>
      w.load.isSome && w.answer.isNone && (match ({ s with me := c } : State).worldKey w.handle with
        | some (r, k) => s.worldHome c.ctl.sid r k == home
        | none => false)
    | _ => false).length

/-- WLD and WLD.t. -/
def wldBody (d : BitVec 5) (a b : Reg) (lim : BitVec 7) (t : Bool) (s : State) : Res := settle do
  let h := s.g a
  match s.worldKey h with
  | none => trapHere s .access h
  | some (r, k) =>
    let limit := if lim = 127 then field s.me.ctl.wlimit 0 63 else lim.toNat
    match s.me.wait with
    | some (.world ⟨since, h', some x, none⟩) => return .wait (.world ⟨since, h', some x, none⟩) s
    | some (.world ⟨_, _, _, some ans⟩) => return finishLoad d h t r.recBytes ans s
    | _ =>
      let s ← s.askKey r.recBytes
      match r.eval s.dev k (s.g b).toInt limit with
      | .answer ans => return finishLoad d h t r.recBytes ans s
      | .blocked =>
        -- beyond 256 blocked loads at the home a load waits in the network (R324)
        let at0 := decide (s.blockedAt (s.worldHome s.me.ctl.sid r k) < 256)
        return .wait (.world ⟨s.worldSince, h, if at0 then some (s.g b, limit) else none, none⟩) s

/-! ## WHZN, WRETAIN, WSEED, WSTAT (R317, R327, R329, R330) -/

/-- WHZN. -/
def whznBody (d a b : Reg) (s : State) : Res :=
  let h := s.g a
  match s.worldRegion h with
  | none => .trap .access h s
  | some r =>
    let s := s.irreversible
    if (s.g b).toInt < r.horizon.toInt then put d 1 s
    else put d 0 (s.onRegion r.num fun r => { r with horizon := s.g b })

/-- WRETAIN. A store that is stalled on the region tests again when it goes on. -/
def wretainBody (d a b : Reg) (s : State) : Res :=
  let h := s.g a
  match s.worldRegion h with
  | none => .trap .access h s
  | some r =>
    let s := s.irreversible
    let n := field h 0 32
    if r.readers ≤ n then put d 2 s
    else if (s.g b).toInt < (listGet emptyTime r.marks n).toInt then put d 1 s
    else put d 0 (s.onRegion r.num fun r => { r with marks := listSet r.marks n (s.g b) })

/-- Set the seed of an SID. -/
def Stave.setSeed (t : Stave) (sid : BitVec 16) (x : W64) : Stave :=
  { t with seeds := (t.seeds.filter fun y => y.1 != sid) ++ (if x = 0 then [] else [(sid, x)]) }

/-- WSEED: blocked loads and stalled stores of the SID issue again, with their elapsed wait. The key blocks stand in memory
already. -/
def wseedBody (a : Reg) (s : State) : Res :=
  let sid := s.me.ctl.sid
  let s := s.cores.foldl (fun s n => s.onCore n fun c =>
    match c.wait with
    | some (.world w) =>
      if c.ctl.sid = sid ∧ w.answer.isNone then { c with wait := some (.world { w with load := none }) } else c
    | _ => c) s
  (s.onStave s.me.stave fun t => t.setSeed sid (s.g a)).ok

/-- WSTAT. -/
def wstatBody (d a : Reg) (s : State) : Res := settle do
  let h := s.g a
  match s.worldKey h with
  | none => trapHere s .access h
  | some (r, k) =>
    let s ← s.askKey 8
    match r.poisonAt s.dev k 0 128 with
    | some va => trapHere s .poison va
    | none =>
      let l := r.states s.dev k
      let t := (l.getLast?.map fun x => BitVec.ofInt 64 x.1).getD emptyTime
      return put d t { s with me.ctl.wstat := wstatWord (if l.isEmpty then 5 else 8) l.length }

/-! ## Meanings -/

/-- WREG (R313). -/
def execWreg (d a b : Reg) (s : State) : Out := issue (.wreg d a b) (wregBody d a b) s

/-- WST (R319). -/
def execWst (src : BitVec 5) (a b : Reg) (s : State) : Out := issue (.wst src a b) (wstBody src a b) s

/-- WHZN (R327). -/
def execWhzn (d a b : Reg) (s : State) : Out := issue (.whzn d a b) (whznBody d a b) s

/-- WRETAIN (R329). -/
def execWretain (d a b : Reg) (s : State) : Out := issue (.wretain d a b) (wretainBody d a b) s

/-- WSEED (R317). -/
def execWseed (a : Reg) (s : State) : Out := issue (.wseed a) (wseedBody a) s

/-- WSTAT (R330). -/
def execWstat (d a : Reg) (s : State) : Out := issue (.wstat d a) (wstatBody d a) s

/-- WLD (R320). -/
def execWld (d : BitVec 5) (a b : Reg) (lim : BitVec 7) (s : State) : Out :=
  issue (.wld d a b lim) (wldBody d a b lim false) s

/-- WLD.t (R320, R323). -/
def execWldT (d : BitVec 5) (a b : Reg) (lim : BitVec 7) (s : State) : Out :=
  issue (.wldT d a b lim) (wldBody d a b lim true) s

/-- WORLD_STALL (R326): an access that has waited longer than WWAIT · 1,024 cycles traps, without effect. -/
def execWorldStall (core : Nat) (s : State) : Out :=
  event (fun s =>
    let c := s.coreAt core
    match c.wait with
    | some (.world w) =>
      let limit := field (s.dev.stave c.stave).wwait 0 32 * 1024
      if w.answer.isNone && decide (limit < (s.dev.cycle - w.since).toNat) then s.raiseAt core .worldStall w.handle else s
    | _ => s) s

end Sys2Proof.Machine
end

