-- ==== Sys2Proof/Machine/Resize.lean ====
section
/-! DEFINITION. The STAVE/SHOP instructions (05_staves: R120 to R134), draining and scrubbing (R116 to R119, R125), line handover
(R130), bandwidth windows (R115) and taking units out of service (R134, R435 to R439). -/

namespace Sys2Proof.Machine

/-! ## Requests (R121, R123) -/

/-- Status codes (Table 9 of 05). -/
inductive ShopStatus where
  | ok | busy | notFree | notOwned | inUse | badArg | notComplete | noRoom | noSpare
  deriving DecidableEq, Repr

/-- Their numbers. -/
def ShopStatus.code : ShopStatus → W64
  | .ok => 0 | .busy => 1 | .notFree => 2 | .notOwned => 3 | .inUse => 4 | .badArg => 5 | .notComplete => 6 | .noRoom => 7
  | .noSpare => 8

/-- Fields of the resource request word (Table 10 of 05). -/
def reqStave (w : W64) : BitVec 6 := w.extractLsb' 0 6
def reqKind (w : W64) : Nat := field w 12 4
def reqId (w : W64) : Nat := field w 16 13

/-- Whether a request word is out of range or has a reserved bit set. -/
def reqBad (w : W64) : Bool :=
  !zeroAt w 6 6 || !zeroAt w 29 3 ||
    (match reqKind w with
     | 0 => !zeroAt w 16 3 || decide (200 ≤ field w 19 8) || !zeroAt w 32 32
     | 1 => !zeroAt w 24 5 || !zeroAt w 48 16
     | 2 => !zeroAt w 24 5 || !zeroAt w 56 8
     | 3 => decide (200 ≤ field w 19 8) || !zeroAt w 32 32
     | _ => true)

/-- The units that a request word names. -/
def reqUnits (w : W64) : List (UnitKind × Nat) :=
  match reqKind w with
  | 0 => [(.cluster, reqId w / 8)]
  | 1 => (onesOf 16 (field w 32 16)).map fun g => (.granule, reqId w * 16 + g)
  | 2 => (onesOf 24 (field w 32 24)).map fun y => (.way, reqId w * 32 + y)
  | _ => [(.headstock, reqId w)]

/-- Unit identifiers of a slice, a router and an LLC (R85). -/
def clusterUnit (kind id : Nat) : BitVec 32 := BitVec.ofNat 32 (kind * 2 ^ 28 + id / 256 * 2 ^ 26 + id % 256 * 2 ^ 18)
def llcUnit (ch : Nat) : BitVec 32 := BitVec.ofNat 32 (6 * 2 ^ 28 + ch / 64 * 2 ^ 26 + ch % 64)

/-- Whether a cluster is quarantined: its slice or its router is. -/
def Dev.badCluster (d : Dev) (id : Nat) : Bool :=
  d.quarantined.contains (clusterUnit 2 id) || d.quarantined.contains (clusterUnit 4 id)

/-- Whether a headstock core is quarantined: it, or its cluster (R134). -/
def Dev.badHeadstock (d : Dev) (k : Nat) : Bool := d.quarantined.contains (coreUnit k) || d.badCluster (clusterOf k)

/-- Clusters that a stave owns, those that are leaving it among them: it is open while there is one (R105). -/
def Dev.clustersHeld (d : Dev) (n : BitVec 6) : List Nat :=
  (d.owns.filter fun o => o.kind == .cluster && o.stave == n && (o.st == .owned || o.st == .draining)).map (·.id)

/-- Whether a unit is FREE (R116, R124): a spare that is not enabled, a core that is not reserved as headstock and a
quarantined unit are not. -/
def Dev.isFree (d : Dev) (u : UnitKind × Nat) : Bool :=
  (d.own u.1 u.2).isNone &&
    (match u.1 with
     | .cluster => !(d.spareMap.contains u.2 && !d.spares.contains u.2) && !d.badCluster u.2
     | .granule => !d.badChannel u.2
     | .way => !d.quarantined.contains (llcUnit (u.2 / 32))
     | .headstock => d.bootMask.contains u.2 && !d.badHeadstock u.2)

/-- Set the state of a unit. -/
def Dev.setOwn (d : Dev) (u : UnitKind × Nat) (st : OwnState) (n : BitVec 6) : Dev :=
  { d with owns := d.owns.filter (fun o => !(o.kind == u.1 && o.id == u.2)) ++ [⟨u.1, u.2, st, n⟩] }

/-- A granule leaves its HDM ranges (R447). -/
def Dev.leaveRanges (d : Dev) (id : Nat) : Dev :=
  { d with hdm := d.hdm.map fun (h : Hdm) => { h with granules := h.granules.map fun g => if g = some id then none else g } }

/-- A unit belongs to no one. -/
def Dev.freeUnit (d : Dev) (u : UnitKind × Nat) : Dev :=
  { d with owns := d.owns.filter fun o => !(o.kind == u.1 && o.id == u.2) }

/-- A granted request: the status of the checks, and the state in which its effect has started. -/
abbrev ShopAct := State → ShopStatus × State

/-- The shared frame of STVGROW, STVSHRINK, MIGRATE and QUAR (R121): the sync object of g[b], the checks, the effect. -/
def shopBody (d b : Reg) (act : W64 → ShopAct) (s : State) : Res :=
  let x := s.g b
  if x.toNat % 16 ≠ 0 then .trap .misalign x s
  else
    let r := act x s
    put d r.1.code r.2

/-! ## STVGROW (R124) -/

/-- A cluster joins a stave: a first one opens it (R112), its cores receive logical numbers (R108). -/
def State.joinCluster (s : State) (n : BitVec 6) (id : Nat) : State :=
  let first := (s.dev.clustersHeld n).isEmpty
  let s := { s with dev := { s.dev.setOwn (.cluster, id) .owned n with
    opened := true, gated := eraseNat id s.dev.gated } }
  let s := if first then
      s.onStave n fun t => { t with smask := .replicate 10 0, buckets := .replicate 1024 (BitVec.ofNat 16 id) }
    else s
  (slotCores (8 * id) 8).foldl (fun s k => s.numberCore n k) s

/-- A unit joins a stave. -/
def State.joinUnit (s : State) (n : BitVec 6) (u : UnitKind × Nat) : State :=
  match u.1 with
  | .cluster => s.joinCluster n u.2
  | .granule | .way | .headstock => { s with dev := s.dev.setOwn u .owned n }

/-- STVGROW. In recovery no stave opens (R454), so a cluster is refused (log 38, DESIGN CHOICE: the manual names no status). -/
def growAct (w sync : W64) (s : State) : ShopStatus × State :=
  if reqBad w || (s.dev.boot == .recovery && reqKind w == 0) then (.badArg, s)
  else if !(reqUnits w).all s.dev.isFree then (.notFree, s)
  else
    let n := reqStave w
    let who := s.issuer
    let s := (reqUnits w).foldl (fun s u => s.joinUnit n u) s
    let s := if reqKind w = 0 then s.slotFreed n else s
    (.ok, (s.completeOp who sync 0).staveMoved n w)

/-! ## STVSHRINK (R118, R119, R125, R126) -/

/-- Requests whose reservations meet a leaving cluster lose them and count a failure (R92). -/
def State.loseReserved (s : State) (n : BitVec 6) (id : Nat) : State :=
  (List.range (s.dev.stave n).ready.length).foldl (fun s i =>
    if ((s.dev.stave n).ready[i]?).any fun r => r.reserved.any fun k => clusterOf k == id then
      (s.onStave n fun t => t.onReady i fun r => { r with reserved := [], compacting := r.compacting || decide (3 ≤ r.fails) }).failReady n i
    else s) s

/-- Whether a cluster of a stave runs a context outside every instance on a core that is no headstock core of the stave (R125). -/
def State.freeContexts (s : State) (n : BitVec 6) (id : Nat) : Bool :=
  (slotCores (8 * id) 8).any fun k => let c := s.coreAt k
    c.live && c.member.isNone && !s.dev.ownedBy .headstock k n

/-- Every instance on a leaving cluster is moved elsewhere in the stave or, where no slot exists, pre-empted; the second
component says whether an instance or a context outside every instance is suspended. -/
def State.evict (s : State) (n : BitVec 6) (id : Nat) : State × Bool :=
  let cores := slotCores (8 * id) 8
  let r := ((s.dev.stave n).occupants cores).foldl (fun (r : State × Bool) x =>
    if x.2.moving then r
    else
      let dest := (x.1.stages[x.2.stage]?).bind fun g => r.1.slotFor n g [] []
      (r.1.addMove n ⟨x.1.num, x.2.stage, x.2.num, dest, 0, noIssuer⟩, r.2 || dest.isNone)) (s, false)
  (r.1, r.2 || s.freeContexts n id)

/-- A cluster starts to leave: the stave's last one ends its jobs (R126). The second component says whether a context is suspended. -/
def State.drainCluster (s : State) (n : BitVec 6) (id : Nat) : State × Bool :=
  let last := s.dev.clustersHeld n == [id]
  let s := { s with dev := s.dev.setOwn (.cluster, id) .draining n }
  if last then ((s.dev.stave n).jobs.foldl (fun s j => s.endJob n j.num 0x24 0) s, s.freeContexts n id)
  else (s.loseReserved n id).evict n id

/-- A context is discarded and its core stops; the core keeps its logical number. -/
def State.discard (s : State) (k : Nat) : State :=
  let s := s.dropL1 k
  let c := s.coreAt k
  (((s.countRetired c).onCore k fun c => { Core.reset with lcore := c.lcore }).moveIssuers c.stave k deadCore).dropHeld c

/-- A unit starts to leave. -/
def State.leaveUnit (s : State) (n : BitVec 6) (u : UnitKind × Nat) : State × Bool :=
  match u.1 with
  | .cluster => s.drainCluster n u.2
  | .granule => ({ s with dev := (s.dev.leaveRanges u.2).setOwn u .scrub n }.dropLines fun l => l < 2 ^ 31 && granuleOf (128 * l) == u.2, false)
  | .way => ({ s with dev := s.dev.setOwn u .scrub n }, false)
  | .headstock => ({ s with dev := s.dev.setOwn u .scrub n }.discard u.2, false)

/-- Whether a stave's table in force, or its next one, names a slice. -/
def Stave.namesSlice (t : Stave) (id : Nat) : Bool :=
  t.buckets.toList.contains (BitVec.ofNat 16 id) || t.trans.any fun x => x.buckets.toList.contains (BitVec.ofNat 16 id)

/-- Why STVSHRINK must not take a unit. -/
def State.unitInUse (s : State) (n : BitVec 6) (u : UnitKind × Nat) : Bool :=
  match u.1 with
  | .cluster =>
    s.dev.clustersHeld n != [u.2] &&
      ((s.dev.stave n).namesSlice u.2 || (s.dev.headstocks n).any fun k => clusterOf k == u.2)
  | .headstock => s.dev.headstocks n == [u.2] && !(s.dev.clustersHeld n).isEmpty
  | .granule | .way => false

/-- STVSHRINK. The shrink that a QUAR runs itself is none in progress (log 101, DESIGN CHOICE). -/
def shrinkAct (w sync : W64) (s : State) : ShopStatus × State :=
  let n := reqStave w
  let us := reqUnits w
  let st (u : UnitKind × Nat) := s.dev.ownState u.1 u.2 n
  let t := s.dev.stave n
  if reqBad w then (.badArg, s)
  else if (reqKind w == 0 && (t.trans.isSome || t.shrinks.any fun x => !x.quar && reqKind x.word == 0)) ||
      us.any (fun u => st u == some .draining) then (.busy, s)
  else if !us.all (fun u => st u == some .owned) then (.notOwned, s)
  else if us.any (s.unitInUse n) then (.inUse, s)
  else
    let who := s.issuer
    let r := us.foldl (fun (r : State × Bool) u => let x := r.1.leaveUnit n u
      (x.1, r.2 || x.2)) (s, false)
    (.ok, r.1.onStave n fun t => { t with shrinks := t.shrinks ++ [(⟨w, sync, who, r.2, false⟩ : Shrink)] })

/-! ## Completion (R121, R125, R134) -/

/-- Whether everything that a shrink, or a QUAR, waits for has left. -/
def State.shrunk (s : State) (n : BitVec 6) (x : Shrink) : Bool :=
  if x.quar then
    if field x.word 28 4 = 1 then !(s.dev.stave n).holdsCore (field x.word 26 2 * 2048 + field x.word 18 8 * 8 + field x.word 15 3)
    else s.dev.ownState .cluster (field x.word 26 2 * 256 + field x.word 18 8) n != some .draining
  else (reqUnits x.word).all fun u => (s.dev.own u.1 u.2).isNone

/-- Shrinks of a stave that have completed advance their sync objects, and STAVE_MOVED is raised (R394). (Log 69, DEDUCED.) -/
def State.settleShrinks (s : State) (n : BitVec 6) : State :=
  let ended := (s.dev.stave n).shrinks.filter fun x => s.shrunk n x
  let s := s.onStave n fun t => { t with shrinks := t.shrinks.filter fun x => !ended.contains x }
  ended.foldl (fun s x => (s.completeOp x.who x.sync (bit x.suspended)).staveMoved n x.word) s

/-- A stave without clusters closes (R126): its headstock cores leave with their contexts, its map, masks and buckets return to
their reset values. -/
def State.closeStave (s : State) (n : BitVec 6) : State :=
  let s := (s.dev.headstocks n).foldl (fun s k => ({ s with dev := s.dev.setOwn (.headstock, k) .scrub n }).discard k) s
  let own (sid : BitVec 16) : Bool := sid.extractLsb' 10 6 == n
  let d := s.dev
  let s := s.dropLines fun l => d.dir.any (fun x => x.line == l && own x.sid) || d.l2.any (fun x => x.line == l && own x.sid) ||
    d.llc.any fun x => x.line == l && own x.sid
  let s := (s.dev.stave n).absent.foldl (fun s x => s.freeAbsent n x.1) s
  let s := (s.dev.stave n).saved.foldl (fun s x => s.freeSaved n x.1) s
  s.onStave n fun t => { t with
    smask := .replicate 10 0, buckets := .replicate 1024 0, trans := none, map := [], ready := [], moves := [] }

/-- A draining cluster that no context holds any more enters SCRUB (R125): its map entries end (R108). The last cluster waits
for the completion records of the stave's jobs (R126). What has otherwise completed is settled. -/
def State.clusterDrained (s : State) (id : Nat) : State :=
  match s.dev.own .cluster id with
  | none => s
  | some o =>
    let n := o.stave
    let cores := slotCores (8 * id) 8
    let empty := cores.all fun k => !(s.dev.stave n).holdsCore k && (!(s.coreAt k).live || s.dev.ownedBy .headstock k n)
    if o.st ≠ .draining ∨ !empty then s.settleShrinks n
    else
      let last := s.dev.clustersHeld n == [id]
      if last && !(s.dev.stave n).jobs.isEmpty then s
      else
        let s := { s with dev := s.dev.setOwn (.cluster, id) .scrub n }
        let s := s.onStave n fun t => { t with map := t.map.filter fun e =>
          !(e.2.getLsbD 15 && !e.2.getLsbD 14 && clusterOf (e.2.toNat % 8192) == id) }
        let s := ((s.dev.headstocks n).filter fun k => clusterOf k == id).foldl (fun s k =>
          ({ s with dev := s.dev.setOwn (.headstock, k) .scrub n }).discard k) s
        let s := if last then s.closeStave n else s
        s.settleShrinks n

/-- What scrubbing clears (R117). (Log 71, DESIGN CHOICE.) -/
def State.scrub (s : State) (u : UnitKind × Nat) : State :=
  match u.1 with
  | .cluster =>
    let cores := slotCores (8 * u.2) 8
    let s := cores.foldl (fun s k => (s.dropL1 k).setCore k Core.reset) s
    let pats (p : Pattern) : Pattern := { p with entries := p.entries.filter fun e => e.home != u.2 }
    let job (j : Job) : Job := { j with pats := j.pats.map pats }
    let staves : List (Nat × Stave) := s.dev.staves.map fun t => (t.1, { t.2 with jobs := t.2.jobs.map job })
    let slice := 8192 + u.2
    let d := s.dev
    let s := { s with dev := { d with
      tlbs := assocErase u.2 d.tlbs, staves := staves, l2 := d.l2.filter (fun x => x.slice != u.2),
      unread := d.unread.filter fun x => x.holder != slice && !cores.contains x.holder } }
    (s.dev.dir.filter fun x => x.has slice != 0).foldl (fun s x => s.putDir (x.drop slice 0xFFFF)) s
  | .granule =>
    let base := u.2 * 2 ^ 26
    let s := s.dropLines fun l => l < 2 ^ 31 && granuleOf (128 * l) == u.2
    { s with dev := { s.dev with
        mem := s.dev.mem.zero base (2 ^ 26),
        poison := s.dev.poison.filter fun w => !decide (base ≤ 8 * w ∧ 8 * w < base + 2 ^ 26) } }
  | .way => { s with dev := { s.dev with llc := s.dev.llc.filter fun x => x.way != u.2 } }
  | .headstock => s

/-- A scrubbed unit becomes FREE, but a quarantined one never (R134). -/
def State.scrubComplete (s : State) (u : UnitKind × Nat) : State :=
  match s.dev.own u.1 u.2 with
  | none => s
  | some o =>
    if o.st ≠ .scrub then s
    else
      let bad := match u.1 with
        | .cluster => s.dev.badCluster u.2
        | .granule => s.dev.badChannel u.2
        | .way => s.dev.quarantined.contains (llcUnit (u.2 / 32))
        | .headstock => s.dev.badHeadstock u.2
      let s := s.scrub u
      (if bad then s else { s with dev := s.dev.freeUnit u }).settleShrinks o.stave

/-- The unit kind that a number names. -/
def unitKind (k : BitVec 2) : UnitKind :=
  match k.toNat with
  | 0 => .cluster | 1 => .granule | 2 => .way | _ => .headstock

/-! ## STVMAP (R127) -/

/-- A core of a stave's clusters. -/
def State.inStave (s : State) (n : BitVec 6) (k : Nat) : Bool := s.dev.ownedBy .cluster (clusterOf k) n

/-- STVMAP: x and y are g[a] and g[b]. -/
def mapAct (x y : W64) (s : State) : ShopStatus × State :=
  let n : BitVec 6 := x.extractLsb' 0 6
  let l := field x 16 13
  let e : BitVec 16 := y.setWidth 16
  let k := field y 0 13
  let t := s.dev.stave n
  let old := t.entry l
  if !zeroAt x 6 10 || !zeroAt x 29 35 || !zeroAt y 16 48 || e.getLsbD 14 || e.getLsbD 13 ||
      (e.getLsbD 15 && decide (200 ≤ field y 3 8)) then (.badArg, s)
  else if e.getLsbD 15 && !s.inStave n k then (.notOwned, s)
  else if (e.getLsbD 15 && t.map.any fun m => m.1 != l && t.coreOf? m.1 == some k) ||
      old.getLsbD 14 || (t.coreOf? l).any fun q => (s.coreAt q).live then (.inUse, s)
  else
    let s := match t.coreOf? l with
      | some q => s.onCore q fun c => { c with lcore := 0 }
      | none => s
    let s := s.onStave n fun t => { t with map := if e = 0 then assocErase l t.map else assocSet l e t.map }
    (.ok, if e.getLsbD 15 then s.onCore k fun c => { c with lcore := BitVec.ofNat 13 l } else s)

/-! ## RHASH (R128 to R131) -/

/-- Bucket entries, masks and sync object of a next-table block. -/
def nextBuckets (x : Nat) : Vector (BitVec 16) 1024 := (Vector.range 1024).map fun i => BitVec.ofNat 16 (x / 2 ^ (16 * i))
def nextMasks (x : Nat) : Vector W64 10 := (Vector.range 10).map fun i => w64 (x / 2 ^ (8 * 0x800 + 64 * i))
def nextSync (x : Nat) : W64 := w64 (x / 2 ^ (8 * 0x850))

/-- Whether an entry or a mask of a block breaks its layout (Tables 3 and 4 of 05), or its sync object is misaligned; its last bytes are
ignored (R9). -/
def badBlock (x : Nat) : Bool :=
  (nextBuckets x).toList.any (fun e => !zeroAt e 10 6 || decide (200 ≤ field e 0 8)) ||
    (nextMasks x).toList.any (fun m => !zeroAt m 52 12 || !zeroAt m 0 7) || (nextSync x).toNat % 16 != 0

/-- RHASH.BEGIN from its block on. The shrink that a QUAR runs itself is no STVSHRINK in progress (log 101, DESIGN CHOICE). The transition
is forked after what the core has stored (R354). -/
def beginAct (w : W64) (x : Nat) (s : State) : ShopStatus × State :=
  let n : BitVec 6 := w.extractLsb' 0 6
  let t := s.dev.stave n
  if !zeroAt w 6 58 || badBlock x then (.badArg, s)
  else if t.trans.isSome || t.shrinks.any (fun y => !y.quar && reqKind y.word == 0) then (.busy, s)
  else if !(nextBuckets x).toList.all (fun e => s.dev.ownedBy .cluster e.toNat n) then (.notOwned, s)
  else
    let tr : Transition := ⟨nextMasks x, nextBuckets x, nextSync x, s.issuer, [], false⟩
    (.ok, s.selfRelease.onStave n fun t => { t with trans := some tr })

/-- RHASH.BEGIN. -/
def rhashBeginBody (d a b : Reg) (s : State) : Res := settle do
  let va := s.g b
  aligned s va 128
  let (x, s) ← s.noPol.readBytes 18 va 2176
  let r := beginAct (s.g a) x s
  return put d r.1.code r.2

/-- RHASH.COMMIT: it waits while a request of the transition is still at its home. -/
def rhashCommitBody (d a : Reg) (s : State) : Res :=
  let w := s.g a
  let n : BitVec 6 := w.extractLsb' 0 6
  let hostWait (k : Nat) : Bool := (s.coreAt k).stave == n && match (s.coreAt k).wait with
    | some (.host _ _) => true
    | _ => false
  match (s.dev.stave n).trans with
  | none => put d ShopStatus.badArg.code s
  | some x =>
    if !zeroAt w 6 58 then put d ShopStatus.badArg.code s
    else if !x.swept then put d ShopStatus.notComplete.code s
    else if s.cores.any hostWait then .wait .rhash s
    else put d 0 (s.onStave n fun t => { t with smask := x.masks, buckets := x.buckets, trans := none })

/-- Lines that the sweepers of a stave have still to hand over: those with a directory entry, a copy in a slice or a pattern entry at a
home that the next table changes, and the key blocks (R130, R316). -/
def State.toHand (s : State) (n : BitVec 6) : List Nat :=
  let t := s.dev.stave n
  let own (sid : BitVec 16) : Bool := sid.extractLsb' 10 6 == n
  let held := (s.dev.dir.filter fun d => own d.sid).map (·.line) ++ (s.dev.l2.filter fun x => own x.sid).map (·.line) ++
    t.jobs.flatMap fun j => j.pats.toList.flatMap fun p => p.entries.map (·.line)
  insertNats (held.filter fun l => s.dev.nextHome n l != some (s.dev.homeOf n l)) (insertNats t.keysToHand [])

/-- Change every pattern of a job, and what a checkpoint keeps of them (R381). -/
def Job.onPats (f : Pattern → Pattern) (j : Job) : Job :=
  { j with pats := j.pats.map f, patsAt := j.patsAt.map fun x => (x.1, f x.2) }

/-- What stands of a line at its old home goes to its new one: its copy, for which a full set gives up a line, and its pattern entries. -/
def State.moveLine (s : State) (n : BitVec 6) (line : Nat) : State :=
  let home := (s.dev.nextHome n line).getD 0
  let pats (p : Pattern) : Pattern :=
    { p with entries := p.entries.map fun e => if e.line = line then { e with home := home } else e }
  let s := s.onStave n fun t => { t with jobs := t.jobs.map (Job.onPats pats) }
  if !s.dev.l2.any fun x => x.line == line then s
  else
    let s := match s.sliceVictim home line with
      | some v => { s with fresh := s.fresh + 1 }.sliceOut v
      | none => s
    let l2 := s.dev.l2.map fun x => if x.line = line then { x with slice := home } else x
    { s with dev := { s.dev with l2 := l2 } }

/-- A line or a key block is handed over (R130). When nothing is left, the transition completes. (Log 82, DEDUCED.) -/
def State.handOver (s : State) (n : BitVec 6) (line : Nat) : State :=
  match (s.dev.stave n).trans with
  | none => s
  | some x =>
    if x.swept then s
    else
      let s := if (s.toHand n).contains line then
          (s.moveLine n line).onStave n fun t => { t with
            trans := t.trans.map fun y => { y with handed := insertNat line y.handed } }
        else s
      if (s.toHand n).isEmpty then
        (s.onStave n fun t => { t with trans := t.trans.map fun y => { y with swept := true } }).completeOp x.who x.sync 0
      else s

/-! ## MIGRATE (R132) -/

/-- The instance of which a logical core is member 0 and whose members are placed. -/
def Stave.ledBy (t : Stave) (l : BitVec 13) : Option (Job × Inst) :=
  t.jobs.findSome? fun j => (j.insts.find? fun i => i.first == l && !i.cores.isEmpty).map fun i => (j, i)

/-- MIGRATE: the move is forked after what the core has stored (R354). -/
def migrateAct (w sync : W64) (s : State) : ShopStatus × State :=
  let n : BitVec 6 := w.extractLsb' 0 6
  let c := field w 32 13
  if !zeroAt w 6 10 || !zeroAt w 29 3 || !zeroAt w 45 19 || decide (200 ≤ field w 35 8) then (.badArg, s)
  else
    match (s.dev.stave n).ledBy (w.extractLsb' 16 13) with
    | none => (.badArg, s)
    | some (j, i) =>
      let width := i.lcores.length
      if c % width ≠ 0 then (.badArg, s)
      else if i.moving then (.busy, s)
      else if s.me.ctl.mode = .stave ∧ n ≠ s.me.stave then (.notOwned, s)
      else if !(slotCores c width).all (s.coreFree n []) then (.noRoom, s)
      else (.ok, s.selfRelease.addMove n ⟨j.num, i.stage, i.num, some c, sync, s.issuer⟩)

/-! ## QUAR (R134, R435 to R439) -/

/-- Whether a unit identifier is out of range (R85). -/
def unitBad (u : W64) : Bool :=
  let kind := field u 28 4
  let cl := field u 18 8
  !zeroAt u 32 32 || kind == 0 || decide (7 ≤ kind) || (kind != 1 && !zeroAt u 15 3) ||
    (if kind = 1 ∨ kind = 2 ∨ kind = 4 then decide (200 ≤ cl) else cl != 0) ||
    (kind == 1 && !zeroAt u 0 15) || (kind == 3 && decide (64 ≤ field u 0 15))

/-- Mark a unit quarantined. -/
def State.mark (s : State) (u : BitVec 32) : State :=
  if s.dev.quarantined.contains u then s
  else { s with dev := { s.dev with quarantined := s.dev.quarantined ++ [u] } }

/-- The stave that owns a cluster. -/
def Dev.ownerOf (d : Dev) (id : Nat) : Option (BitVec 6) :=
  (d.own .cluster id).bind fun o => if o.st = .owned ∨ o.st = .draining then some o.stave else none

/-- Words that an agent which can be reached no more holds in M or O are poisoned at the home (R437).
(Log 80, DEDUCED.) -/
def State.poisonHeld (s : State) (k : Nat) : State :=
  let words := s.dev.dir.flatMap fun d => d.segs.flatMap fun g =>
    if g.owner == some k && (g.st == .m || g.st == .o) then (onesOf 16 (spanMask g.lo g.hi).toNat).map fun i => 16 * d.line + i else []
  { s with dev := { s.dev with poison := insertNats words s.dev.poison } }

/-- The instance on a quarantined core is requeued (R439): it is pre-empted, and one migration is counted. -/
def State.requeue (s : State) (n : BitVec 6) (k : Nat) : State :=
  ((s.dev.stave n).occupants [k]).foldl (fun s x =>
    let s := s.onStave n fun t => t.onJob x.1.num fun j => { j with nmigrations := j.nmigrations + 1 }
    let s := s.onStave n fun t => { t with moves := t.moves.filter fun m =>
      !(m.job == x.1.num && m.stage == x.2.stage && m.inst == x.2.num && m.sync == 0) }
    s.addMove n ⟨x.1.num, x.2.stage, x.2.num, none, 0, noIssuer⟩) s

/-- A channel leaves service: its lines are dropped, their dirty words poisoned (R438). -/
def State.quarChannel (s : State) (ch : Nat) : State :=
  let on (l : Nat) : Bool := decide (l < 2 ^ 31) && granuleOf (128 * l) / 16 == ch
  let dirty := (s.dev.dir.filter fun d => on d.line).flatMap fun d => d.segs.flatMap fun g =>
    (onesOf 16 g.dirty.toNat).map fun i => 16 * d.line + i
  let kept := (s.dev.l2.map fun x => (x.line, x.dirty)) ++ s.dev.llc.map fun x => (x.line, x.dirty)
  let below := (kept.filter fun x => on x.1).flatMap fun x => (onesOf 16 x.2.toNat).map fun i => 16 * x.1 + i
  { s with dev := { s.dev with poison := insertNats (dirty ++ below) s.dev.poison } }.dropLines on

/-- The spare cluster of a die that is enabled: the lowest-numbered one that can be (log 104, DESIGN CHOICE). -/
def Dev.spareOn (d : Dev) (die : Nat) : Option Nat :=
  (insertNats d.spareMap []).find? fun c => c / 256 == die && !d.spares.contains c && !d.badCluster c

/-- A spare's slice stands for another in the tables of a stave, with what that slice holds. -/
def State.swapSlice (s : State) (n : BitVec 6) (id spare : Nat) : State :=
  let swap (e : BitVec 16) : BitVec 16 := if e.toNat % 1024 = id then BitVec.ofNat 16 spare else e
  let pats (p : Pattern) : Pattern :=
    { p with entries := p.entries.map fun e => if e.home = id then { e with home := spare } else e }
  let l2 : List L2Line := s.dev.l2.map fun x => if x.slice = id then { x with slice := spare } else x
  let name (k : Nat) : Nat := if k = 8192 + id then 8192 + spare else k
  let seg (g : Seg) : Seg := { g with holders := insertNats (g.holders.map name) [] }
  let dir : List DirLine := s.dev.dir.map fun x =>
    { x with segs := x.segs.map seg, valid := x.valid.foldl (fun v h => assocSet (name h.1) h.2 v) [] }
  let unread : List Unread := s.dev.unread.map fun u => { u with holder := name u.holder }
  let s : State := { s with dev := { s.dev with l2 := l2, dir := dir, unread := unread } }
  s.onStave n fun t => { t with
    buckets := t.buckets.map swap,
    trans := t.trans.map fun x => { x with buckets := x.buckets.map swap },
    jobs := t.jobs.map (Job.onPats pats) }

/-- A spare takes over from a cluster (R134): it is enabled and, where a stave owns the cluster, joins it; its slice replaces the
other in the tables, and the cluster leaves. Requests that the join lets retry are tried before the instances that leave take slots
(R424). (Log 72, DESIGN CHOICE.) -/
def State.takeOver (s : State) (id spare : Nat) : State × Bool :=
  let s : State := { s with dev := { s.dev with spares := insertNat spare s.dev.spares } }
  match s.dev.ownerOf id with
  | none => (s, false)
  | some n =>
    let s := (s.joinCluster n spare).swapSlice n id spare
    if s.dev.ownState .cluster id n = some .owned then
      let s := (({ s with dev := s.dev.setOwn (.cluster, id) .draining n } : State).loseReserved n id).slotFreed n
      (s.retryReady n (s.dev.stave n).ready.length).evict n id
    else
      let s := s.slotFreed n
      (s.retryReady n (s.dev.stave n).ready.length, false)

/-- A unit leaves service: the stave that waits for its work to leave, and whether a part of it is suspended. A core that holds no instance
loses the words that it owns (R437), and a context of no instance runs on there. (Log 73, DEDUCED.) -/
def State.quarantine (s : State) (u : BitVec 32) : State × Option (BitVec 6 × Bool) :=
  let kind := field u 28 4
  let id := field u 26 2 * 256 + field u 18 8
  let ch := field u 26 2 * 64 + field u 0 15
  let s := s.mark u
  match kind with
  | 1 =>
    let k := 8 * id + field u 15 3
    match s.dev.ownerOf id with
    | none => (s.poisonHeld k, none)
    | some n => ((if ((s.dev.stave n).occupants [k]).isEmpty then s.poisonHeld k else s).requeue n k, some (n, false))
  | 2 | 4 =>
    match s.dev.spareOn (id / 256) with
    | none => (s, none)
    | some sp =>
      let owner := s.dev.ownerOf id
      let r := s.takeOver id sp
      (r.1, owner.map fun n => (n, r.2))
  | 3 => (s.quarChannel ch, none)
  | 6 =>
    let ways := (s.dev.owns.filter fun o => o.kind == .way && o.id / 32 == ch).map fun o => (o.id, o.stave)
    (ways.foldl (fun s w => { s with dev := s.dev.setOwn (.way, w.1) .scrub w.2 }) s, none)
  | _ => (s, none)

/-- QUAR. Of a unit that is quarantined already it completes at once (log 73, DEDUCED). -/
def quarAct (w sync : W64) (s : State) : ShopStatus × State :=
  let u : BitVec 32 := w.setWidth 32
  let id := field u 26 2 * 256 + field u 18 8
  let kind := field u 28 4
  if unitBad w then (.badArg, s)
  else if s.dev.quarantined.contains u then (.ok, s.completeOp s.issuer sync 0)
  else if (kind == 2 || kind == 4) && (s.dev.spareOn (id / 256)).isNone then (.noSpare, s)
  else
    let who := s.issuer
    match s.quarantine u with
    | (s, none) => (.ok, s.completeOp who sync 0)
    | (s, some (n, susp)) =>
      (.ok, (s.onStave n fun t => { t with shrinks := t.shrinks ++ [(⟨w, sync, who, susp, true⟩ : Shrink)] }).settleShrinks n)

/-! ## Bandwidth windows (R115) -/

/-- A window of 1,024 cycles begins: budgets are renewed, less what a router owes of requests that were sent beyond them (log 22, DESIGN
CHOICE). -/
def State.renew (s : State) : State :=
  let owed (b : Nat × Nat) : Nat × Nat :=
    (b.1, b.2 - ((s.dev.ownerOf (b.1 % 1024)).map fun n => (s.dev.stave n).limit (decide (1024 ≤ b.1))).getD b.2)
  if boundaryDue s.dev.cycle 1024 s.dev.renewed then
    { s with dev := { s.dev with budget := (s.dev.budget.map owed).filter fun b => b.2 != 0, renewed := s.dev.cycle.toNat } }
  else s

/-! ## The instructions and steps -/

/-- STVGROW (R124). -/
def execStvgrow (d a b : Reg) (s : State) : Out := issue (.stvgrow d a b) (fun s => shopBody d b (growAct (s.g a)) s) s

/-- STVSHRINK (R125). -/
def execStvshrink (d a b : Reg) (s : State) : Out := issue (.stvshrink d a b) (fun s => shopBody d b (shrinkAct (s.g a)) s) s

/-- STVMAP (R127): it takes no sync object. -/
def execStvmap (d a b : Reg) (s : State) : Out :=
  issue (.stvmap d a b) (fun s =>
    let r := mapAct (s.g a) (s.g b) s
    put d r.1.code r.2) s

/-- RHASH.BEGIN (R128). -/
def execRhashBegin (d a b : Reg) (s : State) : Out := issue (.rhashBegin d a b) (rhashBeginBody d a b) s

/-- RHASH.COMMIT (R131). -/
def execRhashCommit (d a : Reg) (s : State) : Out := issue (.rhashCommit d a) (rhashCommitBody d a) s

/-- MIGRATE (R132). -/
def execMigrate (d a b : Reg) (s : State) : Out := issue (.migrate d a b) (fun s => shopBody d b (migrateAct (s.g a)) s) s

/-- QUAR (R134). -/
def execQuar (d a b : Reg) (s : State) : Out := issue (.quar d a b) (fun s => shopBody d b (quarAct (s.g a)) s) s

/-- PRE_EMPTION (R400); a QUAR that waits for it completes (R134). -/
def execPreEmption (core : Nat) (s : State) : Out :=
  event (fun s => (s.preemptAt core).settleShrinks (s.coreAt core).stave) s

/-- MIGRATION (R133). -/
def execMigration (stave : BitVec 6) (i : Nat) (s : State) : Out := event (fun s => (s.runMove stave i).settleShrinks stave) s

/-- LINE_HANDOVER (R130). -/
def execLineHandover (stave : BitVec 6) (line : Nat) (s : State) : Out := event (fun s => s.handOver stave line) s

/-- CLUSTER_DRAINED (R125). -/
def execClusterDrained (cluster : Nat) (s : State) : Out := event (fun s => s.clusterDrained cluster) s

/-- SCRUB_COMPLETE (R117). -/
def execScrubComplete (kind : BitVec 2) (unit : Nat) (s : State) : Out :=
  event (fun s => s.scrubComplete (unitKind kind, unit)) s

/-- BANDWIDTH_WINDOW (R115). -/
def execBandwidthWindow (s : State) : Out := event (fun s => s.renew) s

end Sys2Proof.Machine
end

