-- ==== Sys2Proof/Machine/Errors.lean ====
section
/-! DEFINITION. Detected errors (R426, R435 to R437), triggers and rollbacks (R432 to R434, R381), and the rebuilding of a
directory entry (R436). -/

namespace Sys2Proof.Machine

/-! ## Triggers (R432, R433, R435, R437) -/

/-- Cores that a trigger makes suspect: the trapping core, or both cores of the pair. -/
def State.suspects (s : State) (n : BitVec 6) (k : Nat) (m : Member) (cause : BitVec 8) : List Nat :=
  if cause = 0x0E then [k]
  else if cause = 0x0F then
    let cores := ((((s.dev.stave n).job? m.job).bind fun j => j.inst? m.stage m.inst).map (·.cores)).getD []
    [k, listGet k cores (m.member ^^^ 1)]
  else []

/-- The unit that the completion record names: for a pair its odd core. -/
def suspectUnit (k : Nat) (cause : BitVec 8) : BitVec 32 :=
  if cause = 0x0F then coreUnit (k / 2 * 2 + 1) else coreUnit k

/-- Status of a job that a trigger ends. -/
def triggerStatus (cause : BitVec 8) : Nat := if cause = 0x0E then 0x20 else if cause = 0x0F then 0x21 else 0x22

/-- ROLLBACK acts on the trigger that the member on core k has met: its domain goes back in a protected superstep that is no
repetition; otherwise POISON traps, and any other trigger ends the job. An error that CTXSW at core k reads in the area of a member is
that member's (R434). -/
def State.actOnTrigger (s : State) (k : Nat) : State :=
  let c := s.coreAt k
  let n := c.stave
  match c.wait, c.member with
  | some (.trigger cause val), some m =>
    match (s.dev.stave n).job? m.job with
    | none => s
    | some j =>
      let bad := s.suspects n k m cause
      let dom := (j.ckpt? m).bind fun d => if d.ck.unprot || d.ck.rerun then none else some d
      let s := bad.foldl (fun s k => (s.mark (coreUnit k)).poisonHeld k) s
      let s := if bad.isEmpty then s else s.blame n m.job (suspectUnit k cause)
      match dom with
      | some d =>
        let s := s.rollBack n j d
        if bad.isEmpty then s else s.preemptInst n m.job m.stage m.inst
      | none =>
        if cause = 0x10 then s.raiseAt k .poison val
        else s.endJob n m.job (triggerStatus cause) val
  | some (.area addr), _ =>
    match (s.dev.stave n).savedAt addr with
    | some m => s.restoreError n m (channelUnit (granuleOf addr / 16)) addr
    | none => s
  | _, _ => s

/-! ## Directory entries (R436) -/

/-- The words of a line that a core answers a probe with: those that its L1 holds modified, of any class. -/
def State.modifiedAt (s : State) (k line : Nat) : BitVec 16 :=
  let own := (s.dev.dir.filter fun d => d.line == line).foldl (fun m d => d.segs.foldl (fun m g =>
    if g.owner == some k then m ||| g.dirty else m) m) (0 : BitVec 16)
  ((s.coreAt k).l1.filter fun w => w.word / 16 == line && w.dirty != 0).foldl (fun m w => m ||| spanMask (w.word % 16) (w.word % 16)) own

/-- Every copy of a line is invalidated, its modified data are the home's, and its entry has one segment in I; a word for which
several modified copies answer is poisoned. -/
def State.rebuild (s : State) (line : Nat) : State :=
  let answers := s.cores.map fun k => s.modifiedAt k line
  let several := (List.range 16).filter fun i => decide (1 < (answers.filter fun m => m.getLsbD i).length)
  let s := s.tearUnread line (-1) fun _ => true
  let s := s.selfOutAll fun w => w.word / 16 == line
  { s with dev := { s.dev with
      dir := s.dev.dir.filter fun d => d.line != line
      poison := insertNats (several.map fun i => 16 * line + i) s.dev.poison } }

/-! ## Detected errors (R426, R434, R435) -/

/-- A corrected error is counted; a unit whose count passes the threshold is quarantined (R435). 0 stands for a threshold that shop
firmware has not set. (Log 79, DESIGN CHOICE.) -/
def State.corrected (s : State) (u : BitVec 32) : State :=
  let old := ((s.dev.errors.find? fun x => x.1 == u).map (·.2)).getD 0
  let s := { s with dev := { s.dev with errors := (u, old + 1) :: s.dev.errors.filter fun x => x.1 != u } }
  if s.dev.errorLimit ≠ 0 ∧ s.dev.errorLimit < old + 1 ∧ !s.dev.quarantined.contains u then (s.quarantine u).1 else s

/-- The core that a unit identifier names. -/
def unitCore (u : BitVec 32) : Nat := field u 26 2 * 2048 + field u 18 8 * 8 + field u 15 3

/-- An uncorrectable data word is poisoned: in the local memory of a core, a SELF word in its L1, or a word of memory, of the host's where
the device holds its line. -/
def State.badWord (s : State) (u : BitVec 32) (addr : Nat) : State :=
  let w := addr / 8
  if field u 28 4 = 1 ∧ addr < 0x30000 then
    s.onCore (unitCore u) fun c => { c with loc := { c.loc with poison := insertNat w c.loc.poison } }
  else if field u 28 4 = 1 && (s.coreAt (unitCore u)).l1.any fun x => x.word == w then
    s.onCore (unitCore u) fun c => { c with l1 := c.l1.map fun x => if x.word = w then { x with bad := true } else x }
  else if addr < 2 ^ 38 || s.dev.devHolds.contains (addr / 64) then
    { s with dev := { s.dev with poison := insertNat w s.dev.poison } }
  else s

/-- Words of a line as physical word numbers. -/
def wordsIn (line : Nat) (m : BitVec 16) : List Nat := (onesOf 16 m.toNat).map fun i => 16 * line + i

/-- Lines that an L2 slice or the LLC holds and a test selects are dropped, with their dirty words poisoned. -/
def State.dropCached (s : State) (inL2 : L2Line → Bool) (inLlc : LlcLine → Bool) : State :=
  let d := s.dev
  let bad := ((d.l2.filter inL2).flatMap fun x => wordsIn x.line x.dirty) ++ (d.llc.filter inLlc).flatMap fun x => wordsIn x.line x.dirty
  { s with dev := { d with
      l2 := d.l2.filter (fun x => !inL2 x), llc := d.llc.filter (fun x => !inLlc x), poison := insertNats bad d.poison } }

/-- Whether a translation leads to the page of a physical address. -/
def TlbEntry.reaches (t : TlbEntry) (addr : Nat) : Bool := pteFrame t.pte / 2 ^ (12 + 9 * t.level) == addr / 2 ^ (12 + 9 * t.level)

/-- An uncorrectable cache tag or TLB entry of a core, of a cluster with its slice, or of a channel's LLC is dropped; dirty words of
the line are poisoned. -/
def State.badTag (s : State) (u : BitVec 32) (addr : Nat) : State :=
  let line := addr / 128
  if field u 28 4 = 1 then
    let k := unitCore u
    let c := s.coreAt k
    let self := (c.l1.filter fun w => w.word / 16 == line && w.dirty != 0).map (·.word)
    let owned := (s.dev.dir.filter fun d => d.line == line).flatMap fun d => d.segs.flatMap fun g =>
      if g.owner == some k then wordsIn line g.dirty else []
    let dir := s.dev.dir.map fun d => if d.line = line then d.drop k (-1) else d
    let s := { s with dev := { s.dev with dir := dir, poison := insertNats (self ++ owned) s.dev.poison } }
    s.onCore k fun c => { c with
      l1 := c.l1.filter (fun w => w.word / 16 != line), icache := c.icache.filter (fun x => x.line != line),
      tlb := c.tlb.filter fun t => !t.reaches addr }
  else if field u 28 4 = 2 then
    let id := field u 26 2 * 256 + field u 18 8
    let s := s.dropCached (fun x => x.slice == id && x.line == line) fun _ => false
    { s with dev := { s.dev with
        tlbs := s.dev.tlbs.map fun x => if x.1 = id then (x.1, x.2.filter fun t => !t.reaches addr) else x } }
  else s.dropCached (fun _ => false) fun x => x.line == line

/-- An entry of a line in the pattern table of a slice is dropped, with its note: no push, no tear-out. Which of the line's entries the
error has met is not stated (log 109, DESIGN CHOICE). -/
def State.badPattern (s : State) (u : BitVec 32) (line : Nat) : State :=
  let slice := field u 26 2 * 256 + field u 18 8
  let found : List (Nat × BitVec 6 × Nat × PatEntry) := s.dev.staves.flatMap fun t => t.2.jobs.flatMap fun j =>
    j.pats.toList.zipIdx.flatMap fun p => (p.1.entries.filter fun e => e.line == line && e.home == slice).map fun e => (t.1, j.num, p.2, e)
  match found[Config.freeIndex s.fresh % found.length]? with
  | none => s
  | some (n, job, i, e) =>
    let same (x : PatEntry) : Bool := x.line == e.line && x.producer == e.producer
    let s := { s with fresh := s.fresh + 1 }.onStave (BitVec.ofNat 6 n) fun t => t.onJob job fun j =>
      let p := j.onPat i fun p => { p with entries := p.entries.filter fun x => !same x }
      { p with patsAt := p.patsAt.map fun (x : Nat × Pattern) => if x.1 = i then (x.1, { x.2 with entries := x.2.entries.filter fun y => !same y }) else x }
    match ((s.dev.stave (BitVec.ofNat 6 n)).coreOf? e.producer.toNat) with
    | some k => s.onCore k fun c => { c with notes := c.notes.filter fun x => !(x.job == job && x.pat.toNat == i && x.line == line) }
    | none => s

/-- An error in a save area, read by a restore (R434). -/
def State.badArea (s : State) (u : BitVec 32) (addr : Nat) : State :=
  match s.dev.staves.findSome? fun t => (t.2.savedAt addr).map fun m => (BitVec.ofNat 6 t.1, m) with
  | none => s
  | some (n, m) => s.restoreError n m u addr

/-- The error logic acts on an error: site is the row of Table 1 of 22. -/
def State.onError (s : State) (u : BitVec 32) (site : BitVec 3) (good : Bool) (addr : Nat) : State :=
  if good then s.corrected u
  else
    match site.toNat with
    | 0 => s.badWord u addr
    | 1 =>
      let k := unitCore u
      let c := s.coreAt k
      if field u 28 4 ≠ 1 || !c.live || c.stopped || c.finished then s
      else
        let s := match c.member with
          | some m => s.blame c.stave m.job u
          | none => s
        s.raiseAt k .uncorrectable 0
    | 2 => s.badTag u addr
    | 3 => s.rebuild (addr / 128)
    | 4 => s.badPattern u (addr / 128)
    | 5 => s.badArea u addr
    | _ => s

/-! ## The steps -/

/-- ROLLBACK (R432, R433). -/
def execRollback (core : Nat) (s : State) : Out := event (fun s => s.actOnTrigger core) s

/-- ERROR_DETECTED (R426). -/
def execErrorDetected (unit : BitVec 32) (site : BitVec 3) (corrected : Bool) (addr : Nat) (s : State) : Out :=
  event (fun s => s.onError unit site corrected addr) s

/-- DIRECTORY_REBUILD (R436). -/
def execDirectoryRebuild (line : Nat) (s : State) : Out := event (fun s => s.rebuild line) s

end Sys2Proof.Machine
end

