-- ==== Sys2Proof/Machine/LoadStore.lean ====
section
/-! DEFINITION. Loads, stores, gathers, cache operations and atomics (11_memory: R283 to R289). -/

namespace Sys2Proof.Machine

/-! ## Loads and stores (R283 to R285) -/

/-- A loaded value extended to 64 bits. -/
def extend (n : Nat) (sx : Bool) (x : Nat) : W64 := if sx then BitVec.ofInt 64 (signedOf (8 * n) x) else w64 x

/-- A load to a general register; vol: at the point of coherence (R285); acq: an acquire follows (R284, R276). -/
def loadReg (d : Reg) (va : W64) (n : Nat) (sx vol acq : Bool) (s : State) : Res := settle do
  let (pl, s) ← s.place va n .read true
  let (x, s) ← s.readPlace pl va n vol
  return put d (extend n sx x) (if acq then s.acquire else s)

/-- A store of a general register; at a copy-channel aperture it starts a copy (R294). -/
def storeReg (x : W64) (va : W64) (n : Nat) (vol : Bool) (s : State) : Except Res State := do
  let (pl, s) ← s.place va n .write true
  match pl with
  | .aperture c => do
    let s ← s.volReady vol
    s.paired .aperture va n x.toNat fun s => s.startCopy c x
  | .own _ | .table _ | .far _ _ | .phys _ _ _ _ => s.storeAt pl va n (x.toNat % 256 ^ n) vol true

/-- ST and STVOL. -/
def stBody (src : Reg) (va : W64) (n : Nat) (vol : Bool) (s : State) : Res := settle do
  let s ← storeReg (s.g src) va n vol s
  return s.ok

/-- `.rel` on ST (R284): the release comes first; a SELF byte that the store itself writes goes through with it (R276). -/
def stRelBody (a b : Reg) (n : Nat) (s : State) : Res := settle do
  let va := s.g a
  let (_, s) ← s.place va n .write true
  let s ← s.release
  let s ← storeReg (s.g b) va n false s
  return s.selfRelease.ok

/-- LDV. -/
def ldvBody (d : Reg) (va : W64) (s : State) : Res := settle do
  let (x, s) ← s.load va 64
  return (s.setV d.toNat (BitVec.ofNat 512 x)).ok

/-- STV: the source may be an operand queue. -/
def stvBody (src : Reg) (va : W64) (s : State) : Res := settle do
  let (x, s) ← s.vsrc src
  let s ← s.storeTo va 64 x.toNat
  return s.ok

/-! ## GATH and SCAT (R286) -/

/-- The address of an element. -/
def elemAddr (base : W64) (n idx : Nat) : W64 := base + BitVec.ofInt 64 (signedOf n idx * (n / 8 : Nat))

/-- Elements of GATH from the one that PIX names: each is committed with PIX. (Log 30, DEDUCED.) -/
def gathFrom (d : Reg) (base : W64) (n : Nat) (mask : List Bool) (idx : List Nat) : Nat → Nat → State → Except Res State
  | 0, _, s => .ok s
  | k + 1, i, s => do
    let s ← s.element
    if mask.getD i false then
      let (x, s) ← s.load (elemAddr base n (idx.getD i 0)) (n / 8)
      gathFrom d base n mask idx k (i + 1) { (s.setLane d n i x).answered with me.ctl.pix := w64 (i + 1) }
    else gathFrom d base n mask idx k (i + 1) { s with me.ctl.pix := w64 (i + 1) }

/-- Elements of SCAT in ascending index. -/
def scatFrom (base : W64) (n : Nat) (mask : List Bool) (idx data : List Nat) : Nat → Nat → State → Except Res State
  | 0, _, s => .ok s
  | k + 1, i, s => do
    let s ← s.element
    if mask.getD i false then
      let s ← s.storeTo (elemAddr base n (idx.getD i 0)) (n / 8) (data.getD i 0)
      scatFrom base n mask idx data k (i + 1) { s.answered with me.ctl.pix := w64 (i + 1) }
    else scatFrom base n mask idx data k (i + 1) { s with me.ctl.pix := w64 (i + 1) }

/-- GATH (R286). -/
def gathBody (d a b : Reg) (p : PReg) (ty : ElemTy) (s : State) : Res := settle do
  let (y, s) ← s.vsrc b
  let n := ElemTy.width ty
  let L := ElemTy.lanes ty
  let i := field s.me.ctl.pix 0 6
  let s ← gathFrom d (s.g a) n (s.me.mask p L) (lanesOf n y) (L - i) i s
  return { s with me.ctl.pix := 0 }.ok

/-- SCAT (R286): d is the data source and takes its queue entry first (R20). -/
def scatBody (d a b : Reg) (p : PReg) (ty : ElemTy) (s : State) : Res := settle do
  let (x, s) ← s.vsrc d
  let (y, s) ← s.vsrc b
  let n := ElemTy.width ty
  let L := ElemTy.lanes ty
  let i := field s.me.ctl.pix 0 6
  let s ← scatFrom (s.g a) n (s.me.mask p L) (lanesOf n y) (lanesOf n x) (L - i) i s
  return { s with me.ctl.pix := 0 }.ok

/-! ## CACHE (R287) -/

/-- The physical place of an address that PREF and BPREF may bring in: none for windows, pages without a usable mapping or
without r, and granules that the stave does not own; nothing traps or parks. A host line comes shared, or owned; a prefetch returns no value
and is not taken for a host read that a job captures or replays (log 102, DESIGN CHOICE). -/
def State.quietPlace (s : State) (who : Issuer) (va : W64) (own : Bool) : Option (Nat × Nat × MemCls) × State :=
  if 0x100 ≤ field va 48 16 then (none, s)
  else
    match s.translate who.space va.toNat false with
    | .miss _ _ s => (none, s)
    | .hit t s =>
      let pa := t.pa va.toNat
      if !permitted t.pte who.mode .read || !s.dev.reachable who.mode who.stave pa false then (none, s)
      else
        match s.dev.paKind pa with
        | .dram => (some (pa, s.dev.key pa, .ofPte t.pte), s)
        | .host => (some (pa, s.dev.key pa, .ofPte t.pte), s.bring (pa / 128 * 128) 128 own)
        | .peer _ => (none, s)

/-- SELF words of a line that are not in the L1 are brought in. -/
def State.selfFill (s : State) (line : Nat) : State :=
  (List.range 16).foldl (fun s i =>
    let w := 16 * line + i
    if (s.me.selfWord w).isSome then s else s.setSelf ⟨s.me.ctl.sid, w, w64 (s.dev.peek (8 * w) 8), 0, false⟩) s

/-- A line is brought into its home, as MEMPOL lets it allocate there (R279). -/
def State.intoHome (s : State) (line alloc : Nat) : Except Res State :=
  (s.askHome line 0xFFFF 128 false alloc).map fun s => s.request s.me.ctl.sid line 0xFFFF false alloc s.me.llcCode

/-- PREF in its three forms: shared, with ownership, into the home only; under a MEMPOL without allocation in L1 all go no further than
the home (R31, R279). -/
def prefBody (a : Reg) (own l2 : Bool) (s : State) : Res :=
  match s.quietPlace s.issuer (s.g a) (own && !l2) with
  | (none, s) => s.ok
  | (some (_, key, cls), s) => settle do
    let line := key / 128
    let sid := s.me.ctl.sid
    let dl := s.dev.dirLine line sid
    let stays := l2 || s.me.alloc != 0
    match cls with
    | .dir =>
      if stays then return (← s.intoHome line s.me.alloc).ok
      else if dl.holds s.here 0xFFFF && (!own || ownedBy s.here 0xFFFF dl.segs) then return s.ok
      else
        let s ← s.askHome line 0xFFFF 128 false 0
        return (if own then s.serveWrite s.here sid line 0xFFFF else s.serveRead s.here sid line 0xFFFF false).ok
    | .self =>
      if stays then return (← s.intoHome line s.me.alloc).ok
      else if s.selfMiss (128 * line) 128 = 0 then return s.ok
      else return ((← s.intoHome line 0).selfFill line).ok
    | .unc => return (← s.intoHome line (uncAlloc key s.me.alloc)).ok

/-- A request of a cache operation to the home of a line, with n bytes of payload (R115). -/
def State.askClean (s : State) (n : Nat) : Except Res State := if s.fits n then .ok (s.charge n) else .error (.wait .budget s)

/-- Every modified copy of a line, in an L1, in a slice and in the LLC, is written to its channel and stays, clean (R287). -/
def State.cleanLine (s : State) (line : Nat) : State :=
  let s := match s.dev.dir.find? fun x => x.line == line with
    | none => s
    | some dl =>
      let clean (l : List Seg) (g : Seg) : List Seg := match g.owner with
        | some q => cleanSegs q 0xFFFF l
        | none => l
      s.putDir { dl with segs := dl.segs.foldl clean dl.segs }
  let hit (w : L1Word) := w.word / 16 == line
  let s := s.cores.foldl (fun s k => if (s.coreAt k).l1.any hit then s.at k fun s => s.selfClean hit else s) s
  let s := (s.dev.l2.filter fun x => x.line == line && x.dirty != 0).foldl (fun s x =>
    s.channel x.sid line (maskBytes x.dirty) x.dirty 0) s
  { s with dev := { s.dev with
      l2 := s.dev.l2.map (fun x => if x.line = line then { x with dirty := 0 } else x),
      llc := s.dev.llc.map (fun x => if x.line = line then { x with dirty := 0 } else x) } }

/-- The checks of CLEAN and CINV are those of a load (R281, steps 1 to 5), whose size is not given: a byte of translated memory,
the aligned 8 bytes of a window (log 23, DEDUCED). -/
def State.cachePlace (s : State) (va : W64) : Except Res (Place × State) :=
  if field va 48 16 < 0x100 then s.physCheck va .read
  else if field va 48 16 < 0xFFFE then trapHere s .access va
  else
    match s.place (va &&& ~~~(7 : W64)) 8 .read true with
    | .error (.trap c _ s) => trapHere s c va
    | r => r

/-- CLEAN. (Log 49, DEDUCED.) -/
def cleanBody (a : Reg) (s : State) : Res := settle do
  let (pl, s) ← s.noPol.cachePlace (s.g a)
  match pl with
  | .phys _ key .dir _ | .phys _ key .self _ => return ((← s.askClean 0).cleanLine (key / 128)).ok
  | .phys _ _ .unc _ | .own _ | .table _ | .aperture _ | .far _ _ => return s.ok

/-- CINV: the core's dirty words of the line go back, then its copy is dropped. -/
def cinvBody (a : Reg) (s : State) : Res := settle do
  let (pl, s) ← s.noPol.cachePlace (s.g a)
  match pl with
  | .phys _ key .dir _ =>
    let line := key / 128
    match s.dev.dir.find? fun x => x.line == line && x.sid == s.me.ctl.sid with
    | none => return s.ok
    | some dl =>
      let back := dl.segs.foldl (fun m g => if g.owner = some s.here then m ||| g.dirty else m) 0
      let s ← s.askClean (maskBytes back)
      return ((s.tearUnread line 0xFFFF fun h => h == s.here).putDir (dl.drop s.here 0xFFFF)).ok
  | .phys _ key .self _ =>
    let hit (w : L1Word) := w.word / 16 == key / 128
    let s ← s.askClean (8 * (s.me.l1.filter fun w => hit w && w.dirty != 0).length)
    return (s.selfOut hit).ok
  | .phys _ _ .unc _ | .own _ | .table _ | .aperture _ | .far _ _ => return s.ok

/-- CLEAN.p: the line of a local physical address becomes zero, its poison is cleared, every cached copy is dropped. A line on a
quarantined channel faults (R106, R438). -/
def cleanPBody (a : Reg) (s : State) : Res := settle do
  let pa := (s.g a).toNat
  if 2 ^ 38 ≤ pa ∨ s.dev.badChannel (granuleOf pa) then trapHere s .access (s.g a)
  else
    let s ← s.askClean 0
    let line := pa / 128
    let s := s.ckGlobal (128 * line) true
    let s := s.tearUnread line 0xFFFF fun _ => true
    let d := s.dev
    let s := { s with dev := { d with
      mem := d.mem.zero (128 * line) 128
      poison := d.poison.filter fun w => w / 16 != line
      dir := d.dir.filter fun x => x.line != line
      l2 := d.l2.filter fun x => x.line != line
      llc := d.llc.filter fun x => x.line != line
      stored := d.stored.filter fun x => x.1 / 16 != line || d.worldLine (8 * x.1) } }
    return (s.onAll s.cores fun c => { c with l1 := c.l1.filter fun w => w.word / 16 != line }).ok

/-- BPREF (R288): an engine operation. -/
def bprefBody (d a b : Reg) (s : State) : Res :=
  let sync := s.g d
  let n := (s.g b).toNat
  if sync.toNat % 16 ≠ 0 then .trap .misalign sync s
  else if n = 0 ∨ 2 ^ 30 < n then s.ok
  else
    let s := s.selfRelease
    let x : Bpref := ⟨s.issuer, s.g a, n, sync, s.me.alloc, s.me.llcCode, []⟩
    { s with dev := { s.dev with bprefs := s.dev.bprefs ++ [x] } }.ok

/-- Range bytes of line j of a BPREF, lines numbered from the first. -/
def Bpref.bytesIn (x : Bpref) (j : Nat) : Nat :=
  let a := x.addr.toNat % 128
  let lo := if j = 0 then a else 128 * j
  let hi := if 128 * (j + 1) < a + x.len then 128 * (j + 1) else a + x.len
  hi - lo

/-- Lines of a BPREF. -/
def Bpref.lines (x : Bpref) : Nat := (x.addr.toNat % 128 + x.len + 127) / 128

/-- A line of BPREF i is brought into its home, as the MEMPOL of its issue lets it allocate there (R31, R279), or skipped, and its bytes
are added (R288). -/
def State.bprefLine (s : State) (i line : Nat) : State :=
  match s.dev.bprefs[i]? with
  | none => s
  | some x =>
    if x.lines ≤ line ∨ x.donel.contains line ∨ (16384 ≤ x.who.core ∧ x.who.core ≠ deadCore) then s
    else s.asIssuer x.who fun s =>
      let va := x.addr - w64 (x.addr.toNat % 128) + w64 (128 * line)
      let (r, s) := s.quietPlace x.who va false
      let brought : Option State := match r with
        | none => some s
        | some (pa, key, cls) =>
          let alloc := if cls = .unc then uncAlloc key x.alloc else x.alloc
          match s.engineReady x.who (.phys pa key cls none) 128 false alloc with
          | (.ok pl, s) => some ((s.engineCharge x.who pl 128).request x.who.sid (key / 128) 0xFFFF false alloc x.llc)
          | _ => none
      match brought with
      | none => s
      | some s =>
        let y := { x with donel := insertNat line x.donel }
        let bs := if y.donel.length = x.lines then listDrop s.dev.bprefs i else listSet s.dev.bprefs i y
        let s := { s with dev := { s.dev with bprefs := bs } }
        s.syncAdd x.who x.sync (x.bytesIn line) (if r.isNone then 0x10 else 0)

/-! ## AMO and CAS (R289) -/

/-- An ordering field asks for a release. -/
def Ord.rel : Ord → Bool
  | .rel | .acqrel => true
  | .plain | .acq => false

/-- An ordering field asks for an acquire. -/
def Ord.acq : Ord → Bool
  | .acq | .acqrel => true
  | .plain | .rel => false

/-- Bytes of an AMO or CAS. -/
def amoSize (dw : Bool) : Nat := if dw then 8 else 4

/-- CAS among the atomics that a checked pair compares: its comparand is an operand too (R416). -/
def casFn : Nat := 9

/-- A read-modify-write of the word at g[a]: fn says which atomic it is, op takes the old value and the operand. -/
def amoBody (fn : Nat) (d a b : Reg) (ord : Ord) (dw : Bool) (op : Nat → Nat → Nat → Option Nat) (s : State) : Res := settle do
  let n := amoSize dw
  let va := s.g a
  let y := (s.g b).toNat % 256 ^ n
  let (pl, s) ← s.place va n .atomic false
  let s ← if Ord.rel ord then s.release else .ok s
  let (old, s) ← s.atomicAt pl va n fn (if fn = casFn then y + 256 ^ n * ((s.g d).toNat % 256 ^ n) else y) fun x => op n x y
  return put d (w64 old) (if Ord.acq ord then s.acquire else s)

/-- Signed order of n-byte values. -/
def ltS (n x y : Nat) : Bool := decide (signedOf (8 * n) x < signedOf (8 * n) y)

/-! ## The instructions -/

/-- LD (R283). -/
def execLd (d a : Reg) (size : MemSize) (sx : Bool) (off : BitVec 10) (s : State) : Out :=
  issue (.ld d a size sx off) (fun s => loadReg d (s.ea a off (sizeBytes size)) (sizeBytes size) sx false false s) s

/-- LDVOL (R285). -/
def execLdvol (d a : Reg) (size : MemSize) (sx : Bool) (off : BitVec 10) (s : State) : Out :=
  issue (.ldvol d a size sx off) (fun s => loadReg d (s.ea a off (sizeBytes size)) (sizeBytes size) sx true false s) s

/-- ST (R283). -/
def execSt (src a : Reg) (size : MemSize) (off : BitVec 10) (s : State) : Out :=
  issue (.st src a size off) (fun s => stBody src (s.ea a off (sizeBytes size)) (sizeBytes size) false s) s

/-- STVOL (R285). -/
def execStvol (src a : Reg) (size : MemSize) (off : BitVec 10) (s : State) : Out :=
  issue (.stvol src a size off) (fun s => stBody src (s.ea a off (sizeBytes size)) (sizeBytes size) true s) s

/-- LDV (R283). -/
def execLdv (d a : Reg) (off : BitVec 10) (s : State) : Out :=
  issue (.ldv d a off) (fun s => ldvBody d (s.ea a off 64) s) s

/-- STV (R283). -/
def execStv (src a : Reg) (off : BitVec 10) (s : State) : Out :=
  issue (.stv src a off) (fun s => stvBody src (s.ea a off 64) s) s

/-- GATH (R286). -/
def execGath (d a b : Reg) (p : PReg) (ty : ElemTy) (s : State) : Out :=
  issue (.gath d a b p ty) (gathBody d a b p ty) s

/-- SCAT (R286). -/
def execScat (d a b : Reg) (p : PReg) (ty : ElemTy) (s : State) : Out :=
  issue (.scat d a b p ty) (scatBody d a b p ty) s

/-- PREF (R287). -/
def execPref (a : Reg) (s : State) : Out :=
  issue (.pref a) (prefBody a false false) s

/-- PREF.X (R287). -/
def execPrefX (a : Reg) (s : State) : Out :=
  issue (.prefX a) (prefBody a true false) s

/-- PREF.L2 (R287). -/
def execPrefL2 (a : Reg) (s : State) : Out :=
  issue (.prefL2 a) (prefBody a false true) s

/-- BPREF (R288). -/
def execBpref (d a b : Reg) (s : State) : Out :=
  issue (.bpref d a b) (bprefBody d a b) s

/-- CLEAN (R287). -/
def execClean (a : Reg) (s : State) : Out :=
  issue (.clean a) (cleanBody a) s

/-- CLEAN.P (R287). -/
def execCleanP (a : Reg) (s : State) : Out :=
  issue (.cleanP a) (cleanPBody a) s

/-- CINV (R287). -/
def execCinv (a : Reg) (s : State) : Out :=
  issue (.cinv a) (cinvBody a) s

/-- LD with .acq (R284). -/
def execLdAcq (d a : Reg) (dw : Bool) (s : State) : Out :=
  issue (.ldAcq d a dw) (fun s => loadReg d (s.g a) (amoSize dw) false false true s) s

/-- ST with .rel (R284). -/
def execStRel (a b : Reg) (dw : Bool) (s : State) : Out :=
  issue (.stRel a b dw) (stRelBody a b (amoSize dw)) s

/-- ATSWAP (R289). -/
def execAtswap (d a b : Reg) (ord : Ord) (dw : Bool) (s : State) : Out :=
  issue (.atswap d a b ord dw) (amoBody 0 d a b ord dw fun _ _ y => some y) s

/-- ATADD (R289). -/
def execAtadd (d a b : Reg) (ord : Ord) (dw : Bool) (s : State) : Out :=
  issue (.atadd d a b ord dw) (amoBody 1 d a b ord dw fun n x y => some ((x + y) % 256 ^ n)) s

/-- ATAND (R289). -/
def execAtand (d a b : Reg) (ord : Ord) (dw : Bool) (s : State) : Out :=
  issue (.atand d a b ord dw) (amoBody 2 d a b ord dw fun _ x y => some (x &&& y)) s

/-- ATOR (R289). -/
def execAtor (d a b : Reg) (ord : Ord) (dw : Bool) (s : State) : Out :=
  issue (.ator d a b ord dw) (amoBody 3 d a b ord dw fun _ x y => some (x ||| y)) s

/-- ATXOR (R289). -/
def execAtxor (d a b : Reg) (ord : Ord) (dw : Bool) (s : State) : Out :=
  issue (.atxor d a b ord dw) (amoBody 4 d a b ord dw fun _ x y => some (x ^^^ y)) s

/-- ATMIN (R289). -/
def execAtmin (d a b : Reg) (ord : Ord) (dw : Bool) (s : State) : Out :=
  issue (.atmin d a b ord dw) (amoBody 5 d a b ord dw fun n x y => some (if ltS n y x then y else x)) s

/-- ATMAX (R289). -/
def execAtmax (d a b : Reg) (ord : Ord) (dw : Bool) (s : State) : Out :=
  issue (.atmax d a b ord dw) (amoBody 6 d a b ord dw fun n x y => some (if ltS n x y then y else x)) s

/-- ATMINC (R289). -/
def execAtminc (d a b : Reg) (ord : Ord) (dw : Bool) (s : State) : Out :=
  issue (.atminc d a b ord dw) (amoBody 7 d a b ord dw fun _ x y => some (if y < x then y else x)) s

/-- ATMAXC (R289). -/
def execAtmaxc (d a b : Reg) (ord : Ord) (dw : Bool) (s : State) : Out :=
  issue (.atmaxc d a b ord dw) (amoBody 8 d a b ord dw fun _ x y => some (if x < y then y else x)) s

/-- CAS (R289): g[d] restricted to the size is compared. -/
def execCas (d a b : Reg) (ord : Ord) (dw : Bool) (s : State) : Out :=
  issue (.cas d a b ord dw) (fun s => amoBody casFn d a b ord dw (fun n x y => if x = (s.g d).toNat % 256 ^ n then some y else none) s) s

/-- BPREF_LINE (R288). -/
def execBprefLine (i line : Nat) (s : State) : Out := event (fun s => s.bprefLine i line) s

end Sys2Proof.Machine
end

