-- ==== Sys2Proof/Machine/Outside.lean ====
section
/-! DEFINITION. The device among others (chapter 23): the host's CXL traffic, peers, function-level resets, boot, the
attestation report, power, heat and telemetry. -/

namespace Sys2Proof.Machine

/-! ## The host link (R443 to R448) -/

/-- Whether a core waits for a host line. -/
def State.awaitsHost (s : State) (hline : Nat) (own : Bool) : Bool :=
  s.cores.any fun k => match (s.coreAt k).wait with
    | some (.host h o) => h == hline && (o || !own)
    | _ => false

/-- Whether the number of a 64-byte line names a line of host memory; the others are this device's (R264, R444). -/
def isHostLine (hline : Nat) : Bool := decide (3 * 2 ^ 44 ≤ hline)

/-- A response from the host, for the request that waits for it: the data of a host line (R444, R446), which is cached only with CXL
(R443), or the answer to a back-invalidate snoop of a line of this device (R447). -/
def State.hostAnswers (s : State) (hline : Nat) (bad : Bool) : State :=
  if !s.awaitsHost hline false then s
  else if !isHostLine hline then s.hostYields hline
  else if s.dev.cxl then s.hostArrive hline (s.awaitsHost hline true) bad
  else s

/-- Every word of a host line in the device's caches is poisoned (R446). -/
def State.hostPoisons (s : State) (hline : Nat) : State :=
  let s := s.hostAnswers hline true
  if s.dev.devHolds.contains hline then
    { s with dev := { s.dev with poison := insertNats ((List.range 8).map fun i => 8 * hline + i) s.dev.poison } }
  else s

/-- Copies of the words of a mask of a line end, in whatever L1, and modified words are the home's. -/
def State.callBack (s : State) (line : Nat) (m : BitVec 16) : State :=
  let s := (s.pushesFirst line m).tearUnread line m fun _ => true
  match s.dev.dir.find? fun d => d.line == line with
  | some d => s.putDir (({ d with segs := homeSegs m d.segs } : DirLine).lose (fun _ => true) m)
  | none => s

/-- A host snoop: the words that L1s hold are recalled, and the host has the line again, written back where the device owned it (R440,
R444, R446). (Log 35, DEDUCED.) -/
def State.snoop (s : State) (hline : Nat) : State :=
  if !s.dev.devHolds.contains hline then s else (s.callBack (hline / 2) (halfMask hline)).hostGive hline

/-- The key and the stave behind a host physical address in an HDM range: its granule is OWNED by the range's stave (R447), and its
channel is not quarantined (R438). -/
def Dev.hdmTarget (d : Dev) (hpa : Nat) : Option (Nat × BitVec 6) :=
  match d.hdm.find? fun h => decide (h.base ≤ hpa ∧ hpa < h.base + 2 ^ 26 * h.granules.length) with
  | none => none
  | some h =>
    match h.granules.getD ((hpa - h.base) / 2 ^ 26) none with
    | none => none
    | some g =>
      if d.ownState .granule g h.stave == some .owned && !d.badChannel g then some (2 ^ 26 * g + (hpa - h.base) % 2 ^ 26, h.stave) else none

/-- The device answers a read from outside. -/
def State.reply (s : State) (peer : Option (BitVec 9)) (addr : Nat) (data : V512) (bad : Bool) : State :=
  { s with dev := { s.dev with answer := some ⟨peer, addr, data, bad⟩ } }

/-- It answers with poisoned data, whose bytes nothing says: a free value. -/
def State.replyBad (s : State) (peer : Option (BitVec 9)) (addr : Nat) : State :=
  { s.reply peer addr (BitVec.ofNat 512 (Config.outside 13 s.fresh)) true with fresh := s.fresh + 1 }

/-- A CXL.mem request to a 64-byte host line (R447, R448): a read makes the host a holder of the half, under the stave's SID
with space 0x3FF, and is answered with its bytes; a write is performed at the home. An address that no range covers returns poison, or
discards the write. -/
def State.hdmRequest (s : State) (hpa : Nat) (write : Bool) (data : V512) : State :=
  match s.dev.hdmTarget (hpa / 64 * 64) with
  | none => if write then s else s.replyBad none hpa
  | some (key, n) =>
    let s := s.ckOutside (fun _ => true) key
    let sid : BitVec 16 := n ++ (0x3FF : BitVec 10)
    if write then (s.serveHome sid (key / 128) (halfMask (key / 64))).putMem .dir key 64 data.toNat
    else
      let s := s.serveRead hostHolder sid (key / 128) (halfMask (key / 64))
      let (x, s) := s.looseRead .dir key 64 (s.dev.peek key 64)
      s.reply none hpa (BitVec.ofNat 512 x) (firstPoison s.dev.poison key 64).isSome

/-- The HDM ranges that shop firmware programs when the link has trained with CXL: at most 16, each a multiple of 64 MiB. What they map is
the firmware's, a free value; the manual gives no register of the physical function that holds them. (Log 36, DESIGN CHOICE.) -/
def hdmRanges (x : Nat) : List Hdm :=
  (List.range (Config.outside 9 x % 17)).map fun i =>
    { base := 2 ^ 26 * Config.outside 10 (16 * x + i), stave := BitVec.ofNat 6 (Config.outside 11 (16 * x + i)),
      granules := (List.range (Config.outside 12 (16 * x + i) % 4097)).map fun j =>
        some (Config.outside 14 (4096 * (16 * x + i) + j) % 4096) }

/-- No host memory is cached any more (R443): SELF words of it go first, then what L1s, slices and instruction caches hold, and every line
goes back to the host. -/
def State.hostOut (s : State) : State :=
  let s := s.selfOutAll fun w => isHostLine (w.word / 8)
  let s := s.dev.devHolds.foldl (fun s h => s.snoop h) s
  let s := { s with dev := { s.dev with l2 := s.dev.l2.filter fun x => !isHostLine (2 * x.line) } }
  s.cores.foldl (fun s k => s.onCore k fun c => { c with icache := c.icache.filter fun x => !isHostLine (2 * x.line) }) s

/-- The host link trains (R443): with CXL the firmware programs the HDM ranges, without it no host memory stays cached. After a thermal
shutdown it stays down (R457). -/
def State.train (s : State) (width : Nat) (cxl : Bool) : State :=
  if s.dev.shutdown then s
  else if cxl then { s with dev := { s.dev with link := .cxl width, hdm := hdmRanges s.fresh }, fresh := s.fresh + 1 }
  else
    let s := s.hostOut
    { s with dev := { s.dev with link := .pcie width } }

/-! ## The host's accesses to the functions' registers (R449, R458) -/

/-- Where the model places the BARs among host physical addresses: BAR0 of the VF of stave n, and BAR2 of the physical function. (Log 111,
DESIGN CHOICE.) -/
def bar0Base (n : Nat) : Nat := 2 ^ 63 + 2 ^ 16 * n
def bar2Base : Nat := 2 ^ 63 + 2 ^ 22

/-- A bit for each of the first n numbers that a test selects. -/
def bitsBelow (n : Nat) (p : Nat → Bool) : Nat := ((List.range n).filter p).foldl (fun m i => m + 2 ^ i) 0

/-! ## Peers (R452, R453) -/

/-- What a peer asks for: bits 1:0 of kind are 0 for a load, 1 for a store, otherwise an atomic; bits 4:2 are log2 of its bytes, at most 64
(at most 8 for an atomic); bits 8:5 name the atomic. (Log 37, DESIGN CHOICE.) -/
def peerWrites (kind : BitVec 9) : Bool := !zeroAt kind 0 2
def peerBytes (kind : BitVec 9) : Nat := 2 ^ min (field kind 2 3) (if field kind 0 2 < 2 then 6 else 3)

/-- The new value of a peer's atomic (R289), in the order of Table 12 of 11 from ATSWAP on, then CAS: y is its operand, z the comparand of CAS. -/
def atomicOf (f n x y z : Nat) : Option Nat :=
  match f with
  | 0 => some y
  | 1 => some ((x + y) % 256 ^ n)
  | 2 => some (x &&& y)
  | 3 => some (x ||| y)
  | 4 => some (x ^^^ y)
  | 5 => some (if ltS n y x then y else x)
  | 6 => some (if ltS n x y then y else x)
  | 7 => some (if y < x then y else x)
  | 8 => some (if x < y then y else x)
  | _ => if x = z then some y else none

/-- The check of a peer's access at this device: the owning stave of the granule grants it to that device. -/
def Dev.peerPermitted (d : Dev) (dev : BitVec 9) (key : Nat) (write : Bool) : Bool :=
  match d.own .granule (granuleOf key) with
  | none => false
  | some o => (o.st == .owned || o.st == .draining) && !d.badChannel (granuleOf key) &&
      d.granted o.stave dev.toNat (granuleOf key) write

/-- A peer's aligned access (R452, R453): it is performed at the home; a refused store is discarded, a refused load or atomic answered
with poison; the answer of a load or an atomic goes to the peer. The low half of data holds the operand, the high half the comparand of
a CAS. -/
def State.peerServe (s : State) (dev : BitVec 9) (pa : Nat) (kind : BitVec 9) (data : V512) : State :=
  let n := peerBytes kind
  let key := pa % 2 ^ 43 / n * n
  let y := data.toNat % 256 ^ n
  if s.dev.paKind pa ≠ .dram then s
  else if !s.dev.peerPermitted dev key (peerWrites kind) then
    (if field kind 0 2 = 1 then s else s.replyBad (some dev) pa)
  else
    let s := (s.ckOutside (fun _ => true) key).callBack (key / 128) (spanOf key n)
    if field kind 0 2 = 1 then s.putMem .dir key n y
    else if (firstPoison s.dev.poison key n).isSome then s.replyBad (some dev) pa
    else
      let (x, s) := s.looseRead .dir key n (s.dev.peek key n)
      let s := s.reply (some dev) pa (BitVec.ofNat 512 x) false
      match (if peerWrites kind then atomicOf (field kind 5 4) n x y (data.toNat / 2 ^ 256 % 256 ^ n) else none) with
      | some new => s.putMem .dir key n new
      | none => s

/-! ## Functions (R449) -/

/-- The read-only identity page of a stave's VF, as its four 32-bit values: the stave's number, whether it is open, the clusters and
the granules that it owns. -/
def Dev.identityPage (d : Dev) (n : BitVec 6) : Vector (BitVec 32) 4 :=
  let count (k : UnitKind) := (d.owns.filter fun o => o.kind == k && o.stave == n && (o.st == .owned || o.st == .draining)).length
  #v[n.setWidth 32, if (d.clustersHeld n).isEmpty then 0 else 1, BitVec.ofNat 32 (count .cluster), BitVec.ofNat 32 (count .granule)]

/-- A 32-bit word of BAR0 of a stave's VF at an offset: an entry of the MSI-X table, whose last word is the vector's mask bit (log 112,
PRESUMED), the pending bits, the identity page. -/
def Dev.bar0Word (d : Dev) (n off : Nat) : Nat :=
  if off < 0x8000 then
    if off % 16 = 12 then bit (!d.unmasked.contains (n, off / 16)) else Cells.readN (assocGet [] n d.bars) off 4
  else if off < 0x8100 then bitsBelow 32 fun i => d.pendingMsix.contains (n, 8 * (off - 0x8000) + i)
  else if 0xC000 ≤ off ∧ off < 0xC010 then ((d.identityPage (BitVec.ofNat 6 n)).toList.getD ((off - 0xC000) / 4) 0).toNat
  else 0

/-- A 32-bit word of BAR2 of the physical function: the telemetry page (R458). -/
def Dev.bar2Word (d : Dev) (off : Nat) : Nat := (d.telemetry.toList.getD (off / 4) 0).toNat

/-- The host writes an entry of the MSI-X table; a vector that is pending when its mask bit is cleared is raised. -/
def State.writeVector (s : State) (n v x : Nat) : State :=
  let d := s.dev
  let clear := !x.testBit 96
  let due := clear && d.pendingMsix.contains (n, v)
  { s with dev := { d with
    bars := assocSet n (Cells.writeN (assocGet [] n d.bars) (16 * v) 12 (x % 2 ^ 96)) d.bars
    unmasked := (d.unmasked.filter fun y => y != (n, v)) ++ (if clear then [(n, v)] else [])
    msix := if due then d.msix ++ [(n, v)] else d.msix
    pendingMsix := if due then d.pendingMsix.filter (fun y => y != (n, v)) else d.pendingMsix } }

/-- The 64 bytes that sixteen 32-bit words make. -/
def sixteen (f : Nat → Nat) : V512 := BitVec.ofNat 512 ((List.range 16).foldl (fun x i => x + 2 ^ (32 * i) * f i) 0)

/-- The host reads or writes 64 aligned bytes of a BAR; only the MSI-X tables are written. -/
def State.barRequest (s : State) (hpa : Nat) (write : Bool) (data : V512) : State :=
  let at0 := hpa / 64 * 64
  if at0 < bar2Base then
    let n := (at0 - bar0Base 0) / 2 ^ 16
    let off := at0 % 2 ^ 16
    if !write then s.reply none hpa (sixteen fun i => s.dev.bar0Word n (off + 4 * i)) false
    else if off < 0x8000 then (List.range 4).foldl (fun s i => s.writeVector n (off / 16 + i) (field data (128 * i) 128)) s
    else s
  else if !write && decide (at0 < bar2Base + 4096) then s.reply none hpa (sixteen fun i => s.dev.bar2Word (at0 - bar2Base + 4 * i)) false
  else s

/-- A request of the host: to a BAR, over a link of either kind, or to device memory, over CXL (R443, R447, R449). -/
def State.hostRequest (s : State) (hpa : Nat) (write : Bool) (data : V512) : State :=
  match s.dev.link with
  | .down => s
  | .pcie _ => if bar0Base 0 ≤ hpa then s.barRequest hpa write data else s
  | .cxl _ => if bar0Base 0 ≤ hpa then s.barRequest hpa write data else s.hdmRequest hpa write data

/-- A function-level reset of a stave's VF: its jobs end as FKILL with reason 0 ends them, FQBASE becomes 0. -/
def State.resetFunction (s : State) (n : BitVec 6) : State :=
  let jobs := (s.dev.stave n).jobs
  (jobs.foldl (fun s j => s.endJob n j.num 0x10 0) s).writeFqbase n 0

/-! ## Boot and attestation (R454, R455) -/

/-- The boot ROM has checked the firmware image: the other dies' headstock cores are released into the firmware, whose entry
the manual does not give, and as many ports are trained as the outside world has; or the device enters recovery. (Log 38, DESIGN
CHOICE.) -/
def State.bootUp (s : State) : State :=
  if s.dev.boot ≠ .rom then s
  else if Config.imageVerified s.fresh then
    let lead := s.dev.bootMask.headD 0 / 2048
    let s := (s.dev.bootMask.filter fun k => k / 2048 != lead).foldl
      (fun s k => s.onCore k fun c => { c with pc := w64 (Config.outside 7 0 / 4 * 4), hints := .none }) s
    let ports := Config.outside 6 s.fresh % 25
    { s with dev := { s.dev with boot := .firmware, trcfg := withField s.dev.trcfg 9 7 ports }, fresh := s.fresh + 1 }
  else { s with dev := { s.dev with boot := .recovery }, fresh := s.fresh + 1 }

/-- n bytes of a number, the lowest first. -/
def bytesLE (n x : Nat) : List Byte := (List.range n).map fun i => byteOf x i

/-- n bytes of a number, the highest first, as a hash value is written. -/
def bytesBE (n x : Nat) : List Byte := (bytesLE n x).reverse

/-- What the configuration hash covers: boot mask, spare map and TRCFG. (Log 13, DESIGN CHOICE.) -/
def Dev.configBytes (d : Dev) : List Byte :=
  (d.bootMask.flatMap fun k => bytesLE 2 k) ++ (d.spareMap.flatMap fun k => bytesLE 2 k) ++ bytesLE 8 d.trcfg.toNat

/-- Bytes 0x000 to 0x19F of the attestation report (Table 2). Hash values, the coordinates of the key and the halves of the signature stand
with their highest byte first (log 13, DESIGN CHOICE). -/
def Dev.reportBody (d : Dev) (nonce : BitVec 384) : List Byte :=
  bytesLE 4 0x48424152 ++ bytesLE 4 1 ++ bytesLE 48 nonce.toNat ++ bytesBE 48 (Config.outside 4 0) ++
    bytesBE 48 (Config.outside 4 1) ++ bytesBE 48 (Config.sha384 d.configBytes).toNat ++ bytesBE 96 (Config.outside 4 2) ++
    bytesLE 16 (Config.outside 4 3) ++ List.replicate 104 0

/-- GET_MEASUREMENTS is answered with the signed report; in recovery only the identity and the mailbox are exposed (R454). -/
def State.measure (s : State) (nonce : BitVec 384) : State :=
  if s.dev.boot = .recovery then s
  else
    let body := s.dev.reportBody nonce
    { s with dev := { s.dev with report := body ++ bytesBE 96 (Config.attestSignature body).toNat } }

/-! ## Power, heat, telemetry (R440, R456 to R458) -/

/-- A power cap from 800 W to 2,800 W (R456). -/
def State.setCap (s : State) (watts : BitVec 12) : State :=
  if 800 ≤ watts.toNat ∧ watts.toNat ≤ 2800 then { s with dev := { s.dev with powerCap := watts } } else s

/-- Issue slots are withheld for a column: timing only (R457). -/
def State.throttle (s : State) (column : BitVec 2) : State :=
  if s.dev.throttled.contains column then s else { s with dev := { s.dev with throttled := s.dev.throttled ++ [column] } }

/-- A junction at 115 degrees: every core stops and the host link goes down (R457). (Log 41, DEDUCED.) -/
def State.overheat (s : State) : State :=
  let s := s.cores.foldl (fun s k => s.onCore k fun c => { c with stopped := true }) s
  { s with dev := { s.dev with shutdown := true, link := .down } }

/-- The telemetry page as an update leaves it, under the next generation. Sensor readings are the outside world's. (Log 39, DESIGN
CHOICE.) -/
def State.telemetryPage (s : State) : Vector (BitVec 32) 9 :=
  let d := s.dev
  let sense (i : Nat) : BitVec 32 := BitVec.ofNat 32 (Config.outside 5 (8 * s.fresh + i))
  let errors := d.errors.foldl (fun n x => n + x.2) 0
  let corrected : BitVec 32 := BitVec.ofNat 32 (if errors < 2 ^ 32 then errors else 2 ^ 32 - 1)
  #v[vget 0 d.telemetry 0 + 1, sense 0, sense 1, sense 2, sense 3, sense 4,
    BitVec.ofNat 32 (Config.outside 5 (8 * s.fresh + 5) % 1025), corrected, BitVec.ofNat 32 d.quarantined.length]

/-- The telemetry page is rewritten every 2^20 cycles in two steps: the generation becomes odd, then the values stand and it is even
again (R458). -/
def State.telemeter (s : State) : State :=
  let d := s.dev
  if (vget 0 d.telemetry 0).getLsbD 0 then { s with dev := { d with telemetry := s.telemetryPage }, fresh := s.fresh + 1 }
  else if boundaryDue d.cycle (2 ^ 20) d.telemetryAt then
    { s with dev := { d with telemetry := d.telemetry.set 0 (vget 0 d.telemetry 0 + 1), telemetryAt := d.cycle.toNat } }
  else s

/-- A cluster is power-gated (R440): its L1 caches are written back and invalidated first. A cluster on which a context runs is
not gated. (Log 40, DEDUCED.) -/
def State.gate (s : State) (cluster : Nat) : State :=
  let cores := slotCores (8 * cluster) 8
  if cores.any fun k => (s.coreAt k).live then s
  else
    let s := cores.foldl (fun s k => (s.at k fun s => s.acquire).dropL1 k) s
    { s with dev := { s.dev with gated := insertNat cluster s.dev.gated } }

/-! ## The steps -/

/-- HOST_SNOOP (R444). -/
def execHostSnoop (hline : Nat) (s : State) : Out := event (fun s => s.snoop hline) s

/-- HOST_MEM_REQUEST (R447). -/
def execHostMemRequest (hpa : Nat) (write : Bool) (data : BitVec 512) (s : State) : Out :=
  event (fun s => s.hostRequest hpa write data) s

/-- HOST_DATA_RESPONSE (R444). -/
def execHostDataResponse (hline : Nat) (s : State) : Out := event (fun s => s.hostAnswers hline false) s

/-- HOST_POISON_RESPONSE (R446). -/
def execHostPoisonResponse (hline : Nat) (s : State) : Out := event (fun s => s.hostPoisons hline) s

/-- PEER_ACCESS (R453). -/
def execPeerAccess (dev : BitVec 9) (pa : Nat) (kind : BitVec 9) (data : V512) (s : State) : Out :=
  event (fun s => s.peerServe dev pa kind data) s

/-- FUNCTION_LEVEL_RESET (R449). -/
def execFunctionLevelReset (stave : BitVec 6) (s : State) : Out := event (fun s => s.resetFunction stave) s

/-- LINK_TRAINING (R443). -/
def execLinkTraining (width : BitVec 5) (cxl : Bool) (s : State) : Out := event (fun s => s.train width.toNat cxl) s

/-- BOOT (R454). -/
def execBoot (s : State) : Out := event (fun s => s.bootUp) s

/-- GET_MEASUREMENTS (R455). -/
def execGetMeasurements (nonce : BitVec 384) (s : State) : Out := event (fun s => s.measure nonce) s

/-- POWER_CAP_SET (R456). -/
def execPowerCapSet (watts : BitVec 12) (s : State) : Out := event (fun s => s.setCap watts) s

/-- THERMAL_THROTTLE (R457). -/
def execThermalThrottle (column : BitVec 2) (s : State) : Out := event (fun s => s.throttle column) s

/-- THERMAL_THROTTLE_RELEASE (R457). -/
def execThermalThrottleRelease (s : State) : Out :=
  event (fun s => { s with dev := { s.dev with throttled := [] } }) s

/-- THERMAL_SHUTDOWN (R457): whichever column it is, every core stops. -/
def execThermalShutdown (_column : BitVec 2) (s : State) : Out := event (fun s => s.overheat) s

/-- TELEMETRY_UPDATE (R458). -/
def execTelemetryUpdate (s : State) : Out := event (fun s => s.telemeter) s

/-- POWER_GATING (R440). -/
def execPowerGating (cluster : Nat) (s : State) : Out := event (fun s => s.gate cluster) s

end Sys2Proof.Machine
end

