-- ==== Sys2Proof/Machine/Pattern.lean ====
section
/-! DEFINITION. The PATTERN instructions (17_duplicator: R382 to R384). -/

namespace Sys2Proof.Machine

/-- The functions that change a pattern. -/
inductive PatFn where
  | rec_ | play | off | drop
  deriving DecidableEq, Repr

/-- Codes under which a pattern keeps its last accepted change: PATREC 0, PATPLAY 1 (R383). -/
def PatFn.code : PatFn → Nat
  | .rec_ => 0 | .play => 1 | .off => 2 | .drop => 3

/-- A pattern armed by PATREC at a level for the domain of a member; PATCTL gives limit and dest (R368). -/
def Pattern.arm (p : Pattern) (m : Member) (level : Level) (ctl : W64) : Pattern :=
  { p with st := .armed, level := level, stage := m.stage, inst := m.inst, auto := false, limit := ctl.extractLsb' 0 8,
           dest := ctl.getLsbD 8, entries := [], barred := [] }

/-- Table 6 of 17: the new pattern; none where the function is not allowed. -/
def Pattern.apply (p : Pattern) (fn : PatFn) (m : Member) (level : Level) (ctl : W64) : Option Pattern :=
  match fn, p.st with
  | .rec_, _ => some (p.arm m level ctl)
  | .play, .off => none
  | .play, .armed | .play, .record => some { p with auto := true }
  | .play, .recorded | .play, .paused | .play, .fallback | .play, .cued => some { p with st := .cued }
  | .play, .play => some p
  | .off, .off => some p
  | .off, .armed | .off, .record => some { Pattern.off with falls := p.falls }
  | .off, .recorded | .off, .paused | .off, .fallback | .off, .cued | .off, .play =>
    some { p with st := .paused, entries := p.entries.map fun e => { e with armed := false } }
  | .drop, _ => some { Pattern.off with falls := p.falls }

/-- The domain that the instruction means is the one that the pattern is bound to (R383). -/
def Pattern.sameDomain (p : Pattern) (m : Member) (level : Level) : Bool := p.level == level && p.holds m

/-- PATREC, PATPLAY, PATOFF and PATDROP: the status and the state after the change (R383). (Log 74, DEDUCED.) -/
def patChange (fn : PatFn) (sel : W64) (s : State) : Nat × State :=
  if !zeroAt sel 6 58 then (3, s)
  else
    match s.me.member, s.job? with
    | some m, some _ =>
      let n := s.me.stave
      let i := field sel 0 4
      let p := s.patOf n m.job i
      if fn = .rec_ ∧ zeroAt sel 4 2 then (3, s)
      else
        let level : Level := if fn = .rec_ then sel.extractLsb' 4 2 else p.level
        let now := s.superstep n m level
        if p.st ≠ .off ∧ !p.sameDomain m level then (2, s)
        else if (fn = .rec_ ∨ fn = .play) ∧ p.last = some (fn.code, now) then (1, s)
        else
          match p.apply fn m level s.me.ctl.patctl with
          | none => (4, s)
          | some q =>
            let q := { q with last := if fn = .rec_ ∨ fn = .play then some (fn.code, now) else none }
            let s := s.onPat n m.job i fun _ => q
            (0, if fn = .play then s else s.dropNotes n m.job i)
    | _, _ => (5, s)

/-- The effect of the four functions. -/
def patBody (fn : PatFn) (d a : Reg) (s : State) : Res :=
  let r := patChange fn (s.g a) s
  put d (w64 r.1) r.2

/-- Codes of the states (Table 1 of 17). -/
def PatState.code : PatState → Nat
  | .off => 0 | .armed => 1 | .record => 2 | .recorded => 3 | .cued => 4 | .play => 5 | .paused => 6 | .fallback => 7

/-- The status word of a pattern (Table 7 of 17). -/
def Pattern.word (p : Pattern) : W64 :=
  let cap (x : Nat) := if x < 65535 then x else 65535
  w64 (PatState.code p.st + 8 * bit p.auto + 16 * bit p.ovf + 2 ^ 8 * (p.tears % 256) + 2 ^ 16 * cap p.entries.length +
    2 ^ 32 * cap p.played + 2 ^ 48 * (if p.st = .off then 0 else p.level.toNat))

/-- PATSTAT (R384). -/
def patstatBody (d a : Reg) (s : State) : Res :=
  let sel := s.g a
  match s.me.member, s.job? with
  | some m, some _ => if zeroAt sel 6 58 then put d (s.patOf s.me.stave m.job (field sel 0 4)).word s else put d (-1) s
  | _, _ => put d (-1) s

/-- PATREC (R383). -/
def execPatrec (d a : Reg) (s : State) : Out := issue (.patrec d a) (patBody .rec_ d a) s

/-- PATPLAY (R383). -/
def execPatplay (d a : Reg) (s : State) : Out := issue (.patplay d a) (patBody .play d a) s

/-- PATOFF (R383). -/
def execPatoff (d a : Reg) (s : State) : Out := issue (.patoff d a) (patBody .off d a) s

/-- PATDROP (R383). -/
def execPatdrop (d a : Reg) (s : State) : Out := issue (.patdrop d a) (patBody .drop d a) s

/-- PATSTAT (R384). -/
def execPatstat (d a : Reg) (s : State) : Out := issue (.patstat d a) (patstatBody d a) s

end Sys2Proof.Machine
end

