-- ==== Sys2Proof/Machine/Predicate.lean ====
section
/-! DEFINITION. Predicate instructions (09_vector: R230). -/

namespace Sys2Proof.Machine

/-- Write a predicate and go on. -/
def putP (d : PReg) (x : W64) (s : State) : Res := (s.setP d x).ok

/-- PSET (R230). -/
def execPset (d : PReg) (a : Reg) (s : State) : Out := issue (.pset d a) (fun s => putP d (s.g a) s) s

/-- PAND (R230). -/
def execPand (d a b : PReg) (s : State) : Out := issue (.pand d a b) (fun s => putP d (s.p a &&& s.p b) s) s

/-- POR (R230). -/
def execPor (d a b : PReg) (s : State) : Out := issue (.por d a b) (fun s => putP d (s.p a ||| s.p b) s) s

/-- PXOR (R230). -/
def execPxor (d a b : PReg) (s : State) : Out := issue (.pxor d a b) (fun s => putP d (s.p a ^^^ s.p b) s) s

/-- PNOT (R230). -/
def execPnot (d a : PReg) (s : State) : Out := issue (.pnot d a) (fun s => putP d (~~~s.p a) s) s

/-- PCNT (R230). -/
def execPcnt (d : Reg) (a : PReg) (s : State) : Out :=
  issue (.pcnt d a) (fun s => put d (w64 (popCount 64 (s.p a).toNat)) s) s

/-- PFIRST (R230). -/
def execPfirst (d : Reg) (a : PReg) (s : State) : Out :=
  issue (.pfirst d a) (fun s => put d (w64 (trailingZeros 64 (s.p a).toNat)) s) s

end Sys2Proof.Machine
end

