-- ==== Sys2Proof/Machine/Vector.lean ====
section
/-! DEFINITION. Vector instructions (09_vector: R203 to R229). Each instruction has an effect, which REPV issues as well
(R145), and its meaning, which issues that effect. -/

namespace Sys2Proof.Machine

/-! ## Shapes -/

/-- Elementwise on a and b, with the old element of d as a third operand (R209). -/
def lanes2 (ty : ElemTy) (d a b : Reg) (p : PReg) (f : RMode → Nat → Nat → Nat → FpRes) (s : State) : Res := settle do
  let (x, s) ← s.vsrc a
  let (y, s) ← s.vsrc b
  let n := ElemTy.width ty
  let m := s.me.rounding
  let rs := ((lanesOf n x).zip (lanesOf n y)).zip (lanesOf n (s.v d.toNat)) |>.map fun t => f m t.1.1 t.1.2 t.2
  let s ← s.finishLanes d n (activeRes (s.me.mask p (ElemTy.lanes ty)) rs)
  return s.ok

/-- Elementwise on a (R212). -/
def lanes1 (ty : ElemTy) (d a : Reg) (p : PReg) (f : RMode → Nat → FpRes) (s : State) : Res := settle do
  let (x, s) ← s.vsrc a
  let n := ElemTy.width ty
  let m := s.me.rounding
  let s ← s.finishLanes d n (activeRes (s.me.mask p (ElemTy.lanes ty)) ((lanesOf n x).map (f m)))
  return s.ok

/-- A result without exceptions. -/
def plain (x : Nat) : FpRes := ⟨x, 0⟩

/-- An operation that a float type rounds and an integer type takes modulo 2^n (R208, R209). -/
def arith (ty : ElemTy) (fp : FpFmt → FpRes) (int : Int) : FpRes :=
  match (ElemTy.fmt? ty) with
  | some f => fp f
  | none => plain (lowBits (ElemTy.width ty) int)

/-- An element as the type reads it when it is an integer. -/
def ElemTy.int (ty : ElemTy) (x : Nat) : Int := signedOf (ElemTy.width ty) x

/-- A sign bit. -/
def signBit (n : Nat) : Nat := 2 ^ (n - 1)

/-- The float operation of a function that no integer type has. -/
def floatOnly (ty : ElemTy) (fp : FpFmt → FpRes) : FpRes :=
  match (ElemTy.fmt? ty) with
  | some f => fp f
  | none => plain 0

/-- VMIN and VMAX of an element (R210). -/
def laneMin (ty : ElemTy) (x y : Nat) : FpRes :=
  match (ElemTy.fmt? ty) with
  | some f => f.min x y
  | none => plain (if ElemTy.int ty y < ElemTy.int ty x then y else x)

def laneMax (ty : ElemTy) (x y : Nat) : FpRes :=
  match (ElemTy.fmt? ty) with
  | some f => f.max x y
  | none => plain (if ElemTy.int ty x < ElemTy.int ty y then y else x)

/-- VABS and VNEG of an element (Table 3 of 09). -/
def laneAbs (ty : ElemTy) (x : Nat) : Nat :=
  if (ElemTy.fmt? ty).isSome then x % signBit (ElemTy.width ty) else lowBits (ElemTy.width ty) (ElemTy.int ty x).natAbs

def laneNeg (ty : ElemTy) (x : Nat) : Nat :=
  if (ElemTy.fmt? ty).isSome then x ^^^ signBit (ElemTy.width ty) else lowBits (ElemTy.width ty) (-ElemTy.int ty x)

/-- Shifts of an element (R214). -/
def laneShl (n x k : Nat) : Nat := if k < n then x * 2 ^ k % 2 ^ n else 0

def laneShr (n x k : Nat) : Nat := if k < n then x / 2 ^ k else 0

def laneSar (n x k : Nat) : Nat := lowBits n (signedOf n x / 2 ^ (if k < n then k else n))

/-! ## Compare and select -/

/-- A condition on two elements, with the invalid that it raises (Table 5 of 09). -/
def laneCmp (cond : VCond) (ty : ElemTy) (x y : Nat) : FpRes :=
  match (ElemTy.fmt? ty) with
  | some f =>
    let nan := f.isNan x || f.isNan y
    let anyNan := if nan then flNV else 0
    match cond with
    | .eq => ⟨bit (!nan && f.eq x y), f.sigFlag x y⟩
    | .ne => ⟨bit (nan || !f.eq x y), f.sigFlag x y⟩
    | .lt => ⟨bit (!nan && f.lt x y), anyNan⟩
    | .le => ⟨bit (!nan && (f.lt x y || f.eq x y)), anyNan⟩
    | .un => ⟨bit nan, f.sigFlag x y⟩
    | .ltc | .lec => plain 0
  | none =>
    match cond with
    | .eq => plain (bit (x == y))
    | .ne => plain (bit (x != y))
    | .lt => plain (bit (decide (ElemTy.int ty x < ElemTy.int ty y)))
    | .le => plain (bit (decide (ElemTy.int ty x ≤ ElemTy.int ty y)))
    | .ltc => plain (bit (decide (x < y)))
    | .lec => plain (bit (decide (x ≤ y)))
    | .un => plain 0

/-- VCMP (R215): every bit of the predicate is written. -/
def vcmpBody (cond : VCond) (d : PReg) (a b : Reg) (p : PReg) (ty : ElemTy) (s : State) : Res := settle do
  let (x, s) ← s.vsrc a
  let (y, s) ← s.vsrc b
  let n := ElemTy.width ty
  let rs := activeRes (s.me.mask p (ElemTy.lanes ty)) (((lanesOf n x).zip (lanesOf n y)).map fun t => laneCmp cond ty t.1 t.2)
  let s ← s.report (ElemTy.lanes ty) (flagsFrom 0 rs)
  return (s.setP d (w64 (packNat 1 (rs.map fun r => (r.map (·.bits)).getD 0)))).ok

/-- Element by element, the first list where the mask is set, the second elsewhere. -/
def pickLanes : List Bool → List Nat → List Nat → List Nat
  | c :: cs, x :: xs, y :: ys => (if c then x else y) :: pickLanes cs xs ys
  | _, _, _ => []

/-- VSEL (R216): every element is written. -/
def vselBody (d a b : Reg) (p : PReg) (ty : ElemTy) (s : State) : Res := settle do
  let (x, s) ← s.vsrc a
  let (y, s) ← s.vsrc b
  let n := ElemTy.width ty
  return (s.setV d.toNat (packLanes n (pickLanes (s.me.mask p (ElemTy.lanes ty)) (lanesOf n x) (lanesOf n y)))).ok

/-! ## Conversion (R217, R218) -/

/-- The ends of an integer type's range, cardinal with c. -/
def intLow (n : Nat) (c : Bool) : Int := if c then 0 else -(2 ^ (n - 1))

def intHigh (n : Nat) (c : Bool) : Int := if c then 2 ^ n - 1 else 2 ^ (n - 1) - 1

/-- An element as an integer, cardinal with c. -/
def intOf (n : Nat) (c : Bool) (x : Nat) : Int := if c then x else signedOf n x

/-- Convert of one element (Table 8 of 09). -/
def laneCvt (src dst : ElemTy) (c : Bool) (m : RMode) (x : Nat) : FpRes :=
  let k := ElemTy.width dst
  match (ElemTy.fmt? src), (ElemTy.fmt? dst) with
  | some f, some g => f.convert g m x
  | some f, none =>
    let r := f.toInt m x (intLow k c) (intHigh k c)
    ⟨lowBits k r.1, r.2⟩
  | none, some g => g.ofInt m (intOf (ElemTy.width src) c x)
  | none, none =>
    let v := intOf (ElemTy.width src) c x
    plain (lowBits k (if v < intLow k c then intLow k c else if intHigh k c < v then intHigh k c else v))

/-- VCVT (R218): the destination's predicate bit governs. -/
def vcvtBody (d a : Reg) (part : BitVec 2) (c : Bool) (src : ElemTy) (p : PReg) (ty : ElemTy) (s : State) : Res := settle do
  let (x, s) ← s.vsrc a
  let ls := ElemTy.lanes src
  let ld := ElemTy.lanes ty
  let n := if ls < ld then ls else ld
  let xs := lanesOf (ElemTy.width src) x
  let m := s.me.rounding
  let base := part.toNat * n
  let one (act : Bool) (di : Nat) : Option FpRes :=
    if !act then none
    else if ls < ld then
      (if base ≤ di ∧ di < base + n then some (laneCvt src ty c m (xs.getD (di - base) 0)) else none)
    else some (laneCvt src ty c m (xs.getD (if ld < ls then base + di else di) 0))
  let rs := (s.me.mask p ld).zipIdx.map fun t => one t.1 t.2
  let s ← s.finishLanes d (ElemTy.width ty) rs
  return s.ok

/-! ## Moving elements -/

/-- VBCAST (R219). -/
def vbcastBody (d a : Reg) (p : PReg) (ty : ElemTy) (s : State) : Res :=
  let n := ElemTy.width ty
  let x := field (s.g a) 0 n
  (s.writeLanes d n ((s.me.mask p (ElemTy.lanes ty)).map fun c => if c then some x else none)).ok

/-- VINS (R220). -/
def vinsBody (d a b : Reg) (p : PReg) (ty : ElemTy) (s : State) : Res :=
  let n := ElemTy.width ty
  let j := (s.g b).toNat
  if j < ElemTy.lanes ty ∧ (s.p p).getLsbD j then (s.setLane d n j (field (s.g a) 0 n)).ok else s.ok

/-- VEXT (R221). -/
def vextBody (d a b : Reg) (z : Bool) (ty : ElemTy) (s : State) : Res := settle do
  let (x, s) ← s.vsrc a
  let n := ElemTy.width ty
  let j := (s.g b).toNat
  let e := field x (n * j) n
  let r : W64 :=
    if ElemTy.lanes ty ≤ j then 0
    else if (ElemTy.fmt? ty).isNone && !z then BitVec.ofInt 64 (signedOf n e)
    else w64 e
  return (s.setG d r).ok

/-- Write a member's part of combined results where the combined predicate is set. -/
def Crew.write (w : Crew) (s : State) (d : Reg) (n : Nat) (mask : List Bool) (xs : List Nat) : Res :=
  (s.writeLanes d n (w.part (512 / n) ((mask.zip xs).map fun t => if t.1 then some t.2 else none))).ok

/-- VPERM (R222). -/
def vpermBody (d a b : Reg) (p : PReg) (ty : ElemTy) (x : Bool) (w : Crew) (s : State) : Res := settle do
  let w := w.form x s
  let n := ElemTy.width ty
  let xs := w.lanes n a 0
  let ys := w.lanes n b (if a = b then 1 else 0)
  let (_, s) ← s.vsrc a
  let (_, s) ← s.vsrc b
  return w.write s d n (w.mask p (ElemTy.lanes ty)) (ys.map fun j => xs.getD j 0)

/-- VSLIDE (R222). -/
def vslideBody (d a b : Reg) (p : PReg) (ty : ElemTy) (x : Bool) (w : Crew) (s : State) : Res := settle do
  let w := w.form x s
  let n := ElemTy.width ty
  let xs := w.lanes n a 0
  let k := (w.g s b).toInt
  let (_, s) ← s.vsrc a
  return w.write s d n (w.mask p (ElemTy.lanes ty))
    (xs.zipIdx.map fun t => if (t.2 : Int) + k < 0 then 0 else xs.getD ((t.2 : Int) + k).toNat 0)

/-- The elements that a mask selects. -/
def chosen : List Bool → List Nat → List Nat
  | c :: cs, x :: xs => if c then x :: chosen cs xs else chosen cs xs
  | _, _ => []

/-- VCOMPR (R223): every element is written. -/
def vcomprBody (d a : Reg) (p : PReg) (ty : ElemTy) (x : Bool) (w : Crew) (s : State) : Res := settle do
  let w := w.form x s
  let n := ElemTy.width ty
  let xs := w.lanes n a 0
  let mask := w.mask p (ElemTy.lanes ty)
  let ts := chosen mask xs
  let (_, s) ← s.vsrc a
  return w.write s d n (mask.map fun _ => true) (xs.zipIdx.map fun t => ts.getD t.2 0)

/-- Elements in turn where a mask is set. -/
def spread : List Bool → List Nat → List Nat
  | [], _ => []
  | true :: cs, x :: xs => x :: spread cs xs
  | true :: cs, [] => 0 :: spread cs []
  | false :: cs, xs => 0 :: spread cs xs

/-- VEXPND (R223). -/
def vexpndBody (d a : Reg) (p : PReg) (ty : ElemTy) (x : Bool) (w : Crew) (s : State) : Res := settle do
  let w := w.form x s
  let n := ElemTy.width ty
  let mask := w.mask p (ElemTy.lanes ty)
  let xs := w.lanes n a 0
  let (_, s) ← s.vsrc a
  return w.write s d n mask (spread mask xs)

/-! ## Reductions and scans (R224, R225) -/

/-- Comb of two present elements (Table 7 of 09). -/
def comb (op : RedOp) (ty : ElemTy) (m : RMode) (x y : Nat) : FpRes :=
  match op with
  | .add => arith ty (fun f => f.add m x y) (x + y)
  | .min => laneMin ty x y
  | .max => laneMax ty x y
  | .minc => plain (if y < x then y else x)
  | .maxc => plain (if x < y then y else x)
  | .and => plain (x &&& y)
  | .or => plain (x ||| y)
  | .xor => plain (x ^^^ y)

/-- Comb where an operand may be absent. -/
def comb? (op : RedOp) (ty : ElemTy) (m : RMode) (x y : Option Nat) : Option FpRes :=
  match x, y with
  | none, none => none
  | some x, none => some (plain x)
  | none, some y => some (plain y)
  | some x, some y => some (comb op ty m x y)

/-- Identity (Table 7 of 09). -/
def identityOf (op : RedOp) (ty : ElemTy) : Nat :=
  let n := ElemTy.width ty
  match op with
  | .add | .maxc | .or | .xor => 0
  | .minc | .and => 2 ^ n - 1
  | .min => match (ElemTy.fmt? ty) with | some f => f.inf | none => 2 ^ (n - 1) - 1
  | .max => match (ElemTy.fmt? ty) with | some f => f.signed true f.inf | none => 2 ^ (n - 1)

/-- One step of the halving tree: the lower half combined with the upper (R192). (Log 33, PRESUMED.) -/
def halve (op : RedOp) (ty : ElemTy) (m : RMode) (t : List (Option Nat)) : List (Option FpRes) :=
  let h := (t.length + 1) / 2
  (t.take h).zipIdx.map fun x => comb? op ty m x.1 ((t[x.2 + h]?).getD none)

/-- The tree with the exceptions of every rounding, by the element that it writes. -/
def tree (op : RedOp) (ty : ElemTy) (m : RMode) : Nat → List (Option Nat) → List (Nat × Nat) → Option Nat × List (Nat × Nat)
  | 0, t, fl => (t.headD none, fl)
  | n + 1, t, fl =>
    if t.length ≤ 1 then (t.headD none, fl)
    else
      let r := halve op ty m t
      tree op ty m n (r.map fun x => x.map (·.bits)) (fl ++ flagsFrom 0 r)

/-- VRED (R225). -/
def vredBody (d a : Reg) (op : RedOp) (p : PReg) (ty : ElemTy) (x : Bool) (w : Crew) (s : State) : Res := settle do
  let w := w.form x s
  let n := ElemTy.width ty
  let L := ElemTy.lanes ty
  let t := ((w.mask p L).zip (w.lanes n a 0)).map fun t => if t.1 then some t.2 else none
  let (r, fl) := tree op ty (w.rounding s) 10 t []
  let (_, s) ← s.vsrc a
  let s ← w.meet a s
  let s ← w.report s L fl
  return (s.setV d.toNat (if w.idx = 0 then packLanes n [r.getD (identityOf op ty)] else 0)).ok

/-- The ascending scan: results of active elements with their exceptions. -/
def scan (op : RedOp) (ty : ElemTy) (m : RMode) : Option Nat → List (Option Nat) → List (Option FpRes)
  | _, [] => []
  | acc, none :: t => none :: scan op ty m acc t
  | acc, some x :: t =>
    let r := (comb? op ty m acc (some x)).getD (plain x)
    some r :: scan op ty m (some r.bits) t

/-- VSCAN (R225). -/
def vscanBody (d a : Reg) (op : RedOp) (p : PReg) (ty : ElemTy) (x : Bool) (w : Crew) (s : State) : Res := settle do
  let w := w.form x s
  let n := ElemTy.width ty
  let L := ElemTy.lanes ty
  let t := ((w.mask p L).zip (w.lanes n a 0)).map fun t => if t.1 then some t.2 else none
  let rs := scan op ty (w.rounding s) none t
  let (_, s) ← s.vsrc a
  let s ← w.meet a s
  let s ← w.report s L (flagsFrom 0 rs)
  return (s.writeLanes d n (w.part L (rs.map fun r => r.map (·.bits)))).ok

/-! ## Compare-exchange (R226) -/

/-- The order of keys. -/
def keyOf (ty : ElemTy) (x : Nat) : Int :=
  match (ElemTy.fmt? ty) with
  | some f => f.key x
  | none => ElemTy.int ty x

/-- Whether elements i and i + j are exchanged. -/
def exchanged (ty : ElemTy) (ks : List Nat) (mask : List Bool) (j k i : Nat) : Bool :=
  let lo := keyOf ty (ks.getD i 0)
  let hi := keyOf ty (ks.getD (i + j) 0)
  mask.getD i false && mask.getD (i + j) false && (if i &&& k = 0 then decide (hi < lo) else decide (lo < hi))

/-- The element that stands at an index after the stage. -/
def exchange (ty : ElemTy) (ks : List Nat) (mask : List Bool) (j k i : Nat) : Nat :=
  if i &&& j = 0 then (if exchanged ty ks mask j k i then i + j else i)
  else if exchanged ty ks mask j k (i - j) then i - j else i

/-- VCXS (R226). -/
def vcxsBody (d a b : Reg) (p : PReg) (ty : ElemTy) (x : Bool) (w : Crew) (s : State) : Res :=
  let w := w.form x s
  let n := ElemTy.width ty
  let L := ElemTy.lanes ty
  let ks := w.lanes n d 0
  let ys := w.lanes n (d + 1) 0
  let mask := w.mask p L
  let j := (w.g s a).toNat
  let k := (w.g s b).toNat
  if j = 0 ∨ ks.length ≤ j ∨ powerOf j = none then s.ok
  else
    let from' := (List.range ks.length).map (exchange ty ks mask j k)
    let s := s.setV d.toNat (packLanes n (w.part L (from'.map fun i => ks.getD i 0)))
    (s.setV (d.toNat + 1) (packLanes n (w.part L (from'.map fun i => ys.getD i 0)))).ok

/-! ## Table lookup (R227, R228) -/

/-- Elements of VLUT from the one that PIX names: each is committed with PIX. -/
def vlutFrom (d : Reg) (base : W64) (n : Nat) (mask : List Bool) (xs : List Nat) : Nat → Nat → State → Except Res State
  | 0, _, s => .ok s
  | k + 1, i, s => do
    let s ← s.element
    if mask.getD i false then
      let off := base + w64 (n / 8) * w64 (xs.getD i 0)
      if 0x30000 ≤ off.toNat then trapHere s .localrange (0xFFFF000000000000 + off)
      else
        let (v, s) ← s.readPlace (.own off.toNat) (0xFFFF000000000000 + off) (n / 8) false
        let s := s.setLane d n i v
        vlutFrom d base n mask xs k (i + 1) { s with me.ctl.pix := w64 (i + 1) }
    else vlutFrom d base n mask xs k (i + 1) { s with me.ctl.pix := w64 (i + 1) }

/-- VLUT (R227). -/
def vlutBody (d a b : Reg) (p : PReg) (ty : ElemTy) (s : State) : Res := settle do
  let n := ElemTy.width ty
  let L := ElemTy.lanes ty
  let base := s.g b
  if base.toNat % (n / 8) ≠ 0 then trapHere s .misalign base
  else
    let (x, s) ← s.vsrc a
    let i := field s.me.ctl.pix 0 6
    let s ← vlutFrom d base n (s.me.mask p L) (lanesOf n x) (L - i) i s
    return { s with me.ctl.pix := 0 }.ok

/-! ## Dot products (R229) -/

/-- Consecutive groups of m elements. -/
def groups (m : Nat) : Nat → List Nat → List (List Nat)
  | 0, _ => []
  | k + 1, l => l.take m :: groups m k (l.drop m)

/-- Sum of products of integers. -/
def dotInt (rd : Nat → Int) (xs ys : List Nat) : Int := (xs.zip ys).foldl (fun t p => t + rd p.1 * rd p.2) 0

/-- One element of VDOT (Table 10 of 09): the code of f32 stands for cardinal bytes. -/
def laneDot (ty : ElemTy) (m : RMode) (d : Nat) (xs ys : List Nat) : FpRes :=
  match ty with
  | .f16 => dotRound fmt32 fmt16 m (fmt32.unpack d) false (xs.zip ys)
  | .bf16 => dotRound fmt32 fmtB16 m (fmt32.unpack d) false (xs.zip ys)
  | .i8 => plain (lowBits 32 (d + dotInt (signedOf 8) xs ys))
  | .i16 => plain (lowBits 32 (d + dotInt (signedOf 16) xs ys))
  | _ => plain (lowBits 32 (d + dotInt (fun x => (x : Int)) xs ys))

/-- Source width of VDOT. -/
def dotWidth (ty : ElemTy) : Nat :=
  match ty with
  | .f16 | .bf16 | .i16 => 16
  | _ => 8

/-- VDOT (R229). -/
def vdotBody (d a b : Reg) (p : PReg) (ty : ElemTy) (s : State) : Res := settle do
  let (x, s) ← s.vsrc a
  let (y, s) ← s.vsrc b
  let n := dotWidth ty
  let m := s.me.rounding
  let gs := ((groups (32 / n) 16 (lanesOf n x)).zip (groups (32 / n) 16 (lanesOf n y))).zip (lanesOf 32 (s.v d.toNat))
  let s ← s.finishLanes d 32 (activeRes (s.me.mask p 16) (gs.map fun t => laneDot ty m t.2 t.1.1 t.1.2))
  return s.ok

/-! ## Effects -/

/-- VADD (R209). -/
def vaddBody (d a b : Reg) (p : PReg) (ty : ElemTy) (s : State) : Res :=
  lanes2 ty d a b p (fun m x y _ => arith ty (fun f => f.add m x y) (x + y)) s

/-- VSUB (R209). -/
def vsubBody (d a b : Reg) (p : PReg) (ty : ElemTy) (s : State) : Res :=
  lanes2 ty d a b p (fun m x y _ => arith ty (fun f => f.sub m x y) (x - y)) s

/-- VMUL (R209). -/
def vmulBody (d a b : Reg) (p : PReg) (ty : ElemTy) (s : State) : Res :=
  lanes2 ty d a b p (fun m x y _ => arith ty (fun f => f.mul m x y) (x * y)) s

/-- VFMA (R209). -/
def vfmaBody (d a b : Reg) (p : PReg) (ty : ElemTy) (s : State) : Res :=
  lanes2 ty d a b p (fun m x y z => arith ty (fun f => f.fma m x y z) (x * y + z)) s

/-- VFNMA (R209). -/
def vfnmaBody (d a b : Reg) (p : PReg) (ty : ElemTy) (s : State) : Res :=
  lanes2 ty d a b p (fun m x y z => arith ty (fun f => f.fnma m x y z) (z - x * y)) s

/-- VDIV (R209). -/
def vdivBody (d a b : Reg) (p : PReg) (ty : ElemTy) (s : State) : Res :=
  lanes2 ty d a b p (fun m x y _ => floatOnly ty fun f => f.div m x y) s

/-- VMIN (R210). -/
def vminBody (d a b : Reg) (p : PReg) (ty : ElemTy) (s : State) : Res :=
  lanes2 ty d a b p (fun _ x y _ => laneMin ty x y) s

/-- VMAX (R210). -/
def vmaxBody (d a b : Reg) (p : PReg) (ty : ElemTy) (s : State) : Res :=
  lanes2 ty d a b p (fun _ x y _ => laneMax ty x y) s

/-- VCPYS (R211). -/
def vcpysBody (d a b : Reg) (p : PReg) (ty : ElemTy) (s : State) : Res :=
  lanes2 ty d a b p (fun _ x y _ => plain (x % signBit (ElemTy.width ty) + y / signBit (ElemTy.width ty) * signBit (ElemTy.width ty))) s

/-- VAND (R214). -/
def vandBody (d a b : Reg) (p : PReg) (ty : ElemTy) (s : State) : Res :=
  lanes2 ty d a b p (fun _ x y _ => plain (x &&& y)) s

/-- VOR (R214). -/
def vorBody (d a b : Reg) (p : PReg) (ty : ElemTy) (s : State) : Res :=
  lanes2 ty d a b p (fun _ x y _ => plain (x ||| y)) s

/-- VXOR (R214). -/
def vxorBody (d a b : Reg) (p : PReg) (ty : ElemTy) (s : State) : Res :=
  lanes2 ty d a b p (fun _ x y _ => plain (x ^^^ y)) s

/-- VSHL (R214). -/
def vshlBody (d a b : Reg) (p : PReg) (ty : ElemTy) (s : State) : Res :=
  lanes2 ty d a b p (fun _ x y _ => plain (laneShl (ElemTy.width ty) x y)) s

/-- VSHR (R214). -/
def vshrBody (d a b : Reg) (p : PReg) (ty : ElemTy) (s : State) : Res :=
  lanes2 ty d a b p (fun _ x y _ => plain (laneShr (ElemTy.width ty) x y)) s

/-- VSAR (R214). -/
def vsarBody (d a b : Reg) (p : PReg) (ty : ElemTy) (s : State) : Res :=
  lanes2 ty d a b p (fun _ x y _ => plain (laneSar (ElemTy.width ty) x y)) s

/-- VABS (R212). -/
def vabsBody (d a : Reg) (p : PReg) (ty : ElemTy) (s : State) : Res :=
  lanes1 ty d a p (fun _ x => plain (laneAbs ty x)) s

/-- VNEG (R212). -/
def vnegBody (d a : Reg) (p : PReg) (ty : ElemTy) (s : State) : Res :=
  lanes1 ty d a p (fun _ x => plain (laneNeg ty x)) s

/-- VNOT (R212). -/
def vnotBody (d a : Reg) (p : PReg) (ty : ElemTy) (s : State) : Res :=
  lanes1 ty d a p (fun _ x => plain (2 ^ ElemTy.width ty - 1 - x)) s

/-- VSQRT (R212). -/
def vsqrtBody (d a : Reg) (p : PReg) (ty : ElemTy) (s : State) : Res :=
  lanes1 ty d a p (fun m x => floatOnly ty fun f => f.sqrt m x) s

/-- VRCP (R212). -/
def vrcpBody (d a : Reg) (p : PReg) (ty : ElemTy) (s : State) : Res :=
  lanes1 ty d a p (fun m x => floatOnly ty fun f => f.rcp m x) s

/-- VRSQ (R213). -/
def vrsqBody (d a : Reg) (p : PReg) (ty : ElemTy) (s : State) : Res :=
  lanes1 ty d a p (fun _ x => floatOnly ty fun f => f.rsq x) s

/-- VEXP2 (R213). -/
def vexp2Body (d a : Reg) (p : PReg) (ty : ElemTy) (s : State) : Res :=
  lanes1 ty d a p (fun _ x => floatOnly ty fun f => f.exp2 x) s

/-- VLOG2 (R213). -/
def vlog2Body (d a : Reg) (p : PReg) (ty : ElemTy) (s : State) : Res :=
  lanes1 ty d a p (fun _ x => floatOnly ty fun f => f.log2 x) s

/-- VSINPI (R213). -/
def vsinpiBody (d a : Reg) (p : PReg) (ty : ElemTy) (s : State) : Res :=
  lanes1 ty d a p (fun _ x => floatOnly ty fun f => f.sinpi x) s

/-- VCOSPI (R213). -/
def vcospiBody (d a : Reg) (p : PReg) (ty : ElemTy) (s : State) : Res :=
  lanes1 ty d a p (fun _ x => floatOnly ty fun f => f.cospi x) s

/-- VTANH (R213). -/
def vtanhBody (d a : Reg) (p : PReg) (ty : ElemTy) (s : State) : Res :=
  lanes1 ty d a p (fun _ x => floatOnly ty fun f => f.tanh x) s

/-! ## The instructions -/

/-- VADD (R209). -/
def execVadd (d a b : Reg) (p : PReg) (ty : ElemTy) (x : Bool) (s : State) : Out :=
  issue (.vadd d a b p ty x) (vaddBody d a b p ty) s

/-- VSUB (R209). -/
def execVsub (d a b : Reg) (p : PReg) (ty : ElemTy) (x : Bool) (s : State) : Out :=
  issue (.vsub d a b p ty x) (vsubBody d a b p ty) s

/-- VMUL (R209). -/
def execVmul (d a b : Reg) (p : PReg) (ty : ElemTy) (x : Bool) (s : State) : Out :=
  issue (.vmul d a b p ty x) (vmulBody d a b p ty) s

/-- VFMA (R209). -/
def execVfma (d a b : Reg) (p : PReg) (ty : ElemTy) (x : Bool) (s : State) : Out :=
  issue (.vfma d a b p ty x) (vfmaBody d a b p ty) s

/-- VFNMA (R209). -/
def execVfnma (d a b : Reg) (p : PReg) (ty : ElemTy) (x : Bool) (s : State) : Out :=
  issue (.vfnma d a b p ty x) (vfnmaBody d a b p ty) s

/-- VDIV (R209). -/
def execVdiv (d a b : Reg) (p : PReg) (ty : ElemTy) (x : Bool) (s : State) : Out :=
  issue (.vdiv d a b p ty x) (vdivBody d a b p ty) s

/-- VMIN (R210). -/
def execVmin (d a b : Reg) (p : PReg) (ty : ElemTy) (x : Bool) (s : State) : Out :=
  issue (.vmin d a b p ty x) (vminBody d a b p ty) s

/-- VMAX (R210). -/
def execVmax (d a b : Reg) (p : PReg) (ty : ElemTy) (x : Bool) (s : State) : Out :=
  issue (.vmax d a b p ty x) (vmaxBody d a b p ty) s

/-- VCPYS (R211). -/
def execVcpys (d a b : Reg) (p : PReg) (ty : ElemTy) (x : Bool) (s : State) : Out :=
  issue (.vcpys d a b p ty x) (vcpysBody d a b p ty) s

/-- VAND (R214). -/
def execVand (d a b : Reg) (p : PReg) (ty : ElemTy) (x : Bool) (s : State) : Out :=
  issue (.vand d a b p ty x) (vandBody d a b p ty) s

/-- VOR (R214). -/
def execVor (d a b : Reg) (p : PReg) (ty : ElemTy) (x : Bool) (s : State) : Out :=
  issue (.vor d a b p ty x) (vorBody d a b p ty) s

/-- VXOR (R214). -/
def execVxor (d a b : Reg) (p : PReg) (ty : ElemTy) (x : Bool) (s : State) : Out :=
  issue (.vxor d a b p ty x) (vxorBody d a b p ty) s

/-- VSHL (R214). -/
def execVshl (d a b : Reg) (p : PReg) (ty : ElemTy) (x : Bool) (s : State) : Out :=
  issue (.vshl d a b p ty x) (vshlBody d a b p ty) s

/-- VSHR (R214). -/
def execVshr (d a b : Reg) (p : PReg) (ty : ElemTy) (x : Bool) (s : State) : Out :=
  issue (.vshr d a b p ty x) (vshrBody d a b p ty) s

/-- VSAR (R214). -/
def execVsar (d a b : Reg) (p : PReg) (ty : ElemTy) (x : Bool) (s : State) : Out :=
  issue (.vsar d a b p ty x) (vsarBody d a b p ty) s

/-- VSEL (R216). -/
def execVsel (d a b : Reg) (p : PReg) (ty : ElemTy) (x : Bool) (s : State) : Out :=
  issue (.vsel d a b p ty x) (vselBody d a b p ty) s

/-- VDOT (R229). -/
def execVdot (d a b : Reg) (p : PReg) (ty : ElemTy) (x : Bool) (s : State) : Out :=
  issue (.vdot d a b p ty x) (vdotBody d a b p ty) s

/-- VABS (R212). -/
def execVabs (d a : Reg) (p : PReg) (ty : ElemTy) (x : Bool) (s : State) : Out :=
  issue (.vabs d a p ty x) (vabsBody d a p ty) s

/-- VNEG (R212). -/
def execVneg (d a : Reg) (p : PReg) (ty : ElemTy) (x : Bool) (s : State) : Out :=
  issue (.vneg d a p ty x) (vnegBody d a p ty) s

/-- VNOT (R212). -/
def execVnot (d a : Reg) (p : PReg) (ty : ElemTy) (x : Bool) (s : State) : Out :=
  issue (.vnot d a p ty x) (vnotBody d a p ty) s

/-- VSQRT (R212). -/
def execVsqrt (d a : Reg) (p : PReg) (ty : ElemTy) (x : Bool) (s : State) : Out :=
  issue (.vsqrt d a p ty x) (vsqrtBody d a p ty) s

/-- VRCP (R212). -/
def execVrcp (d a : Reg) (p : PReg) (ty : ElemTy) (x : Bool) (s : State) : Out :=
  issue (.vrcp d a p ty x) (vrcpBody d a p ty) s

/-- VRSQ (R213). -/
def execVrsq (d a : Reg) (p : PReg) (ty : ElemTy) (x : Bool) (s : State) : Out :=
  issue (.vrsq d a p ty x) (vrsqBody d a p ty) s

/-- VEXP2 (R213). -/
def execVexp2 (d a : Reg) (p : PReg) (ty : ElemTy) (x : Bool) (s : State) : Out :=
  issue (.vexp2 d a p ty x) (vexp2Body d a p ty) s

/-- VLOG2 (R213). -/
def execVlog2 (d a : Reg) (p : PReg) (ty : ElemTy) (x : Bool) (s : State) : Out :=
  issue (.vlog2 d a p ty x) (vlog2Body d a p ty) s

/-- VSINPI (R213). -/
def execVsinpi (d a : Reg) (p : PReg) (ty : ElemTy) (x : Bool) (s : State) : Out :=
  issue (.vsinpi d a p ty x) (vsinpiBody d a p ty) s

/-- VCOSPI (R213). -/
def execVcospi (d a : Reg) (p : PReg) (ty : ElemTy) (x : Bool) (s : State) : Out :=
  issue (.vcospi d a p ty x) (vcospiBody d a p ty) s

/-- VTANH (R213). -/
def execVtanh (d a : Reg) (p : PReg) (ty : ElemTy) (x : Bool) (s : State) : Out :=
  issue (.vtanh d a p ty x) (vtanhBody d a p ty) s

/-- VBCAST (R219). -/
def execVbcast (d a : Reg) (p : PReg) (ty : ElemTy) (x : Bool) (s : State) : Out :=
  issue (.vbcast d a p ty x) (vbcastBody d a p ty) s

/-- VCMP (R215). -/
def execVcmp (cond : VCond) (d : PReg) (a b : Reg) (p : PReg) (ty : ElemTy) (x : Bool) (s : State) : Out :=
  issue (.vcmp cond d a b p ty x) (vcmpBody cond d a b p ty) s

/-- VCVT (R218). -/
def execVcvt (d a : Reg) (part : BitVec 2) (c : Bool) (src : ElemTy) (p : PReg) (ty : ElemTy) (x : Bool) (s : State) : Out :=
  issue (.vcvt d a part c src p ty x) (vcvtBody d a part c src p ty) s

/-- VINS (R220). -/
def execVins (d a b : Reg) (p : PReg) (ty : ElemTy) (s : State) : Out :=
  issue (.vins d a b p ty) (vinsBody d a b p ty) s

/-- VEXT (R221). -/
def execVext (d a b : Reg) (z : Bool) (ty : ElemTy) (s : State) : Out :=
  issue (.vext d a b z ty) (vextBody d a b z ty) s

/-- VPERM (R222). -/
def execVperm (d a b : Reg) (p : PReg) (ty : ElemTy) (x : Bool) (s : State) : Out :=
  issueG (.vperm d a b p ty x) (vpermBody d a b p ty x) s

/-- VSLIDE (R222). -/
def execVslide (d a b : Reg) (p : PReg) (ty : ElemTy) (x : Bool) (s : State) : Out :=
  issueG (.vslide d a b p ty x) (vslideBody d a b p ty x) s

/-- VRED (R225). -/
def execVred (d a : Reg) (op : RedOp) (p : PReg) (ty : ElemTy) (x : Bool) (s : State) : Out :=
  issueG (.vred d a op p ty x) (vredBody d a op p ty x) s

/-- VSCAN (R225). -/
def execVscan (d a : Reg) (op : RedOp) (p : PReg) (ty : ElemTy) (x : Bool) (s : State) : Out :=
  issueG (.vscan d a op p ty x) (vscanBody d a op p ty x) s

/-- VCXS (R226). -/
def execVcxs (d a b : Reg) (p : PReg) (ty : ElemTy) (x : Bool) (s : State) : Out :=
  issueG (.vcxs d a b p ty x) (vcxsBody d a b p ty x) s

/-- VCOMPR (R223). -/
def execVcompr (d a : Reg) (p : PReg) (ty : ElemTy) (x : Bool) (s : State) : Out :=
  issueG (.vcompr d a p ty x) (vcomprBody d a p ty x) s

/-- VEXPND (R223). -/
def execVexpnd (d a : Reg) (p : PReg) (ty : ElemTy) (x : Bool) (s : State) : Out :=
  issueG (.vexpnd d a p ty x) (vexpndBody d a p ty x) s

/-- VLUT (R227). -/
def execVlut (d a b : Reg) (p : PReg) (ty : ElemTy) (s : State) : Out :=
  issue (.vlut d a b p ty) (vlutBody d a b p ty) s

/-! ## What REPV issues (R143 to R145) -/

/-- The effect of a word of majors 0x40 to 0x5E; VLUT stands in no sequence (R144, R227). -/
def vecBody (i : Instr) : Option Body :=
  match i with
  | .vadd d a b p ty _ => some (fun _ => vaddBody d a b p ty)
  | .vsub d a b p ty _ => some (fun _ => vsubBody d a b p ty)
  | .vmul d a b p ty _ => some (fun _ => vmulBody d a b p ty)
  | .vfma d a b p ty _ => some (fun _ => vfmaBody d a b p ty)
  | .vfnma d a b p ty _ => some (fun _ => vfnmaBody d a b p ty)
  | .vdiv d a b p ty _ => some (fun _ => vdivBody d a b p ty)
  | .vmin d a b p ty _ => some (fun _ => vminBody d a b p ty)
  | .vmax d a b p ty _ => some (fun _ => vmaxBody d a b p ty)
  | .vcpys d a b p ty _ => some (fun _ => vcpysBody d a b p ty)
  | .vand d a b p ty _ => some (fun _ => vandBody d a b p ty)
  | .vor d a b p ty _ => some (fun _ => vorBody d a b p ty)
  | .vxor d a b p ty _ => some (fun _ => vxorBody d a b p ty)
  | .vshl d a b p ty _ => some (fun _ => vshlBody d a b p ty)
  | .vshr d a b p ty _ => some (fun _ => vshrBody d a b p ty)
  | .vsar d a b p ty _ => some (fun _ => vsarBody d a b p ty)
  | .vsel d a b p ty _ => some (fun _ => vselBody d a b p ty)
  | .vdot d a b p ty _ => some (fun _ => vdotBody d a b p ty)
  | .vabs d a p ty _ => some (fun _ => vabsBody d a p ty)
  | .vneg d a p ty _ => some (fun _ => vnegBody d a p ty)
  | .vnot d a p ty _ => some (fun _ => vnotBody d a p ty)
  | .vsqrt d a p ty _ => some (fun _ => vsqrtBody d a p ty)
  | .vrcp d a p ty _ => some (fun _ => vrcpBody d a p ty)
  | .vrsq d a p ty _ => some (fun _ => vrsqBody d a p ty)
  | .vexp2 d a p ty _ => some (fun _ => vexp2Body d a p ty)
  | .vlog2 d a p ty _ => some (fun _ => vlog2Body d a p ty)
  | .vsinpi d a p ty _ => some (fun _ => vsinpiBody d a p ty)
  | .vcospi d a p ty _ => some (fun _ => vcospiBody d a p ty)
  | .vtanh d a p ty _ => some (fun _ => vtanhBody d a p ty)
  | .vbcast d a p ty _ => some (fun _ => vbcastBody d a p ty)
  | .vcmp cond d a b p ty _ => some (fun _ => vcmpBody cond d a b p ty)
  | .vcvt d a part c src p ty _ => some (fun _ => vcvtBody d a part c src p ty)
  | .vins d a b p ty => some (fun _ => vinsBody d a b p ty)
  | .vext d a b z ty => some (fun _ => vextBody d a b z ty)
  | .vperm d a b p ty x => some (vpermBody d a b p ty x)
  | .vslide d a b p ty x => some (vslideBody d a b p ty x)
  | .vred d a op p ty x => some (vredBody d a op p ty x)
  | .vscan d a op p ty x => some (vscanBody d a op p ty x)
  | .vcxs d a b p ty x => some (vcxsBody d a b p ty x)
  | .vcompr d a p ty x => some (vcomprBody d a p ty x)
  | .vexpnd d a p ty x => some (vexpndBody d a p ty x)
  | _ => none

/-- A v register code advanced by a number of steps; a queue keeps its code, and a code past 55 is none (R144, R145). -/
def advance (r : Reg) (n : Nat) : Option Reg :=
  if 56 ≤ r.toNat then some r else if r.toNat + n < 56 then some (BitVec.ofNat 6 (r.toNat + n)) else none

/-- A sequence word with its v registers advanced: by i repetitions of the three steps (R145). -/
def stagger (i : Instr) (dn an bn : Nat) : Option Instr :=
  match i with
  | .vadd d a b p ty x => do
      let d ← advance d dn
      let a ← advance a an
      let b ← advance b bn
      return .vadd d a b p ty x
  | .vsub d a b p ty x => do
      let d ← advance d dn
      let a ← advance a an
      let b ← advance b bn
      return .vsub d a b p ty x
  | .vmul d a b p ty x => do
      let d ← advance d dn
      let a ← advance a an
      let b ← advance b bn
      return .vmul d a b p ty x
  | .vfma d a b p ty x => do
      let d ← advance d dn
      let a ← advance a an
      let b ← advance b bn
      return .vfma d a b p ty x
  | .vfnma d a b p ty x => do
      let d ← advance d dn
      let a ← advance a an
      let b ← advance b bn
      return .vfnma d a b p ty x
  | .vdiv d a b p ty x => do
      let d ← advance d dn
      let a ← advance a an
      let b ← advance b bn
      return .vdiv d a b p ty x
  | .vmin d a b p ty x => do
      let d ← advance d dn
      let a ← advance a an
      let b ← advance b bn
      return .vmin d a b p ty x
  | .vmax d a b p ty x => do
      let d ← advance d dn
      let a ← advance a an
      let b ← advance b bn
      return .vmax d a b p ty x
  | .vcpys d a b p ty x => do
      let d ← advance d dn
      let a ← advance a an
      let b ← advance b bn
      return .vcpys d a b p ty x
  | .vand d a b p ty x => do
      let d ← advance d dn
      let a ← advance a an
      let b ← advance b bn
      return .vand d a b p ty x
  | .vor d a b p ty x => do
      let d ← advance d dn
      let a ← advance a an
      let b ← advance b bn
      return .vor d a b p ty x
  | .vxor d a b p ty x => do
      let d ← advance d dn
      let a ← advance a an
      let b ← advance b bn
      return .vxor d a b p ty x
  | .vshl d a b p ty x => do
      let d ← advance d dn
      let a ← advance a an
      let b ← advance b bn
      return .vshl d a b p ty x
  | .vshr d a b p ty x => do
      let d ← advance d dn
      let a ← advance a an
      let b ← advance b bn
      return .vshr d a b p ty x
  | .vsar d a b p ty x => do
      let d ← advance d dn
      let a ← advance a an
      let b ← advance b bn
      return .vsar d a b p ty x
  | .vsel d a b p ty x => do
      let d ← advance d dn
      let a ← advance a an
      let b ← advance b bn
      return .vsel d a b p ty x
  | .vdot d a b p ty x => do
      let d ← advance d dn
      let a ← advance a an
      let b ← advance b bn
      return .vdot d a b p ty x
  | .vabs d a p ty x => do
      let d ← advance d dn
      let a ← advance a an
      return .vabs d a p ty x
  | .vneg d a p ty x => do
      let d ← advance d dn
      let a ← advance a an
      return .vneg d a p ty x
  | .vnot d a p ty x => do
      let d ← advance d dn
      let a ← advance a an
      return .vnot d a p ty x
  | .vsqrt d a p ty x => do
      let d ← advance d dn
      let a ← advance a an
      return .vsqrt d a p ty x
  | .vrcp d a p ty x => do
      let d ← advance d dn
      let a ← advance a an
      return .vrcp d a p ty x
  | .vrsq d a p ty x => do
      let d ← advance d dn
      let a ← advance a an
      return .vrsq d a p ty x
  | .vexp2 d a p ty x => do
      let d ← advance d dn
      let a ← advance a an
      return .vexp2 d a p ty x
  | .vlog2 d a p ty x => do
      let d ← advance d dn
      let a ← advance a an
      return .vlog2 d a p ty x
  | .vsinpi d a p ty x => do
      let d ← advance d dn
      let a ← advance a an
      return .vsinpi d a p ty x
  | .vcospi d a p ty x => do
      let d ← advance d dn
      let a ← advance a an
      return .vcospi d a p ty x
  | .vtanh d a p ty x => do
      let d ← advance d dn
      let a ← advance a an
      return .vtanh d a p ty x
  | .vbcast d a p ty x => do
      let d ← advance d dn
      return .vbcast d a p ty x
  | .vcmp cond d a b p ty x => do
      let a ← advance a an
      let b ← advance b bn
      return .vcmp cond d a b p ty x
  | .vcvt d a part c src p ty x => do
      let d ← advance d dn
      let a ← advance a an
      return .vcvt d a part c src p ty x
  | .vins d a b p ty => do
      let d ← advance d dn
      return .vins d a b p ty
  | .vext d a b z ty => do
      let a ← advance a an
      return .vext d a b z ty
  | .vperm d a b p ty x => do
      let d ← advance d dn
      let a ← advance a an
      let b ← advance b bn
      return .vperm d a b p ty x
  | .vslide d a b p ty x => do
      let d ← advance d dn
      let a ← advance a an
      return .vslide d a b p ty x
  | .vred d a op p ty x => do
      let d ← advance d dn
      let a ← advance a an
      return .vred d a op p ty x
  | .vscan d a op p ty x => do
      let d ← advance d dn
      let a ← advance a an
      return .vscan d a op p ty x
  | .vcxs d a b p ty x => do
      let d ← advance d dn
      return .vcxs d a b p ty x
  | .vcompr d a p ty x => do
      let d ← advance d dn
      let a ← advance a an
      return .vcompr d a p ty x
  | .vexpnd d a p ty x => do
      let d ← advance d dn
      let a ← advance a an
      return .vexpnd d a p ty x
  | _ => none

end Sys2Proof.Machine
end

