-- ==== Sys2Proof/Machine/Repv.lean ====
section
/-! DEFINITION. REPV (06_fetch_and_issue: R143 to R146): one word of the sequence, with the HINTs before it, at each step;
PIX says which comes next. -/

namespace Sys2Proof.Machine

/-- The state that an outcome holds, changed. -/
def Res.onState (r : Res) (f : State → State) : Res :=
  match r with
  | .done s n => .done (f s) n
  | .trap c v s => .trap c v (f s)
  | .wait w s => .wait w (f s)

/-- Fetch n words from an address on. -/
def State.fetchSeq (s : State) : Nat → W64 → Except Res (List Word × State)
  | 0, _ => .ok ([], s)
  | n + 1, a =>
    match { s with me := { s.me with pc := a } }.fetchHere with
    | .error r => .error (r.onState fun t => { t with me := { t.me with pc := s.me.pc } })
    | .ok (w, t) =>
      match State.fetchSeq { t with me := { t.me with pc := s.me.pc } } n (a + 4) with
      | .error r => .error r
      | .ok (ws, t) => .ok (w :: ws, t)

/-- The n words of the sequence of the REPV at the pc: once fetched, those that the core holds; a follower's come from its leader
(R147), those of a gang's members from member 0's one fetch (R150). -/
def State.sequence (s : State) (n : Nat) : Except Res (List Word × State) :=
  let given (ws : List Word) : Except Res (List Word × State) :=
    if ws.length = n then .ok (ws, s) else .error (.wait .gang s)
  if s.me.seq.length = n then .ok (s.me.seq, s)
  else if s.me.bond = .gang ∧ s.me.rank ≠ 0 then given (s.coreAt (s.me.crew.headD s.here)).seq
  else
    match (if s.me.bond = .follow ∧ s.me.rank ≠ 0 then s.me.trailLeft else []) with
    | x :: _ => given x.seq
    | [] => s.fetchSeq n (s.me.pc + 4)

/-- HINTs and the vector word that they precede: how many words, the mode of a ROUND, the vector word. -/
structure SeqUnit where
  len : Nat
  round : Option RMode
  instr : Instr
  deriving DecidableEq, Repr

/-- The first unit of some words: HINTs of kind ROUND and SCHED, each at most once, and a vector word (R144). -/
def firstUnit : List Word → Option RMode → Bool → Nat → Option SeqUnit
  | [], _, _, _ => none
  | w :: t, round, sched, n =>
    match decode w with
    | .error _ => none
    | .ok (.hintRound m) => if round.isSome then none else firstUnit t (some m) sched (n + 1)
    | .ok (.hintSched _ _) => if sched then none else firstUnit t round true (n + 1)
    | .ok i => if (vecBody i).isSome then some ⟨n + 1, round, i⟩ else none

/-- The units of a sequence; none where it is no sequence (R144). -/
def seqUnits : Nat → List Word → Option (List SeqUnit)
  | _, [] => some []
  | 0, _ => none
  | n + 1, ws => do
    let u ← firstUnit ws none false 0
    let us ← seqUnits n (ws.drop u.len)
    return u :: us

/-- The repetition steps of a REPV. -/
structure SeqSteps where
  d : Nat
  a : Nat
  b : Nat
  deriving DecidableEq, Repr

/-- A unit's vector word in a repetition. -/
def SeqUnit.at (u : SeqUnit) (st : SeqSteps) (rep : Nat) : Option Instr :=
  stagger u.instr (st.d * rep) (st.a * rep) (st.b * rep)

/-- Whether a sequence is legal for a number of repetitions (R144): registers only rise, so the last one decides. -/
def seqOk (us : List SeqUnit) (st : SeqSteps) (count : Nat) : Bool :=
  us.all fun u => (u.at st (count - 1)).any fun i => i.wf

/-- The sequence of n words crosses the end of an active body before its last word, wherever the body begins (R144). -/
def Core.crosses (c : Core) (n : Nat) : Bool :=
  [0, 1, 2].any fun k => c.loopAct k && decide (0 < c.loopLen k ∧ (c.loopEnd k - c.pc).toNat < 4 * n)

/-- PIX of a repetition and a word (R146). -/
def pixOf (rep word : Nat) : W64 := w64 (rep + 64 * word)

/-- The end of a REPV: it counts once, beside the words of its sequence (R463). -/
def repvEnd (n : Nat) (s : State) : Res := .done { s with me.ctl.pix := 0 } (.skip n)

/-- Count n words of a sequence beside the one that its step counts (R463). -/
def State.countWords (s : State) (n : Nat) : State :=
  { s with me := { s.me with ctl.retired := s.me.ctl.retired + w64 n, nretired := s.me.nretired + n } }

/-- Issue a unit in a repetition, and go on to the next word, the next repetition or the end. (Log 27, DESIGN CHOICE.) -/
def repvUnit (u : SeqUnit) (i : Instr) (rep word count n : Nat) (w : Crew) (s : State) : Res :=
  match vecBody i with
  | none => .trap .illegal 0 s
  | some body =>
    let hints := s.me.hints
    let restore (t : State) : State := { t with me := { t.me with hints := hints } }
    match body w { s with me := { s.me with hints := { hints with round := u.round, mempol := none } } } with
    | .done t _ =>
      let t := restore t
      let next := word + u.len
      if n ≤ next ∧ count ≤ rep + 1 then repvEnd n (t.countWords u.len)
      else
        let pix := if n ≤ next then pixOf (rep + 1) 0 else pixOf rep next
        .done { (t.countWords (u.len - 1)) with me.ctl.pix := pix } .again
    | r => r.onState restore

/-- The effect of REPV at one step (R144 to R146). A breakpoint on a sequence word traps before it, with TPC at REPV
(R146; log 19, DEDUCED). -/
def repvBody (i : Instr) (count n : Nat) (st : SeqSteps) (w : Crew) (s : State) : Res := settle do
  -- a member that only waited for another one has used no skip bit yet
  let tested := s.me.seq.length != n || s.me.wait.isNone || s.me.wait == some .gang
  let (ws, s) ← s.sequence n
  let s := { s with me := { s.me with seq := ws } }
  match seqUnits n ws with
  | none => trapHere s .illegal (zext (encode i))
  | some us =>
    if !seqOk us st count || s.me.crosses n then trapHere s .illegal (zext (encode i))
    else
      let rep := field s.me.ctl.pix 0 6
      let word := field s.me.ctl.pix 6 3
      let (rep, word) := if n ≤ word then (rep + 1, 0) else (rep, word)
      if count ≤ rep then return repvEnd n s
      else
        match firstUnit (ws.drop word) none false 0 with
        | none => return repvEnd n s
        | some u =>
          let addrs := (List.range u.len).map fun k => s.me.pc + 4 + w64 (4 * (word + k))
          let m := if tested then s.me.brkMatch addrs else (none, [])
          match m.1, u.at st rep with
          | some a, _ => trapHere s .brk a
          | none, some j => return repvUnit u j rep word count n w { s with me := s.me.useSkips m.2 }
          | none, none => trapHere s .illegal (zext (encode i))

/-- REPV (R143 to R145): count and length are held minus 1. -/
def execRepv (count : BitVec 6) (len dstep astep bstep : BitVec 3) (s : State) : Out :=
  issueG (.repv count len dstep astep bstep)
    (repvBody (.repv count len dstep astep bstep) (count.toNat + 1) (len.toNat + 1) ⟨dstep.toNat, astep.toNat, bstep.toNat⟩) s

end Sys2Proof.Machine
end

