-- ==== Sys2Proof/Machine/Dispatch.lean ====
section
/-! DEFINITION. The meaning of every instruction: one arm for each constructor of Instr. -/

namespace Sys2Proof.Machine

def exec (i : Instr) (s : State) : Host.Outcome State Fault Refusal :=
  match i with
  | .add d a b => Sys2Proof.Machine.execAdd d a b s
  | .sub d a b => Sys2Proof.Machine.execSub d a b s
  | .and d a b => Sys2Proof.Machine.execAnd d a b s
  | .or d a b => Sys2Proof.Machine.execOr d a b s
  | .xor d a b => Sys2Proof.Machine.execXor d a b s
  | .andn d a b => Sys2Proof.Machine.execAndn d a b s
  | .shl d a b => Sys2Proof.Machine.execShl d a b s
  | .shr d a b => Sys2Proof.Machine.execShr d a b s
  | .sar d a b => Sys2Proof.Machine.execSar d a b s
  | .ror d a b => Sys2Proof.Machine.execRor d a b s
  | .slt d a b => Sys2Proof.Machine.execSlt d a b s
  | .sltc d a b => Sys2Proof.Machine.execSltc d a b s
  | .min d a b => Sys2Proof.Machine.execMin d a b s
  | .max d a b => Sys2Proof.Machine.execMax d a b s
  | .minc d a b => Sys2Proof.Machine.execMinc d a b s
  | .maxc d a b => Sys2Proof.Machine.execMaxc d a b s
  | .mul d a b => Sys2Proof.Machine.execMul d a b s
  | .mulh d a b => Sys2Proof.Machine.execMulh d a b s
  | .mulhc d a b => Sys2Proof.Machine.execMulhc d a b s
  | .mulhsc d a b => Sys2Proof.Machine.execMulhsc d a b s
  | .div d a b => Sys2Proof.Machine.execDiv d a b s
  | .divc d a b => Sys2Proof.Machine.execDivc d a b s
  | .rem d a b => Sys2Proof.Machine.execRem d a b s
  | .remc d a b => Sys2Proof.Machine.execRemc d a b s
  | .addi d a imm => Sys2Proof.Machine.execAddi d a imm s
  | .andi d a imm => Sys2Proof.Machine.execAndi d a imm s
  | .ori d a imm => Sys2Proof.Machine.execOri d a imm s
  | .xori d a imm => Sys2Proof.Machine.execXori d a imm s
  | .slti d a imm => Sys2Proof.Machine.execSlti d a imm s
  | .sltci d a imm => Sys2Proof.Machine.execSltci d a imm s
  | .muli d a imm => Sys2Proof.Machine.execMuli d a imm s
  | .shli d a n => Sys2Proof.Machine.execShli d a n s
  | .shri d a n => Sys2Proof.Machine.execShri d a n s
  | .sari d a n => Sys2Proof.Machine.execSari d a n s
  | .rori d a n => Sys2Proof.Machine.execRori d a n s
  | .bext d a width off => Sys2Proof.Machine.execBext d a width off s
  | .bexts d a width off => Sys2Proof.Machine.execBexts d a width off s
  | .bins d a width off => Sys2Proof.Machine.execBins d a width off s
  | .lea d a b n => Sys2Proof.Machine.execLea d a b n s
  | .laddr d a idx => Sys2Proof.Machine.execLaddr d a idx s
  | .laddrLen d idx => Sys2Proof.Machine.execLaddrLen d idx s
  | .clz d a => Sys2Proof.Machine.execClz d a s
  | .ctz d a => Sys2Proof.Machine.execCtz d a s
  | .popc d a => Sys2Proof.Machine.execPopc d a s
  | .brev d a => Sys2Proof.Machine.execBrev d a s
  | .bswap d a => Sys2Proof.Machine.execBswap d a s
  | .sextb d a => Sys2Proof.Machine.execSextb d a s
  | .sexth d a => Sys2Proof.Machine.execSexth d a s
  | .sextw d a => Sys2Proof.Machine.execSextw d a s
  | .zexth d a => Sys2Proof.Machine.execZexth d a s
  | .zextw d a => Sys2Proof.Machine.execZextw d a s
  | .sel d a b c => Sys2Proof.Machine.execSel d a b c s
  | .selz d a b c => Sys2Proof.Machine.execSelz d a b c s
  | .beq a b off => Sys2Proof.Machine.execBeq a b off s
  | .bne a b off => Sys2Proof.Machine.execBne a b off s
  | .blt a b off => Sys2Proof.Machine.execBlt a b off s
  | .bge a b off => Sys2Proof.Machine.execBge a b off s
  | .bltc a b off => Sys2Proof.Machine.execBltc a b off s
  | .bgec a b off => Sys2Proof.Machine.execBgec a b off s
  | .j off => Sys2Proof.Machine.execJ off s
  | .jal off => Sys2Proof.Machine.execJal off s
  | .jalr d a imm => Sys2Proof.Machine.execJalr d a imm s
  | .jr a imm => Sys2Proof.Machine.execJr a imm s
  | .loop a lc len => Sys2Proof.Machine.execLoop a lc len s
  | .repv count len dstep astep bstep => Sys2Proof.Machine.execRepv count len dstep astep bstep s
  | .follow d => Sys2Proof.Machine.execFollow d s
  | .gang d => Sys2Proof.Machine.execGang d s
  | .unfollow => Sys2Proof.Machine.execUnfollow s
  | .disband => Sys2Proof.Machine.execDisband s
  | .brk code => Sys2Proof.Machine.execBrk code s
  | .ld d a size sx off => Sys2Proof.Machine.execLd d a size sx off s
  | .ldvol d a size sx off => Sys2Proof.Machine.execLdvol d a size sx off s
  | .st src a size off => Sys2Proof.Machine.execSt src a size off s
  | .stvol src a size off => Sys2Proof.Machine.execStvol src a size off s
  | .ldv d a off => Sys2Proof.Machine.execLdv d a off s
  | .stv src a off => Sys2Proof.Machine.execStv src a off s
  | .gath d a b p ty => Sys2Proof.Machine.execGath d a b p ty s
  | .scat d a b p ty => Sys2Proof.Machine.execScat d a b p ty s
  | .pref a => Sys2Proof.Machine.execPref a s
  | .prefX a => Sys2Proof.Machine.execPrefX a s
  | .prefL2 a => Sys2Proof.Machine.execPrefL2 a s
  | .bpref d a b => Sys2Proof.Machine.execBpref d a b s
  | .clean a => Sys2Proof.Machine.execClean a s
  | .cleanP a => Sys2Proof.Machine.execCleanP a s
  | .cinv a => Sys2Proof.Machine.execCinv a s
  | .ldAcq d a dw => Sys2Proof.Machine.execLdAcq d a dw s
  | .stRel a b dw => Sys2Proof.Machine.execStRel a b dw s
  | .atswap d a b ord dw => Sys2Proof.Machine.execAtswap d a b ord dw s
  | .atadd d a b ord dw => Sys2Proof.Machine.execAtadd d a b ord dw s
  | .atand d a b ord dw => Sys2Proof.Machine.execAtand d a b ord dw s
  | .ator d a b ord dw => Sys2Proof.Machine.execAtor d a b ord dw s
  | .atxor d a b ord dw => Sys2Proof.Machine.execAtxor d a b ord dw s
  | .atmin d a b ord dw => Sys2Proof.Machine.execAtmin d a b ord dw s
  | .atmax d a b ord dw => Sys2Proof.Machine.execAtmax d a b ord dw s
  | .atminc d a b ord dw => Sys2Proof.Machine.execAtminc d a b ord dw s
  | .atmaxc d a b ord dw => Sys2Proof.Machine.execAtmaxc d a b ord dw s
  | .cas d a b ord dw => Sys2Proof.Machine.execCas d a b ord dw s
  | .fence scope => Sys2Proof.Machine.execFence scope s
  | .fenceSc scope => Sys2Proof.Machine.execFenceSc scope s
  | .mwait d a b => Sys2Proof.Machine.execMwait d a b s
  | .bar d level ck => Sys2Proof.Machine.execBar d level ck s
  | .send a b => Sys2Proof.Machine.execSend a b s
  | .sendv a b => Sys2Proof.Machine.execSendv a b s
  | .sendEos a => Sys2Proof.Machine.execSendEos a s
  | .stbind d a b => Sys2Proof.Machine.execStbind d a b s
  | .stdrop d a b => Sys2Proof.Machine.execStdrop d a b s
  | .waiteos d a b => Sys2Proof.Machine.execWaiteos d a b s
  | .xtpl d a b => Sys2Proof.Machine.execXtpl d a b s
  | .swinit d a b => Sys2Proof.Machine.execSwinit d a b s
  | .swait d a b => Sys2Proof.Machine.execSwait d a b s
  | .fesetE a b => Sys2Proof.Machine.execFesetE a b s
  | .fesetF a b => Sys2Proof.Machine.execFesetF a b s
  | .wreg d a b => Sys2Proof.Machine.execWreg d a b s
  | .wst src a b => Sys2Proof.Machine.execWst src a b s
  | .whzn d a b => Sys2Proof.Machine.execWhzn d a b s
  | .wretain d a b => Sys2Proof.Machine.execWretain d a b s
  | .wseed a => Sys2Proof.Machine.execWseed a s
  | .wstat d a => Sys2Proof.Machine.execWstat d a s
  | .wld d a b lim => Sys2Proof.Machine.execWld d a b lim s
  | .wldT d a b lim => Sys2Proof.Machine.execWldT d a b lim s
  | .patrec d a => Sys2Proof.Machine.execPatrec d a s
  | .patplay d a => Sys2Proof.Machine.execPatplay d a s
  | .patoff d a => Sys2Proof.Machine.execPatoff d a s
  | .patstat d a => Sys2Proof.Machine.execPatstat d a s
  | .patdrop d a => Sys2Proof.Machine.execPatdrop d a s
  | .quant d a q4 prm p ty => Sys2Proof.Machine.execQuant d a q4 prm p ty s
  | .dquant d a q4 prm p ty => Sys2Proof.Machine.execDquant d a q4 prm p ty s
  | .vadd d a b p ty x => Sys2Proof.Machine.execVadd d a b p ty x s
  | .vsub d a b p ty x => Sys2Proof.Machine.execVsub d a b p ty x s
  | .vmul d a b p ty x => Sys2Proof.Machine.execVmul d a b p ty x s
  | .vfma d a b p ty x => Sys2Proof.Machine.execVfma d a b p ty x s
  | .vfnma d a b p ty x => Sys2Proof.Machine.execVfnma d a b p ty x s
  | .vdiv d a b p ty x => Sys2Proof.Machine.execVdiv d a b p ty x s
  | .vmin d a b p ty x => Sys2Proof.Machine.execVmin d a b p ty x s
  | .vmax d a b p ty x => Sys2Proof.Machine.execVmax d a b p ty x s
  | .vcpys d a b p ty x => Sys2Proof.Machine.execVcpys d a b p ty x s
  | .vabs d a p ty x => Sys2Proof.Machine.execVabs d a p ty x s
  | .vneg d a p ty x => Sys2Proof.Machine.execVneg d a p ty x s
  | .vnot d a p ty x => Sys2Proof.Machine.execVnot d a p ty x s
  | .vsqrt d a p ty x => Sys2Proof.Machine.execVsqrt d a p ty x s
  | .vrcp d a p ty x => Sys2Proof.Machine.execVrcp d a p ty x s
  | .vrsq d a p ty x => Sys2Proof.Machine.execVrsq d a p ty x s
  | .vexp2 d a p ty x => Sys2Proof.Machine.execVexp2 d a p ty x s
  | .vlog2 d a p ty x => Sys2Proof.Machine.execVlog2 d a p ty x s
  | .vsinpi d a p ty x => Sys2Proof.Machine.execVsinpi d a p ty x s
  | .vcospi d a p ty x => Sys2Proof.Machine.execVcospi d a p ty x s
  | .vtanh d a p ty x => Sys2Proof.Machine.execVtanh d a p ty x s
  | .vand d a b p ty x => Sys2Proof.Machine.execVand d a b p ty x s
  | .vor d a b p ty x => Sys2Proof.Machine.execVor d a b p ty x s
  | .vxor d a b p ty x => Sys2Proof.Machine.execVxor d a b p ty x s
  | .vshl d a b p ty x => Sys2Proof.Machine.execVshl d a b p ty x s
  | .vshr d a b p ty x => Sys2Proof.Machine.execVshr d a b p ty x s
  | .vsar d a b p ty x => Sys2Proof.Machine.execVsar d a b p ty x s
  | .vcmp cond d a b p ty x => Sys2Proof.Machine.execVcmp cond d a b p ty x s
  | .vsel d a b p ty x => Sys2Proof.Machine.execVsel d a b p ty x s
  | .vcvt d a part c src p ty x => Sys2Proof.Machine.execVcvt d a part c src p ty x s
  | .vbcast d a p ty x => Sys2Proof.Machine.execVbcast d a p ty x s
  | .vins d a b p ty => Sys2Proof.Machine.execVins d a b p ty s
  | .vext d a b z ty => Sys2Proof.Machine.execVext d a b z ty s
  | .vperm d a b p ty x => Sys2Proof.Machine.execVperm d a b p ty x s
  | .vslide d a b p ty x => Sys2Proof.Machine.execVslide d a b p ty x s
  | .vred d a op p ty x => Sys2Proof.Machine.execVred d a op p ty x s
  | .vscan d a op p ty x => Sys2Proof.Machine.execVscan d a op p ty x s
  | .vcxs d a b p ty x => Sys2Proof.Machine.execVcxs d a b p ty x s
  | .vcompr d a p ty x => Sys2Proof.Machine.execVcompr d a p ty x s
  | .vexpnd d a p ty x => Sys2Proof.Machine.execVexpnd d a p ty x s
  | .vlut d a b p ty => Sys2Proof.Machine.execVlut d a b p ty s
  | .vdot d a b p ty x => Sys2Proof.Machine.execVdot d a b p ty x s
  | .pset d a => Sys2Proof.Machine.execPset d a s
  | .pand d a b => Sys2Proof.Machine.execPand d a b s
  | .por d a b => Sys2Proof.Machine.execPor d a b s
  | .pxor d a b => Sys2Proof.Machine.execPxor d a b s
  | .pnot d a => Sys2Proof.Machine.execPnot d a s
  | .pcnt d a => Sys2Proof.Machine.execPcnt d a s
  | .pfirst d a => Sys2Proof.Machine.execPfirst d a s
  | .zclr z ev k => Sys2Proof.Machine.execZclr z ev k s
  | .zld z ev k a b => Sys2Proof.Machine.execZld z ev k a b s
  | .zst z ev k a b => Sys2Proof.Machine.execZst z ev k a b s
  | .zver z ev k a => Sys2Proof.Machine.execZver z ev k a s
  | .mma z ev k a b mc ty => Sys2Proof.Machine.execMma z ev k a b mc ty s
  | .sclacc z ev k part b clr => Sys2Proof.Machine.execSclacc z ev k part b clr s
  | .outlacc z ev k a b row => Sys2Proof.Machine.execOutlacc z ev k a b row s
  | .mcmd d a b => Sys2Proof.Machine.execMcmd d a b s
  | .mcmdT d a b => Sys2Proof.Machine.execMcmdT d a b s
  | .capgrant d a b => Sys2Proof.Machine.execCapgrant d a b s
  | .capdrop b => Sys2Proof.Machine.execCapdrop b s
  | .zwaitv z ev => Sys2Proof.Machine.execZwaitv z ev s
  | .trap a => Sys2Proof.Machine.execTrap a s
  | .tret => Sys2Proof.Machine.execTret s
  | .idle a => Sys2Proof.Machine.execIdle a s
  | .done => Sys2Proof.Machine.execDone s
  | .crd d num => Sys2Proof.Machine.execCrd d num s
  | .cwr a num => Sys2Proof.Machine.execCwr a num s
  | .tlbinv d a b => Sys2Proof.Machine.execTlbinv d a b s
  | .ctxsw d a b => Sys2Proof.Machine.execCtxsw d a b s
  | .freplay d a b => Sys2Proof.Machine.execFreplay d a b s
  | .fkill d a b => Sys2Proof.Machine.execFkill d a b s
  | .fqack d a => Sys2Proof.Machine.execFqack d a s
  | .cpair d => Sys2Proof.Machine.execCpair d s
  | .unpair d => Sys2Proof.Machine.execUnpair d s
  | .launch d a => Sys2Proof.Machine.execLaunch d a s
  | .stvgrow d a b => Sys2Proof.Machine.execStvgrow d a b s
  | .stvshrink d a b => Sys2Proof.Machine.execStvshrink d a b s
  | .stvmap d a b => Sys2Proof.Machine.execStvmap d a b s
  | .rhashBegin d a b => Sys2Proof.Machine.execRhashBegin d a b s
  | .rhashCommit d a => Sys2Proof.Machine.execRhashCommit d a s
  | .migrate d a b => Sys2Proof.Machine.execMigrate d a b s
  | .quar d a b => Sys2Proof.Machine.execQuar d a b s
  | .hintWide hi => Sys2Proof.Machine.execHintWide hi s
  | .hintMempol llc alloc => Sys2Proof.Machine.execHintMempol llc alloc s
  | .hintRound mode => Sys2Proof.Machine.execHintRound mode s
  | .hintSched taken gap => Sys2Proof.Machine.execHintSched taken gap s
  | .fqbaseWrite stave v => Sys2Proof.Machine.execFqbaseWrite stave v s
  | .rbdataRead d => Sys2Proof.Machine.execRbdataRead d s
  | .interrupt core => Sys2Proof.Machine.execInterrupt core s
  | .priResponse sid vpn success => Sys2Proof.Machine.execPriResponse sid vpn success s
  | .atsInvalidation sid first count => Sys2Proof.Machine.execAtsInvalidation sid first count s
  | .readRequest core sid line span => Sys2Proof.Machine.execReadRequest core sid line span s
  | .writeRequest core sid line span => Sys2Proof.Machine.execWriteRequest core sid line span s
  | .nonAllocatingRequest core sid line span store => Sys2Proof.Machine.execNonAllocatingRequest core sid line span store s
  | .lineHandover stave line => Sys2Proof.Machine.execLineHandover stave line s
  | .remoteStorePerform idx => Sys2Proof.Machine.execRemoteStorePerform idx s
  | .remoteStoreAck idx => Sys2Proof.Machine.execRemoteStoreAck idx s
  | .copySector core chan sector => Sys2Proof.Machine.execCopySector core chan sector s
  | .bprefLine idx line => Sys2Proof.Machine.execBprefLine idx line s
  | .matrixCommandArrival idx => Sys2Proof.Machine.execMatrixCommandArrival idx s
  | .matrixCommandRun core => Sys2Proof.Machine.execMatrixCommandRun core s
  | .messageArrival idx => Sys2Proof.Machine.execMessageArrival idx s
  | .endOfStreamArrival idx => Sys2Proof.Machine.execEndOfStreamArrival idx s
  | .pushDelivery idx => Sys2Proof.Machine.execPushDelivery idx s
  | .worldStall core => Sys2Proof.Machine.execWorldStall core s
  | .jobCompletion stave job => Sys2Proof.Machine.execJobCompletion stave job s
  | .fillSample stave => Sys2Proof.Machine.execFillSample stave s
  | .placementWindowEnd stave => Sys2Proof.Machine.execPlacementWindowEnd stave s
  | .placementRequest stave idx => Sys2Proof.Machine.execPlacementRequest stave idx s
  | .backoffExpiry stave idx => Sys2Proof.Machine.execBackoffExpiry stave idx s
  | .compaction stave idx => Sys2Proof.Machine.execCompaction stave idx s
  | .aging stave idx => Sys2Proof.Machine.execAging stave idx s
  | .preemptionDecision stave idx => Sys2Proof.Machine.execPreemptionDecision stave idx s
  | .instanceRemoval stave job stage inst => Sys2Proof.Machine.execInstanceRemoval stave job stage inst s
  | .preEmption core => Sys2Proof.Machine.execPreEmption core s
  | .resumption stave idx => Sys2Proof.Machine.execResumption stave idx s
  | .inboxDiversion idx => Sys2Proof.Machine.execInboxDiversion idx s
  | .migration stave idx => Sys2Proof.Machine.execMigration stave idx s
  | .clusterDrained cluster => Sys2Proof.Machine.execClusterDrained cluster s
  | .scrubComplete kind unit => Sys2Proof.Machine.execScrubComplete kind unit s
  | .bandwidthWindow => Sys2Proof.Machine.execBandwidthWindow s
  | .rollback core => Sys2Proof.Machine.execRollback core s
  | .errorDetected unit site corrected addr => Sys2Proof.Machine.execErrorDetected unit site corrected addr s
  | .directoryRebuild line => Sys2Proof.Machine.execDirectoryRebuild line s
  | .hostSnoop hline => Sys2Proof.Machine.execHostSnoop hline s
  | .hostMemRequest hpa write data => Sys2Proof.Machine.execHostMemRequest hpa write data s
  | .hostPoisonResponse hline => Sys2Proof.Machine.execHostPoisonResponse hline s
  | .peerAccess dev pa kind data => Sys2Proof.Machine.execPeerAccess dev pa kind data s
  | .functionLevelReset stave => Sys2Proof.Machine.execFunctionLevelReset stave s
  | .linkTraining width cxl => Sys2Proof.Machine.execLinkTraining width cxl s
  | .boot => Sys2Proof.Machine.execBoot s
  | .getMeasurements nonce => Sys2Proof.Machine.execGetMeasurements nonce s
  | .powerCapSet watts => Sys2Proof.Machine.execPowerCapSet watts s
  | .thermalThrottle column => Sys2Proof.Machine.execThermalThrottle column s
  | .thermalShutdown column => Sys2Proof.Machine.execThermalShutdown column s
  | .telemetryUpdate => Sys2Proof.Machine.execTelemetryUpdate s
  | .idleTimeout core => Sys2Proof.Machine.execIdleTimeout core s
  | .illegalWord w => Sys2Proof.Machine.execIllegalWord w s
  | .remoteAccess core => Sys2Proof.Machine.execRemoteAccess core s
  | .savebaseWrite stave v => Sys2Proof.Machine.execSavebaseWrite stave v s
  | .thermalThrottleRelease => Sys2Proof.Machine.execThermalThrottleRelease s
  | .hostDataResponse hline => Sys2Proof.Machine.execHostDataResponse hline s
  | .atsTranslationCompletion sid vpn pte => Sys2Proof.Machine.execAtsTranslationCompletion sid vpn pte s
  | .powerGating cluster => Sys2Proof.Machine.execPowerGating cluster s

end Sys2Proof.Machine
end

