-- ==== Sys2Proof/Machine/Step.lean ====
section
/-! DEFINITION. One step of the machine: whose move comes next (log 6, DESIGN CHOICE), the causes that come before a word (R391, R393),
fetch, decode, the word's meaning, and what follows it: followers (R147), the signature checker (R160), the cycle count. -/

namespace Sys2Proof.Machine

/-! ## A word of the core in focus -/

/-- Apply a change to a next state. -/
def onNext (f : State → State) (o : Out) : Out :=
  match o with
  | .next s => .next (f s)
  | .fault r => .fault r
  | .refused r => .refused r

/-- CYCLE after a step (log 8, DESIGN CHOICE). -/
def State.tick (s : State) : State :=
  { s with dev.cycle := s.dev.cycle + w64 (Config.stepCycles s.fresh), fresh := s.fresh + 1 }

/-- A REPV that has issued some words of its sequence and not all. -/
def partway (i : Instr) (c : Core) : Bool :=
  match i with
  | .repv _ _ _ _ _ => c.ctl.pix != 0
  | _ => false

/-- The word that core k has retired at a step of word w of the core in focus: a join at which it waited, or w itself (R153, R150). -/
def State.retiredWord (s0 : State) (k : Nat) (w : Word) : Word :=
  if k = s0.here then w else ((s0.coreAt k).joinAt.map (·.2)).getD w

/-- The core whose pc, PIX and HINTs a retired word of core k had: its own at a join, otherwise the core's in focus. -/
def State.retiredAt (s0 : State) (k : Nat) : Core :=
  if (s0.coreAt k).joinAt.isSome then s0.coreAt k else s0.me

/-- Feed the checker of core k with the HINTs and the word that it has retired (R160). -/
def State.feedCore (s0 s : State) (k : Nat) (w : Word) : State :=
  let c := s0.retiredAt k
  let w := s0.retiredWord k w
  match decode w with
  | .error _ => s
  | .ok i =>
    let s := if partway i c then s else c.hints.chain.foldl (fun s x => (s.sigWordIn x.2 x.1).sigBlockEnd x.1 (x.1 + 4)) s
    s.sigFeed w i c.pc c.ctl.pix

/-- Feed the checkers of every core that has retired a word (R160). s0 is the state before it. -/
def State.feedAll (s0 s : State) (w : Word) : State :=
  s0.cores.foldl (fun s k =>
    if (s0.coreAt k).sigActive && (s.coreAt k).live && (s0.coreAt k).nretired != (s.coreAt k).nretired then
      s.at k fun s => s0.feedCore s k w
    else s) s

/-- A wait in the midst of a word that has been issued: its followers may issue the word too (R147, R352). A join waits before
its effect (R153, R154), and so does a word whose access is parked (R53). -/
def Wait.within : Wait → Bool
  | .join _ | .follow | .gang | .park _ _ _ | .faultRoom | .trigger _ _ | .ended => false
  | _ => true

/-- Words that followers receive while the leader waits in them: all but REPV, whose sequence may stop part-way (R146). -/
def shared (i : Instr) : Bool :=
  match i with
  | .repv _ _ _ _ _ => false
  | _ => true

/-- What a leader hands to its followers at a step: the words of the HINT chain where they come first, and the word, with the address to
which the leader goes on, its decision and, for REPV, its sequence and the words that it has issued. (Log 25, DEDUCED.) -/
def State.handed (s0 s : State) (w : Word) (i : Instr) (next : W64) : List TrailWord :=
  let chain := if partway i s0.me then [] else s0.me.hints.chain
  (chain.map fun x => ⟨x.1, x.2, x.1 + 4, 0, [], 1⟩) ++
    [⟨s0.me.pc, w, next, decision i s0, s.me.seq, if shared i then 1 else s.me.nretired - s0.me.nretired⟩]

/-- A leader that waits in a word hands it to its followers once. -/
def State.shareWord (s0 s : State) (w : Word) (i : Instr) : State :=
  if s.me.bond = .follow ∧ s.me.rank = 0 ∧ !s.me.handed ∧ shared i ∧ s.me.wait.any Wait.within then
    let s := s.leave s0.followers (s0.handed s w i (s0.me.goOn .seq).pc)
    { s with me := { s.me with handed := true } }
  else s

/-- A leader that has issued a word hands it to the followers that it had. -/
def State.handOn (s0 s : State) (w : Word) (i : Instr) : State :=
  if s0.me.handed then s
  else s.leave (s0.followers.filter fun k => (s.coreAt k).bond == .follow) (s0.handed s w i s.me.pc)

/-- A follower has issued its leader's word, or a part of a REPV (R147, R148). -/
def State.keepUp (s0 s : State) (i : Instr) : State :=
  let n := if s0.me.trail.head?.map (·.pc) = s0.me.hints.start then s0.me.hints.words.length else 0
  match s.me.trail[n]? with
  | none => s
  | some x =>
    if s.me.bond ≠ .follow ∨ s.me.rank = 0 then s
    else if partway i s.me then { s with me := { s.me with trail := s.me.trail.take n ++ s.me.trail.drop (n + 1) } }
    else s.followed (n + 1) (decision i s0) x

/-- What follows a word's meaning, from the state before it: the followers of a leader are to issue it, a follower has issued
it, and the checkers are fed. -/
def State.afterWord (s0 s : State) (w : Word) (i : Instr) : State :=
  if s.me.nretired = s0.me.nretired then s0.shareWord s w i
  else s0.feedAll (s0.keepUp (s0.handOn s w i) i) w

/-- Whether a core that issues with the core in focus has a signature mismatch pending (R162). -/
def mismatched (team : List Nat) (o : Out) : Bool :=
  match o with
  | .next s => team.any fun k => (s.coreAt k).sigPend.isSome
  | .fault _ | .refused _ => false

/-- TRAP or BRK that ends a block: it retires, and where the block mismatches, SIG_MISMATCH, which comes first (R391), takes the place of
its trap. (Log 106, DEDUCED.) -/
def State.retireOrTrap (s : State) (w : Word) (i : Instr) : Out :=
  let plain := onNext (fun t => s.afterWord t w i) (issue i State.ok s)
  if mismatched s.team plain then plain else onNext (fun t => s.afterWord t w i) (exec i s)

/-- Issue a word: its meaning and what follows it; a word that is no instruction raises ILLEGAL (R35). -/
def State.issueWord (s : State) (w : Word) : Out :=
  match decode w with
  | .error _ => Sys2Proof.Machine.execIllegalWord w s
  | .ok (.trap a) => s.retireOrTrap w (.trap a)
  | .ok (.brk code) => s.retireOrTrap w (.brk code)
  | .ok i => onNext (fun t => s.afterWord t w i) (exec i s)

/-- A fetch that traps or parks at TVEC is a double trap (R392): the job ends with status KILLED and reason TVEC, the context
ends and the core stops; its registers and its local memory can be read back. Of a core of no instance the words that it owned are
poisoned (R437). (Log 83, DEDUCED.) -/
def State.doubleTrap (s : State) : State :=
  let c := s.me
  let k := s.here
  let s := match c.member with
    | some m => s.endJob c.stave m.job 0x10 c.ctl.tvec
    | none => s.poisonHeld k
  let s := if (s.coreAt k).live then s.freeCore k else s
  s.onCore k fun v => { v with pc := c.pc, regs := c.regs, loc := c.loc, ctl := { c.ctl with ctxtag := 0 }, stopped := true }

/-- A fetch that does not give a word: a trap halts a locked gang (R151). -/
def State.fetchStop (s : State) (r : Res) : State :=
  let failed : Bool := match r with
    | .trap _ _ _ => true
    | .wait (.park _ _ _) _ | .wait .faultRoom _ => true
    | _ => false
  if s.me.entering && failed then s.doubleTrap
  else
    match r with
    | .trap _ _ t =>
      if s.me.bond = .gang then
        (haltCrew (s.me.crew.map fun k => (k, if k = s.here then r else Res.wait .gang (t.focus k))) t).focus s.here
      else r.settle
    | _ => r.settle

/-- The core of those that issue together whose checker has a mismatch pending (R162), with its address. -/
def State.sigPending (s : State) : Option (Nat × W64) :=
  (if s.me.bond = .gang then s.me.crew else [s.here]).findSome? fun k => (s.coreAt k).sigPend.map fun a => (k, a)

/-- A signature mismatch is raised (R391); on a core of no instance the core is quarantined (R435). -/
def State.sigTrap (s : State) (k : Nat) (a : W64) : State :=
  let s := (s.onCore k fun c => { c with sigPend := none }).raiseAt k .sigMismatch a
  if (s.coreAt k).member.isNone then (s.quarantine (coreUnit k)).1 else s

/-- Words that a step of a leader can hand to its followers: its HINT chain and its word, or a REPV with a unit of its sequence, which has
at most three words. -/
def handedBy (s : State) (w : Word) : Nat :=
  s.me.hints.words.length + (match decode w with
    | .ok (.repv _ _ _ _ _) => 4
    | _ => 1)

/-- The next word of the core in focus (R391): an interrupt, a pending signature mismatch, the fetch, a breakpoint, the
word. -/
def State.stepWord (s : State) : Out :=
  if s.me.interruptDue then .next (s.takeInterrupt s.here)
  else
    match s.sigPending with
    | some x => .next (s.sigTrap x.1 x.2)
    | none =>
      match s.fetchNext with
      | .error r => .next (s.fetchStop r)
      | .ok (w, t) =>
        if t.lagging (handedBy t w) then .next { t with me := { t.me with wait := some .follow } }
        else
          match t.brkAddrs with
          | .error r => .next (t.fetchStop r)
          | .ok (addrs, t) =>
            if t.team.any fun k => (t.brkAt addrs k).1.isSome then .next (t.breakTrap addrs)
            else (t.passIssue addrs w).issueWord w

/-- A locked gang issues at its leader (R150). -/
def State.toLeader (s : State) : State := if s.me.bond = .gang then s.focus (s.me.crew.headD s.here) else s

/-- A step of the core in focus. -/
def State.stepCore (s : State) : Out := onNext State.tick s.toLeader.stepWord

/-- A step of the core in focus in which a long instruction stops part-way after n elements (R240). -/
def State.stepPart (s : State) (n : Nat) : Out :=
  let s := s.toLeader
  let set (q : Option Nat) (s : State) : State := s.onAll s.team fun c => { c with quota := q }
  onNext (set none) (set (some n) s).stepCore

/-! ## Whose move it is (log 6, DESIGN CHOICE) -/

/-- Waits that end only by another's move: the instruction is not tried again before it. -/
def Wait.held : Wait → Bool
  | .park _ _ _ | .trigger _ _ | .ended => true
  | _ => false

/-- A core whose word cannot be tried: it, or a member of its locked gang, waits for another's move. -/
def State.heldUp (s : State) (k : Nat) : Bool :=
  let c := s.coreAt k
  (if c.bond = .gang then c.crew else [k]).any fun j => (s.coreAt j).wait.any Wait.held

/-- A core that can have the next move. -/
def State.canRun (s : State) (k : Nat) : Bool :=
  let c := s.coreAt k
  c.live && !c.stopped && !c.held && !c.finished && (!s.heldUp k || c.interruptDue)

/-- The next core after the one in focus, in rotation, that can have the next move. -/
def State.nextCore (s : State) : Option Nat :=
  let l := s.cores.filter fun k => k != s.here && s.canRun k
  (l.find? fun k => decide (s.here < k)).orElse fun _ => l.head?

/-- Hand the focus on. -/
def State.rotate (s : State) : State :=
  match s.nextCore with
  | some k => s.focus k
  | none => s

/-- Whether a core is a headstock core, of the stave of its cluster where the cluster is leaving (R125). -/
def Dev.headstockAt (d : Dev) (k : Nat) : Bool :=
  match d.own .cluster (clusterOf k), d.own .headstock k with
  | some c, some h => c.st != .draining || h.stave == c.stave
  | none, some _ => true
  | _, none => false

/-- Moves of the device on behalf of core k. -/
def State.movesOf (s : State) (k : Nat) : List (State → Out) :=
  let c := s.coreAt k
  (match c.wait with
    | some (.trigger _ _) | some (.area _) => [execRollback k]
    | some (.host h _) => [execHostDataResponse h]
    | some (.remote va got) => if got.contains va then [] else [execRemoteAccess k]
    | some (.idle _ _ _) => [execIdleTimeout k]
    | some (.world _) => [execWorldStall k]
    | _ => []) ++
  ([0, 1, 2, 3].flatMap fun ch =>
    match (c.chan ch).active with
    | some x => (List.range 64).map fun i => execCopySector k (BitVec.ofNat 2 ch) (x.first + i)
    | none => []) ++
  (if c.mcmds.isEmpty then [] else [execMatrixCommandRun k]) ++
  (if c.live && !s.dev.headstockAt k then [execPreEmption k] else [])

/-- The move of a network item. -/
def NetItem.move (x : NetItem) (i : Nat) : List (State → Out) :=
  (match x.kind with
    | .store => [execRemoteStorePerform i]
    | .message => [execMessageArrival i]
    | .eos => [execEndOfStreamArrival i]
    | .command => [execMatrixCommandArrival i]
    | .report => [execRemoteStoreAck i]) ++
  (if x.refused.isSome then [execInboxDiversion i] else [])

/-- Moves of the lead engine of a stave. -/
def Stave.moves' (t : Stave) (n : BitVec 6) (s : State) : List (State → Out) :=
  (t.jobs.filter fun j => j.status.isSome).map (fun j => execJobCompletion n j.num) ++
  (List.range t.moves.length).map (execMigration n) ++
  (List.range t.ready.length).flatMap (fun i => [execPlacementRequest n i, execBackoffExpiry n i, execResumption n i,
    execAging n i, execCompaction n i, execPreemptionDecision n i]) ++
  [execFillSample n, execPlacementWindowEnd n] ++
  t.jobs.flatMap (fun j => j.insts.map fun i => execInstanceRemoval n j.num i.stage i.num) ++
  (if t.trans.isSome then [execLineHandover n ((s.toHand n).headD 0)] else []) ++
  (if t.shrinks.any (s.shrunk n) then [execClusterDrained ((s.dev.clustersOf n).headD 0)] else [])

/-- The move of a unit that changes hands. -/
def Own.move (o : Own) : List (State → Out) :=
  let kind : BitVec 2 := match o.kind with
    | .cluster => 0 | .granule => 1 | .way => 2 | .headstock => 3
  match o.st with
  | .draining => if o.kind = .cluster then [execClusterDrained o.id] else []
  | .scrub => [execScrubComplete kind o.id]
  | .free | .owned => []

/-- Additions to sync objects that wait otherwise than for fault service are tried again; they count as a move where one of them is
made or parked. -/
def State.syncMove (s : State) : Out :=
  let t := s.retrySyncs fun x => !x.parked
  .next (if t.dev.syncs ≠ s.dev.syncs then t else s)

/-- The moves that the device makes by itself, in the order in which they are tried. -/
def State.deviceMoves (s : State) : List (State → Out) :=
  s.cores.flatMap s.movesOf ++
  s.dev.net.zipIdx.flatMap (fun x => x.1.move x.2) ++
  s.dev.bprefs.zipIdx.flatMap (fun x => (List.range x.1.lines).map (execBprefLine x.2)) ++
  (List.range s.dev.pushes.length).map execPushDelivery ++
  s.dev.staves.flatMap (fun t => t.2.moves' (BitVec.ofNat 6 t.1) s) ++
  s.dev.owns.flatMap Own.move ++
  [execBandwidthWindow, execTelemetryUpdate, State.syncMove]

/-- The first move of a list that changes the state. -/
def firstMove (s : State) : List (State → Out) → Option State
  | [] => none
  | f :: l =>
    match f s with
    | .next t => if t = s then firstMove s l else some t
    | _ => firstMove s l

/-- The device moves by itself. -/
def State.pump (s : State) : Option State := firstMove s s.deviceMoves

/-- A step with nothing on the agenda: the core in focus goes on where it does not wait; where it waits, the device moves, or
its word is tried again and the focus goes on; time passes where only the outside world can move. -/
def State.turn (s : State) : Out :=
  if s.canRun s.here then
    match s.me.wait with
    | none => s.stepCore
    | some _ =>
      match s.pump with
      | some t => .next t
      | none => onNext (fun t => if t.me.wait.isSome then t.rotate else t) s.stepCore
  else
    match s.pump with
    | some t => .next t
    | none =>
      match s.nextCore with
      | some k => .next (s.focus k)
      | none => if s.cores.any fun k => (s.coreAt k).live && !(s.coreAt k).stopped then .next s.tick else .fault .coreStopped

/-- One step: the head of the agenda, or the device's own choice. -/
def step (s : State) : Host.Outcome State Fault Refusal :=
  if s.dev.shutdown then .fault .coreStopped
  else
    match s.agenda with
    | .event i :: t => exec i { s with agenda := t }
    | .core k :: t =>
      let s := ({ s with agenda := t } : State).focus k
      if s.me.stopped then .fault .coreStopped
      else if s.canRun k then s.stepCore
      else .next s
    | .part k n :: t =>
      let s := ({ s with agenda := t } : State).focus k
      if s.me.stopped then .fault .coreStopped
      else if s.canRun k then s.stepPart n
      else .next s
    | [] => s.turn

/-! ## A word where the next step fetches (log 4, DESIGN CHOICE) -/

/-- Where withFetchWord places page tables: PTBASE's base where local memory holds them there, otherwise address 0 of the
device. -/
def State.tableBase (s : State) : Nat :=
  let b := field s.me.ctl.ptbase 20 32 * 2 ^ 20
  let k := b % 2 ^ 43
  field s.dev.trcfg 0 9 * 2 ^ 43 + (if s.dev.paKind b = .dram ∧ k + 0x104000 ≤ 2 ^ 38 then k else 0)

/-- s with an instruction word where step fetches its next instruction: a page table with one page for the pc at PTBASE, and
the word in that page. What would come before the fetch, or answer it from a cache, is taken away. -/
def State.withFetchWord (s : State) (_nbits w : Nat) : State :=
  let b := s.tableBase
  let k := b % 2 ^ 43
  let c := s.me
  let pc : W64 := if field c.pc 48 16 < 0x100 then c.pc else 0
  let va := pc.toNat
  let page := k + 0x103000
  let at0 := page + va % 4096
  let next (a : Nat) : Nat := (b + a) / 4096 * 4096 + 1
  let leaf : Nat := b + 0x103000 + 0x97 + (if c.ctl.mode = .user then 0x20 else 0)
  let d := s.dev
  let mem := d.mem.writeN (k + 8 * (va / 2 ^ 39 % 131072)) 8 (next 0x100000)
  let mem := mem.writeN (k + 0x100000 + 8 * (va / 2 ^ 30 % 512)) 8 (next 0x101000)
  let mem := mem.writeN (k + 0x101000 + 8 * (va / 2 ^ 21 % 512)) 8 (next 0x102000)
  let mem := mem.writeN (k + 0x102000 + 8 * (va / 2 ^ 12 % 512)) 8 leaf
  let mem := mem.writeN at0 4 w
  let g := granuleOf page
  let d := { d with
    mem := mem
    poison := d.poison.filter fun x => !decide (k / 8 ≤ x ∧ x < (k + 0x104000) / 8)
    tlbs := assocErase (clusterOf s.here) d.tlbs
    l2 := []
    llc := []
    budget := []
    stored := d.stored.filter fun x => !decide (k / 8 ≤ x.1 ∧ x.1 < (k + 0x104000) / 8)
    quarantined := d.quarantined.filter fun u => u != channelUnit (g / 16)
    shutdown := false }
  let d := if c.ctl.mode = .shop || d.ownedBy .granule g c.stave then d else d.setOwn (.granule, g) .owned c.stave
  { s with
    dev := d
    agenda := []
    me := { c with
      pc := pc
      ctl := { c.ctl with ptbase := w64 b, brka := .replicate 4 0 }
      icache := [], tlb := [], loopBuf := [], seq := [], pass := [], issued := false, quota := none, trail := [], bond := .none, rank := 0, crew := [], orphan := false, handed := false
      wait := none, irqs := [], async := none, sigPend := none
      live := true, stopped := false, held := false, finished := false, entering := false } }

end Sys2Proof.Machine
end

