-- ==== Sys2Proof/Safety.lean ====
section
/-! DEFINITION. The terms in which statements are made: when an instruction issues without an earlier check stopping it, and
what holds of the machine's memory in every state that a run can reach. -/

namespace Sys2Proof

/-- Whether an instruction is a word: the steps of the device that the opcode table lists without an encoding are not. -/
def Instr.hasWord : Instr → Bool
  | .fqbaseWrite _ _ | .rbdataRead _ | .interrupt _ | .priResponse _ _ _ | .atsInvalidation _ _ _
  | .readRequest _ _ _ _ | .writeRequest _ _ _ _ | .nonAllocatingRequest _ _ _ _ _ | .lineHandover _ _
  | .remoteStorePerform _ | .remoteStoreAck _ | .copySector _ _ _ | .bprefLine _ _ | .matrixCommandArrival _
  | .matrixCommandRun _ | .messageArrival _ | .endOfStreamArrival _ | .pushDelivery _ | .worldStall _
  | .jobCompletion _ _ | .fillSample _ | .placementWindowEnd _ | .placementRequest _ _ | .backoffExpiry _ _
  | .compaction _ _ | .aging _ _ | .preemptionDecision _ _ | .instanceRemoval _ _ _ _ | .preEmption _
  | .resumption _ _ | .inboxDiversion _ | .migration _ _ | .clusterDrained _ | .scrubComplete _ _ | .bandwidthWindow
  | .rollback _ | .errorDetected _ _ _ _ | .directoryRebuild _ | .hostSnoop _ | .hostMemRequest _ _ _
  | .hostPoisonResponse _ | .peerAccess _ _ _ _ | .functionLevelReset _ | .linkTraining _ _ | .boot
  | .getMeasurements _ | .powerCapSet _ | .thermalThrottle _ | .thermalShutdown _ | .telemetryUpdate | .idleTimeout _
  | .illegalWord _ | .remoteAccess _ | .savebaseWrite _ _ | .thermalThrottleRelease | .hostDataResponse _
  | .atsTranslationCompletion _ _ _ | .powerGating _ => false
  | _ => true

namespace Machine

/-- The checks that come before an instruction's own pass, and the context issues alone (R30, R36, R140, R150): the core has
not stopped, it is in no locked gang, an open HINT.WIDE belongs to a target that accepts it, a transfer, LOOP or REPV is not
the last word of an active loop body, and the mode is at least the one that the instruction requires. -/
structure Clear (i : Instr) (s : State) : Prop where
  running : s.me.stopped = false
  alone : s.me.bond ≠ .gang
  wide : s.me.hints.wide = none ∨ acceptsWide i = true ∨ isHintInstr i = true
  place : isTransfer i = true → s.me.endsBody s.me.pc = false
  mode : s.me.may (s.needs i) = true

/-- The memory of the device is in its canonical form. -/
def State.canonical (s : State) : Prop := Memory.wf s.dev.mem = true

/-- The state in which an outcome goes on holds p; a stop does not. -/
def Goes (o : Out) (p : State → Prop) : Prop := ∃ t, o = .next t ∧ p t

/-- A step is safe where it gives a next state. -/
def State.stepsSafely (s : State) : Prop := Goes (step s) fun _ => True

end Machine

end Sys2Proof
end

