-- ==== Sys2Proof/Certificates/Slice0/Obligations.lean ====
section
/-! DEFINITION. The statements for the provers. -/

open Sys2Proof Sys2Proof.Machine

/-! ## The machine as a whole -/

/-- What reset leaves, as the register tables state it: MODE and the trap registers (Table 1 of 19), FPCTL (Table 3 of 08),
PATCTL (Table 2 of 17), PLTUNE (Table 3 of 04), WWAIT (Table 4 of 14), POOLBASE (R59), full lines of local memory (R265), the
other stave and context registers to which their tables give 0, and the boot mask's cores running in shop mode (R454). It says
nothing of the values that the model chose (log 1, log 2, log 3). -/
def Obligations.ResetLeavesTheStatedValues : Prop :=
  (∀ k ∈ State.reset.cores,
    let c := State.reset.coreAt k
    c.live = true ∧ c.stopped = false ∧ c.ctl.mode = .shop ∧ c.ctl.ie = false ∧ c.ctl.tvec = 0 ∧ c.ctl.tcause = 0 ∧
    c.ctl.tval = 0 ∧ c.ctl.tpc = 0 ∧ c.ctl.tstat = 0 ∧ c.ctl.fpctl = 0 ∧ c.ctl.qctl = 0 ∧ c.ctl.patctl = 4 ∧
    c.ctl.wlimit = 0 ∧ c.ctl.wstat = 0 ∧ c.ctl.poolbase = 0 ∧ c.ctl.sigctl = 0 ∧ c.ctl.llen = 0 ∧ c.ctl.unack = 0 ∧
    c.ctl.sid = 0 ∧ c.ctl.ptbase = 0 ∧ c.loc.empty = [] ∧ (∀ b ∈ c.ctl.brka.toList, b = 0)) ∧
  (∀ n, let t := State.reset.dev.stave n
    t.pltune = 0x4160E ∧ t.wwait = 16384 ∧ t.fqbase = 0 ∧ t.ckbase = 0 ∧ t.srate = 0 ∧ t.map = [] ∧ t.seeds = []) ∧
  State.reset.dev.stvsel = 0 ∧ State.reset.dev.rbsel = 0 ∧ State.reset.dev.trcfg = 0 ∧ State.reset.dev.cycle = 0

/-- The memory after reset is in its canonical form. -/
def Obligations.ResetMemoryIsCanonical : Prop := State.reset.canonical

/-- Whatever a step does, the memory of the device keeps its canonical form: addresses rising, no entry that an unlisted
address would read as. -/
def Obligations.StepKeepsMemoryCanonical : Prop :=
  ∀ s t : State, s.canonical → step s = .next t → t.canonical

/-- No instruction is refused: each answers a next state, but for the words of a core that has stopped (R392), which issues
nothing. The steps of the device always answer one. -/
def Obligations.EveryInstructionAnswers : Prop :=
  ∀ (i : Instr) (s : State),
    (∃ t, exec i s = .next t) ∨
      (exec i s = .fault .coreStopped ∧ s.me.stopped = true ∧ (i.hasWord = true ∨ ∃ w, i = .illegalWord w))

/-- TRAP and BRK trap after they have retired (R158, R408). -/
def Sys2Proof.Claims.trapsAfter : Instr → Bool
  | .trap _ | .brk _ => true
  | _ => false

open Sys2Proof.Claims

/-- A step runs the instruction that stands at the program counter (R11, R12, R391): with nothing due before it, the step of a
core that does not wait is the meaning of the instruction that its word decodes to, and then what follows a word: followers,
the signature checker, the cycle count; a TRAP or BRK that ends a mismatching block retires without its trap (log 106). The
agenda's cores step alike, part-way where it says so, and its events are the device's steps (log 6). -/
def Obligations.StepRunsTheDecodedInstruction : Prop :=
  (∀ (s t u : State) (w : Word) (i : Instr) (addrs : List W64),
    s.toLeader.me.interruptDue = false → s.toLeader.sigPending = none → s.toLeader.fetchNext = .ok (w, t) →
    t.lagging (handedBy t w) = false → t.brkAddrs = .ok (addrs, u) → (∀ k ∈ u.team, (u.brkAt addrs k).1 = none) →
    decode w = .ok i →
      let v := u.passIssue addrs w
      let plain := onNext (fun x => v.afterWord x w i) (issue i State.ok v)
      let own := onNext (fun x => v.afterWord x w i) (exec i v)
      let run := onNext State.tick (if (trapsAfter i = true ∧ mismatched v.team plain = true) then plain else own)
      (s.dev.shutdown = false → s.agenda = [] → s.canRun s.here = true → s.me.wait = none → step s = run) ∧
      (∀ (s' : State) (k : Nat) (rest : List Turn), s'.dev.shutdown = false → s'.agenda = .core k :: rest →
        s = ({ s' with agenda := rest } : State).focus k → s.me.stopped = false → s.canRun k = true → step s' = run)) ∧
  (∀ (s s' : State) (k n : Nat) (rest : List Turn), s'.dev.shutdown = false → s'.agenda = .part k n :: rest →
    s = ({ s' with agenda := rest } : State).focus k → s.me.stopped = false → s.canRun k = true → step s' = s.stepPart n) ∧
  (∀ (s : State) (i : Instr) (rest : List Turn), s.dev.shutdown = false → s.agenda = .event i :: rest →
    step s = exec i { s with agenda := rest })

namespace Sys2Proof.Claims

/-- The condition of a branch (Table 10 of 07, R176) and its offset. -/
def branchRule (s : State) : Instr → Option (Bool × BitVec 13)
  | .beq a b off => some (decide (s.g a = s.g b), off)
  | .bne a b off => some (decide (s.g a ≠ s.g b), off)
  | .blt a b off => some (decide ((s.g a).toInt < (s.g b).toInt), off)
  | .bge a b off => some (decide ((s.g b).toInt ≤ (s.g a).toInt), off)
  | .bltc a b off => some (decide ((s.g a).toNat < (s.g b).toNat), off)
  | .bgec a b off => some (decide ((s.g b).toNat ≤ (s.g a).toNat), off)
  | _ => none

/-- What follows a word on a core in no follow bond, from the state s before it and u after its meaning: the checkers of the cores that
have retired a word are fed, and nothing else (R160); where only the core in focus is checked, its own with the word. -/
def LoneWord : Prop :=
  ∀ (s u : State) (w : Word) (i : Instr), s.me.bond = .none → s.me.handed = false → u.me.bond ≠ .follow →
    (u.me.nretired = s.me.nretired → s.afterWord u w i = u) ∧
    (u.me.nretired ≠ s.me.nretired → s.afterWord u w i = s.feedAll u w) ∧
    ((∀ k ∈ s.cores, (s.coreAt k).sigActive = false) → s.afterWord u w i = u) ∧
    (u.me.nretired ≠ s.me.nretired → decode w = .ok i → s.me.hints = .none → s.me.joinAt = none → u.here = s.here →
      u.me.live = true → s.me.sigActive = true → (∀ k ∈ s.cores, k ≠ s.here → (s.coreAt k).sigActive = false) → s.cores.Nodup →
      s.here ∈ s.cores → s.afterWord u w i = u.sigFeed w i s.me.pc s.me.ctl.pix)

/-- The record of a word (Table 8 of 06), one instruction of each format, and its CRC-32C (R161): of a byte, bit 0 first, with the
polynomial 0x1EDC6F41 reflected, from all ones and inverted at the end; so that a record after others gives the CRC of them all. -/
def Records : Prop :=
  (∀ (p q : Nat) (d a b : Reg) (imm : BitVec 13) (off : BitVec 25) (size : MemSize) (o : BitVec 10) (p0 : PReg) (ty : ElemTy) (h : Bool)
      (z : ZReg) (ev : BitVec 4) (k mc : Bool) (m : MmaTy) (taken : Bool) (gap : BitVec 4),
    let tail := leBytes 3 (p + 4096 * q)
    let byte (r : Reg) : Byte := r.setWidth 8
    sigRecord (encode (.sub d a b)) p q = [1, 1, byte d, byte a, byte b] ++ tail ∧
    sigRecord (encode (.addi d a imm)) p q = [2, 0, byte d, byte a, 0] ++ tail ∧
    sigRecord (encode (.bne a b imm)) p q = [0x11, 0, byte a, byte b, 0] ++ tail ∧
    sigRecord (encode (.j off)) p q = [0x16, 0, 0, 0, 0] ++ tail ∧
    sigRecord (encode (.st d a size o)) p q = [0x21, 0, byte d, byte a, 0] ++ tail ∧
    sigRecord (encode (.vadd d a b p0 ty h)) p q = [0x40, 0, byte d, byte a, byte b] ++ tail ∧
    sigRecord (encode (.mma z ev k a b mc m)) p q =
      [0x69, BitVec.ofNat 8 ((if mc then 8 else 0) + (MmaTy.code m).toNat), z.setWidth 8, byte a, byte b] ++ tail ∧
    sigRecord (encode (.hintSched taken gap)) p q = [0x7E, 3, 0, 0, 0] ++ tail) ∧
  (∀ (c : BitVec 32) (b : Byte), crcByte c b = (List.range 8).foldl (fun (r : BitVec 32) (k : Nat) =>
      (r >>> 1) ^^^ (if r.getLsbD 0 = b.getLsbD k then 0 else (0x1EDC6F41 : BitVec 32).reverse)) c) ∧
  (∀ bs, crcOver 0 bs = ~~~ bs.foldl crcByte (BitVec.allOnes 32)) ∧
  (∀ c bs cs, crcOver (crcOver c bs) cs = crcOver c (bs ++ cs)) ∧
  (∀ (ws : List Word) (x : RFile × Nat), producer ws none = 0xFFF ∧
    let writes (n : Nat) : Prop := ∃ w i, ws[n]? = some w ∧ decode w = .ok i ∧ x ∈ dests i
    ((∀ n, ¬ writes n) → producer ws (some x) = 0xFFF) ∧
    ∀ n, writes n → (∀ k, n < k → ¬ writes k) → producer ws (some x) = n)

/-- The checker (R160 to R162). Each word joins the CRC of its block, with the producers among the words of the pass; one past the
block's length mismatches. At the block's last word and at a transfer out of it the CRC must equal the entry's and the next pc start an
allowed block, whose pass then begins; otherwise a mismatch is pending at that word, and SIG_MISMATCH comes before the next. A block with
flag bit 3 feeds no CRC and passes to any. Repetitions of REPV from 1 up are compared and not fed. -/
def Checked : Prop :=
  (∀ (s : State) (w : Word) (i : Instr) (pc pix : W64), shared i = true → trapsAfter i = false →
    s.sigFeed w i pc pix = (s.sigWordIn w pc).sigBlockEnd pc s.me.pc) ∧
  (∀ (s : State) (pc : W64), s.me.sigPend = none →
    let blk := s.me.sigParts.1
    let idx := s.me.sigParts.2.1
    let crc := s.me.sigParts.2.2
    let b := s.sigBlock blk
    let free := b.getLsbD 59
    (∀ (w : Word) (i : Instr), decode w = .ok i →
      let ws := s.passWords (s.me.ctl.sigtext + w64 (field b 0 32)) idx
      let u := regUse i
      let c := if free then crc else crcOver crc (sigRecord w (producer ws (vSource u.src1)) (producer ws (vSource u.src2)))
      (field b 32 16 ≤ idx → s.sigWordIn w pc = s.sigFail pc) ∧
      (idx < field b 32 16 →
        s.sigWordIn w pc = { s with me := { s.me with ctl.sigst := sigWord blk (idx + 1) c, pass := ws ++ [w] } })) ∧
    (∀ next : W64, idx < field b 32 16 → next = pc + 4 → s.sigBlockEnd pc next = s) ∧
    (∀ next : W64, (field b 32 16 ≤ idx ∨ next ≠ pc + 4) →
      let starts (n : Nat) : Prop := n < s.sigCount ∧ s.me.ctl.sigtext + w64 (field (s.sigBlock n) 0 32) = next
      let allowed (n : Nat) : Prop := free = true ∨
        (b.getLsbD 58 = true ∧ ((s.sigBlock n).getLsbD 56 = true ∨ (s.sigBlock n).getLsbD 57 = true)) ∨
        (b.getLsbD 58 = false ∧ ∃ k, k < field b 48 8 ∧
          (s.glance s.me.space (s.me.ctl.sigtab + w64 (16 * s.sigCount + 4 * (field b 96 32 + k))) 4).getD 0 = n)
      let good (n : Nat) : Prop := (free = true ∨ crc = b.extractLsb' 64 32) ∧ allowed n
      (∀ n, starts n → (∀ k, k < n → ¬ starts k) → good n →
        s.sigBlockEnd pc next = { s with me := { s.me with ctl.sigst := sigWord n 0 0, pass := [] } }) ∧
      ((∀ n, starts n → (∀ k, k < n → ¬ starts k) → ¬ good n) → s.sigBlockEnd pc next = s.sigFail pc)) ∧
    (∀ j k, k ≤ s.me.seq.length →
      let ws := s.passWords (s.me.ctl.sigtext + w64 (field b 0 32)) idx
      let first := ws.drop (ws.length - s.me.seq.length)
      ((∀ n, j ≤ n → n < k → s.me.seq[n]? = first[n]?) → s.sigAgain pc j k = s) ∧
      (∀ n, j ≤ n → n < k → s.me.seq[n]? ≠ first[n]? → (∀ m, j ≤ m → m < n → s.me.seq[m]? = first[m]?) →
        s.sigAgain pc j k = s.sigFail (pc + 4 + w64 (4 * n))))) ∧
  (∀ (s : State) (pc : W64), s.sigFail pc = { s with me := { s.me with sigPend := some pc } }) ∧
  (∀ (s : State) (m : Member) (a : W64), s.me.bond ≠ .gang → s.me.interruptDue = false → s.me.sigPend = some a → s.me.member = some m →
    s.stepWord = .next (({ s with me := { s.me with sigPend := none } } : State).raise 0x0E a s.me.trapPc))

/-- Follow strength (R147 to R149). A leader that has issued a word hands it to each follower, with the address and the decision with
which it goes on, and stalls before a word with which a follower would be more than 64 words behind; a follower takes its words from what
it was handed. Where its decision or its next pc differs, it is released, at its own next pc; where it traps it is released and traps
alone; where the leader leaves, its followers issue what they were handed and then fetch for themselves. -/
def Followed : Prop :=
  (∀ (s u : State) (w : Word) (i : Instr), s.me.bond = .follow → (∀ k ∈ s.cores, (s.coreAt k).sigActive = false) →
    u.me.nretired ≠ s.me.nretired → u.here = s.here → s.me.hints = .none → shared i = true →
    (s.me.rank = 0 → u.me.rank = 0 → s.me.handed = false → s.me.crew.Nodup →
      ∀ k, ((s.afterWord u w i).coreAt k).trail = (u.coreAt k).trail ++
        (if k ∈ s.me.crew ∧ s.follows k = true ∧ (u.coreAt k).bond = .follow then
          [⟨s.me.pc, w, u.me.pc, decision i s, u.me.seq, 1⟩] else [])) ∧
    (∀ x rest, s.me.rank ≠ 0 → u.me.bond = .follow → u.me.rank ≠ 0 → u.me.trail = x :: rest → u.me.orphan = false →
      let t := s.afterWord u w i
      (u.me.pc = x.next → decision i s = x.choice → t = { u with me := { u.me with trail := rest } }) ∧
      ((u.me.pc ≠ x.next ∨ decision i s ≠ x.choice) → t.me.bond = .none ∧ t.me.pc = u.me.pc ∧ t.me.trail = [] ∧
        t.me.regs = u.me.regs ∧ ∀ k, k ≠ u.here → (t.coreAt k).pc = (u.coreAt k).pc ∧ (t.coreAt k).bond = (u.coreAt k).bond ∧
          (t.coreAt k).regs = (u.coreAt k).regs))) ∧
  (∀ (s : State) (i : Instr),
    (∀ c off, branchRule s i = some (c, off) → decision i s % 2 = if c then 1 else 0) ∧
    (∀ a n len, i = .loop a n len → decision i s % 2 = if s.g a = 0 then 1 else 0)) ∧
  (∀ (s t : State) (w : Word), s.me.bond ≠ .gang → s.me.interruptDue = false → s.me.sigPend = none → s.fetchNext = .ok (w, t) →
    t.me.bond = .follow → t.me.rank = 0 → t.me.issued = false →
    (∃ k ∈ t.me.crew, t.follows k = true ∧ 64 < (t.coreAt k).behind + handedBy t w) →
      s.stepWord = .next { t with me := { t.me with wait := some .follow } }) ∧
  (∀ s : State, s.me.bond = .follow → s.me.rank ≠ 0 → s.me.hints = .none →
    (∀ x rest, s.me.trail = x :: rest → s.fetchNext = .ok (x.word, s.captureTaken x.word)) ∧
    (s.me.trail = [] → s.me.orphan = false → s.fetchNext = .error (.wait .follow s)) ∧
    (s.me.trail = [] → s.me.orphan = true → s.fetchNext = ({ s with me := s.me.unbond } : State).fetchHere)) ∧
  (∀ (s : State) (c : BitVec 8) (v a : W64), s.me.bond = .follow → s.me.crew.Nodup →
    let t := s.trapEntry c v a
    t.me.bond = .none ∧
    (s.me.rank ≠ 0 → ∀ k, k ≠ s.here → (t.coreAt k).pc = (s.coreAt k).pc ∧ (t.coreAt k).bond = (s.coreAt k).bond ∧
      (t.coreAt k).trail = (s.coreAt k).trail ∧ (t.coreAt k).regs = (s.coreAt k).regs) ∧
    (s.me.rank = 0 → ∀ k ∈ s.me.crew, s.follows k = true → (t.coreAt k).orphan = true ∧ (t.coreAt k).bond = .follow ∧
      (t.coreAt k).trail = (if s.me.handed = true ∧ (s.coreAt k).trail.getLast?.map (·.pc) = some s.me.pc then
        (s.coreAt k).trail.dropLast else (s.coreAt k).trail)))

end Sys2Proof.Claims

/-- What follows a word (R147 to R149, R160 to R162): on a core that stands alone nothing but the signature checkers, which are fed where
one is active; how a checker is fed and compared; what a leader hands to its followers, and when a follower is released. -/
def Obligations.NothingFollowsALoneWord : Prop := LoneWord ∧ Records ∧ Checked ∧ Followed

/-! ## Encoding -/

/-- Words written out from the spec's encodings decode to what they stand for. -/
def Obligations.WordsOfTheSpecDecode : Prop :=
  decode 0x6600C383 = .ok (.fesetE 6 7) ∧ decode 0x6600C393 = .ok (.fesetF 6 7) ∧ decode 0x0228C380 = .ok (.add 5 6 7) ∧
  decode 0x0428C003 = .ok (.addi 5 6 3) ∧
  decode 0x4038B404 = .ok (.ld 7 5 .w true 4) ∧
  decode 0x80084180 = .ok (.vadd 1 2 3 0 .f32 false) ∧
  decode 0xFC3FFFFF = .ok (.hintWide 0x3FFFFF) ∧
  decode 0x22201FFF = .ok (.bne 4 0 0x1FFF) ∧
  decode 0x3000A008 = .ok (.jr 5 8) ∧
  decode 0x36280002 = .ok (.gang 5) ∧
  decode 0xA108418C = .ok (.vcmp .ltc 1 2 3 0 .i32 false) ∧
  decode 0xEE28C381 = .ok (.stvgrow 5 6 7)

/-- Every well-formed instruction survives encoding and decoding, with every operand at every value (R15, R17, R34). -/
def Obligations.DecodingUndoesEncoding : Prop :=
  ∀ i : Instr, i.wf = true → i.hasWord = true → decode (encode i) = .ok i

/-- A word that decodes is the encoding of what it decodes to, which is well-formed; so no two words mean one instruction, and
every reserved field is zero (R17, R35, R38). -/
def Obligations.DecodedWordsAreEncodings : Prop :=
  ∀ (w : Word) (i : Instr), decode w = .ok i → encode i = w ∧ i.wf = true
/-! ## Scalar instructions (07) -/

namespace Sys2Proof.Claims

/-- The instruction has its effect and goes on to the next word: its whole next state. -/
def Gives (i : Instr) (s : State) (t : State) : Prop := exec i s = .next (t.retire .seq)

/-- What Table 1 of 07 (R165) and R166 give g[d], in the integers that the manual's terms mean. -/
def aluRule (s : State) : Instr → Option (Reg × W64)
  | .add d a b => some (d, w64 ((s.g a).toNat + (s.g b).toNat))
  | .sub d a b => some (d, BitVec.ofInt 64 ((s.g a).toInt - (s.g b).toInt))
  | .and d a b => some (d, s.g a &&& s.g b)
  | .or d a b => some (d, s.g a ||| s.g b)
  | .xor d a b => some (d, s.g a ^^^ s.g b)
  | .andn d a b => some (d, s.g a &&& ~~~s.g b)
  | .shl d a b => some (d, w64 ((s.g a).toNat * 2 ^ ((s.g b).toNat % 64)))
  | .shr d a b => some (d, w64 ((s.g a).toNat / 2 ^ ((s.g b).toNat % 64)))
  | .sar d a b => some (d, BitVec.ofInt 64 ((s.g a).toInt / 2 ^ ((s.g b).toNat % 64)))
  | .ror d a b => some (d, (s.g a).rotateRight ((s.g b).toNat % 64))
  | .slt d a b => some (d, if (s.g a).toInt < (s.g b).toInt then 1 else 0)
  | .sltc d a b => some (d, if (s.g a).toNat < (s.g b).toNat then 1 else 0)
  | .min d a b => some (d, if (s.g a).toInt ≤ (s.g b).toInt then s.g a else s.g b)
  | .max d a b => some (d, if (s.g a).toInt ≤ (s.g b).toInt then s.g b else s.g a)
  | .minc d a b => some (d, if (s.g a).toNat ≤ (s.g b).toNat then s.g a else s.g b)
  | .maxc d a b => some (d, if (s.g a).toNat ≤ (s.g b).toNat then s.g b else s.g a)
  | .mul d a b => some (d, w64 ((s.g a).toNat * (s.g b).toNat))
  | .mulh d a b => some (d, BitVec.ofInt 64 ((s.g a).toInt * (s.g b).toInt / 2 ^ 64))
  | .mulhc d a b => some (d, w64 ((s.g a).toNat * (s.g b).toNat / 2 ^ 64))
  | .mulhsc d a b => some (d, BitVec.ofInt 64 ((s.g a).toInt * (s.g b).toNat / 2 ^ 64))
  | .div d a b => some (d,
      if s.g b = 0 then w64 (2 ^ 64 - 1)
      else if (s.g a).toInt = -2 ^ 63 ∧ (s.g b).toInt = -1 then s.g a
      else BitVec.ofInt 64 ((s.g a).toInt.tdiv (s.g b).toInt))
  | .divc d a b => some (d, if s.g b = 0 then w64 (2 ^ 64 - 1) else w64 ((s.g a).toNat / (s.g b).toNat))
  | .rem d a b => some (d,
      if s.g b = 0 then s.g a
      else if (s.g a).toInt = -2 ^ 63 ∧ (s.g b).toInt = -1 then 0
      else BitVec.ofInt 64 ((s.g a).toInt - (s.g a).toInt.tdiv (s.g b).toInt * (s.g b).toInt))
  | .remc d a b => some (d, if s.g b = 0 then s.g a else w64 ((s.g a).toNat - (s.g a).toNat / (s.g b).toNat * (s.g b).toNat))
  | _ => none

/-- The immediate of an I-format word (R30): its 13 bits sign-extended, or with the 22 bits of an open HINT.WIDE before them
35 bits sign-extended. -/
def immRule (s : State) (imm : BitVec 13) : Int :=
  match s.me.hints.wide with
  | none => imm.toInt
  | some hi => hi.toInt * 2 ^ 13 + imm.toNat

/-- What R167 to R171 give g[d]: immediates, shifts, bit fields, LEA. -/
def immediateRule (s : State) : Instr → Option (Reg × W64)
  | .addi d a imm => some (d, BitVec.ofInt 64 ((s.g a).toInt + immRule s imm))
  | .andi d a imm => some (d, s.g a &&& BitVec.ofInt 64 (immRule s imm))
  | .ori d a imm => some (d, s.g a ||| BitVec.ofInt 64 (immRule s imm))
  | .xori d a imm => some (d, s.g a ^^^ BitVec.ofInt 64 (immRule s imm))
  | .slti d a imm => some (d, if (s.g a).toInt < immRule s imm then 1 else 0)
  | .sltci d a imm => some (d, if (s.g a).toNat < (BitVec.ofInt 64 (immRule s imm)).toNat then 1 else 0)
  | .muli d a imm => some (d, BitVec.ofInt 64 ((s.g a).toInt * immRule s imm))
  | .shli d a n => some (d, w64 ((s.g a).toNat * 2 ^ n.toNat))
  | .shri d a n => some (d, w64 ((s.g a).toNat / 2 ^ n.toNat))
  | .sari d a n => some (d, BitVec.ofInt 64 ((s.g a).toInt / 2 ^ n.toNat))
  | .rori d a n => some (d, (s.g a).rotateRight n.toNat)
  | .bext d a width off => some (d, w64 ((s.g a).toNat / 2 ^ off.toNat % 2 ^ width.toNat))
  | .bexts d a width off => some (d,
      if width = 0 then 0
      else
        let y := (s.g a).toInt / 2 ^ off.toNat % 2 ^ width.toNat
        BitVec.ofInt 64 (if y < 2 ^ (width.toNat - 1) then y else y - 2 ^ width.toNat))
  | .bins d a width off => some (d,
      let o := off.toNat
      let e := off.toNat + width.toNat
      w64 ((s.g d).toNat % 2 ^ o + (s.g a).toNat % 2 ^ width.toNat * 2 ^ o + (s.g d).toNat / 2 ^ e * 2 ^ e))
  | .lea d a b n => some (d, w64 ((s.g a).toNat + (s.g b).toNat * 2 ^ n.toNat))
  | _ => none

/-- What Table 8 of 07 (R174) and R175 give g[d]. -/
def unaryRule (s : State) : Instr → Option (Reg × W64)
  | .clz d a => some (d, if s.g a = 0 then 64 else w64 (63 - (s.g a).toNat.log2))
  | .ctz d a => some (d, w64 (((List.range 64).find? fun k => (s.g a).getLsbD k).getD 64))
  | .popc d a => some (d, w64 ((List.range 64).filter fun k => (s.g a).getLsbD k).length)
  | .brev d a => some (d, (s.g a).reverse)
  | .bswap d a => some (d,
      let x := s.g a
      x.extractLsb' 0 8 ++ x.extractLsb' 8 8 ++ x.extractLsb' 16 8 ++ x.extractLsb' 24 8 ++ x.extractLsb' 32 8 ++
        x.extractLsb' 40 8 ++ x.extractLsb' 48 8 ++ x.extractLsb' 56 8)
  | .sextb d a => some (d, BitVec.ofInt 64 ((s.g a).setWidth 8).toInt)
  | .sexth d a => some (d, BitVec.ofInt 64 ((s.g a).setWidth 16).toInt)
  | .sextw d a => some (d, BitVec.ofInt 64 ((s.g a).setWidth 32).toInt)
  | .zexth d a => some (d, w64 ((s.g a).toNat % 2 ^ 16))
  | .zextw d a => some (d, w64 ((s.g a).toNat % 2 ^ 32))
  | .sel d a b c => some (d, if s.g c ≠ 0 then s.g a else s.g b)
  | .selz d a b c => some (d, if s.g c = 0 then s.g a else s.g b)
  | _ => none

end Sys2Proof.Claims

open Sys2Proof.Claims

/-- The 24 instructions of the ALU write to g[d] what Table 1 of 07 and R166 give, write nothing where d is 0, and go on to
the next word; the division's corners are among the results. -/
def Obligations.AluResults : Prop :=
  ∀ (i : Instr) (s : State) (d : Reg) (x : W64), aluRule s i = some (d, x) → Clear i s → Gives i s (s.setG d x)

/-- The immediate forms, SHIFTI, BITF and LEA write to g[d] what R167 to R171 give, with the immediate of 35 bits under an open
HINT.WIDE (R30); UNARY and SEL what Table 8 of 07 and R175 give. -/
def Obligations.ImmediateAndUnaryResults : Prop :=
  (∀ (i : Instr) (s : State) (d : Reg) (x : W64), immediateRule s i = some (d, x) → Clear i s → Gives i s (s.setG d x)) ∧
  (∀ (i : Instr) (s : State) (d : Reg) (x : W64), unaryRule s i = some (d, x) → Clear i s → Gives i s (s.setG d x))

/-- A conditional branch goes to PC + 4 · Off where its condition holds, otherwise to the next word, and writes no register
but those of the loops that it leaves (R140, R176). -/
def Obligations.BranchesDecideByTheirCondition : Prop :=
  ∀ (i : Instr) (s : State) (c : Bool) (off : BitVec 13), branchRule s i = some (c, off) → Clear i s →
    let t := s.me.pc + BitVec.ofInt 64 (4 * immRule s off)
    exec i s = .next (s.retire (if c then .jump t else .seq)) ∧ (s.retire (.jump t)).me.pc = t

/-- J, JAL, JALR and JR go to their target; the link is PC + 4, in g63 for JAL and in g[d] for JALR, whose target reads g[a]
before the link is written; a misaligned target of JALR or JR raises MISALIGN with the target in TVAL. The four words, and that
each accepts HINT.WIDE (R177, R178). -/
def Obligations.JumpsGoToTheirTargets : Prop :=
  (∀ s : State,
     (∀ off : BitVec 25,
       let o : Int := match s.me.hints.wide with | none => off.toInt | some hi => hi.toInt * 2 ^ 25 + off.toNat
       let t := s.me.pc + BitVec.ofInt 64 (4 * o)
       (Clear (.j off) s → exec (.j off) s = .next (s.retire (.jump t))) ∧
       (Clear (.jal off) s → exec (.jal off) s = .next ((s.setG 63 (s.me.pc + 4)).retire (.jump t)))) ∧
     (∀ (d a : Reg) (imm : BitVec 13),
       let t := s.g a + BitVec.ofInt 64 (immRule s imm)
       t.toNat % 4 = 0 →
         (Clear (.jalr d a imm) s → exec (.jalr d a imm) s = .next ((s.setG d (s.me.pc + 4)).retire (.jump t))) ∧
         (Clear (.jr a imm) s → exec (.jr a imm) s = .next (s.retire (.jump t)))) ∧
     (∀ t : W64, (s.retire (.jump t)).me.pc = t)) ∧
  (∀ (s : State) (d a : Reg) (imm : BitVec 13),
     let t := s.g a + BitVec.ofInt 64 (immRule s imm)
     t.toNat % 4 ≠ 0 →
       (Clear (.jalr d a imm) s → exec (.jalr d a imm) s = .next (s.trapEntry 0x03 t s.me.trapPc)) ∧
       (Clear (.jr a imm) s → exec (.jr a imm) s = .next (s.trapEntry 0x03 t s.me.trapPc))) ∧
  (∀ (d a : Reg) (imm : BitVec 13),
     acceptsWide (.jalr d a imm) = true ∧ acceptsWide (.jr a imm) = true ∧
     (encode (.jalr d a imm)).toNat = 0x18 * 2 ^ 25 + d.toNat * 2 ^ 19 + a.toNat * 2 ^ 13 + imm.toNat ∧
     (encode (.jr a imm)).toNat = 0x18 * 2 ^ 25 + a.toNat * 2 ^ 13 + imm.toNat) ∧
  (∀ off : BitVec 25,
     acceptsWide (.j off) = true ∧ acceptsWide (.jal off) = true ∧
     (encode (.j off)).toNat = 0x16 * 2 ^ 25 + off.toNat ∧ (encode (.jal off)).toNat = 0x17 * 2 ^ 25 + off.toNat)

/-- LADDR writes the address of its pool record's object plus g[a], LADDR.LEN the record's length, zero-extended; they read
the record at POOLBASE + 16 · idx (R172, R173). -/
def Obligations.PoolRecordsAreRead : Prop :=
  ∀ (s t : State) (d a : Reg) (idx : BitVec 12) (x : Nat),
    let at0 := s.me.ctl.poolbase + w64 (16 * idx.toNat)
    (Clear (.laddr d a idx) s → s.noPol.load at0 8 = .ok (x, t) →
      Gives (.laddr d a idx) s (t.setG d (w64 (x + (s.g a).toNat)))) ∧
    (Clear (.laddrLen d idx) s → s.noPol.load (at0 + 8) 4 = .ok (x, t) → Gives (.laddrLen d idx) s (t.setG d (w64 x)))

/-- What a register instruction leaves alone: for the instructions of aluRule, immediateRule, unaryRule and the predicate
reads PCNT and PFIRST, every other general register, the vector, predicate and accumulator files, every special register but
RETIRED and LLEN (a loop's end step, R139), the core's local memory, the device with every byte of memory, and every other
core. -/
def Obligations.RegisterInstructionsLeaveTheRest : Prop :=
  ∀ (i : Instr) (s t : State) (d : Reg) (x : W64),
    (aluRule s i = some (d, x) ∨ immediateRule s i = some (d, x) ∨ unaryRule s i = some (d, x) ∨
      ∃ a, (i = .pcnt d a ∨ i = .pfirst d a)) → Clear i s → exec i s = .next t →
    (∀ r, r ≠ d → t.g r = s.g r) ∧ (∀ r, t.p r = s.p r) ∧ (∀ n, t.v n = s.v n) ∧ (∀ z, t.z z = s.z z ∧ t.zver z = s.zver z) ∧
    t.me.ctl = { s.me.ctl with retired := t.me.ctl.retired, llen := t.me.ctl.llen } ∧ t.me.loc = s.me.loc ∧
    (∀ a, t.dev.mem.read a = s.dev.mem.read a) ∧ t.dev = s.dev ∧ t.others = s.others

/-- An instruction that its earlier checks stop traps ILLEGAL or PRIV with the word in TVAL, and has none of its effect: an
open WIDE that it does not accept (R30), a transfer, LOOP or REPV as the last word of an active body (R140), a mode below
the one that it requires (R36; a CWR of TRCFG requires none once it is read-only, Table 6 of 19). A word that is no instruction raises ILLEGAL with the word in TVAL (R35), in user mode as in any
other: the step of the device that the table calls ILLEGAL_WORD, and the step that meets such a word. -/
def Obligations.EarlierChecksTrap : Prop :=
  (∀ (i : Instr) (s : State), i.hasWord = true → i ≠ .done → s.me.stopped = false → s.me.bond ≠ .gang →
     (s.me.hints.wide.isSome = true → acceptsWide i = false → isHintInstr i = false →
       exec i s = .next (s.trapEntry 0x01 (zext (encode i)) s.me.trapPc)) ∧
     (s.me.hints.wide = none → isTransfer i = true → s.me.endsBody s.me.pc = true →
       exec i s = .next (s.trapEntry 0x01 (zext (encode i)) s.me.trapPc)) ∧
     (s.me.hints.wide = none → isTransfer i = false → s.me.may (s.needs i) = false →
       exec i s = .next (s.trapEntry 0x02 (zext (encode i)) s.me.trapPc))) ∧
  (∀ (w : Word) (s : State), s.me.stopped = false → s.me.bond ≠ .gang →
     (fOp w ≠ 0x7E → exec (.illegalWord w) s = .next (s.trapEntry 0x01 (zext w) s.me.trapPc)) ∧
     (fOp w = 0x7E → exec (.illegalWord w) s =
       .next (({ s with me.hints := .none } : State).trapEntry 0x01 (zext w) s.me.pc)) ∧
     (∀ r, decode w = .error r → s.issueWord w = exec (.illegalWord w) s) ∧
     (s.me.hints.start = none → s.me.trapPc = s.me.pc))
/-! ## Exceptions, loops, hints and bonds (06, 19) -/

/-- Taking an exception (R389): TPC, TCAUSE, TVAL and TSTAT hold the resume address, the cause, its value and the state before
it; user mode becomes stave mode; interrupts go off; the pc goes to TVEC; every bond and checked pair is left, and the open
HINT chain ends. The register files, the loop state, SIGST, every other special register and the device stay. -/
def Obligations.TrapEntrySavesAndVectors : Prop :=
  ∀ (s : State) (c : BitVec 8) (v a : W64),
    let t := s.trapEntry c v a
    t.me.ctl = { s.me.ctl with
      tpc := a, tcause := c.setWidth 64, tval := v, tstat := t.me.ctl.tstat,
      mode := if s.me.ctl.mode = .user then .stave else s.me.ctl.mode, ie := false } ∧
    t.me.ctl.tstat.extractLsb' 0 2 = Mode.code s.me.ctl.mode ∧ t.me.ctl.tstat.getLsbD 2 = s.me.ctl.ie ∧
    field t.me.ctl.tstat 3 2 = (match s.me.bond with | .none => 0 | .follow => 1 | .gang => 2) ∧
    t.me.ctl.tstat.getLsbD 5 = s.me.pair.isSome ∧
    field t.me.ctl.tstat 6 3 = (match s.me.member with | some m => m.member % 8 | none => 0) ∧
    field t.me.ctl.tstat 9 55 = 0 ∧
    t.me.pc = s.me.ctl.tvec ∧ t.me.bond = .none ∧ t.me.pair = none ∧ t.me.hints = .none ∧ t.me.regs = s.me.regs ∧
    t.me.loc = s.me.loc ∧ t.dev = s.dev

/-- TRAP and BRK retire and then trap, with TPC the address to which their retirement went on, a loop's end step included: TRAP
with g[a] in TVAL, BRK with its own address + 1 (R158, R408). -/
def Obligations.TrapAndBrkTrapAfterRetiring : Prop :=
  ∀ s : State,
    (∀ a : Reg, Clear (.trap a) s →
      exec (.trap a) s = .next ((s.retire .seq).trapEntry 0x08 (s.g a) (s.retire .seq).me.pc)) ∧
    (∀ code : BitVec 13, Clear (.brk code) s →
      exec (.brk code) s = .next ((s.retire .seq).trapEntry 0x07 (s.me.pc + 1) (s.retire .seq).me.pc))

/-- TRET restores the pc from TPC and the mode and ie from TSTAT, and writes nothing else but RETIRED; to a reserved mode or one
above the present mode it traps PRIV with its word (R408). -/
def Obligations.TretRestores : Prop :=
  ∀ s : State, Clear .tret s →
    (∀ m, Mode.ofCode (s.me.ctl.tstat.extractLsb' 0 2) = some m → s.me.may m = true →
      exec .tret s = .next (({ s with me := { s.me with
        pc := s.me.ctl.tpc, ctl.mode := m, ctl.ie := s.me.ctl.tstat.getLsbD 2 } } : State).retire .stay) ∧
      ∀ t, exec .tret s = .next t → t.me.pc = s.me.ctl.tpc ∧ t.me.ctl.mode = m ∧ t.me.regs = s.me.regs ∧ t.dev = s.dev) ∧
    (Mode.ofCode (s.me.ctl.tstat.extractLsb' 0 2) = none ∨
      (∃ m, Mode.ofCode (s.me.ctl.tstat.extractLsb' 0 2) = some m ∧ s.me.may m = false) →
      exec .tret s = .next (s.trapEntry 0x02 (zext (encode .tret)) s.me.trapPc))

/-- Going on at the end of a loop's body (R139). The loops that end at a word are the active ones whose end address it is, the
innermost, whose body starts last, first. Where none ends, the next word comes next. Otherwise the innermost takes its end
step: its counter falls by one; while that is not 0 its body starts again; else the loop becomes inactive, and the others that
end there, if any, go on alike. The last word of a skipped body counts as retired (R138), and a word that retires goes on so. -/
def Obligations.LoopBodiesRepeat : Prop :=
  (∀ c : Core,
    (∀ a, (∀ n, n ∈ c.loopsEnding a ↔ n < 3 ∧ c.loopAct n = true ∧ c.loopEnd n = a) ∧ (c.loopsEnding a).Nodup ∧
      (c.loopsEnding a).Pairwise fun n k => (c.loopStart k).toNat ≤ (c.loopStart n).toNat) ∧
    (∀ n, c.loopEnd n = c.loopStart n + w64 (4 * c.loopLen n) - 4) ∧
    (c.loopsEnding c.pc = [] → c.goOn .seq = { c with pc := c.pc + 4 }) ∧
    (∀ n rest, c.loopsEnding c.pc = n :: rest → c.lc n ≠ 1 →
      c.goOn .seq = { c.setLc n (c.lc n - 1) with pc := c.loopStart n }) ∧
    (∀ n rest, c.loopsEnding c.pc = n :: rest → c.lc n = 1 →
      let e := (c.setLc n 0).loopOff n
      e.lc n = 0 ∧ e.loopAct n = false ∧ e.loopsEnding e.pc = rest ∧ c.goOn .seq = e.goOn .seq) ∧
    (∀ k, c.goOn (.skip k) = ({ c with pc := c.pc + w64 (4 * k) } : Core).goOn .seq)) ∧
  (∀ (s : State) (x : Next), (s.retire x).me.pc = (s.me.goOn x).pc ∧ (s.retire x).me.regs = (s.me.goOn x).regs ∧
    (s.retire x).me.ctl.lbody = (s.me.goOn x).ctl.lbody ∧ (s.retire x).me.ctl.llen = (s.me.goOn x).ctl.llen)

/-- LOOP makes its loop active with the count g[a] over the len words after it and goes on to the body; a count of 0 skips the
body and activates nothing; a loop that is active already, or a body that would cross the end of one that holds it, raises
ILLEGAL (R138). -/
def Obligations.LoopActivatesOrSkips : Prop :=
  ∀ (s : State) (a : Reg) (lc : BitVec 2) (len : BitVec 9), (Instr.loop a lc len).wf = true → Clear (.loop a lc len) s →
    let n := lc.toNat
    let crosses := [0, 1, 2].any fun k => s.me.loopAct k && s.me.inLoop k s.me.pc &&
      decide ((s.me.loopEnd k).toNat < (s.me.pc + w64 (4 * len.toNat)).toNat)
    (s.me.loopAct n = true ∨ crosses = true →
      exec (.loop a lc len) s = .next (s.trapEntry 0x01 (zext (encode (.loop a lc len))) s.me.trapPc)) ∧
    (s.me.loopAct n = false → crosses = false → s.g a = 0 →
      exec (.loop a lc len) s = .next (({ s with me := s.me.setLc n 0 } : State).retire (.skip len.toNat))) ∧
    (s.me.loopAct n = false → crosses = false → s.g a ≠ 0 →
      ∃ t : State, Gives (.loop a lc len) s t ∧ t.me.lc n = s.g a ∧ t.me.loopStart n = s.me.pc + 4 ∧
        t.me.loopLen n = len.toNat ∧ t.me.loopAct n = true ∧
        (∀ k, k ≠ n → t.me.lc k = s.me.lc k ∧ t.me.loopStart k = s.me.loopStart k ∧ t.me.loopLen k = s.me.loopLen k ∧
          t.me.loopAct k = s.me.loopAct k) ∧
        t = { s with me := { s.me with
          regs.lc := t.me.regs.lc, ctl.lbody := t.me.ctl.lbody, ctl.llen := t.me.ctl.llen, loopBuf := t.me.loopBuf } })

/-- A HINT joins the chain, whose first address stays the resume address, and takes effect on nothing but its target; it counts
as retired only with the target, and the target's retirement ends the chain (R26, R27, R463). A HINT of a kind that the chain
holds, or at the end of an active body, raises ILLEGAL with its own address in TPC (R26, R28). -/
def Obligations.HintsFormAChain : Prop :=
  ∀ s : State,
    (∀ (i : Instr) (present : Bool) (h : Hints),
      ((∃ hi, i = .hintWide hi ∧ present = s.me.hints.wide.isSome ∧ h = { s.me.hints with wide := some hi }) ∨
       (∃ llc alloc, i = .hintMempol llc alloc ∧ present = s.me.hints.mempol.isSome ∧
         h = { s.me.hints with mempol := some (llc, alloc) }) ∨
       (∃ m, i = .hintRound m ∧ present = s.me.hints.round.isSome ∧ h = { s.me.hints with round := some m }) ∨
       (∃ taken gap, i = .hintSched taken gap ∧ present = s.me.hints.sched.isSome ∧
         h = { s.me.hints with sched := some (taken, gap) })) →
      Clear i s →
        (present = false → s.me.endsBody s.me.pc = false →
          exec i s = .next { s with me := { s.me with
            hints := { h with start := some s.me.trapPc, words := s.me.hints.words ++ [encode i] }
            pc := s.me.pc + 4, wait := none, handed := false, issued := false, peerWords := [], entering := false } }) ∧
        (present = true ∨ s.me.endsBody s.me.pc = true →
          exec i s = .next (({ s with me.hints := .none } : State).trapEntry 0x01 (zext (encode i)) s.me.pc))) ∧
    (∀ t : State, (t.retire .seq).me.hints = .none ∧
      (t.retire .seq).me.ctl.retired = t.me.ctl.retired + w64 (1 + t.me.hints.words.length))

/-- Joins (R153): one whose instance has no other member that counts gives g[d] = 1 at once, with a bond
of its own in an instance wider than 1 and none in one of width 1; one that comes before
another member waits; the last to come, with every other member waiting at its address with the same instruction but for its
register, bonds them all in member order, each with its own g[d] = 1, and goes on; with some member elsewhere it gets 0, and so do
the others, whose joins end at once. A bond ends where its own instruction says so (R155): DISBAND of a locked gang unbonds every
member, each of which goes on to the next word; DISBAND and UNFOLLOW are no more than a next word on a core without such a bond;
UNFOLLOW of a leader cuts its followers off and leaves it without a bond. -/
def Obligations.JoinsBondAnInstance : Prop :=
  (∀ (s : State) (d : Reg) (i : Instr) (b : Bond),
     ((i = .follow d ∧ b = .follow) ∨ (i = .gang d ∧ b = .gang)) → Clear i s → s.me.bond = .none →
     let others := s.mates.filter fun k => k != s.here
     let same := fun k => ∃ w, (s.coreAt k).joinAt = some (s.me.pc, w) ∧ joinKind w = joinKind (encode i)
     (others = [] → Gives i s ((if s.width = 1 then s else s.formBond b s.mates).setG d 1)) ∧
     (others ≠ [] → (∃ k ∈ others, (s.coreAt k).joinAt = none) →
       exec i s = .next { s with me := { s.me with wait := some (.join (encode i)) } }) ∧
     (others ≠ [] → (∀ k ∈ others, same k) → Gives i s (((s.endJoins others 1).formBond b s.mates).setG d 1)) ∧
     (others ≠ [] → (∀ k ∈ others, (s.coreAt k).joinAt ≠ none) → (∃ k ∈ others, ¬ same k) →
       Gives i s ((s.endJoins others 0).setG d 0))) ∧
  (∀ (s : State) (ks : List Nat) (x : W64), ks.Nodup → s.here ∉ ks →
     (∀ k ∈ ks, (s.coreAt k).joinAt ≠ none) →
     let t := s.endJoins ks x
     t.here = s.here ∧ t.me = s.me ∧ t.dev = s.dev ∧ (∀ k, k ∉ ks → t.coreAt k = s.coreAt k) ∧
     ∀ k ∈ ks, ∀ a w, (s.coreAt k).joinAt = some (a, w) →
       t.coreAt k = (((s.focus k).setG (joinReg w) x).retire .seq).me) ∧
  (∀ s : State, s.me.stopped = false → s.me.bond = .gang → s.me.crew.Nodup → s.here ∈ s.me.crew →
     (∀ k ∈ s.me.crew, (s.coreAt k).bond = .gang ∧ precheck .disband (s.focus k) = none) →
     ∃ t, exec .disband s = .next t ∧ t.here = s.here ∧ t.dev = s.dev ∧
       ∀ k ∈ s.me.crew, (t.coreAt k).bond = .none ∧ (t.coreAt k).crew = [] ∧
         (t.coreAt k).pc = ((s.coreAt (s.me.crew.headD s.here)).goOn .seq).pc ∧
         (∀ r, (t.focus k).g r = (s.focus k).g r) ∧ (t.coreAt k).loc = (s.coreAt k).loc) ∧
  (∀ s : State,
     (Clear .disband s → exec .disband s = .next (s.retire .seq)) ∧
     (Clear .unfollow s → ¬ (s.me.bond = .follow ∧ s.me.rank = 0) → exec .unfollow s = .next (s.retire .seq)) ∧
     (Clear .unfollow s → s.me.bond = .follow → s.me.rank = 0 →
       exec .unfollow s = .next (s.leaveBond.retire .seq) ∧ s.leaveBond.me.bond = .none))

/-- In a locked gang every member issues the word on its own registers, from one fetch by member 0, and all go on together:
stated for the ALU, where each member's g[d] receives its own result and each pc is member 0's (R150). -/
def Obligations.GangsIssueInEveryMember : Prop :=
  ∀ (i : Instr) (s : State) (d : Reg), s.me.stopped = false → s.me.bond = .gang → s.me.crew.Nodup → d ≠ 0 →
    s.here ∈ s.me.crew → (∀ k ∈ s.me.crew, precheck i (s.focus k) = none ∧ ∃ x, aluRule (s.focus k) i = some (d, x)) →
    ∃ t, exec i s = .next t ∧ t.here = s.here ∧ t.dev = s.dev ∧
      ∀ k ∈ s.me.crew, (∃ x, aluRule (s.focus k) i = some (d, x) ∧ (t.focus k).g d = x) ∧
        (∀ r, r ≠ d → (t.focus k).g r = (s.focus k).g r) ∧
        (t.coreAt k).pc = ((s.coreAt (s.me.crew.headD s.here)).goOn .seq).pc

/-- When a member of a locked gang traps at a word, no member has performed it: the state is the one before the word, but that
each member that trapped has taken its own cause and value, every other one GANG_HALT with the member index of the first that
trapped, all with one TPC, each in its own handler, and the gang is over (R151); stated for causes on which ROLLBACK does not
act (R432). -/
def Obligations.GangsHaltTogether : Prop :=
  (∀ (chk : Check) (body : Body) (s : State) (long : Bool), s.me.stopped = false → s.me.bond = .gang →
    let rs := crewResults chk body (s.me.crew.map s.coreAt) s.me.crew 0 s
    (∃ k c v u, (k, Res.trap c v u) ∈ rs) → issueBy chk body s long = .next ((haltCrew rs s).focus s.here)) ∧
  (∀ (rs : List (Nat × Res)) (s : State) (n : Nat) (tpc : W64), (rs.map (·.1)).Nodup → firstTrap rs 0 = some (n, tpc) →
    crewTrigger rs s = false → (∀ x ∈ rs, (s.coreAt x.1).bond = .gang) →
    let low := listGet 0 (rs.map (·.1)) n
    (haltCrew rs s).dev = s.dev ∧
    ∀ x ∈ rs, let c := (haltCrew rs s).coreAt x.1
      c.bond = .none ∧ c.regs = (s.coreAt x.1).regs ∧ c.loc = (s.coreAt x.1).loc ∧ c.pc = (s.coreAt x.1).ctl.tvec ∧
      c.ctl.tpc = tpc ∧
      (∀ cause v u, x.2 = .trap cause v u → c.ctl.tcause = zext cause.code ∧ c.ctl.tval = v) ∧
      ((∀ cause v u, x.2 ≠ .trap cause v u) →
        c.ctl.tcause = 0x0D ∧ c.ctl.tval = w64 (((s.coreAt low).member.map (·.member)).getD n)))

/-! ## REPV (06) -/

/-- REPV issues one unit of its sequence at a time, a vector word with the ROUND and SCHED that precede it, on staggered
registers; the words are fetched once, and PIX then names the next unit, or the first of the next repetition, and stays at REPV; after the last unit of the
last repetition PIX is 0, the word after the sequence comes next, and RETIRED has counted every word. A sequence that is none
(R144) raises ILLEGAL with REPV's word before any of it runs. -/
def Obligations.RepvRunsItsUnits : Prop :=
  ∀ (s s0 : State) (count : BitVec 6) (len dst ast bst : BitVec 3) (ws : List Word),
    let i := Instr.repv count len dst ast bst
    let n := len.toNat + 1
    let s1 : State := { s0 with me := { s0.me with seq := ws } }
    let rep := field s1.me.ctl.pix 0 6
    let word := field s1.me.ctl.pix 6 3
    Clear i s → s.sequence n = .ok (ws, s0) →
    (∀ us u j body t next,
      seqUnits n ws = some us → seqOk us ⟨dst.toNat, ast.toNat, bst.toNat⟩ (count.toNat + 1) = true → s1.me.crosses n = false →
      word < n → rep < count.toNat + 1 → firstUnit (ws.drop word) none false 0 = some u →
      stagger u.instr (dst.toNat * rep) (ast.toNat * rep) (bst.toNat * rep) = some j →
      (s.me.seq.length = n ∧ s.me.wait ≠ none ∧ s.me.wait ≠ some .gang ∨ ∀ b ∈ s1.me.ctl.brka.toList, b.getLsbD 0 = false) →
      vecBody j = some body →
      body ⟨[s.me], 0⟩ { s1 with me := { s1.me with hints := { s1.me.hints with round := u.round, mempol := none } } } =
        .done t next →
      ∃ t' : State, exec i s = .next t' ∧ t'.dev = t.dev ∧ t'.me.loc = t.me.loc ∧
        (∀ r, t'.g r = t.g r) ∧ (∀ r, t'.v r = t.v r) ∧ (∀ r, t'.p r = t.p r) ∧ (∀ z, t'.z z = t.z z ∧ t'.zver z = t.zver z) ∧
        (word + u.len < n → t'.me.ctl.pix = w64 (rep + 64 * (word + u.len)) ∧ t'.me.pc = t.me.pc ∧
          t'.me.ctl.retired = t.me.ctl.retired + w64 u.len) ∧
        (n ≤ word + u.len → rep < count.toNat → t'.me.ctl.pix = w64 (rep + 1) ∧ t'.me.pc = t.me.pc ∧
          t'.me.ctl.retired = t.me.ctl.retired + w64 u.len) ∧
        (n ≤ word + u.len → rep = count.toNat → t'.me.ctl.pix = 0 ∧ t'.me.pc = (t.me.goOn (.skip n)).pc ∧
          t'.me.ctl.retired = t.me.ctl.retired + w64 u.len + w64 (1 + s1.me.hints.words.length))) ∧
    ((seqUnits n ws = none ∨ s1.me.crosses n = true ∨
        (∃ us, seqUnits n ws = some us ∧ seqOk us ⟨dst.toNat, ast.toNat, bst.toNat⟩ (count.toNat + 1) = false)) →
      ∃ t : State, exec i s = .next t ∧ t.me.ctl.tcause = 0x01 ∧ t.me.ctl.tval = zext (encode i) ∧ t.me.regs = s1.me.regs ∧
        t.dev = s1.dev)

/-! ## Loads, stores and atomics (11) -/

namespace Sys2Proof.Claims

/-- An n-byte value, sign-extended where sx asks for it (R283). -/
def extended (n : Nat) (sx : Bool) (x : Nat) : W64 :=
  BitVec.ofInt 64 (if sx ∧ 2 ^ (8 * n - 1) ≤ x then (x : Int) - 2 ^ (8 * n) else x)

/-- A number of k bits read as two's complement (R48). -/
def twos (k x : Nat) : Int := if x < 2 ^ (k - 1) then x else (x : Int) - 2 ^ k

/-- An offset of the core's own local memory as an address (Table 1 of 11). -/
def ownVa (off : Nat) : W64 := 0xFFFF000000000000 + w64 off

/-- n aligned bytes of local memory that can be read: below the apertures, in a full line, without poison (R262, R265, R280). -/
def Readable (s : State) (off n : Nat) : Prop :=
  off % n = 0 ∧ off + n ≤ 0x30000 ∧ s.me.loc.empty.contains (off / 128) = false ∧ firstPoison s.me.loc.poison off n = none

/-- The address and the size of the access that an instruction makes once its queue operands are taken. -/
def accessOf (s : State) : Instr → Option (W64 × Nat)
  | .ld _ a size _ off | .ldvol _ a size _ off | .st _ a size off | .stvol _ a size off =>
    some (s.ea a off (sizeBytes size), sizeBytes size)
  | .ldv _ a off => some (s.ea a off 64, 64)
  | .stv src a off => match s.vsrc src with | .ok _ => some (s.ea a off 64, 64) | .error _ => none
  | .ldAcq _ a dw | .stRel a _ dw => some (s.g a, if dw then 8 else 4)
  | .atswap _ a _ _ dw | .atadd _ a _ _ dw | .atand _ a _ _ dw | .ator _ a _ _ dw | .atxor _ a _ _ dw | .atmin _ a _ _ dw
  | .atmax _ a _ _ dw | .atminc _ a _ _ dw | .atmaxc _ a _ _ dw | .cas _ a _ _ dw => some (s.g a, if dw then 8 else 4)
  | _ => none

/-- What an atomic does (R289): its registers, its ordering, its size in bytes, and the value that it writes over an old one,
with the operand b restricted to the size; none: nothing is written. -/
def amoRule (s : State) : Instr → Option (Reg × Reg × Reg × Ord × Nat × (Nat → Nat → Option Nat))
  | .atswap d a b o dw => some (d, a, b, o, if dw then 8 else 4, fun _ y => some y)
  | .atadd d a b o dw => some (d, a, b, o, if dw then 8 else 4, fun x y => some ((x + y) % 2 ^ (if dw then 64 else 32)))
  | .atand d a b o dw => some (d, a, b, o, if dw then 8 else 4, fun x y => some (x &&& y))
  | .ator d a b o dw => some (d, a, b, o, if dw then 8 else 4, fun x y => some (x ||| y))
  | .atxor d a b o dw => some (d, a, b, o, if dw then 8 else 4, fun x y => some (x ^^^ y))
  | .atmin d a b o dw => some (d, a, b, o, if dw then 8 else 4, fun x y =>
      let k := if dw then 64 else 32
      some (if twos k y < twos k x then y else x))
  | .atmax d a b o dw => some (d, a, b, o, if dw then 8 else 4, fun x y =>
      let k := if dw then 64 else 32
      some (if twos k x < twos k y then y else x))
  | .atminc d a b o dw => some (d, a, b, o, if dw then 8 else 4, fun x y => some (if y < x then y else x))
  | .atmaxc d a b o dw => some (d, a, b, o, if dw then 8 else 4, fun x y => some (if x < y then y else x))
  | .cas d a b o dw => some (d, a, b, o, if dw then 8 else 4, fun x y =>
      if x = (s.g d).toNat % 256 ^ (if dw then 8 else 4) then some y else none)
  | _ => none

/-- Which atomic it is, among those that a checked pair tells apart (R416), and its operands: of CAS also the comparand. -/
def amoFn : Instr → Nat
  | .atadd _ _ _ _ _ => 1
  | .atand _ _ _ _ _ => 2
  | .ator _ _ _ _ _ => 3
  | .atxor _ _ _ _ _ => 4
  | .atmin _ _ _ _ _ => 5
  | .atmax _ _ _ _ _ => 6
  | .atminc _ _ _ _ _ => 7
  | .atmaxc _ _ _ _ _ => 8
  | .cas _ _ _ _ _ => 9
  | _ => 0

/-- A load of readable bytes in a line that a copy has filled joins it, an acquire (R276, R354). -/
def joined (s : State) (off n : Nat) : State :=
  if ∃ l ∈ s.me.loc.landed, off / 128 ≤ l ∧ l ≤ (off + n - 1) / 128 then s.acquire else s

/-- The device after accesses of the core's own local memory: as before, or with the core's SELF words written through by a join. -/
def Joined (s t : State) : Prop := (t.dev = s.dev ∨ t.dev = s.acquire.dev) ∧ (s.me.loc.landed = [] → t.dev = s.dev)

/-- A byte of the journal of some stave (R429). -/
def Journal (s : State) (a : Nat) : Prop := ∃ (n : BitVec 6) (i : Nat), let t := s.dev.stave n
  t.journalAt 0 ≤ a ∧ i < 2 ^ (field t.ckbase 0 4 + 12) ∧ a < t.journalAt 0 + 256 * (i + 1)

/-- A byte of memory has received what the L1 of some core held of it as a dirty SELF byte (R276). -/
def WrittenThrough (s t : State) (a : Nat) : Prop := ∃ k, ∃ w ∈ (s.coreAt k).l1,
  w.word = a / 8 ∧ w.dirty.getLsbD (a % 8) = true ∧ t.dev.mem.read a = byteOf w.data.toNat (a % 8)

/-- A byte of a host line that the device did not own: it is fetched from the host as its ownership comes (R444). -/
def Fetched (s : State) (a : Nat) : Prop := 3 * 2 ^ 50 ≤ a ∧ a < 2 ^ 52 ∧ a / 64 ∉ s.dev.devOwns

/-- No superstep of a job of the stave is checkpointed, so that no access is journaled (R430). -/
def Unjournaled (s : State) : Prop := ∀ j ∈ s.stave.jobs, ∀ d ∈ j.doms, d.ck.active = false

end Sys2Proof.Claims

/-- A load writes to its destination the bytes that stand at its place: LD and LDVOL zero- or sign-extended (R283, R285), LDV a
whole vector register, LD.acq zero-extended with an acquire after it (R284). -/
def Obligations.LoadsExtend : Prop :=
  (∀ (s s1 s2 : State) (d a : Reg) (size : MemSize) (sx : Bool) (off : BitVec 10) (vol : Bool) (pl : Place) (x : Nat),
    let n := sizeBytes size
    let va := s.ea a off n
    s.place va n .read true = .ok (pl, s1) → s1.readPlace pl va n vol = .ok (x, s2) → x < 256 ^ n →
      (vol = false → Clear (.ld d a size sx off) s → Gives (.ld d a size sx off) s (s2.setG d (extended n sx x))) ∧
      (vol = true → Clear (.ldvol d a size sx off) s → Gives (.ldvol d a size sx off) s (s2.setG d (extended n sx x)))) ∧
  (∀ (s s1 s2 : State) (d a : Reg) (off : BitVec 10) (pl : Place) (x : Nat), Clear (.ldv d a off) s →
    let va := s.ea a off 64
    s.place va 64 .read false = .ok (pl, s1) → s1.readPlace pl va 64 false = .ok (x, s2) →
      Gives (.ldv d a off) s (s2.setV d.toNat (BitVec.ofNat 512 x))) ∧
  (∀ (s s1 s2 : State) (d a : Reg) (dw : Bool) (pl : Place) (x : Nat), Clear (.ldAcq d a dw) s →
    let n := if dw then 8 else 4
    s.place (s.g a) n .read true = .ok (pl, s1) → s1.readPlace pl (s.g a) n false = .ok (x, s2) →
      Gives (.ldAcq d a dw) s (s2.acquire.setG d (w64 x)))

/-- A store stores the low bytes of its source at its place, or starts a copy at a copy-channel aperture, a volatile store there after the core's volatile remote stores (R283, R285, R294);
STV's source may be an operand queue (R20); ST.rel releases first (R284). -/
def Obligations.StoresPerform : Prop :=
  (∀ (s s1 s2 : State) (src a : Reg) (size : MemSize) (off : BitVec 10) (vol : Bool) (pl : Place),
    let n := sizeBytes size
    let va := s.ea a off n
    let x := (s.g src).toNat % 256 ^ n
    s.place va n .write true = .ok (pl, s1) →
    (((∀ c, pl ≠ .aperture c) ∧ s1.storeAt pl va n x vol true = .ok s2) ∨
      (∃ c u0, pl = .aperture c ∧ s1.volReady vol = .ok u0 ∧
        u0.paired .aperture va n (s.g src).toNat (fun u => u.startCopy c (s.g src)) = .ok s2)) →
      (vol = false → Clear (.st src a size off) s → Gives (.st src a size off) s s2) ∧
      (vol = true → Clear (.stvol src a size off) s → Gives (.stvol src a size off) s s2)) ∧
  (∀ (s s1 s2 s3 : State) (src a : Reg) (off : BitVec 10) (x : V512) (pl : Place), Clear (.stv src a off) s →
    s.vsrc src = .ok (x, s1) → s1.place (s.ea a off 64) 64 .write false = .ok (pl, s2) →
    s2.storeAt pl (s.ea a off 64) 64 x.toNat false true = .ok s3 → Gives (.stv src a off) s s3) ∧
  (∀ (s s1 s2 s3 s4 : State) (a b : Reg) (dw : Bool) (pl pl' : Place), Clear (.stRel a b dw) s →
    let n := if dw then 8 else 4
    s.place (s.g a) n .write true = .ok (pl, s1) → s1.release = .ok s2 → s2.place (s.g a) n .write true = .ok (pl', s3) →
    (∀ c, pl' ≠ .aperture c) → s3.storeAt pl' (s.g a) n ((s.g b).toNat % 256 ^ n) false true = .ok s4 →
      Gives (.stRel a b dw) s s4.selfRelease)

/-- The core's own local memory (R262, R265, R280): a load of readable bytes returns them, and joins the copy that has filled their
line, which is an acquire (R276, R354); one that meets an empty line waits
and changes nothing; a store of a core outside every instance puts its bytes there, reads back, and leaves every other byte,
every register and the device alone; a store that is narrower than a poisoned word is discarded. -/
def Obligations.LocalMemoryIsReadAndWritten : Prop :=
  (∀ (s : State) (d a : Reg) (size : MemSize) (sx : Bool) (o : BitVec 10) (off : Nat),
    let n := sizeBytes size
    s.ea a o n = ownVa off → off < 0x30000 → off % n = 0 → Clear (.ld d a size sx o) s →
      (Readable s off n →
        Gives (.ld d a size sx o) s ((joined s off n).setG d (extended n sx (s.me.loc.bytes.readN off n)))) ∧
      (s.me.loc.empty.contains (off / 128) = true →
        exec (.ld d a size sx o) s = .next { s with me := { s.me with wait := some .empty } })) ∧
  (∀ (s : State) (d a : Reg) (o : BitVec 10) (off : Nat), s.ea a o 64 = ownVa off → Readable s off 64 → Clear (.ldv d a o) s →
    Gives (.ldv d a o) s ((joined s off 64).setV d.toNat (BitVec.ofNat 512 (s.me.loc.bytes.readN off 64)))) ∧
  (∀ (s : State) (src a : Reg) (size : MemSize) (o : BitVec 10) (off : Nat),
    let n := sizeBytes size
    let x := (s.g src).toNat % 256 ^ n
    s.ea a o n = ownVa off → off < 0x30000 → off % n = 0 → s.me.loc.empty.contains (off / 128) = false →
    s.me.member = none → Clear (.st src a size o) s →
      Gives (.st src a size o) s ({ s with me := { s.me with loc := s.me.loc.store off n x } } : State)) ∧
  (∀ (l : Loc) (off n x : Nat), n ∈ [1, 2, 4, 8, 64] → off % n = 0 → Memory.wf l.bytes = true →
    Memory.wf (l.store off n x).bytes = true ∧
    (∀ k, k < off ∨ off + n ≤ k → (l.store off n x).bytes.read k = l.bytes.read k) ∧
    (n < 8 → l.poison.contains (off / 8) = true → l.store off n x = l) ∧
    (l.poison.contains (off / 8) = false ∨ 8 ≤ n →
      (l.store off n x).bytes.readN off n = x % 256 ^ n ∧ firstPoison (l.store off n x).poison off n = none))

/-- Addresses are checked in the order of R281: a misaligned access raises MISALIGN whatever its address names, then an address
outside the windows and the translated space raises ACCESS, then a reserved offset of a window LOCALRANGE; TVAL is the address,
and neither a register nor memory nor an operand queue has changed. -/
def Obligations.AddressesAreChecked : Prop :=
  ∀ (i : Instr) (s : State) (va : W64) (n : Nat), Clear i s → accessOf s i = some (va, n) →
    let traps (c : W64) : Prop := ∃ t : State, exec i s = .next t ∧ t.me.ctl.tcause = c ∧ t.me.ctl.tval = va ∧
      t.me.ctl.tpc = s.me.trapPc ∧ t.me.regs = s.me.regs ∧ t.me.queues = s.me.queues ∧ t.me.slots = s.me.slots ∧
      t.me.loc = s.me.loc ∧ t.me.pc = s.me.ctl.tvec
    (va.toNat % n ≠ 0 → traps 0x03) ∧
    (va.toNat % n = 0 → 0x100 ≤ field va 48 16 → field va 48 16 < 0xFFFE → traps 0x04) ∧
    (va.toNat % n = 0 → field va 48 16 = 0xFFFF → zeroAt va 18 30 = false → traps 0x04) ∧
    (va.toNat % n = 0 → field va 48 16 = 0xFFFF → zeroAt va 18 30 = true →
      0x30C00 ≤ field va 0 18 ∨ (0x30020 ≤ field va 0 18 ∧ field va 0 18 < 0x30800) → traps 0x06)

/-- A store to physical memory leaves every other byte: outside the bytes stored, outside the checkpoint journals (R429) and the
leaf whose d it sets (R270), and host lines fetched for a write-back (R444), each byte reads as it did before the store, or as a SELF
byte that the L1 of a core held dirty and that has been written through (R276); so does every register, but where the bytes lie in the image of the core's own registers (R23,
log 11). Without a checkpoint the bytes of a DIR or UNC page stand in memory at once, those of a SELF page that allocates in the L1
until they are released (R276). -/
def Obligations.StoresLeaveOtherMemory : Prop :=
  ∀ (s t : State) (pa key n x : Nat) (cls : MemCls) (leaf : Option Nat) (va : W64) (vol counted : Bool),
    s.canonical → n ∈ [1, 2, 4, 8, 64] → key % n = 0 → s.storeAt (.phys pa key cls leaf) va n x vol counted = .ok t →
    let cached : Prop := cls = .self ∧ vol = false ∧ s.me.alloc = 0
    let stored (a : Nat) : Prop := ¬ cached ∧ key ≤ a ∧ a < key + n
    let inLeaf (a : Nat) : Prop := ∃ k, leaf = some k ∧ k ≤ a ∧ a < k + 8
    (∀ a, ¬ stored a → ¬ Journal s a → ¬ inLeaf a → ¬ Fetched s a →
      t.dev.mem.read a = s.dev.mem.read a ∨ WrittenThrough s t a) ∧
    ((key + n ≤ s.me.imageAt ∨ s.me.imageAt + 0x4000 ≤ key) → t.me.regs = s.me.regs) ∧
    (Unjournaled s → s.dev.paKind pa = .dram → (∀ w ∈ wordsOf key n, s.dev.worldLine (8 * w) = false) → s.me.pair = none →
      s.dev.poison.contains (key / 8) = false → (∀ k, ∀ w ∈ (s.coreAt k).l1, w.bad = false) → (∀ k, leaf = some k → k + 8 ≤ key ∨ key + n ≤ k) →
      (cls ≠ .self ∨ vol = true → t.dev.mem.readN key n = x % 256 ^ n) ∧
      (cached → (t.selfLoad key n true).1 = x % 256 ^ n))

/-- An atomic returns the value that stood at its place and leaves there what its operation gives, with a release before it and
an acquire after it where its ordering asks for them (R289); in the core's own local memory it does so at once. -/
def Obligations.AtomicsReadModifyWrite : Prop :=
  ∀ (i : Instr) (s : State) (d a b : Reg) (o : Ord) (n : Nat) (f : Nat → Nat → Option Nat),
    amoRule s i = some (d, a, b, o, n, f) → Clear i s →
    let y := (s.g b).toNat % 256 ^ n
    let rel := o = .rel ∨ o = .acqrel
    let acq := o = .acq ∨ o = .acqrel
    (∀ pl s1 s2 old s3, s.place (s.g a) n .atomic false = .ok (pl, s1) → (rel → s1.release = .ok s2) → (¬ rel → s2 = s1) →
      s2.atomicAt pl (s.g a) n (amoFn i) (if amoFn i = 9 then y + 256 ^ n * ((s2.g d).toNat % 256 ^ n) else y)
        (fun x => f x y) = .ok (old, s3) →
      (acq → Gives i s (s3.acquire.setG d (w64 old))) ∧ (¬ acq → Gives i s (s3.setG d (w64 old)))) ∧
    (∀ off, s.g a = ownVa off → Readable s off n → s.me.member = none → s.me.pair = none → o = .plain →
      let old := s.me.loc.bytes.readN off n
      let u := joined s off n
      Gives i s (({ u with me := { u.me with loc := match f old y with
        | some x => s.me.loc.store off n x
        | none => s.me.loc } } : State).setG d (w64 old)))

/-- GATH gives each active element of d the element at g[a] plus its signed index times the element size, in ascending order
from the one that PIX names, and leaves the others; SCAT stores the active elements of d; PIX is 0 after either (R286). Stated
for the core's own local memory, and for any memory through the accesses of its elements. -/
def Obligations.GathersAndScatters : Prop :=
  ∀ (s : State) (d a b : Reg) (p : PReg) (ty : ElemTy),
    let n := ElemTy.width ty
    let L := 512 / n
    let i0 := field s.me.ctl.pix 0 6
    (∀ s1 s2 y, Clear (.gath d a b p ty) s → s.vsrc b = .ok (y, s1) →
      gathFrom d (s.g a) n (s1.me.mask p L) (lanesOf n y) (L - field s1.me.ctl.pix 0 6) (field s1.me.ctl.pix 0 6) s1 = .ok s2 →
      Gives (.gath d a b p ty) s { s2 with me.ctl.pix := 0 }) ∧
    (∀ s1 s2 s3 x y, Clear (.scat d a b p ty) s → s.vsrc d = .ok (x, s1) → s1.vsrc b = .ok (y, s2) →
      scatFrom (s.g a) n (s2.me.mask p L) (lanesOf n y) (lanesOf n x) (L - field s2.me.ctl.pix 0 6) (field s2.me.ctl.pix 0 6) s2 =
        .ok s3 → Gives (.scat d a b p ty) s { s3 with me.ctl.pix := 0 }) ∧
    (∀ off : Nat → Nat, b.toNat < 56 → d.toNat < 56 → s.me.quota = none →
      let idx (k : Nat) : Int := (BitVec.ofNat n (field (s.v b.toNat) (n * k) n)).toInt
      let active (k : Nat) : Bool := p == 0 || (s.p p).getLsbD k
      (∀ k, i0 ≤ k → k < L → active k = true →
        s.g a + BitVec.ofInt 64 (idx k * (n / 8 : Nat)) = ownVa (off k) ∧ Readable s (off k) (n / 8)) →
      (Clear (.gath d a b p ty) s → ∃ t : State, exec (.gath d a b p ty) s = .next t ∧ t.me.ctl.pix = 0 ∧ Joined s t ∧
        t.me.loc = s.me.loc ∧ (∀ r, t.g r = s.g r) ∧ (∀ r, r ≠ d.toNat → t.v r = s.v r) ∧
        ∀ k, k < L → t.lane d n k = if i0 ≤ k ∧ active k = true then s.me.loc.bytes.readN (off k) (n / 8) else s.lane d n k) ∧
      (Clear (.scat d a b p ty) s → s.me.member = none → ∃ t : State, exec (.scat d a b p ty) s = .next t ∧ t.me.ctl.pix = 0 ∧
        t.dev = s.dev ∧ (∀ r, t.g r = s.g r) ∧ (∀ r, t.v r = s.v r) ∧
        t.me.loc = (List.range L).foldl (fun l k =>
          if i0 ≤ k ∧ active k = true then l.store (off k) (n / 8) (s.lane d n k) else l) s.me.loc))

/-- PREF never stops: where its address names no line that it may bring in, it only goes on; otherwise it brings the line into
the L1, shared or owned, in the class of its page, PREF.L2, and each under a MEMPOL that does not allocate in the L1, into the home
only (R31, R279), and changes no register and no local memory (R287). CLEAN writes every modified copy of its line back, which stays
clean, CINV drops the core's own copy, CLEAN.p makes a line of local memory
of the device zero and free of poison and of copies, and leaves the rest (R287), but faults on a quarantined channel (R106) and waits
for the budget of its router (R115); BPREF starts its engine operation, or does
nothing where its length is 0 or above 2^30 (R288). -/
def Obligations.CacheInstructions : Prop :=
  (∀ (s : State) (a : Reg) (i : Instr) (own l2 : Bool),
     ((i = .pref a ∧ own = false ∧ l2 = false) ∨ (i = .prefX a ∧ own = true ∧ l2 = false) ∨
       (i = .prefL2 a ∧ own = false ∧ l2 = true)) → Clear i s →
     let q := s.quietPlace s.issuer (s.g a) (own && !l2)
     let u := q.2
     let sid := u.me.ctl.sid
     let stays : Prop := l2 = true ∨ u.me.alloc ≠ 0
     (q.1 = none → Gives i s u) ∧
     (∀ pa key cls, q.1 = some (pa, key, cls) →
       let line := key / 128
       let dl := u.dev.dirLine line sid
       let held : Prop := dl.holds u.here 0xFFFF = true ∧ (own = true → ownedBy u.here 0xFFFF dl.segs = true)
       (∀ v, stays → cls ≠ .unc → u.intoHome line u.me.alloc = .ok v → Gives i s v) ∧
       (∀ v, cls = .unc → u.intoHome line (uncAlloc key u.me.alloc) = .ok v → Gives i s v) ∧
       (¬ stays → cls = .dir → held → Gives i s u) ∧
       (∀ v, ¬ stays → cls = .dir → ¬ held → u.askHome line 0xFFFF 128 false 0 = .ok v →
         (own = false → Gives i s (v.serveRead v.here sid line 0xFFFF false)) ∧
         (own = true → Gives i s (v.serveWrite v.here sid line 0xFFFF))) ∧
       (¬ stays → cls = .self → u.selfMiss (128 * line) 128 = 0 → Gives i s u) ∧
       (∀ v, ¬ stays → cls = .self → u.selfMiss (128 * line) 128 ≠ 0 → u.intoHome line 0 = .ok v →
         Gives i s (v.selfFill line))) ∧
     (∀ t, exec i s = .next t → (∀ r, t.g r = s.g r) ∧ (∀ r, t.v r = s.v r) ∧ (∀ r, t.p r = s.p r) ∧ t.me.loc = s.me.loc ∧
       t.me.ctl.tcause = s.me.ctl.tcause)) ∧
  (∀ (s : State) (d a b : Reg),
     (∀ pa key cls leaf s1 u, s.noPol.cachePlace (s.g a) = .ok (.phys pa key cls leaf, s1) → cls ≠ .unc →
       s1.askClean 0 = .ok u → Clear (.clean a) s →
       let line := key / 128
       let t := u.cleanLine line
       Gives (.clean a) s t ∧ (∀ k, ∀ w ∈ (t.coreAt k).l1, w.word / 16 = line → w.dirty = 0) ∧
       (∀ x ∈ t.dev.l2, x.line = line → x.dirty = 0) ∧ (∀ x ∈ t.dev.llc, x.line = line → x.dirty = 0) ∧
       (u.canonical → ∀ k, k / 128 ≠ line → ¬ Journal u k → t.dev.mem.read k = u.dev.mem.read k)) ∧
     (∀ pa key leaf s1, s.noPol.cachePlace (s.g a) = .ok (.phys pa key .dir leaf, s1) → Clear (.cinv a) s →
       let line := key / 128
       let own := s1.dev.dir.find? fun x => x.line == line && x.sid == s1.me.ctl.sid
       (own = none → Gives (.cinv a) s s1) ∧
       (∀ dl u, own = some dl →
         s1.askClean (maskBytes (dl.segs.foldl (fun m g => if g.owner = some s1.here then m ||| g.dirty else m) 0)) = .ok u →
         Gives (.cinv a) s ((u.tearUnread line 0xFFFF fun h => h == u.here).putDir (dl.drop u.here 0xFFFF)))) ∧
     (∀ pa key leaf s1 u, s.noPol.cachePlace (s.g a) = .ok (.phys pa key .self leaf, s1) → Clear (.cinv a) s →
       s1.askClean (8 * (s1.me.l1.filter fun w => w.word / 16 == key / 128 && w.dirty != 0).length) = .ok u →
       Gives (.cinv a) s (u.selfOut fun w => w.word / 16 == key / 128)) ∧
     (∀ pl s1, s.noPol.cachePlace (s.g a) = .ok (pl, s1) →
       (∀ pa key leaf, pl ≠ .phys pa key .dir leaf ∧ pl ≠ .phys pa key .self leaf) →
       (Clear (.clean a) s → Gives (.clean a) s s1) ∧ (Clear (.cinv a) s → Gives (.cinv a) s s1)) ∧
     (Clear (.cleanP a) s →
       let line := (s.g a).toNat / 128
       let bad := 2 ^ 38 ≤ (s.g a).toNat ∨ s.dev.badChannel (granuleOf (s.g a).toNat) = true
       (bad → exec (.cleanP a) s = .next (s.trapEntry 0x04 (s.g a) s.me.trapPc)) ∧
       (¬ bad → s.fits 0 = false → exec (.cleanP a) s = .next { s with me := { s.me with wait := some .budget } }) ∧
       (¬ bad → s.fits 0 = true → Unjournaled s → s.canonical → ∃ t : State, exec (.cleanP a) s = .next t ∧
         (∀ k, t.dev.mem.read k = if k / 128 = line then 0 else s.dev.mem.read k) ∧
         (∀ w, w ∈ t.dev.poison ↔ w ∈ s.dev.poison ∧ w / 16 ≠ line) ∧ (∀ x ∈ t.dev.dir, x.line ≠ line) ∧
         (∀ x ∈ t.dev.l2, x.line ≠ line) ∧ (∀ x ∈ t.dev.llc, x.line ≠ line) ∧
         (∀ k, ∀ w ∈ (t.coreAt k).l1, w.word / 16 ≠ line) ∧ (∀ r, t.g r = s.g r))) ∧
     (Clear (.bpref d a b) s →
       let n := (s.g b).toNat
       ((s.g d).toNat % 16 ≠ 0 → exec (.bpref d a b) s = .next (s.trapEntry 0x03 (s.g d) s.me.trapPc)) ∧
       ((s.g d).toNat % 16 = 0 → (n = 0 ∨ 2 ^ 30 < n) → exec (.bpref d a b) s = .next (s.retire .seq)) ∧
       ((s.g d).toNat % 16 = 0 → 0 < n → n ≤ 2 ^ 30 → ∃ t : State, exec (.bpref d a b) s = .next t ∧
         t.dev.bprefs = s.dev.bprefs ++ [⟨s.issuer, s.g a, n, s.g d, s.me.alloc, s.me.llcCode, []⟩] ∧ ∀ r, t.g r = s.g r)))


/-! ## Ordering, barriers, streams and copies (12, 16) -/

/-- FENCE and FENCE.SC (R360): the SELF bytes that the core has stored are written through and its copies are dropped; at cluster
scope or wider the fence first waits until UNACK is 0, and changes no register while it waits. MWAIT (R364): while the word at
g[a] equals g[b] it waits, with nothing written; once it differs the core acquires and g[d] receives it; a misaligned address
raises MISALIGN, another core's window ACCESS. -/
def Obligations.FencesAndMwait : Prop :=
  (∀ (s : State) (sc : Scope) (i : Instr), (i = .fence sc ∨ i = .fenceSc sc) → Clear i s →
     (sc = .core ∨ s.me.ctl.unack = 0 → Gives i s s.selfRelease.acquire ∧ s.selfRelease.acquire.me.l1 = [] ∧
       s.selfRelease.acquire.me.regs = s.me.regs) ∧
     (sc ≠ .core → s.me.ctl.unack ≠ 0 → ∃ t : State, exec i s = .next t ∧ t.me.wait = some .unack ∧ t.me.pc = s.me.pc ∧
       t.me.regs = s.me.regs ∧ t.me.ctl = s.me.ctl ∧ ∀ w ∈ t.me.l1, w.dirty = 0)) ∧
  (∀ (s : State) (d a b : Reg), Clear (.mwait d a b) s →
     ((s.g a).toNat % 8 ≠ 0 → exec (.mwait d a b) s = .next (s.trapEntry 0x03 (s.g a) s.me.trapPc)) ∧
     ((s.g a).toNat % 8 = 0 → s.farWindow (s.g a) = true →
       exec (.mwait d a b) s = .next (s.trapEntry 0x04 (s.g a) s.me.trapPc)) ∧
     (∀ pl s1 x s2, (s.g a).toNat % 8 = 0 → s.farWindow (s.g a) = false → s.noPol.place (s.g a) 8 .read false = .ok (pl, s1) →
       s1.readPlace pl (s.g a) 8 false = .ok (x, s2) →
       (w64 x ≠ s.g b → Gives (.mwait d a b) s (s2.acquire.setG d (w64 x))) ∧
       (w64 x = s.g b → ∃ (t : State) (tail : Bool), exec (.mwait d a b) s = .next t ∧ t.me.wait = some (.mwait tail) ∧
         t.me.pc = s2.me.pc ∧ t.me.regs = s2.me.regs ∧ (tail = true → ∃ off, pl = .table off ∧ off % 64 = 8))))

/-- BAR (R351): it releases; where its arrival completes the superstep of its domain, or the superstep in which it arrived has
ended, it acquires and g[d] receives the new count; otherwise it waits. A core of no instance is a domain of its own. -/
def Obligations.BarriersCountSupersteps : Prop :=
  ∀ (s : State) (d : Reg) (level : Level) (ck : Bool), Clear (.bar d level ck) s →
    let i := Instr.bar d level ck
    let passes (u : State) (c : W64) : Prop := ∃ t : State, exec i s = .next t ∧ (d ≠ 0 → t.g d = c) ∧
      (∀ r, r ≠ d → t.g r = u.g r) ∧ t.me.pc = (u.me.goOn .seq).pc ∧ t.me.wait = none
    (∀ s1, s.me.member = none → (∀ l c r, s.me.wait ≠ some (.bar l c r)) → s.release = .ok s1 →
      Gives i s (({ s1 with me := { s1.me with count0 := s1.me.count0 + 1 } } : State).acquire.setG d (s1.me.count0 + 1))) ∧
    (∀ m s1, s.me.member = some m → (∀ l c r, s.me.wait ≠ some (.bar l c r)) → s.release = .ok s1 →
      let c := s1.superstep s1.me.stave m level
      let u := (s1.arrive s1.me.stave m s1.me.lcore level ck).tryBarriers s1.me.stave m.job
      (u.superstep u.me.stave m level ≠ c → passes u (c + 1)) ∧
      (u.superstep u.me.stave m level = c → ∃ t : State, exec i s = .next t ∧ t.me.wait = some (.bar level c d) ∧ t.dev = u.dev)) ∧
    (∀ m c r, s.me.member = some m → s.me.wait = some (.bar level c r) →
      (s.superstep s.me.stave m level ≠ c → passes s (c + 1)) ∧
      (s.superstep s.me.stave m level = c → exec i s = .next s))

/-- SEND, SENDV and SEND.EOS (R341): a send that is not allowed raises ACCESS with its destination word; otherwise it releases
and one item, with g[b], v[b] or nothing in it, goes out for the stream's slot, to the core that the word names or to the
stage; it waits while four items of the core are not accepted. -/
def Obligations.SendsInjectItems : Prop :=
  ∀ (s : State) (a b : Reg) (i : Instr) (kind : NetKind),
    ((i = .send a b ∧ kind = .message) ∨ (i = .sendv a b ∧ kind = .message) ∨ (i = .sendEos a ∧ kind = .eos)) → Clear i s →
    (s.sendFor (s.g a) = none → exec i s = .next (s.trapEntry 0x04 (s.g a) s.me.trapPc)) ∧
    (∀ m r s1 s2 e, s.sendFor (s.g a) = some (m, r) → s.release = .ok s1 →
      ((i = .send a b ∧ e = (s.g b).setWidth 512 ∧ s2 = s1) ∨ (i = .sendv a b ∧ s1.vsrc b = .ok (e, s2)) ∨
        (i = .sendEos a ∧ e = 0 ∧ s2 = s1)) →
      (s2.inFlight < 4 → s2.fits 64 = true → s2.me.pair = none →
        Gives i s ((s2.charge 64).injectMessage (s.g a) m r kind e) ∧
        ((s.g a).getLsbD 15 = true → ∃ x : NetItem, ((s2.charge 64).injectMessage (s.g a) m r kind e).dev.net = s2.dev.net ++ [x] ∧
          x.kind = kind ∧ x.data = e ∧ x.dst.toNat = field (s.g a) 16 13 ∧ x.stream.toNat = field (s.g a) 0 12 ∧
          x.src = s2.me.lcore ∧ x.srcTag = s2.me.ctl.ctxtag ∧ x.slot.toNat = streamSlot r % 16)) ∧
      (4 ≤ s2.inFlight → ∃ t : State, exec i s = .next t ∧ t.me.wait = some .inject ∧ t.me.queues = s.me.queues ∧
        t.me.slots = s.me.slots))

/-- STBIND, STDROP and WAITEOS (R345 to R347) on slot g[a] mod 16: STBIND answers 0, 1 (BAD) or 2 (BUSY) and binds, or unbinds,
only with 0 (that an unbinding leaves head, tail and eos is the model's reading: log 57, DEDUCED); STDROP consumes the lesser of g[b] mod 2^32
and what the slot holds, of a queue as an irreversible action (R430); WAITEOS waits for the count of ends and then
gives the tail. -/
def Obligations.StreamSlotsAreManaged : Prop :=
  ∀ (s : State) (d a b : Reg),
    let n := (s.g a).toNat % 16
    let t := s.me.slot n
    let bound := t.bind.getLsbD 0 = true
    let busy := bound ∧ t.tail ≠ t.head
    let bad := badBind s.me n ((s.job?.map fun j => j.streams.length).getD 0) (s.g b) = true
    let want := (s.g b).toNat % 2 ^ 32
    (Clear (.stbind d a b) s →
      ((s.g b).getLsbD 0 = true → bad → Gives (.stbind d a b) s (s.setG d 1)) ∧
      (busy → ((s.g b).getLsbD 0 = true → ¬ bad) → Gives (.stbind d a b) s (s.setG d 2)) ∧
      (¬ busy → (s.g b).getLsbD 0 = true → ¬ bad → ∃ u : State, Gives (.stbind d a b) s (u.setG d 0) ∧
        u.me.slot n = ⟨s.g b, 0, 0, 0⟩ ∧ (∀ k, k < 16 → k ≠ n → u.me.slot k = s.me.slot k) ∧ u.me.regs = s.me.regs ∧ u.dev = s.dev) ∧
      (¬ busy → (s.g b).getLsbD 0 = false → ∃ u : State, Gives (.stbind d a b) s (u.setG d 0) ∧
        u.me.slot n = { t with bind := 0 } ∧ (∀ k, k < 16 → k ≠ n → u.me.slot k = s.me.slot k) ∧ u.me.regs = s.me.regs ∧
        u.dev = s.dev)) ∧
    (Clear (.stdrop d a b) s →
      (¬ bound → Gives (.stdrop d a b) s (s.setG d 0)) ∧
      (bound → ∃ (u : State) (k : Nat), Gives (.stdrop d a b) s (u.setG d (w64 k)) ∧
        (t.bind.getLsbD 1 = false → k = min want (t.tail - t.head).toNat ∧ u.me.queues = s.me.queues) ∧
        (t.bind.getLsbD 1 = true → k = min want (s.me.queue (field t.bind 2 3)).length ∧
          u.me.queue (field t.bind 2 3) = (s.me.queue (field t.bind 2 3)).drop k) ∧
        u.me.slot n = { t with head := t.head + BitVec.ofNat 32 k } ∧ u.me.regs = s.me.regs ∧
        u.dev = (if t.bind.getLsbD 1 = true ∧ k ≠ 0 then s.irreversible.dev else s.dev))) ∧
    (Clear (.waiteos d a b) s →
      (want ≤ t.eos.toNat → Gives (.waiteos d a b) s (s.acquire.setG d (zext t.tail))) ∧
      (t.eos.toNat < want → exec (.waiteos d a b) s = .next { s with me := { s.me with wait := some .eos } }))

/-- The COPY instructions (R293, R300, R303, R304): XTPL keeps a valid template and answers 0, or 1 with the slot unchanged;
FESET marks lines of local memory and changes no data; SWINIT makes count and status 0 and gives the generation, which it
keeps; SWAIT waits while the generation is g[b] and then gives the status. -/
def Obligations.CopyInstructionsPrepareAndWait : Prop :=
  ∀ (s : State) (d a b : Reg),
    (∀ x s1, (s.g a).toNat % 64 = 0 → s.noPol.load (s.g a) 64 = .ok (x, s1) → Clear (.xtpl d a b) s →
      ((tmplOf (BitVec.ofNat 512 x)).valid = false → Gives (.xtpl d a b) s (s1.setG d 1)) ∧
      ((tmplOf (BitVec.ofNat 512 x)).valid = true → ∃ u : State, Gives (.xtpl d a b) s (u.setG d 0) ∧ u.me.regs = s1.me.regs ∧
        u.dev = s1.dev ∧ ∀ k (h : k < 64), u.me.templates[k] =
          if k = field (s.g b) 0 6 then some (BitVec.ofNat 512 x) else s1.me.templates[k])) ∧
    ((s.g a).toNat % 64 ≠ 0 → Clear (.xtpl d a b) s →
      exec (.xtpl d a b) s = .next (s.trapEntry 0x03 (s.g a) s.me.trapPc)) ∧
    (∀ (i : Instr) (full : Bool), ((i = .fesetE a b ∧ full = false) ∨ (i = .fesetF a b ∧ full = true)) → Clear i s →
      let off := (s.g a).toNat
      let n := (s.g b).toNat
      (off % 128 ≠ 0 → exec i s = .next (s.trapEntry 0x03 (s.g a) s.me.trapPc)) ∧
      (off % 128 = 0 → (n = 0 ∨ 1536 < n ∨ 0x30000 < off + 128 * n) →
        exec i s = .next (s.trapEntry 0x06 (s.g a) s.me.trapPc)) ∧
      (off % 128 = 0 → 0 < n → n ≤ 1536 → off + 128 * n ≤ 0x30000 → ∃ u : State, Gives i s u ∧
        u.me.loc.bytes = s.me.loc.bytes ∧ u.me.loc.poison = s.me.loc.poison ∧ u.me.regs = s.me.regs ∧ u.dev = s.dev ∧
        ∀ l, l ∈ u.me.loc.empty ↔ if off / 128 ≤ l ∧ l < off / 128 + n then full = false else l ∈ s.me.loc.empty)) ∧
    (∀ pl s1 x s2, (s.g a).toNat % 16 = 0 → s.noPol.place (s.g a) 16 .write false = .ok (pl, s1) → Clear (.swinit d a b) s →
      s1.atomicAt pl (s.g a) 16 10 (field (s.g b) 0 32)
        (fun y => some (field (s.g b) 0 32 + 2 ^ 64 * (y / 2 ^ 64 % 2 ^ 32))) = .ok (x, s2) →
      Gives (.swinit d a b) s (s2.setG d (w64 (x / 2 ^ 64 % 2 ^ 32)))) ∧
    (∀ pl s1 x s2, (s.g a).toNat % 16 = 0 → s.noPol.place (s.g a) 16 .read false = .ok (pl, s1) → Clear (.swait d a b) s →
      s1.readPlace pl (s.g a) 16 false = .ok (x, s2) →
      (x / 2 ^ 64 % 2 ^ 32 ≠ (s.g b).toNat % 2 ^ 32 →
        Gives (.swait d a b) s (s2.acquire.setG d (w64 (x / 2 ^ 96)))) ∧
      (x / 2 ^ 64 % 2 ^ 32 = (s.g b).toNat % 2 ^ 32 → ∃ t : State, exec (.swait d a b) s = .next t ∧ t.me.wait = some .swait ∧
        t.me.pc = s2.acquire.me.pc ∧ t.me.regs = s2.acquire.me.regs)) ∧
    ((s.g a).toNat % 16 ≠ 0 →
      (Clear (.swinit d a b) s → exec (.swinit d a b) s = .next (s.trapEntry 0x03 (s.g a) s.me.trapPc)) ∧
      (Clear (.swait d a b) s → exec (.swait d a b) s = .next (s.trapEntry 0x03 (s.g a) s.me.trapPc)))

/-! ## World memory and the duplicator (14, 17) -/

/-- What an evaluation of a load answers (Table 3 of 14, R320 to R322): a state at the time itself gives code 0 with its record, a
time before the oldest 4, an empty key 5, a time between two states 1, a time up to the limit after the newest 2; a later one is
blocked where it is at most the horizon, and answers 3 beyond it. The answer counts the states of the key. Codes 1 and 2 give, in mode
STEP, the state before the time, and otherwise the elements on the line through the two states around it, or through the newest two
(R321); a key's only state answers code 2 as it stands. -/
def Obligations.WorldLoadsFollowTheTable : Prop :=
  ∀ (r : Region) (v : Dev) (k : Nat) (t : Int) (limit : Nat), r.poisonAt v k 0 128 = none →
    let l := r.states v k
    let answers (code : Nat) : Prop := ∃ a, r.eval v k t limit = .answer a ∧ a.code.toNat = code ∧ a.count.toNat = l.length % 32
    let gives (x : BitVec 1024) : Prop := ∃ a, r.eval v k t limit = .answer a ∧ a.data = x
    let stored (x : Int × Nat) : BitVec 1024 := BitVec.ofNat 1024 (r.record v k x.2)
    -- element e of a record, and the record on the line through two states
    let at' (x : Int × Nat) (e : Nat) : Nat := r.record v k x.2 / 2 ^ (32 * e) % 2 ^ 32
    let line (a b : Int × Nat) : BitVec 1024 := BitVec.ofNat 1024 ((List.range (r.recBytes / 4)).foldl (fun z e =>
      z + 2 ^ (32 * e) * (fmt32.fma .rne (weight a.1 t b.1) (fmt32.sub .rne (at' b e) (at' a e)).bits (at' a e)).bits) 0)
    weight 0 1 3 = 0x3EAAAAAB ∧
    (l = [] → answers 5) ∧
    (∀ old new, l.head? = some old → l.getLast? = some new →
      (t < old.1 → answers 4) ∧
      (old.1 ≤ t → (∃ x ∈ l, x.1 = t) → answers 0 ∧
        ∀ x a, (∀ y ∈ l, y.1 = t → y = x) → x ∈ l → x.1 = t → r.eval v k t limit = .answer a →
          a.data = BitVec.ofNat 1024 (r.record v k x.2)) ∧
      (old.1 ≤ t → t < new.1 → (∀ x ∈ l, x.1 ≠ t) → answers 1) ∧
      (old.1 ≤ t → new.1 < t → (∀ x ∈ l, x.1 ≠ t) →
        (t ≤ new.1 + limit → answers 2) ∧
        (new.1 + limit < t → t ≤ r.horizon.toInt → r.eval v k t limit = .blocked) ∧
        (new.1 + limit < t → r.horizon.toInt < t → answers 3))) ∧
    (∀ pre post a b, l = pre ++ a :: b :: post → a.1 < t → t < b.1 → gives (if r.step = true then stored a else line a b)) ∧
    (∀ pre a b, l = pre ++ [a, b] → b.1 < t → t ≤ b.1 + limit → gives (if r.step = true then stored b else line a b)) ∧
    (∀ b, l = [b] → b.1 < t → t ≤ b.1 + limit → gives (stored b))

/-- The device after a store of v[2d] and v[2d + 1], and of a time, in a slot of a key. -/
def Sys2Proof.Claims.worldPut (s : State) (r : Region) (k slot : Nat) (dv : BitVec 5) (t : W64) : Dev :=
  (s.dev.poke (r.at (r.block k + 128 + slot * r.recBytes)) r.recBytes
    ((s.v (2 * dv.toNat)).toNat + 2 ^ 512 * (s.v (2 * dv.toNat + 1)).toNat)).poke (r.at (r.block k + 8 * slot)) 8 t.toNat

/-- The WORLD instructions (R313, R317, R319, R320, R323, R324, R327, R329, R330). WREG answers 0 and binds, or 1 to 3. WST stores
a later state, and otherwise only says so in WSTAT (code 7); a checked pair compares it as a store, and its member 1 receives the
WSTAT of member 0 (R416, log 105). WLD and WLD.t write the record and WSTAT, or WSTAT alone, where
WLD.t raises WORLD_REFUSED with the handle. WHZN and WRETAIN raise their value or answer 1 or 2; WSEED sets the SID's seed;
WSTAT gives the newest time and the count. A handle that names nothing raises ACCESS. -/
def Obligations.WorldInstructionsAnswer : Prop :=
  ∀ (s : State) (d a b : Reg) (dv : BitVec 5),
    (∀ (lim : BitVec 7) (i : Instr), i ∈ [Instr.wst dv a b, .wstat d a, .wld dv a b lim, .wldT dv a b lim] → Clear i s →
      s.worldKey (s.g a) = none → exec i s = .next (s.trapEntry 0x04 (s.g a) s.me.trapPc)) ∧
    (∀ i ∈ [Instr.whzn d a b, .wretain d a b], Clear i s → s.worldRegion (s.g a) = none →
      exec i s = .next (s.trapEntry 0x04 (s.g a) s.me.trapPc)) ∧
    (Clear (.wreg d a b) s → (s.g b).toNat % 64 = 0 →
      ((s.job? = none ∨ 63 < (s.g a).toNat) → Gives (.wreg d a b) s (s.setG d 3)) ∧
      (∀ x s1 s2 fs, s.job?.isSome = true → s.me.member.isSome = true → (s.g a).toNat ≤ 63 → s.noPol.load (s.g b) 64 = .ok (x, s1) →
        let desc := BitVec.ofNat 512 x
        (descValid desc = false → Gives (.wreg d a b) s (s1.setG d 3)) ∧
        (descValid desc = true → s1.regionPages (field desc 0 64 / 4096 * 4096)
            ((field desc 0 64 % 4096 + field desc 256 64 + 4095) / 4096) (some []) = .ok (fs, s2) →
          (fs = none → Gives (.wreg d a b) s (s2.setG d 3)) ∧
          (∀ l j, fs = some l → s2.job? = some j →
            (∀ r, j.region? (BitVec.ofNat 6 (s.g a).toNat) = some r →
              Gives (.wreg d a b) s (s2.setG d (if r.addr = s.g b then 1 else 2))) ∧
            (j.region? (BitVec.ofNat 6 (s.g a).toNat) = none → desc.getLsbD 192 = false → ∃ u : State,
              Gives (.wreg d a b) s (u.setG d 0) ∧ ∃ r, u.job?.bind (fun j => j.region? (BitVec.ofNat 6 (s.g a).toNat)) = some r ∧
                r.addr = s.g b ∧ r.desc = desc ∧ r.frames = l ∧ r.horizon.toNat = field desc 128 64 ∧
                r.marks = List.replicate (field desc 120 8) 0x8000000000000000))))) ∧
    (∀ r k s0 s1, s.worldKey (s.g a) = some (r, k) → s.irreversible.release = .ok s0 → s0.askKey r.recBytes = .ok s1 →
      r.poisonAt s1.dev k 0 128 = none → s.me.pair = none → Clear (.wst dv a b) s →
      let t := s0.g b
      let l := r.states s1.dev k
      (t = 0x8000000000000000 ∨ (∃ x ∈ l.getLast?, t.toInt ≤ x.1) →
        Gives (.wst dv a b) s { s1 with me.ctl.wstat := w64 (7 + 256 * l.length) }) ∧
      (t ≠ 0x8000000000000000 → (∀ x ∈ l.getLast?, x.1 < t.toInt) → l.length = r.retained → r.mayEvict l = false →
        ∃ u : State, exec (.wst dv a b) s = .next u ∧ (∃ w, u.me.wait = some (.world w) ∧ w.handle = s.g a) ∧ u.dev = s1.dev) ∧
      (t ≠ 0x8000000000000000 → (∀ x ∈ l.getLast?, x.1 < t.toInt) → (l.length ≠ r.retained ∨ r.mayEvict l = true) →
        ∃ (u : State) (slot : Nat), exec (.wst dv a b) s = .next u ∧
          (l.length = r.retained → slot = (l.headD (0, 0)).2) ∧
          (∀ i, i < r.retained → r.time s1.dev k i = 0x8000000000000000 → l.length ≠ r.retained →
            slot ≤ i ∧ r.time s1.dev k slot = 0x8000000000000000) ∧
          u.dev.mem = (worldPut s1 r k slot dv t).mem ∧ u.dev.poison = (worldPut s1 r k slot dv t).poison ∧
          u.me.ctl.wstat = w64 (6 + 256 * (if l.length = r.retained then l.length else l.length + 1)))) ∧
    (∀ r k s1 q, s.worldKey (s.g a) = some (r, k) → s.irreversible.release = .ok s1 → s.me.pair = some q → Clear (.wst dv a b) s →
      let x := ((s1.v (2 * dv.toNat)).toNat + 2 ^ 512 * (s1.v (2 * dv.toNat + 1)).toNat) % 256 ^ r.recBytes
      let op (w : W64) : PairOp := ⟨0, s.g a, r.recBytes, (s1.g b).toNat + 2 ^ 64 * x, w⟩
      (s1.shadowed = false → ∀ s3 w s2, s1.askKey r.recBytes = .ok s3 → s3.worldStore (s.g a) (s1.g b) r k x = .ok (w, s2) →
        s2.me.pair = some q →
        Gives (.wst dv a b) s (s2.pairNote (op w))) ∧
      (s1.shadowed = true → ∀ y rest, (s1.coreAt q).pairOps = y :: rest →
        Gives (.wst dv a b) s { s1.pairNote (op 0) with me.ctl.wstat := y.result }) ∧
      (s1.shadowed = true → (s1.coreAt q).pairOps = [] → ∃ u : State, exec (.wst dv a b) s = .next u ∧
        u.me.wait = some .pair ∧ u.me.regs = s1.me.regs ∧ u.dev = s1.dev)) ∧
    (∀ (lim : BitVec 7) (tt : Bool) r k x, s.worldKey (s.g a) = some (r, k) → (∀ w, s.me.wait ≠ some (.world w)) →
      let i := if tt then Instr.wldT dv a b lim else .wld dv a b lim
      let s1 := s.charge r.recBytes
      Clear i s → s.fits r.recBytes = true → r.eval s1.dev k (s.g b).toInt (if lim = 127 then field s.me.ctl.wlimit 0 63 else lim.toNat) = .answer x →
      x.poison = none →
      (x.code.toNat ≤ 2 →
        let u := s1.acquire.setV (2 * dv.toNat) (x.data.setWidth 512)
        let u := if r.recBytes = 128 then u.setV (2 * dv.toNat + 1) (x.data.extractLsb' 512 512) else u
        ∃ t : State, exec i s = .next t ∧ t.me.ctl.wstat = w64 (x.code.toNat + 256 * x.count.toNat) ∧ (∀ n, t.v n = u.v n) ∧
          (∀ n, t.g n = s.g n)) ∧
      (2 < x.code.toNat → tt = false →
        Gives i s { s1 with me.ctl.wstat := w64 (x.code.toNat + 256 * x.count.toNat) }) ∧
      (2 < x.code.toNat → tt = true → ∃ t : State, exec i s = .next t ∧ t.me.ctl.tcause = 0x0B ∧ t.me.ctl.tval = s.g a ∧
        t.me.ctl.wstat = w64 (x.code.toNat + 256 * x.count.toNat) ∧ t.me.regs = s.me.regs)) ∧
    (∀ r, s.worldRegion (s.g a) = some r →
      (Clear (.whzn d a b) s →
        ((s.g b).toInt < r.horizon.toInt → Gives (.whzn d a b) s (s.irreversible.setG d 1)) ∧
        (r.horizon.toInt ≤ (s.g b).toInt →
          Gives (.whzn d a b) s ((s.irreversible.onRegion r.num fun r => { r with horizon := s.g b }).setG d 0))) ∧
      (Clear (.wretain d a b) s →
        let n := (s.g a).toNat % 2 ^ 32
        (r.readers ≤ n → Gives (.wretain d a b) s (s.irreversible.setG d 2)) ∧
        (n < r.readers → (s.g b).toInt < (listGet 0x8000000000000000 r.marks n).toInt →
          Gives (.wretain d a b) s (s.irreversible.setG d 1)) ∧
        (n < r.readers → (listGet 0x8000000000000000 r.marks n).toInt ≤ (s.g b).toInt →
          Gives (.wretain d a b) s
            ((s.irreversible.onRegion r.num fun r => { r with marks := listSet r.marks n (s.g b) }).setG d 0)))) ∧
    (Clear (.wseed a) s → ∃ t : State, exec (.wseed a) s = .next t ∧
      (∀ y ∈ t.stave.seeds, y.1 = s.me.ctl.sid → y.2 = s.g a) ∧ (s.g a ≠ 0 → (s.me.ctl.sid, s.g a) ∈ t.stave.seeds) ∧
      (∀ y, y.1 ≠ s.me.ctl.sid → (y ∈ t.stave.seeds ↔ y ∈ s.stave.seeds)) ∧ (∀ r, t.g r = s.g r)) ∧
    (∀ r k s1, s.worldKey (s.g a) = some (r, k) → s.askKey 8 = .ok s1 → r.poisonAt s1.dev k 0 128 = none → Clear (.wstat d a) s →
      let l := r.states s1.dev k
      (l = [] → Gives (.wstat d a) s (({ s1 with me.ctl.wstat := 5 } : State).setG d 0x8000000000000000)) ∧
      (∀ x, l.getLast? = some x → Gives (.wstat d a) s
        (({ s1 with me.ctl.wstat := w64 (8 + 256 * l.length) } : State).setG d (BitVec.ofInt 64 x.1))))

namespace Sys2Proof.Claims

/-- Table 6 of 17: what the four functions make of a pattern's state; none where the function is not allowed (4). -/
def patNext : Nat → PatState → Option PatState
  | 0, _ => some .armed
  | 1, .off => none
  | 1, .armed => some .armed
  | 1, .record => some .record
  | 1, .play => some .play
  | 1, _ => some .cued
  | 2, .off => some .off
  | 2, .armed => some .off
  | 2, .record => some .off
  | 2, _ => some .paused
  | _, _ => some .off

end Sys2Proof.Claims

/-- The functions on patterns (R383, R384): 5 outside a job, 3 for a reserved selector, 2 for a pattern of another domain, 1 for
the same change twice in a superstep, 4 where Table 6 of 17 allows none, else 0 with the state that the table gives; only with
0 does the pattern change. PATSTAT gives the fields of Table 7 of 17, or all ones. -/
def Obligations.PatternsChangeByTheTable : Prop :=
  ∀ (s : State) (d a : Reg), d ≠ 0 →
    let sel := s.g a
    let legal := (s.g a).toNat < 64
    (∀ (i : Instr) (f : Nat),
      ((i = .patrec d a ∧ f = 0) ∨ (i = .patplay d a ∧ f = 1) ∨ (i = .patoff d a ∧ f = 2) ∨ (i = .patdrop d a ∧ f = 3)) →
      Clear i s →
      (legal → (s.me.member = none ∨ s.job? = none) → Gives i s (s.setG d 5)) ∧
      (¬ legal → Gives i s (s.setG d 3)) ∧
      (∀ m j, legal → s.me.member = some m → s.job? = some j →
        let n := field sel 0 4
        let p := s.patOf s.me.stave m.job n
        let level : Level := if f = 0 then sel.extractLsb' 4 2 else p.level
        let same := p.level = level ∧ p.holds m = true
        let twice := (f = 0 ∨ f = 1) ∧ p.last = some (f, s.superstep s.me.stave m level)
        (f = 0 → level = 0 → Gives i s (s.setG d 3)) ∧
        ((f = 0 → level ≠ 0) → p.st ≠ .off → ¬ same → Gives i s (s.setG d 2)) ∧
        ((f = 0 → level ≠ 0) → (p.st ≠ .off → same) → twice → Gives i s (s.setG d 1)) ∧
        ((f = 0 → level ≠ 0) → (p.st ≠ .off → same) → ¬ twice →
          (patNext f p.st = none → Gives i s (s.setG d 4)) ∧
          (∀ q, patNext f p.st = some q → ∃ t : State, exec i s = .next t ∧ t.g d = 0 ∧ (∀ r, r ≠ d → t.g r = s.g r) ∧
            (t.patOf s.me.stave m.job n).st = q ∧ t.dev.mem = s.dev.mem)))) ∧
    (Clear (.patstat d a) s →
      ((¬ legal ∨ s.me.member = none ∨ s.job? = none) → Gives (.patstat d a) s (s.setG d (-1))) ∧
      (∀ m j, legal → s.me.member = some m → s.job? = some j →
        let p := s.patOf s.me.stave m.job (field sel 0 4)
        ∃ x, Gives (.patstat d a) s (s.setG d x) ∧ field x 0 3 = PatState.code p.st ∧ x.getLsbD 3 = p.auto ∧ x.getLsbD 4 = p.ovf ∧
          field x 5 3 = 0 ∧ field x 8 8 = p.tears % 256 ∧ field x 16 16 = min p.entries.length 65535 ∧
          field x 32 16 = min p.played 65535 ∧ field x 48 2 = (if p.st = .off then 0 else p.level.toNat) ∧ field x 50 14 = 0))

/-! ## Vector and predicate instructions (08, 09) -/

namespace Sys2Proof.Claims

/-- An integer modulo 2^n, where the type is an integer type; otherwise the float operation (R208, R209). -/
def byType (ty : ElemTy) (fp : FpFmt → FpRes) (int : Int) : FpRes :=
  match ElemTy.fmt? ty with
  | some f => fp f
  | none => ⟨(int % 2 ^ ElemTy.width ty).toNat, 0⟩

/-- An elementwise instruction: its type, its registers, and the result of one element from the mode, the elements of a and b and
the old one of d (R209 to R214). Floats are the formats' operations of 08; a float type has no flag that its operation does not
raise. -/
def elemRule : Instr → Option (ElemTy × Reg × Reg × Option Reg × PReg × (RMode → Nat → Nat → Nat → FpRes))
  | .vadd d a b p ty _ => some (ty, d, a, some b, p, fun m x y _ => byType ty (fun f => f.add m x y) (x + y))
  | .vsub d a b p ty _ => some (ty, d, a, some b, p, fun m x y _ => byType ty (fun f => f.sub m x y) (x - y))
  | .vmul d a b p ty _ => some (ty, d, a, some b, p, fun m x y _ => byType ty (fun f => f.mul m x y) (x * y))
  | .vfma d a b p ty _ => some (ty, d, a, some b, p, fun m x y z => byType ty (fun f => f.fma m x y z) (x * y + z))
  | .vfnma d a b p ty _ => some (ty, d, a, some b, p, fun m x y z => byType ty (fun f => f.fnma m x y z) (z - x * y))
  | .vdiv d a b p ty _ => some (ty, d, a, some b, p, fun m x y _ => byType ty (fun f => f.div m x y) 0)
  | .vmin d a b p ty _ => some (ty, d, a, some b, p, fun _ x y _ =>
      let n := ElemTy.width ty
      match ElemTy.fmt? ty with
      | some f => f.min x y
      | none => ⟨if twos n y < twos n x then y else x, 0⟩)
  | .vmax d a b p ty _ => some (ty, d, a, some b, p, fun _ x y _ =>
      let n := ElemTy.width ty
      match ElemTy.fmt? ty with
      | some f => f.max x y
      | none => ⟨if twos n x < twos n y then y else x, 0⟩)
  | .vcpys d a b p ty _ => some (ty, d, a, some b, p, fun _ x y _ =>
      let h := 2 ^ (ElemTy.width ty - 1)
      ⟨x % h + y / h * h, 0⟩)
  | .vand d a b p ty _ => some (ty, d, a, some b, p, fun _ x y _ => ⟨x &&& y, 0⟩)
  | .vor d a b p ty _ => some (ty, d, a, some b, p, fun _ x y _ => ⟨x ||| y, 0⟩)
  | .vxor d a b p ty _ => some (ty, d, a, some b, p, fun _ x y _ => ⟨x ^^^ y, 0⟩)
  | .vshl d a b p ty _ => some (ty, d, a, some b, p, fun _ x y _ =>
      let n := ElemTy.width ty
      ⟨if y < n then x * 2 ^ y % 2 ^ n else 0, 0⟩)
  | .vshr d a b p ty _ => some (ty, d, a, some b, p, fun _ x y _ => ⟨if y < ElemTy.width ty then x / 2 ^ y else 0, 0⟩)
  | .vsar d a b p ty _ => some (ty, d, a, some b, p, fun _ x y _ =>
      let n := ElemTy.width ty
      ⟨if y < n then (twos n x / 2 ^ y % 2 ^ n).toNat else if twos n x < 0 then 2 ^ n - 1 else 0, 0⟩)
  | .vabs d a p ty _ => some (ty, d, a, none, p, fun _ x _ _ =>
      let n := ElemTy.width ty
      ⟨if (ElemTy.fmt? ty).isSome then x % 2 ^ (n - 1) else (twos n x).natAbs % 2 ^ n, 0⟩)
  | .vneg d a p ty _ => some (ty, d, a, none, p, fun _ x _ _ =>
      let n := ElemTy.width ty
      ⟨if (ElemTy.fmt? ty).isSome then x ^^^ 2 ^ (n - 1) else (-twos n x % 2 ^ n).toNat, 0⟩)
  | .vnot d a p ty _ => some (ty, d, a, none, p, fun _ x _ _ => ⟨2 ^ ElemTy.width ty - 1 - x, 0⟩)
  | .vsqrt d a p ty _ => some (ty, d, a, none, p, fun m x _ _ => byType ty (fun f => f.sqrt m x) 0)
  | .vrcp d a p ty _ => some (ty, d, a, none, p, fun m x _ _ => byType ty (fun f => f.rcp m x) 0)
  | .vrsq d a p ty _ => some (ty, d, a, none, p, fun _ x _ _ => byType ty (fun f => f.rsq x) 0)
  | .vexp2 d a p ty _ => some (ty, d, a, none, p, fun _ x _ _ => byType ty (fun f => f.exp2 x) 0)
  | .vlog2 d a p ty _ => some (ty, d, a, none, p, fun _ x _ _ => byType ty (fun f => f.log2 x) 0)
  | .vsinpi d a p ty _ => some (ty, d, a, none, p, fun _ x _ _ => byType ty (fun f => f.sinpi x) 0)
  | .vcospi d a p ty _ => some (ty, d, a, none, p, fun _ x _ _ => byType ty (fun f => f.cospi x) 0)
  | .vtanh d a p ty _ => some (ty, d, a, none, p, fun _ x _ _ => byType ty (fun f => f.tanh x) 0)
  | _ => none

/-- Element k is active (R19, R205). -/
def active (s : State) (p : PReg) (k : Nat) : Bool := p == 0 || (s.p p).getLsbD k

/-- Element k of width n of a register's contents. -/
def elem (n : Nat) (x : V512) (k : Nat) : Nat := x.toNat / 2 ^ (n * k) % 2 ^ n

/-- What a vector instruction changes of the core beside its destination: nothing but what its queue operands did (s2), FPCTL,
PIX, and what going on does. -/
def OnlyFiles (s2 t : State) (ds : List Nat) : Prop :=
  (∀ r, r ∉ ds → t.v r = s2.v r) ∧ (∀ r, t.g r = s2.g r) ∧ (∀ r, t.p r = s2.p r) ∧
    (∀ z, t.z z = s2.z z ∧ t.zver z = s2.zver z) ∧ t.me.loc = s2.me.loc

/-- The same, and nothing of the device. -/
def OnlyVector (s2 t : State) (ds : List Nat) : Prop := OnlyFiles s2 t ds ∧ t.dev = s2.dev

/-- The flags of FPCTL after an instruction whose active elements, the k with hit k, raised f k (R190): each is ORed with those
of the elements, and no other bit changes. -/
def FlagsAfter (s t : State) (L : Nat) (hit : Nat → Bool) (f : Nat → Nat) : Prop :=
  ∀ j, t.me.ctl.fpctl.getLsbD j =
    (s.me.ctl.fpctl.getLsbD j ||
      (decide (4 ≤ j ∧ j < 9) && (List.range L).any fun k => hit k && (f k).testBit (j - 4)))

end Sys2Proof.Claims

/-- Elementwise instructions (R203 to R214): each active element of d becomes the result of its own elements, each inactive one
stays; exceptions of the active elements are ORed into FPCTL, unless one of them is enabled: then FPEXC is raised, and no
register and no operand queue has changed (R190). Either source may be an operand queue (R20). -/
def Obligations.ElementwiseResults : Prop :=
  ∀ (i : Instr) (s s1 s2 : State) (ty : ElemTy) (d a : Reg) (b : Option Reg) (p : PReg) (f : RMode → Nat → Nat → Nat → FpRes)
    (x y : V512), elemRule i = some (ty, d, a, b, p, f) → i.wf = true → Clear i s → s.vsrc a = .ok (x, s1) →
    (b = none → s2 = s1 ∧ y = 0) → (∀ r, b = some r → s1.vsrc r = .ok (y, s2)) →
    let n := ElemTy.width ty
    let L := 512 / n
    let r (k : Nat) : FpRes := f s.me.rounding (elem n x k) (elem n y k) (elem n (s.v d.toNat) k)
    ((∀ k, k < L → active s p k = true → (r k).flags &&& s.me.fpEnabled = 0) → ∃ t : State, exec i s = .next t ∧
      (∀ k, k < L → elem n (t.v d.toNat) k = if active s p k then (r k).bits % 2 ^ n else elem n (s.v d.toNat) k) ∧
      FlagsAfter s t L (active s p) (fun k => (r k).flags) ∧ OnlyVector s2 t [d.toNat]) ∧
    ((∃ k, k < L ∧ active s p k = true ∧ (r k).flags &&& s.me.fpEnabled ≠ 0) → ∃ t : State, exec i s = .next t ∧
      t.me.ctl.tcause = 0x09 ∧ t.me.regs = s.me.regs ∧ t.me.ctl.fpctl = s.me.ctl.fpctl ∧ t.me.queues = s.me.queues ∧
      t.me.slots = s.me.slots ∧
      (∀ k, k < L → active s p k = true → (r k).flags &&& s.me.fpEnabled ≠ 0 →
        (∀ k', k' < k → active s p k' = true → (r k').flags &&& s.me.fpEnabled = 0) →
        t.me.ctl.tval = w64 ((List.range L).foldl (fun z e => if active s p e then z ||| (r e).flags else z) 0 + 256 * k)))

/-- VCMP writes every bit of its predicate: the condition for active elements, 0 elsewhere (R215, Table 5 of 09); VSEL every
element of d: that of a where the predicate is set, that of b elsewhere (R216). VCVT converts the elements that part selects
between types of unlike widths, under the destination's predicate, and leaves the others (R217, R218); an integer out of an
integer type's range becomes the nearer end. -/
def Obligations.ComparesAndConversions : Prop :=
  ((∀ (s s1 s2 : State) (c : VCond) (d : PReg) (a b : Reg) (p : PReg) (ty : ElemTy) (h : Bool) (x y : V512),
     let i := Instr.vcmp c d a b p ty h
     i.wf = true → Clear i s → s.vsrc a = .ok (x, s1) → s1.vsrc b = .ok (y, s2) →
     let n := ElemTy.width ty
     let L := 512 / n
     let u (k : Nat) := elem n x k
     let w (k : Nat) := elem n y k
     let holds (k : Nat) : Bool := match ElemTy.fmt? ty with
       | some f =>
         let nan := f.isNan (u k) || f.isNan (w k)
         match c with
         | .eq => !nan && f.eq (u k) (w k)
         | .ne => nan || !f.eq (u k) (w k)
         | .lt => !nan && f.lt (u k) (w k)
         | .le => !nan && (f.lt (u k) (w k) || f.eq (u k) (w k))
         | .un => nan
         | .ltc | .lec => false
       | none =>
         match c with
         | .eq => decide (u k = w k)
         | .ne => decide (u k ≠ w k)
         | .lt => decide (twos n (u k) < twos n (w k))
         | .le => decide (twos n (u k) ≤ twos n (w k))
         | .ltc => decide (u k < w k)
         | .lec => decide (u k ≤ w k)
         | .un => false
     (∀ k, k < L → active s p k = true → (laneCmp c ty (u k) (w k)).flags &&& s.me.fpEnabled = 0) → ∃ t : State, exec i s = .next t ∧
       (d ≠ 0 → ∀ k, k < 64 → (t.p d).getLsbD k = (decide (k < L) && active s p k && holds k)) ∧
       (∀ r, r ≠ d → t.p r = s.p r) ∧ (∀ r, t.v r = s.v r) ∧ (∀ r, t.g r = s.g r) ∧ t.dev = s2.dev) ∧
   (∀ (s s1 s2 : State) (d a b : Reg) (p : PReg) (ty : ElemTy) (h : Bool) (x y : V512),
     let i := Instr.vsel d a b p ty h
     i.wf = true → Clear i s → s.vsrc a = .ok (x, s1) → s1.vsrc b = .ok (y, s2) → ∃ t : State, exec i s = .next t ∧
       (∀ k, k < 512 / ElemTy.width ty → elem (ElemTy.width ty) (t.v d.toNat) k =
         if active s p k then elem (ElemTy.width ty) x k else elem (ElemTy.width ty) y k) ∧ OnlyVector s2 t [d.toNat])) ∧
  (∀ (s s1 : State) (d a : Reg) (part : BitVec 2) (c : Bool) (src : ElemTy) (p : PReg) (ty : ElemTy) (h : Bool)
       (x : V512),
     let i := Instr.vcvt d a part c src p ty h
     i.wf = true → Clear i s → s.vsrc a = .ok (x, s1) →
     let ls := 512 / ElemTy.width src
     let ld := 512 / ElemTy.width ty
     let n := min ls ld
     -- the source element of element k of d
     let from' (k : Nat) : Option Nat :=
       if ls < ld then (if part.toNat * n ≤ k ∧ k < part.toNat * n + n then some (k - part.toNat * n) else none)
       else if ld < ls then some (part.toNat * n + k) else some k
     let r (j : Nat) : FpRes := laneCvt src ty c s.me.rounding (elem (ElemTy.width src) x j)
     (∀ k j, k < ld → active s p k = true → from' k = some j → (r j).flags &&& s.me.fpEnabled = 0) → ∃ t : State,
       exec i s = .next t ∧ OnlyVector s1 t [d.toNat] ∧
       (∀ k, k < ld → elem (ElemTy.width ty) (t.v d.toNat) k = match from' k with
         | some j => if active s p k then (r j).bits % 2 ^ ElemTy.width ty else elem (ElemTy.width ty) (s.v d.toNat) k
         | none => elem (ElemTy.width ty) (s.v d.toNat) k) ∧
       (∀ v, (ElemTy.fmt? src) = none → (ElemTy.fmt? ty) = none → (laneCvt src ty c s.me.rounding v).flags = 0 ∧
         ((laneCvt src ty c s.me.rounding v).bits : Int) =
           (let k := ElemTy.width ty
            let z : Int := if c then v else twos (ElemTy.width src) v
            if c then (if z ≤ 2 ^ k - 1 then z else 2 ^ k - 1)
            else (if z < -2 ^ (k - 1) then -2 ^ (k - 1) else if z ≤ 2 ^ (k - 1) - 1 then z else 2 ^ (k - 1) - 1) % 2 ^ k)))

/-- VBCAST, VINS and VEXT (R219 to R221), and on a core of its own VPERM, VSLIDE, VCOMPR and VEXPND (R222, R223): where each
element of the destination comes from. -/
def Obligations.ElementsMove : Prop :=
  ∀ (s : State) (d a b : Reg) (p : PReg) (ty : ElemTy) (h : Bool),
    let n := ElemTy.width ty
    let L := 512 / n
    let old (k : Nat) := elem n (s.v d.toNat) k
    let actives := (List.range L).filter fun k => active s p k
    let gives (i : Instr) (s2 : State) (f : Nat → Nat) : Prop := i.wf = true → Clear i s → ∃ t : State, exec i s = .next t ∧
      (∀ k, k < L → elem n (t.v d.toNat) k = f k) ∧ OnlyVector s2 t [d.toNat]
    gives (.vbcast d a p ty h) s (fun k => if active s p k then (s.g a).toNat % 2 ^ n else old k) ∧
    gives (.vins d a b p ty) s (fun k => if k = (s.g b).toNat ∧ active s p k = true then (s.g a).toNat % 2 ^ n else old k) ∧
    (∀ x s1, s.vsrc a = .ok (x, s1) →
      (∀ z, (Instr.vext d a b z ty).wf = true → Clear (.vext d a b z ty) s →
        let e := elem n x (s.g b).toNat
        Gives (.vext d a b z ty) s (s1.setG d (
          if L ≤ (s.g b).toNat then 0
          else if (ElemTy.fmt? ty) = none ∧ z = false then BitVec.ofInt 64 (twos n e) else w64 e))) ∧
      (∀ y s2, s1.vsrc b = .ok (y, s2) → gives (.vperm d a b p ty h) s2 (fun k =>
        if active s p k then (if elem n y k < L then elem n x (elem n y k) else 0) else old k)) ∧
      gives (.vslide d a b p ty h) s1 (fun k =>
        if active s p k then
          (let j := (k : Int) + (s.g b).toInt
           if 0 ≤ j ∧ j < L then elem n x j.toNat else 0)
        else old k) ∧
      gives (.vcompr d a p ty h) s1 (fun k => match actives[k]? with | some j => elem n x j | none => 0) ∧
      gives (.vexpnd d a p ty h) s1 (fun k =>
        if active s p k then elem n x ((List.range k).filter fun j => active s p j).length else old k))

/-- On a core of its own: VRED gives element 0 the combination of the active elements, or the identity where there is none, and
every other element 0; VSCAN gives each active element the combination up to it (R224, R225); integer additions are sums modulo
2^n, a float operation combines in the halving tree of R192. VCXS (R226): with j a power of two below the number of elements, the
keys of d and the payloads of d + 1 at i and i + j change places, for each i without the bit j, where both are active and stand
against the order that the bit k of i asks for; with any other j nothing changes. -/
def Obligations.ReductionsAndExchanges : Prop :=
  (∀ (s s1 : State) (d a : Reg) (op : RedOp) (p : PReg) (ty : ElemTy) (h : Bool) (x : V512), s.vsrc a = .ok (x, s1) →
     let n := ElemTy.width ty
     let L := 512 / n
     let sum (l : List Nat) : Nat := (l.foldl (fun z k => z + elem n x k) 0) % 2 ^ n
     let actives := (List.range L).filter fun k => active s p k
     let list := (List.range L).map fun k => if active s p k then some (elem n x k) else none
     let r := tree op ty s.me.rounding 10 list []
     let sc := scan op ty s.me.rounding none list
     ((Instr.vred d a op p ty h).wf = true → Clear (.vred d a op p ty h) s →
       (∀ e ∈ r.2, e.2 &&& s.me.fpEnabled = 0) → ∃ t : State, exec (.vred d a op p ty h) s = .next t ∧
         elem n (t.v d.toNat) 0 = (r.1.getD (identityOf op ty)) % 2 ^ n ∧
         (∀ k, 0 < k → k < L → elem n (t.v d.toNat) k = 0) ∧
         (actives = [] → elem n (t.v d.toNat) 0 = identityOf op ty % 2 ^ n) ∧
         (op = .add → ElemTy.fmt? ty = none → elem n (t.v d.toNat) 0 = sum actives) ∧ OnlyVector s1 t [d.toNat]) ∧
     ((Instr.vscan d a op p ty h).wf = true → Clear (.vscan d a op p ty h) s →
       (∀ e ∈ sc, ∀ q, e = some q → q.flags &&& s.me.fpEnabled = 0) → ∃ t : State, exec (.vscan d a op p ty h) s = .next t ∧
         (∀ k, k < L → active s p k = false → elem n (t.v d.toNat) k = elem n (s.v d.toNat) k) ∧
         (∀ k, k < L → active s p k = true → op = .add → ElemTy.fmt? ty = none →
           elem n (t.v d.toNat) k = sum (actives.filter fun j => decide (j ≤ k))) ∧
         (∀ k q, k < L → active s p k = true → sc[k]? = some (some q) → elem n (t.v d.toNat) k = q.bits % 2 ^ n) ∧
         OnlyVector s1 t [d.toNat])) ∧
  (∀ (s : State) (d a b : Reg) (p : PReg) (ty : ElemTy) (h : Bool),
     let i := Instr.vcxs d a b p ty h
     i.wf = true → Clear i s → d.toNat < 55 →
     let n := ElemTy.width ty
     let L := 512 / n
     let j := (s.g a).toNat
     let k := (s.g b).toNat
     let key (e : Nat) := keyOf ty (elem n (s.v d.toNat) e)
     let swaps (e : Nat) : Bool := active s p e && active s p (e + j) &&
       (if e &&& k = 0 then decide (key (e + j) < key e) else decide (key e < key (e + j)))
     ((j = 0 ∨ L ≤ j ∨ (∀ q, j ≠ 2 ^ q)) → exec i s = .next (s.retire .seq)) ∧
     (∀ q, j = 2 ^ q → j < L → ∃ t : State, exec i s = .next t ∧ OnlyVector s t [d.toNat, d.toNat + 1] ∧
       ∀ e, e + j < L → e &&& j = 0 → ∀ r, r = d.toNat ∨ r = d.toNat + 1 →
         elem n (t.v r) e = elem n (s.v r) (if swaps e then e + j else e) ∧
         elem n (t.v r) (e + j) = elem n (s.v r) (if swaps e then e else e + j)))

/-- VLUT (R227, R228) gives each active element of d, from the one that PIX names, the element of the table in local memory that
its index names; a base that is not aligned raises MISALIGN; VDOT (R229) adds to each active 32-bit element of d the products
of its group. -/
def Obligations.TablesAndDotProducts : Prop :=
  (∀ (s s1 : State) (d a b : Reg) (p : PReg) (ty : ElemTy) (x : V512) (off : Nat → Nat),
    let i := Instr.vlut d a b p ty
    i.wf = true → Clear i s → s.vsrc a = .ok (x, s1) →
    let n := ElemTy.width ty
    let L := 512 / n
    let i0 := field s1.me.ctl.pix 0 6
    ((s.g b).toNat % (n / 8) ≠ 0 → exec i s = .next (s.trapEntry 0x03 (s.g b) s.me.trapPc)) ∧
    ((s.g b).toNat % (n / 8) = 0 → s.me.quota = none →
      (∀ k, i0 ≤ k → k < L → active s p k = true → s.g b + w64 (n / 8 * elem n x k) = w64 (off k) ∧ Readable s (off k) (n / 8)) →
      ∃ t : State, exec i s = .next t ∧ t.me.ctl.pix = 0 ∧ OnlyFiles s1 t [d.toNat] ∧ Joined s1 t ∧
        ∀ k, k < L → elem n (t.v d.toNat) k =
          if i0 ≤ k ∧ active s p k = true then s.me.loc.bytes.readN (off k) (n / 8) else elem n (s.v d.toNat) k)) ∧
  (∀ (s s1 s2 : State) (d a b : Reg) (p : PReg) (ty : ElemTy) (h : Bool) (x y : V512),
    let i := Instr.vdot d a b p ty h
    i.wf = true → Clear i s → s.vsrc a = .ok (x, s1) → s1.vsrc b = .ok (y, s2) →
    let n := dotWidth ty
    let m := 32 / n
    let read (v : Nat) : Int := match ty with | .i8 => twos 8 v | .i16 => twos 16 v | _ => v
    let sum (k : Nat) : Int := (List.range m).foldl (fun z e => z + read (elem n x (m * k + e)) * read (elem n y (m * k + e))) 0
    let r (k : Nat) : FpRes := match ty with
      | .f16 => dotRound fmt32 fmt16 s.me.rounding (fmt32.unpack (elem 32 (s.v d.toNat) k)) false
        ((List.range m).map fun e => (elem n x (m * k + e), elem n y (m * k + e)))
      | .bf16 => dotRound fmt32 fmtB16 s.me.rounding (fmt32.unpack (elem 32 (s.v d.toNat) k)) false
        ((List.range m).map fun e => (elem n x (m * k + e), elem n y (m * k + e)))
      | _ => ⟨((elem 32 (s.v d.toNat) k + sum k) % 2 ^ 32).toNat, 0⟩
    (∀ k, k < 16 → active s p k = true → (r k).flags &&& s.me.fpEnabled = 0) → ∃ t : State, exec i s = .next t ∧
      (∀ k, k < 16 → elem 32 (t.v d.toNat) k =
        if active s p k then (r k).bits % 2 ^ 32 else elem 32 (s.v d.toNat) k) ∧
      FlagsAfter s t 16 (active s p) (fun k => (r k).flags) ∧ OnlyVector s2 t [d.toNat])

/-- Predicates (R230): PSET takes g[a], PAND, POR, PXOR and PNOT are bitwise, writes to p0 are discarded; PCNT counts the bits that
are set, PFIRST gives the lowest of them, or 64. -/
def Obligations.PredicateResults : Prop :=
  ∀ (s : State),
    (∀ (i : Instr) (d : PReg) (x : W64),
      ((∃ a, i = .pset d a ∧ x = s.g a) ∨ (∃ a b, i = .pand d a b ∧ x = s.p a &&& s.p b) ∨
        (∃ a b, i = .por d a b ∧ x = s.p a ||| s.p b) ∨ (∃ a b, i = .pxor d a b ∧ x = s.p a ^^^ s.p b) ∨
        (∃ a, i = .pnot d a ∧ x = ~~~ s.p a)) → Clear i s →
      ∃ t : State, exec i s = .next t ∧ (d ≠ 0 → t.p d = x) ∧ (∀ r, r ≠ d ∨ r = 0 → t.p r = s.p r) ∧ (∀ r, t.g r = s.g r) ∧
        (∀ r, t.v r = s.v r) ∧ t.me.loc = s.me.loc ∧ t.dev = s.dev) ∧
    (∀ (d : Reg) (a : PReg),
      (Clear (.pcnt d a) s → Gives (.pcnt d a) s (s.setG d (w64 ((List.range 64).filter fun k => (s.p a).getLsbD k).length))) ∧
      (Clear (.pfirst d a) s →
        Gives (.pfirst d a) s (s.setG d (w64 (((List.range 64).find? fun k => (s.p a).getLsbD k).getD 64)))))

/-! ## The matrix unit, narrow formats, matrix commands (08, 10) -/

namespace Sys2Proof.Claims

/-- The version check of an instruction passes (R233): k is 0, or the low four bits of the version are ev. -/
def VersionIs (s : State) (z : ZReg) (ev : BitVec 4) (k : Bool) : Prop := k = false ∨ (s.zver z).setWidth 4 = ev

/-- The accumulator, version and check of an instruction of the matrix unit (R233, R246). -/
def versionOf : Instr → Option (ZReg × BitVec 4 × Bool)
  | .zclr z ev k | .zld z ev k _ _ | .zst z ev k _ _ | .mma z ev k _ _ _ _ | .sclacc z ev k _ _ _ | .outlacc z ev k _ _ _ =>
    some (z, ev, k)
  | .zwaitv z ev => some (z, ev, true)
  | _ => none

/-- Bytes off to off + n of the core's own local memory can all be read as an operand (R235). -/
def WholeReadable (s : State) (off n : Nat) : Prop :=
  off + n ≤ 0x30000 ∧ (∀ l, off / 128 ≤ l → l ≤ (off + n - 1) / 128 → s.me.loc.empty.contains l = false) ∧
    firstPoison s.me.loc.poison off n = none

/-- The state after the version check of an instruction that passes (R233): with k the version is observed, an acquire (R276). -/
def observed (s : State) (k : Bool) : State := if k then s.acquire else s

/-- A byte of the core's own local memory. -/
def localByte (s : State) (a : Nat) : Nat := (s.me.loc.bytes.read a).toNat

end Sys2Proof.Claims

/-- Accumulators (R233, R243 to R247): an instruction whose version check fails waits and changes nothing; one that has observed its
version acquires (R276, R354); ZWAITV only waits; ZCLR makes every element 0; ZVER gives the version; ZLD loads the rows from the one that PIX names and adds 1 to the version; ZST
stores them and leaves it; SCLACC adds the scaled parts; OUTLACC adds the listed outliers to one row. -/
def Obligations.AccumulatorInstructions : Prop :=
  ∀ s : State,
    (∀ (i : Instr) z ev k, versionOf i = some (z, ev, k) → Clear i s → ¬ VersionIs s z ev k →
      exec i s = .next { s with me := { s.me with wait := some .version } }) ∧
    (∀ z ev, Clear (.zwaitv z ev) s → (s.zver z).setWidth 4 = ev → exec (.zwaitv z ev) s = .next (s.acquire.retire .seq)) ∧
    (∀ z ev k, Clear (.zclr z ev k) s → VersionIs s z ev k → ∃ t : State, exec (.zclr z ev k) s = .next t ∧
      (∀ e, t.zElem z e = 0) ∧ (∀ z', z' ≠ z → t.z z' = s.z z') ∧ (∀ z', t.zver z' = s.zver z') ∧ (∀ r, t.g r = s.g r) ∧
      t.dev = (observed s k).dev) ∧
    (∀ z ev k a, Clear (.zver z ev k a) s → Gives (.zver z ev k a) s (s.acquire.setG a (zext (s.zver z)))) ∧
    (∀ z ev k a b (off : Nat → Nat), Clear (.zld z ev k a b) s → VersionIs s z ev k →
      let st : W64 := if b = 0 then 64 else s.g b
      let i0 := field s.me.ctl.pix 0 5
      (s.g a).toNat % 64 = 0 → st.toNat % 64 = 0 → s.me.quota = none →
      (∀ i, i0 ≤ i → i < 16 → s.g a + st * w64 i = ownVa (off i) ∧ Readable s (off i) 64) →
      ∃ t : State, exec (.zld z ev k a b) s = .next t ∧ t.me.ctl.pix = 0 ∧ t.zver z = s.zver z + 1 ∧
        (∀ i j, i < 16 → j < 16 → (t.zElem z (16 * i + j)).toNat =
          if i0 ≤ i then s.me.loc.bytes.readN (off i + 4 * j) 4 else (s.zElem z (16 * i + j)).toNat) ∧
        (∀ z', z' ≠ z → t.z z' = s.z z' ∧ t.zver z' = s.zver z') ∧ (∀ r, t.g r = s.g r) ∧ t.me.loc = s.me.loc ∧
        (t.dev = s.dev ∨ t.dev = s.acquire.dev) ∧ (k = false → Joined s t)) ∧
    (∀ z ev k a b (off : Nat → Nat), Clear (.zst z ev k a b) s → VersionIs s z ev k →
      let st : W64 := if b = 0 then 64 else s.g b
      let i0 := field s.me.ctl.pix 0 5
      (s.g a).toNat % 64 = 0 → st.toNat % 64 = 0 → s.me.member = none → s.me.quota = none →
      (∀ i, i0 ≤ i → i < 16 → s.g a + st * w64 i = ownVa (off i) ∧ Readable s (off i) 64) →
      ∃ t : State, exec (.zst z ev k a b) s = .next t ∧ t.me.ctl.pix = 0 ∧
        (∀ z', t.z z' = s.z z' ∧ t.zver z' = s.zver z') ∧ (∀ r, t.g r = s.g r) ∧ t.dev = (observed s k).dev ∧
        t.me.loc = (List.range 16).foldl (fun l i => if i0 ≤ i then
          l.store (off i) 64 ((List.range 16).foldr (fun j x => (s.zElem z (16 * i + j)).toNat + 2 ^ 32 * x) 0) else l) s.me.loc) ∧
    (∀ z ev k part b clr o x s1, Clear (.sclacc z ev k part b clr) s → VersionIs s z ev k → (s.g b).toNat % 64 = 0 →
      (observed s k).operand (s.g b) = .ok o → (observed s k).opRead o 0 64 = .ok (x, s1) →
      ∃ t : State, exec (.sclacc z ev k part b clr) s = .next t ∧
        (clr = false ∨ part ≠ z → ∀ i j, i < 16 → j < 16 → (t.zElem z (16 * i + j)).toNat =
          scaleElem (s1.zElem z (16 * i + j)).toNat (s1.zElem part (16 * i + j)).toNat (x / 2 ^ (16 * i) % 2 ^ 16)
            (x / 2 ^ (256 + 16 * j) % 2 ^ 16) % 2 ^ 32) ∧
        (clr = true → ∀ e, t.zElem part e = 0) ∧
        (∀ z', t.zver z' = s1.zver z' + (if z' = z then 1 else 0) + (if clr = true ∧ z' = part then 1 else 0)) ∧
        (∀ r, t.g r = s1.g r) ∧ (∀ r, t.v r = s1.v r) ∧ t.me.loc = s1.me.loc ∧ t.dev = s1.dev) ∧
    (∀ z ev k a b row count cap s1 s2 s3, Clear (.outlacc z ev k a b row) s → VersionIs s z ev k → (s.g a).toNat % 8 = 0 →
      (s.g b).toNat % 64 = 0 → (observed s k).noPol.load (s.g a) 4 = .ok (count, s1) → s1.noPol.load (s.g a + 4) 4 = .ok (cap, s2) →
      outlEntries z row.toNat (s.g a) (s.g b) (min count cap - field s2.me.ctl.pix 0 32) (field s2.me.ctl.pix 0 32) s2 = .ok s3 →
      ∃ t : State, exec (.outlacc z ev k a b row) s = .next t ∧ t.me.ctl.pix = 0 ∧ t.zver z = s3.zver z + 1 ∧
        (∀ z', t.z z' = s3.z z') ∧ (∀ i j, i ≠ row.toNat → j < 16 → t.zElem z (16 * i + j) = s2.zElem z (16 * i + j)) ∧
        (∀ z', z' ≠ z → t.z z' = s2.z z' ∧ t.zver z' = s2.zver z'))

/-- MMA of codes in the core's own local memory (R195, R236, R239): each element of the rows from the one that PIX names becomes
its old value plus the sum of the products of the codes less their zero points, modulo 2^32, and the version grows by 1; a
header with another K raises MISALIGN. With mc the bytes of B are those of the open group's read, where there is one (R241, log 89).
Any operands through the rows that they give. -/
def Obligations.MatrixProducts : Prop :=
  ∀ (s : State) (z : ZReg) (ev : BitVec 4) (k : Bool) (a b : Reg) (mc : Bool) (ty : MmaTy),
    let i := Instr.mma z ev k a b mc ty
    let u := observed s k
    Clear i s → VersionIs s z ev k → (s.g a).toNat % 128 = 0 → (s.g b).toNat % 128 = 0 →
    (∀ oa ob t, u.operand (s.g a) = .ok oa → u.operand (s.g b) = .ok ob → mmaRun z ty mc oa ob u = .ok t → Gives i s t) ∧
    (∀ offA offB, s.g a = ownVa offA → s.g b = ownVa offB → s.me.member = none →
      let group := if mc then s.openGroup ⟨s.here, offB, s.g b⟩ ty else none
      let byteB (j : Nat) : Nat := match group with | some x => x.bytes / 256 ^ j % 256 | none => localByte s (offB + j)
      let K := localByte s offA + 256 * localByte s (offA + 1)
      let KB := byteB 0 + 256 * byteB 1
      WholeReadable s offA 128 → offB + 128 ≤ 0x30000 → (group = none → WholeReadable s offB 128) →
      -- a read of a line that a copy has filled joins it, an acquire (R354)
      let traps (va : W64) : Prop := ∃ v : State, (v = u ∨ v = u.acquire) ∧ (s.me.loc.landed = [] → v = u) ∧
        exec i s = .next (v.trapEntry 0x03 va s.me.trapPc)
      ((K ≠ 32 ∧ K ≠ 64 ∧ K ≠ 128) → traps (s.g a)) ∧
      ((K = 32 ∨ K = 64 ∨ K = 128) → KB ≠ K → traps (s.g b)) ∧
      ((K = 32 ∨ K = 64 ∨ K = 128) → KB = K → ty = .q8 → s.me.quota = none → WholeReadable s offA (128 + 16 * K) →
        offB + 128 + 16 * K ≤ 0x30000 → (group = none → WholeReadable s offB (128 + 16 * K)) →
        let i0 := field s.me.ctl.pix 0 5
        ∃ t : State, exec i s = .next t ∧ t.me.ctl.pix = 0 ∧ t.zver z = s.zver z + 1 ∧
          (∀ r c, r < 16 → c < 16 → ((t.zElem z (16 * r + c)).toNat : Int) =
            if i0 ≤ r then
              (((s.zElem z (16 * r + c)).toNat : Int) + (List.range K).foldl (fun (x : Int) e => x +
                ((localByte s (offA + 128 + K * r + e) : Int) - localByte s (offA + 16 + r)) *
                ((byteB (128 + K * c + e) : Int) - byteB (16 + c))) 0) % 2 ^ 32
            else ((s.zElem z (16 * r + c)).toNat : Int)) ∧
          (∀ z', z' ≠ z → t.z z' = s.z z' ∧ t.zver z' = s.zver z') ∧ (∀ r, t.g r = s.g r) ∧ (∀ r, t.v r = s.v r) ∧
          t.me.loc = s.me.loc ∧ Joined u { t with dev := { t.dev with sharedB := u.dev.sharedB } } ∧ (mc = false → Joined u t)))

/-- QUANT and DQUANT (R197 to R202, R249 to R252): without outliers QUANT puts the code of each active element, from the one that
PIX names, into its place among the codes of d and leaves the others; DQUANT gives each active element the value of its code,
which is 0 at the zero point; any other run of QUANT through its elements, and then once its appends have been performed (R202). -/
def Obligations.QuantizationResults : Prop :=
  ∀ (s s1 : State) (d a : Reg) (q4 : Bool) (prm : BitVec 5) (p : PReg) (ty : ElemTy) (x : V512), s.vsrc a = .ok (x, s1) →
    let n := ElemTy.width ty
    let L := 512 / n
    let q := s.qparam q4 prm ty
    let w := if q4 then 4 else 8
    let i0 := field s1.me.ctl.pix 0 6
    (∀ s2 s3, (Instr.quant d a q4 prm p ty).wf = true → Clear (.quant d a q4 prm p ty) s →
      quantFrom d (s1.qparam q4 prm ty) (floatSide ty) L (s1.me.mask p L) (lanesOf n x) (L - i0) i0 s1 = .ok s2 →
      s2.appendsDone = .ok s3 → Gives (.quant d a q4 prm p ty) s { s3 with me.ctl.pix := 0 }) ∧
    (∀ c : Nat → Nat, s.me.quota = none → (s.me.ctl.qctl.getLsbD 0 = false ∨ s.me.ctl.unack = 0) → (Instr.quant d a q4 prm p ty).wf = true → Clear (.quant d a q4 prm p ty) s →
      (∀ k, i0 ≤ k → k < L → active s p k = true → q.code ((floatSide ty).unpack (elem n x k)) = some (c k)) →
      ∃ t : State, exec (.quant d a q4 prm p ty) s = .next t ∧ t.me.ctl.pix = 0 ∧ t.me.ctl.qctl = s.me.ctl.qctl ∧
        OnlyVector s1 t [d.toNat] ∧
        ∀ m, m < 512 / w → elem w (t.v d.toNat) m =
          if q.part * L + i0 ≤ m ∧ m < q.part * L + L ∧ active s p (m - q.part * L) = true then c (m - q.part * L)
          else elem w (s.v d.toNat) m) ∧
    ((Instr.dquant d a q4 prm p ty).wf = true → Clear (.dquant d a q4 prm p ty) s →
      ∃ t : State, exec (.dquant d a q4 prm p ty) s = .next t ∧ OnlyVector s1 t [d.toNat] ∧
        ∀ k, k < L → elem n (t.v d.toNat) k =
          if active s p k then
            (let c := elem w x (q.part * L + k)
             if c = q.zp then 0 else dquantElem (floatSide ty) q c % 2 ^ n)
          else elem n (s.v d.toNat) k)

/-- Capabilities and commands (R253 to R256): CAPGRANT answers 1 for another core's window, 2 for one beyond local memory, and 0
with the slot written; CAPDROP clears a slot; MCMD answers 1 for a block that it must not send, otherwise 0 and the command is
on its way; MCMD.t waits for the target's answer, then gives 0 or raises CAPABILITY. -/
def Obligations.CommandsAreGrantedAndSent : Prop :=
  ∀ (s : State) (d a b : Reg),
    (Clear (.capgrant d a b) s →
      let c := s.g a
      let slot := (s.g b).toNat % 8
      (field c 0 13 ≠ s.me.lcore.toNat → Gives (.capgrant d a b) s (s.setG d 1)) ∧
      (field c 0 13 = s.me.lcore.toNat → 1536 < field c 13 11 + field c 24 11 → Gives (.capgrant d a b) s (s.setG d 2)) ∧
      (field c 0 13 = s.me.lcore.toNat → field c 13 11 + field c 24 11 ≤ 1536 → ∃ u : State,
        Gives (.capgrant d a b) s (u.setG d 0) ∧ u.me.regs = s.me.regs ∧ u.dev = s.dev ∧
          ∀ k (h : k < 8), u.me.caps[k] = if k = slot then c else s.me.caps[k])) ∧
    (Clear (.capdrop b) s → ∃ u : State, Gives (.capdrop b) s u ∧ u.me.regs = s.me.regs ∧ u.dev = s.dev ∧
      ∀ k (h : k < 8), u.me.caps[k] = if k = (s.g b).toNat % 8 then 0 else s.me.caps[k]) ∧
    (∀ block s1, s.commandBlock b = .ok (block, s1) →
      (block = none → (Clear (.mcmd d a b) s → Gives (.mcmd d a b) s (s1.setG d 1)) ∧
        (Clear (.mcmdT d a b) s → (∀ x ∈ s.me.asked, x.1 ≠ s.me.pc) → Gives (.mcmdT d a b) s (s1.setG d 1))) ∧
      (∀ x, block = some x →
        (Clear (.mcmd d a b) s → ∃ u : State, Gives (.mcmd d a b) s (u.setG d 0) ∧ ∃ it : NetItem,
          u.dev.net = s1.dev.net ++ [it] ∧ it.kind = .command ∧ it.dst.toNat = field (s1.g a) 0 13 ∧ it.src = s1.me.lcore ∧
          ∃ m, it.cmd = some m ∧ m.cap = s1.g a ∧ m.block = x ∧ m.asks = none) ∧
        (Clear (.mcmdT d a b) s → (∀ y ∈ s.me.asked, y.1 ≠ s.me.pc) → ∃ t : State, exec (.mcmdT d a b) s = .next t ∧
          t.me.wait = some .mcmd ∧ t.me.pc = s1.me.pc ∧ (s1.me.pc, none) ∈ t.me.asked ∧ ∃ it : NetItem,
            t.dev.net = s1.dev.net ++ [it] ∧ ∃ m, it.cmd = some m ∧ m.cap = s1.g a ∧ m.block = x ∧ m.asks = some s1.me.pc))) ∧
    (∀ answer, s.me.asked.find? (fun x => x.1 == s.me.pc) = some (s.me.pc, answer) → Clear (.mcmdT d a b) s →
      (answer = some true → Gives (.mcmdT d a b) s (({ s with me := s.me.forget s.me.pc } : State).setG d 0)) ∧
      (answer = some false → ∃ t : State, exec (.mcmdT d a b) s = .next t ∧ t.me.ctl.tcause = 0x0C ∧ t.me.ctl.tval = s.g a ∧
        t.me.regs = s.me.regs) ∧
      (answer = none → exec (.mcmdT d a b) s = .next { s with me := { s.me with wait := some .mcmd } }))

/-! ## The system instructions (19) and the control registers -/

/-- IDLE (R409) waits for an accepted item, a pending interrupt or its limit, and then goes on. DONE (R410) outside an instance
raises ILLEGAL; with nothing of the member's still under way its tables become empty and the member counts no more. CTXSW (R412)
answers 3, 2 or 1, or saves the running context, unless g[a] is 0, and restores the one of the area at g[b]; a tag that
fails ends the job whose member the area holds (R434); an area with an uncorrectable error waits for ROLLBACK where its context is a member's (R434), and is answered 1 otherwise (log 99). CPAIR and
UNPAIR (R416) are joins of the members m and m xor 1. -/
def Obligations.SystemInstructions : Prop :=
  (∀ (s : State) (a : Reg), Clear (.idle a) s →
    (s.me.irqs = [] → (∀ c l e, s.me.wait ≠ some (.idle c l e)) →
      exec (.idle a) s = .next { s with me := { s.me with
        accepted := false, wait := some (.idle s.dev.cycle (s.g a) false) } }) ∧
    ((s.me.irqs ≠ [] ∨ ∃ c l e, s.me.wait = some (.idle c l e) ∧ (e = true ∨ s.me.accepted = true)) →
      exec (.idle a) s = .next (s.retire .seq)) ∧
    (∀ c l, s.me.wait = some (.idle c l false) → s.me.irqs = [] → s.me.accepted = false → exec (.idle a) s = .next s)) ∧
  (∀ s : State, Clear .done s →
    (s.me.member = none → exec .done s = .next (s.trapEntry 0x01 (zext (encode .done)) s.me.trapPc)) ∧
    (∀ m, s.me.member = some m →
      (s.me.ctl.unack ≠ 0 ∨ s.selfRelease.engineBusy s.here = true ∨ s.me.mcmds ≠ [] →
        ∃ t : State, exec .done s = .next t ∧ t.me.wait = some .done ∧ t.me.pc = s.me.pc ∧ t.me.regs = s.me.regs) ∧
      (s.me.ctl.unack = 0 → s.selfRelease.engineBusy s.here = false → s.me.mcmds = [] →
        ∃ u : State, exec .done s = .next ((u.retire .seq).memberDone s.me.stave s.here m) ∧ u.me.regs = s.me.regs ∧
          (∀ k (h : k < 8), u.me.caps[k] = 0) ∧ (∀ k (h : k < 16), u.me.slots[k].bind = 0) ∧ ∀ w ∈ u.me.l1, w.dirty = 0))) ∧
  (∀ (s : State) (d a b : Reg), Clear (.ctxsw d a b) s →
    let x := s.g a
    let y := s.g b
    let i := Instr.ctxsw d a b
    let base := y.toNat % 2 ^ 43
    (x.toNat % 2 ^ 16 ≠ 0 → exec i s = .next (s.trapEntry 0x03 x s.me.trapPc)) ∧
    (x.toNat % 2 ^ 16 = 0 → (y = 0 ∨ y.toNat % 2 ^ 16 ≠ 0) → exec i s = .next (s.trapEntry 0x03 y s.me.trapPc)) ∧
    (x.toNat % 2 ^ 16 = 0 → y ≠ 0 → y.toNat % 2 ^ 16 = 0 →
      (∀ v, (x ≠ 0 ∧ s.areaBad s.me.stave x = some v) ∨
          ((x = 0 ∨ s.areaBad s.me.stave x = none) ∧ s.areaBad s.me.stave y = some v) →
        exec i s = .next (s.trapEntry 0x04 v s.me.trapPc)) ∧
      ((x = 0 ∨ s.areaBad s.me.stave x = none) → s.areaBad s.me.stave y = none →
        ((s.me.bond ≠ .none ∨ s.me.pair ≠ none) → Gives i s (s.setG d 3)) ∧
        (s.me.bond = .none → s.me.pair = none →
          (s.areaRefused base = true → Gives i s (s.setG d 2)) ∧
          (s.areaRefused base = false → (s.areaState base).tagged = true → s.tagsMatch base = false →
            (s.areaMember base = none → Gives i s (s.setG d 1)) ∧
            (∀ m, s.areaMember base = some m → Gives i s ((s.endJob s.me.stave m.job 0x23 0).setG d 1))) ∧
          (s.areaRefused base = false → ((s.areaState base).tagged = true → s.tagsMatch base = true) →
            (∀ addr m, s.areaError base = some addr → s.areaMember base = some m →
              exec i s = .next { s with me := { s.me with wait := some (.area addr) } }) ∧
            (∀ addr, s.areaError base = some addr → s.areaMember base = none → Gives i s (s.setG d 1)) ∧
            (s.areaError base = none →
              exec i s =
                .next (((if x = 0 then s.dropHere else s.switchOut (x.toNat % 2 ^ 43) d).switchIn s.me.stave base).retire .switched) ∧
              (x = 0 → s.canonical → ∀ t, exec i s = .next t →
                ∀ r, r ≠ 0 → t.g r = w64 (s.dropHere.dev.peek (base + 0x3C000 + 8 * r.toNat) 8)))))))) ∧
  (∀ (s : State) (d : Reg) (on : Bool),
    let i := if on then Instr.cpair d else .unpair d
    let w := encode i
    Clear i s →
    (s.me.bond ≠ .none → Gives i s (s.setG d 0)) ∧
    (s.me.bond = .none →
      (s.partner = none → Gives i s (s.setG d 0)) ∧
      (∀ k, s.partner = some k →
        let j := (s.coreAt k).joinAt.filter fun j => j.2.toNat / 2 ^ 25 == w.toNat / 2 ^ 25
        (j = none → exec i s = .next { s with me := { s.me with wait := some (.join w) } }) ∧
        (∀ w', j = some (s.me.pc, w') → joinKind w' = joinKind w → ∃ t : State, exec i s = .next t ∧ (d ≠ 0 → t.g d = 1) ∧
          (joinReg w' ≠ 0 → (t.focus k).g (joinReg w') = 1) ∧ t.me.pair = (if on then some k else none) ∧
          (t.coreAt k).pair = (if on then some s.here else none) ∧ (t.coreAt k).wait = none ∧ t.me.wait = none) ∧
        (∀ pc w', j = some (pc, w') → (pc ≠ s.me.pc ∨ joinKind w' ≠ joinKind w) →
          Gives i s ((s.endJoins [k] 0).setG d 0)))))

namespace Sys2Proof.Claims

/-- Control registers of the context that software writes, with the bits that they keep (Table 6 of 19 and the tables of each). -/
def contextRegs : List (BitVec 12 × W64) :=
  [(0x08, 0x1F1F3), (0x09, 0xFFFFFFFFFFFFFFFB), (0x0A, 0x7FFFFFFFFFFFFFFF), (0x0B, 0x1F0F), (0x0C, 0x1FF),
   (0x10, 0xFFFFFFFFFFFFFFFC), (0x11, 0xFF), (0x12, -1), (0x13, 0xFFFFFFFFFFFFFFFC), (0x14, 0x1FF), (0x15, -1), (0x18, -1),
   (0x19, -1), (0x1A, -1), (0x1C, -1), (0x1D, -1), (0x1E, -1), (0x1F, -1), (0x20, 1), (0x40, 0xFFFFFFFF00001),
   (0x50, 0xFFFFFFFFFFFFFFF0), (0x62, 0xFFFFFFFFFFFFFFFC), (0x63, 0xFFFFFFFFFFFFFFFC), (0x64, 0xFFFFFFFFFFFFFFFC),
   (0x65, 0x3FFFFFFF), (0x66, 0xFFFFFFFFFFFFFF80), (0x67, 0xFFFFFFFFFFFFFFFC), (0x68, -1)]

/-- Control registers of a stave or of the device that software writes, with the bits that they keep. -/
def sharedRegs : List (BitVec 12 × W64) :=
  [(0x41, 0xFFFFFFFFFFF8F), (0x52, 0xFFF1F), (0x53, 0x3F), (0x54, 0x7FF000007FF), (0x55, 0xFFFFFFFF), (0x69, 0xFFFFFFFF80000),
   (0x6A, 0xFFFFFFFFFFFFFFFC), (0x6B, 0xFFFFFFFF0000F), (0x6D, 0xFFFFFFFFFFFFFFF8), (0x70, 0xFFFFFFFFFFF80)]

/-- Registers that only the device writes. -/
def readOnlyRegs : List (BitVec 12) :=
  [0x00, 0x01, 0x02, 0x04, 0x16, 0x17, 0x30, 0x42, 0x51, 0x56, 0x58, 0x59, 0x5A, 0x5B, 0x5C, 0x5D, 0x5E, 0x5F, 0x60, 0x61,
   0x6C, 0x6E]

/-- Values that a register takes; a write of another leaves it unchanged (PATCTL, FQBASE, PLTUNE, SRATE, WWAIT, CKBASE). -/
def takes (num : BitVec 12) (x : W64) : Bool :=
  if num = 0x0C then x.toNat % 256 != 0
  else if num = 0x41 then decide (x.toNat % 16 < 13)
  else if num = 0x52 then
    decide (10 ≤ field x 0 5 ∧ field x 0 5 ≤ 20 ∧ 1 ≤ field x 8 4 ∧ field x 8 4 ≤ 8 ∧ field x 12 4 ≤ 7 ∧ 1 ≤ field x 16 4)
  else if num = 0x54 then
    decide (field x 0 11 ≠ 1 ∧ field x 0 11 ≤ 1024 ∧ field x 32 11 ≠ 1 ∧ field x 32 11 ≤ 1024)
  else if num = 0x55 then field x 0 32 != 0
  else if num = 0x6B then decide (x.toNat % 16 < 11)
  else true

end Sys2Proof.Claims

/-- CRD gives the value of its register; CWR writes the bits that the register keeps, so that it reads as they say, and no other
register of the context changes but as the CWR's own end steps change them, which go by the loop state from before (R142, R406);
TRCFG is read-only once the first stave has opened (Table 6 of 19); a value that the register does not take, and a write of a register that only the device
writes, change nothing (R406, R407 and the registers' tables). RETIRED counts on from the value written. -/
def Obligations.ControlRegistersKeepTheirBits : Prop :=
  ∀ s : State,
    (∀ (d : Reg) (num : BitVec 12), Clear (.crd d num) s →
      (num ≠ 0x6E → Gives (.crd d num) s (s.setG d (s.control num))) ∧
      (num = 0x6E → ∃ u : State, Gives (.crd d num) s u ∧ (d ≠ 0 → u.g d = s.rbdata) ∧
        field u.dev.rbsel 3 5 = (field s.dev.rbsel 3 5 + 1) % 32 ∧ field u.dev.rbsel 8 56 = field s.dev.rbsel 8 56)) ∧
    s.control 0x00 = w64 s.here ∧ s.control 0x05 = w64 ((Mode.code s.me.ctl.mode).toNat + 4 * bit s.me.ctl.ie) ∧
    s.control 0x17 = zext s.me.ctl.unack ∧ s.control 0x30 = s.dev.cycle ∧ s.control 0x31 = s.me.ctl.retired ∧
    (∀ (a : Reg) (num : BitVec 12), Clear (.cwr a num) s →
      let x := s.g a
      (∀ mask, (num, mask) ∈ contextRegs → takes num x = true → ∃ t : State, exec (.cwr a num) s = .next t ∧ t.control num = x &&& mask ∧
        (∀ r ∈ contextRegs, r.1 ≠ num → t.control r.1 = (s.retire .seq).control r.1) ∧ t.me.pc = (s.retire .seq).me.pc ∧
        (∀ r, t.g r = s.g r) ∧ (∀ r, t.v r = s.v r) ∧ (∀ r, t.p r = s.p r) ∧ t.me.ctl.mode = s.me.ctl.mode ∧
        t.me.ctl.ie = s.me.ctl.ie ∧ t.me.loc = s.me.loc ∧ t.dev = s.dev) ∧
      (∀ mask, (num, mask) ∈ sharedRegs → takes num x = true → ∃ u : State, Gives (.cwr a num) s u ∧ u.control num = x &&& mask ∧
        (∀ r ∈ contextRegs, u.control r.1 = s.control r.1) ∧ u.me.regs = s.me.regs) ∧
      (takes num x = false → Gives (.cwr a num) s s) ∧
      (num ∈ readOnlyRegs → Gives (.cwr a num) s s) ∧
      (num = 0x05 → Gives (.cwr a num) s { s with me.ctl.ie := x.getLsbD 2 }) ∧
      (num = 0x03 → ∃ u : State, Gives (.cwr a num) s u ∧ u.me.ctl.sid.toNat = s.me.stave.toNat * 1024 + x.toNat % 1024 ∧
        u.me.regs = s.me.regs ∧ u.dev = s.dev) ∧
      (num = 0x6F → (s.dev.opened = true → Gives (.cwr a num) s s) ∧
        (s.dev.opened = false → ∃ u : State, Gives (.cwr a num) s u ∧ field u.dev.trcfg 0 9 = field x 0 9 ∧
          field u.dev.trcfg 9 55 = field s.dev.trcfg 9 55 ∧ u.me.regs = s.me.regs)) ∧
      (num = 0x31 → ∃ t : State, exec (.cwr a num) s = .next t ∧ t.me.ctl.retired = x))

/-- TLBINV, FREPLAY, FKILL and FQACK (R411, R413 to R415): their answers; TLBINV removes every entry that its scope names and
empties the core's instruction cache, once the stores to a peer that the stave's contexts have sent are performed; FREPLAY removes the
records of the page and the SID from the stave's faults, leaves the others, and tries the additions that were parked there again; FKILL
ends the job; FQACK moves the head up to the tail. Each completes where its conditions hold, and the other registers stay. -/
def Obligations.FaultServiceInstructions : Prop :=
  ∀ (s : State) (d a b : Reg),
    let x := s.g b
    (Clear (.tlbinv d a b) s →
      let bad := 2 ^ 18 ≤ x.toNat ∨ x.toNat / 2 ^ 16 = 3 ∨ (s.me.ctl.mode = .stave ∧ field x 10 6 ≠ s.me.stave.toNat)
      (bad → Gives (.tlbinv d a b) s (s.setG d 1)) ∧
      let coming := s.dev.net.any fun y => y.kind == .store && y.peer && y.stave == x.extractLsb' 10 6
      (¬ bad → coming = true → ∃ t : State, exec (.tlbinv d a b) s = .next t ∧ t.me.wait = some .unack ∧ t.me.regs = s.me.regs ∧
        t.me.pc = s.me.pc) ∧
      (¬ bad → coming = false → ∃ u : State, exec (.tlbinv d a b) s = .next ((u.setG d 0).retire .seq) ∧ u.me.icache = [] ∧
        u.me.loopBuf = s.me.loopBuf ∧ u.me.regs = s.me.regs ∧
        (∀ k, ∀ e ∈ (u.coreAt k).tlb, tlbinvHits (s.g a) x e = false) ∧
        (∀ t ∈ u.dev.tlbs, ∀ e ∈ t.2, tlbinvHits (s.g a) x e = false) ∧
        (∀ e ∈ s.me.tlb, tlbinvHits (s.g a) x e = false → e ∈ u.me.tlb))) ∧
    (Clear (.freplay d a b) s →
      let bad := 2 ^ 16 ≤ x.toNat ∨ (s.me.ctl.mode = .stave ∧ field x 10 6 ≠ s.me.stave.toNat)
      let sid : BitVec 16 := x.setWidth 16
      let vpn := (s.g a).toNat / 4096 % 2 ^ 44
      let n : BitVec 6 := x.extractLsb' 10 6
      let hit (r : FaultRec) : Prop := r.sid = sid ∧ r.vpn = vpn
      let count := ((s.dev.stave n).faults.filter fun r => r.sid == sid && r.vpn == vpn).length
      (bad → Gives (.freplay d a b) s (s.setG d (-1))) ∧
      (¬ bad → ∃ u v : State, exec (.freplay d a b) s = .next ((u.setG d (w64 count)).retire .seq) ∧
        u = v.retrySyncs (fun y => y.parkedOn sid vpn) ∧ v.me.regs = s.me.regs ∧ v.dev.mem = s.dev.mem ∧ v.dev.syncs = s.dev.syncs ∧
        (∀ r, r ∈ (v.dev.stave n).faults ↔ r ∈ (s.dev.stave n).faults ∧ ¬ hit r) ∧
        (∀ m, m ≠ n → (v.dev.stave m).faults = (s.dev.stave m).faults)) ∧
      (¬ bad → (∀ y ∈ s.dev.syncs, y.parkedOn sid vpn = false) → ∃ t : State, exec (.freplay d a b) s = .next t ∧
        (d ≠ 0 → t.g d = w64 count) ∧ (∀ r, r ≠ d → t.g r = s.g r) ∧ (∀ r, t.v r = s.v r) ∧ (∀ r, t.p r = s.p r) ∧
        (∀ r ∈ (t.dev.stave n).faults, ¬ hit r) ∧ (∀ r ∈ (s.dev.stave n).faults, ¬ hit r → r ∈ (t.dev.stave n).faults) ∧
        t.dev.mem = s.dev.mem)) ∧
    (Clear (.fkill d a b) s →
      let bad := field x 6 2 ≠ 0 ∨ field x 12 52 ≠ 0
      let job : BitVec 6 := x.extractLsb' 0 6
      (bad → Gives (.fkill d a b) s (s.setG d 2)) ∧
      (¬ bad → s.stave.job? job = none → Gives (.fkill d a b) s (s.setG d 1)) ∧
      (∀ j, ¬ bad → s.stave.job? job = some j →
        exec (.fkill d a b) s = .next (((s.endJob s.me.stave job (0x10 + field x 8 4) (s.g a)).setG d 0).retire .seq))) ∧
    (Clear (.fqack d a) s →
      let t := s.stave
      let h : BitVec 32 := (s.g a).setWidth 32
      let far := (t.fqTail - t.fqHead).toNat < (h - t.fqHead).toNat
      (far → Gives (.fqack d a) s (s.setG d 1)) ∧
      (¬ far → ∃ u : State, exec (.fqack d a) s = .next ((u.setG d 0).retire .seq) ∧ u.stave.fqHead = h ∧ u.me.regs = s.me.regs))

/-! ## Jobs, staves and the shop (03, 05) -/

/-- LAUNCH and the requests of the STAVE/SHOP group answer by Table 9 of 05 and Table 4 of 03, and only with 0 does anything happen
but what a refused launch reports (R77 to R79, R121, R124, R125, R127, R128, R131, R132, R134; in recovery no cluster joins a stave: R454,
log 38): a grown stave owns the units, a shrunk one has them leaving, a mapped entry stands in the map, a transition has begun or its table is in force, a move is
accepted, a unit is quarantined, a job stands in the stave. -/
def Obligations.StaveRequestsAreAnswered : Prop :=
  ∀ (s : State) (d a b : Reg),
    let w := s.g a
    let n := reqStave w
    (∀ i ∈ [Instr.stvgrow d a b, .stvshrink d a b, .migrate d a b, .quar d a b], Clear i s → (s.g b).toNat % 16 ≠ 0 →
      exec i s = .next (s.trapEntry 0x03 (s.g b) s.me.trapPc)) ∧
    ((s.g b).toNat % 16 = 0 →
      (Clear (.stvgrow d a b) s →
        ((reqBad w = true ∨ (s.dev.boot = .recovery ∧ reqKind w = 0)) → Gives (.stvgrow d a b) s (s.setG d 5)) ∧
        (reqBad w = false → (s.dev.boot = .recovery → reqKind w ≠ 0) → (∃ u ∈ reqUnits w, s.dev.isFree u = false) →
          Gives (.stvgrow d a b) s (s.setG d 2)) ∧
        (reqBad w = false → (s.dev.boot = .recovery → reqKind w ≠ 0) → (∀ u ∈ reqUnits w, s.dev.isFree u = true) → ∃ t : State, Gives (.stvgrow d a b) s (t.setG d 0) ∧
          (∀ u ∈ reqUnits w, t.dev.ownState u.1 u.2 n = some .owned) ∧
          (∀ k id, (k, id) ∉ reqUnits w → t.dev.own k id = s.dev.own k id))) ∧
      (Clear (.stvshrink d a b) s →
        (reqBad w = true → Gives (.stvshrink d a b) s (s.setG d 5)) ∧
        (reqBad w = false → (∃ u ∈ reqUnits w, s.dev.ownState u.1 u.2 n = some .draining) →
          Gives (.stvshrink d a b) s (s.setG d 1)) ∧
        (reqBad w = false → (shrinkAct w (s.g b) s).1 = .ok → ∃ t : State, Gives (.stvshrink d a b) s (t.setG d 0) ∧
          (∃ x, (t.dev.stave n).shrinks.getLast? = some x ∧ x.word = w ∧ x.sync = s.g b) ∧
          (∀ u ∈ reqUnits w, t.dev.ownState u.1 u.2 n = some (if u.1 = .cluster then .draining else .scrub)))) ∧
      (Clear (.migrate d a b) s →
        ((migrateAct w (s.g b) s).1 ≠ .ok → Gives (.migrate d a b) s (s.setG d (migrateAct w (s.g b) s).1.code)) ∧
        (∀ j i, zeroAt w 6 10 = true → zeroAt w 29 3 = true → zeroAt w 45 19 = true → field w 35 8 < 200 → (s.dev.stave n).ledBy (w.extractLsb' 16 13) = some (j, i) →
          field w 32 13 % i.lcores.length = 0 → i.moving = false → (s.me.ctl.mode = .stave → n = s.me.stave) →
          (∀ k ∈ slotCores (field w 32 13) i.lcores.length, s.coreFree n [] k = true) →
          ∃ t : State, Gives (.migrate d a b) s (t.setG d 0) ∧ ∃ m, (t.dev.stave n).moves = (s.dev.stave n).moves ++ [m] ∧
            m.job = j.num ∧ m.stage = i.stage ∧ m.inst = i.num ∧ m.dest = some (field w 32 13) ∧ m.sync = s.g b)) ∧
      (Clear (.quar d a b) s →
        (unitBad w = true → Gives (.quar d a b) s (s.setG d 5)) ∧
        (unitBad w = false → (quarAct w (s.g b) s).1 ≠ .noSpare → ∃ t : State, Gives (.quar d a b) s (t.setG d 0) ∧
          t.dev.quarantined.contains (w.setWidth 32) = true))) ∧
    (Clear (.stvmap d a b) s →
      let r := mapAct w (s.g b) s
      (r.1 ≠ .ok → Gives (.stvmap d a b) s (s.setG d r.1.code)) ∧
      (r.1 = .ok → ∃ t : State, Gives (.stvmap d a b) s (t.setG d 0) ∧ (t.dev.stave n).entry (field w 16 13) = (s.g b).setWidth 16 ∧
        (∀ l, l ≠ field w 16 13 → (t.dev.stave n).entry l = (s.dev.stave n).entry l) ∧ t.dev.mem = s.dev.mem)) ∧
    (∀ x s1, (s.g b).toNat % 128 = 0 → s.noPol.readBytes 18 (s.g b) 2176 = .ok (x, s1) → Clear (.rhashBegin d a b) s →
      let r := beginAct (s1.g a) x s1
      (r.1 ≠ .ok → Gives (.rhashBegin d a b) s (s1.setG d r.1.code)) ∧
      (r.1 = .ok → ∃ t : State, Gives (.rhashBegin d a b) s (t.setG d 0) ∧
        ∃ y, (t.dev.stave (reqStave (s1.g a))).trans = some y ∧ y.swept = false ∧ y.handed = [] ∧
          (∀ k (h : k < 1024), y.buckets[k].toNat = x / 2 ^ (16 * k) % 2 ^ 16) ∧
          (∀ k (h : k < 10), y.masks[k].toNat = x / 2 ^ (8 * 0x800 + 64 * k) % 2 ^ 64))) ∧
    (Clear (.rhashCommit d a) s →
      ((s.dev.stave n).trans = none → Gives (.rhashCommit d a) s (s.setG d 5)) ∧
      (∀ y, (s.dev.stave n).trans = some y →
        (64 ≤ w.toNat → Gives (.rhashCommit d a) s (s.setG d 5)) ∧
        (w.toNat < 64 → y.swept = false → Gives (.rhashCommit d a) s (s.setG d 6)) ∧
        (w.toNat < 64 → y.swept = true → (∀ k ∈ s.cores, ∀ l o, (s.coreAt k).wait ≠ some (.host l o)) →
          ∃ t : State, Gives (.rhashCommit d a) s (t.setG d 0) ∧ (t.dev.stave n).trans = none ∧
            (t.dev.stave n).buckets = y.buckets ∧ (t.dev.stave n).smask = y.masks ∧ t.dev.mem = s.dev.mem))) ∧
    (Clear (.launch d a) s →
      (w.toNat % 128 ≠ 0 → exec (.launch d a) s = .next (s.trapEntry 0x03 w s.me.trapPc)) ∧
      (∀ x s1, w.toNat % 128 = 0 → s.noPol.load w 128 = .ok (x, s1) →
        let r := BitVec.ofNat 1024 x
        let twice := s1.stave.jobs.any fun j => j.jobid == r.extractLsb' 128 64
        (badRecord r = true → Gives (.launch d a) s ((s1.refuseLaunch r 2).setG d 2)) ∧
        (badRecord r = false → twice = true → Gives (.launch d a) s ((s1.refuseLaunch r 5).setG d 5)) ∧
        (badRecord r = false → twice = false → 64 ≤ s1.stave.jobs.length →
          Gives (.launch d a) s ((s1.refuseLaunch r 4).setG d 4)) ∧
        (∀ o s2, badRecord r = false → twice = false → s1.stave.jobs.length < 64 →
          s1.readObject (r.extractLsb' 192 64) = .ok (o, s2) →
          (o = none → Gives (.launch d a) s ((s2.refuseLaunch r 3).setG d 3)) ∧
          (∀ l, o = some l → Gives (.launch d a) s ((s2.irreversible.acceptJob r l).setG d 0)))))

/-! ## The steps of the device: the homes -/

namespace Sys2Proof.Claims

/-- A fill of a line into core k's L1 finds room without an eviction (R386). -/
def Roomy (s : State) (k line : Nat) : Prop :=
  line ∈ s.l1Lines k (line % 16) ∨ (s.l1Lines k (line % 16)).length < 16

/-- The directory entry of a line under an SID becomes that of given segments, every other line's stays, and so does memory. -/
def SegsBecome (s t : State) (line : Nat) (sid : BitVec 16) (segs : List Seg) : Prop :=
  (t.dev.dirLine line sid).segs = segs ∧ (∀ l i, l ≠ line → t.dev.dirLine l i = s.dev.dirLine l i) ∧ t.dev.mem = s.dev.mem

/-- No slice holds a pushed copy of any line, which it could lose to make room for another (R375). -/
def NoPushed (s : State) : Prop := ∀ d ∈ s.dev.dir, ∀ v ∈ d.valid, v.1 < 8192 ∨ 9216 ≤ v.1

/-- Nothing else comes with a request of core k for a line under an SID: no push of the line is on its way (R388), no cache holds the
line under another SID (R274), no slice gives up a pushed copy for it, and no push note of it can ride or wait (R373). -/
def Quiet (s : State) (k line : Nat) (sid : BitVec 16) : Prop :=
  (∀ x ∈ s.dev.pushes, x.line ≠ line) ∧ (∀ d ∈ s.dev.dir, d.line = line → d.sid = sid) ∧ NoPushed s ∧
    (∀ q ∈ s.cores, ∀ w ∈ (s.coreAt q).l1, w.word / 16 = line → w.sid = sid) ∧ (∀ x ∈ (s.coreAt k).notes, x.line ≠ line) ∧
    ∀ m, (s.coreAt k).member = some m → ∀ j ∈ (s.dev.stave (s.coreAt k).stave).jobs, ∀ p ∈ j.pats.toList, p.st ≠ .play

/-- A core is live and runs a context of an SID. -/
def Runs (s : State) (k : Nat) (sid : BitVec 16) : Prop := (s.coreAt k).live = true ∧ (s.coreAt k).ctl.sid = sid

/-- A trap has been entered at a core: cause, value, resume address, the vector, ie off (R389). -/
def TrappedAt (s t : State) (k : Nat) (cause : BitVec 8) (val : W64) : Prop :=
  let c := s.coreAt k
  let u := t.coreAt k
  u.ctl.tcause = zext cause ∧ u.ctl.tval = val ∧ u.ctl.tpc = c.trapPc ∧ u.pc = c.ctl.tvec ∧ u.ctl.ie = false ∧
    u.regs = c.regs

end Sys2Proof.Claims

/-- What the homes and the engines do by themselves. Where nothing else comes with the request, a read joins the holders of its words,
alone on a new line in E; a write takes the words into M; a store at the home ends every copy; a load that keeps no copy changes no
entry (R278, R279); each first recalls the line from every other SID (R274). A rebuilt entry is gone (R436). A line of BPREF counts as
soon as its request is let through (R288); a sector lands, is parked or is refused (R296, R306); a push reaches its consumer (R375). A
host snoop gives the line back, written where the device owned it (that every snoop does is log 35, DEDUCED); a host line arrives,
poisoned or not, where CXL has trained (R443, R444, R446); HDM requests and peers read and write at the home, a read is answered with the
bytes there, one without a right with poison, and a store without a right does nothing (R447, R448, R452, R453). -/
def Obligations.HomesAndEnginesServe : Prop :=
  ∀ s : State,
    (∀ (k : Nat) (sid : BitVec 16) (line : Nat) (m : BitVec 16),
      let e := (s.dev.dirLine line sid).segs
      let ways := [Instr.readRequest k sid line m, .writeRequest k sid line m, .nonAllocatingRequest k sid line m true,
        .nonAllocatingRequest k sid line m false]
      (¬ (Runs s k sid ∧ m ≠ 0) → ∀ i ∈ ways, exec i s = .next s) ∧
      (Runs s k sid → m ≠ 0 → ∀ i ∈ ways, ∃ t : State, exec i s = .next t ∧
        (∀ d ∈ t.dev.dir, d.line = line → d.sid = sid) ∧ ∀ l ∈ t.dev.l2, l.line = line → l.sid = sid) ∧
      (Runs s k sid → m ≠ 0 → Quiet s k line sid →
        (∃ t : State, exec (.nonAllocatingRequest k sid line m true) s = .next t ∧ SegsBecome s t line sid (homeSegs m e)) ∧
        (∃ t : State, exec (.nonAllocatingRequest k sid line m false) s = .next t ∧ t.dev.dir = s.dev.dir ∧ t.dev.mem = s.dev.mem) ∧
        (Roomy s k line →
          (∃ t : State, exec (.readRequest k sid line m) s = .next t ∧ SegsBecome s t line sid (readSegs k m e)) ∧
          (∃ t : State, exec (.writeRequest k sid line m) s = .next t ∧ SegsBecome s t line sid (writeSegs k m e))) ∧
        ((∀ d ∈ s.dev.dir, d.line ≠ line) →
          (∃ t : State, exec (.readRequest k sid line m) s = .next t ∧
            (t.dev.dirLine line sid).segs = [⟨0, 15, .e, [k], some k, 0⟩]) ∧
          (∃ t : State, exec (.writeRequest k sid line m) s = .next t ∧
            (t.dev.dirLine line sid).segs = [⟨0, 15, .m, [k], some k, m⟩])))) ∧
    (∀ line, ∃ t : State, exec (.directoryRebuild line) s = .next t ∧ (∀ d ∈ t.dev.dir, d.line ≠ line) ∧
      ((∀ k, ∀ w ∈ (s.coreAt k).l1, w.word / 16 ≠ line) →
        t.dev.mem = s.dev.mem ∧ ∀ d, d ∈ t.dev.dir ↔ d ∈ s.dev.dir ∧ d.line ≠ line)) ∧
    (∀ (i line : Nat) (x : Bpref), s.dev.bprefs[i]? = some x →
      let gone := 16384 ≤ x.who.core ∧ x.who.core ≠ deadCore
      let q := (s.focus x.who.core).quietPlace x.who (x.addr - w64 (x.addr.toNat % 128) + w64 (128 * line)) false
      let ready := ∀ pa key cls, q.1 = some (pa, key, cls) →
        ∃ pl, (q.2.engineReady x.who (.phys pa key cls none) 128 false (if cls = .unc then uncAlloc key x.alloc else x.alloc)).1 = .ok pl
      ((x.lines ≤ line ∨ line ∈ x.donel ∨ gone) → exec (.bprefLine i line) s = .next s) ∧
      (line < x.lines → line ∉ x.donel → ¬ gone → ∃ t : State, exec (.bprefLine i line) s = .next t ∧
        let l := insertNat line x.donel
        (ready → t.dev.bprefs = if l.length = x.lines then listDrop s.dev.bprefs i else listSet s.dev.bprefs i { x with donel := l }) ∧
        (¬ ready → t.dev.bprefs = s.dev.bprefs))) ∧
    (∀ (k : Nat) (ch : BitVec 2) (i : Nat) (cp : Copy) (x : Sector),
      let chan := (s.coreAt k).chan ch.toNat
      let tm := tmplOf cp.tmpl
      let data := (s.focus k).sectorData cp.who tm cp.arg x
      let goal := data.2.enginePlace cp.who (tm.dstOf cp.arg x) .write x.len s.dev.budget
      k ≠ deadCore → chan.active = some cp → (tm.sectors cp.arg)[i]? = some x → i ∉ cp.landed →
      cp.parked.any (fun y => y.1 == i) = false → i < cp.first + 64 → s.forkWaits k cp.fork = false →
      ((data.1 = .stop .refused ∨
          ∃ l b, data.1 = .ok l [] b ∧ ((∃ pl, goal.1 = .ok pl) ∨ goal.1 = .denied ∨ goal.1 = .refused)) →
        ∃ t : State, exec (.copySector k ch i) s = .next t ∧
          (if (insertNat i cp.landed).length = (tm.sectors cp.arg).length then (t.coreAt k).chan ch.toNat = chan.next
           else (t.coreAt k).chan ch.toNat = { chan with active := some (cp.after i) } ∧
             (cp.after i).landed = insertNat i cp.landed ∧ (cp.after i).tmpl = cp.tmpl ∧ (cp.after i).arg = cp.arg)) ∧
      (∀ page, (data.1 = .stop (.parked page) ∨ ∃ l b, data.1 = .ok l [] b ∧ goal.1 = .parked page) →
        ∃ t : State, exec (.copySector k ch i) s = .next t ∧
          (t.coreAt k).chan ch.toNat = { chan with active := some { cp with parked := cp.parked ++ [(i, page)] } })) ∧
    (∀ (i : Nat) (x : Push), s.dev.pushes[i]? = some x →
      ∃ t : State, exec (.pushDelivery i) s = .next t ∧ t.dev.pushes = listDrop s.dev.pushes i ∧
        ∀ k, s.consumer x = some k → (∀ d ∈ s.dev.dir, d.line = x.line → d.sid = x.sid) →
          ¬ (x.dest = true ∧ s.dev.homeHolds x.stave (clusterOf k) x.line = true) →
          let h := if x.dest then 8192 + clusterOf k else k
          (s.dev.dirLine x.line x.sid).holds h x.span = false →
            (t.dev.dirLine x.line x.sid).holds h x.span = true ∧
            t.dev.unread.getLast? = some ⟨x.line, x.span, h, x.stave, x.lcore, x.job, x.pat⟩) ∧
    (∀ h : Nat,
      (h ∉ s.dev.devHolds → exec (.hostSnoop h) s = .next s) ∧
      (h ∈ s.dev.devHolds → ∃ t : State, exec (.hostSnoop h) s = .next t ∧ h ∉ t.dev.devHolds ∧ h ∉ t.dev.devOwns ∧
        (h ∈ s.dev.devOwns → ∃ w ∈ t.dev.hostSent, w.hline = h) ∧
        ((∀ x ∈ s.dev.pushes, x.line ≠ h / 2) → NoPushed s →
          ((∀ d ∈ s.dev.dir, d.line ≠ h / 2) → t.dev.dir = s.dev.dir) ∧
          ∀ d, s.dev.dir.find? (fun d => d.line == h / 2) = some d →
            SegsBecome s t (h / 2) d.sid (homeSegs (halfMask h) d.segs))) ∧
      (s.awaitsHost h false = false → exec (.hostDataResponse h) s = .next s) ∧
      (s.awaitsHost h false = true → isHostLine h = true →
        (s.dev.cxl = true → ∃ t : State, exec (.hostDataResponse h) s = .next t ∧ h ∈ t.dev.devHolds ∧
          (s.awaitsHost h true = true → h ∈ t.dev.devOwns)) ∧
        (s.dev.cxl = false → exec (.hostDataResponse h) s = .next s)) ∧
      (s.awaitsHost h false = true → isHostLine h = false →
        ∃ t : State, exec (.hostDataResponse h) s = .next t ∧
          ∀ d, t.dev.dir.find? (fun d => d.line == h / 2) = some d → d.has hostHolder &&& halfMask h = 0) ∧
      (s.awaitsHost h false = false → h ∉ s.dev.devHolds → exec (.hostPoisonResponse h) s = .next s) ∧
      ((s.awaitsHost h false = true ∧ isHostLine h = true ∧ s.dev.cxl = true) ∨ (s.awaitsHost h false = false ∧ h ∈ s.dev.devHolds) →
        ∃ t : State, exec (.hostPoisonResponse h) s = .next t ∧ h ∈ t.dev.devHolds ∧ ∀ i < 8, 8 * h + i ∈ t.dev.poison)) ∧
    (∀ (hpa : Nat) (w : Bool) (data : BitVec 512),
      let target := s.dev.hdmTarget (hpa / 64 * 64)
      (s.dev.link = .down → exec (.hostMemRequest hpa w data) s = .next s) ∧
      (∀ n, s.dev.link = .pcie n → hpa < bar0Base 0 → exec (.hostMemRequest hpa w data) s = .next s) ∧
      (∀ n, s.dev.link = .cxl n → hpa < bar0Base 0 → target = none →
        exec (.hostMemRequest hpa true data) s = .next s ∧
        ∃ (t : State) (y : BitVec 512), exec (.hostMemRequest hpa false data) s = .next t ∧ t.dev.answer = some ⟨none, hpa, y, true⟩) ∧
      (∀ n key st, s.dev.link = .cxl n → hpa < bar0Base 0 → target = some (key, st) →
        (s.canonical → s.looseSpan .dir key 64 = false → ∃ t : State, exec (.hostMemRequest hpa true data) s = .next t ∧
          t.dev.peek key 64 = data.toNat) ∧
        (let sid : BitVec 16 := st ++ (0x3FF : BitVec 10)
         Quiet s hostHolder (key / 128) sid → ∃ t : State, exec (.hostMemRequest hpa false data) s = .next t ∧
          SegsBecome s t (key / 128) sid (readSegs hostHolder (halfMask (key / 64)) (s.dev.dirLine (key / 128) sid).segs) ∧
          (s.looseSpan .dir key 64 = false → t.dev.answer =
            some ⟨none, hpa, BitVec.ofNat 512 (s.dev.peek key 64), (firstPoison s.dev.poison key 64).isSome⟩)))) ∧
    (∀ (dev : BitVec 9) (pa : Nat) (kind : BitVec 9) (data : BitVec 512),
      let n := peerBytes kind
      let key := pa % 2 ^ 43 / n * n
      let y := data.toNat % 256 ^ n
      let go := Instr.peerAccess dev pa kind data
      (s.dev.paKind pa ≠ .dram → exec go s = .next s) ∧
      (s.dev.paKind pa = .dram → s.dev.peerPermitted dev key (peerWrites kind) = false →
        (field kind 0 2 = 1 → exec go s = .next s) ∧
        (field kind 0 2 ≠ 1 → ∃ (t : State) (x : BitVec 512), exec go s = .next t ∧ t.dev.mem = s.dev.mem ∧
          t.dev.answer = some ⟨some dev, pa, x, true⟩)) ∧
      (s.canonical → s.dev.paKind pa = .dram → s.dev.peerPermitted dev key (peerWrites kind) = true → s.looseSpan .dir key n = false →
        (field kind 0 2 = 1 → ∃ t : State, exec go s = .next t ∧ t.dev.peek key n = y) ∧
        (field kind 0 2 ≠ 1 → (∀ x ∈ s.dev.pushes, x.line ≠ key / 128) →
          (firstPoison s.dev.poison key n).isSome = true →
          ∃ (t : State) (x : BitVec 512), exec go s = .next t ∧ t.dev.mem = s.dev.mem ∧ t.dev.answer = some ⟨some dev, pa, x, true⟩) ∧
        (field kind 0 2 ≠ 1 → (∀ x ∈ s.dev.pushes, x.line ≠ key / 128) →
          (firstPoison s.dev.poison key n).isSome = false →
          ∃ t : State, exec go s = .next t ∧ t.dev.answer = some ⟨some dev, pa, BitVec.ofNat 512 (s.dev.peek key n), false⟩ ∧
            (field kind 0 2 = 0 → t.dev.mem = s.dev.mem) ∧
            (field kind 0 2 ≠ 0 → field kind 5 4 = 1 → t.dev.peek key n = (s.dev.peek key n + y) % 256 ^ n))))

/-! ## The steps of the device: cores and the network -/

/-- What reaches a core: a remote store is performed where its line is full and goes back as a report that lowers UNACK; a
remote access is granted; messages and end-of-stream words enter their slots, and wait where there is no room; a command is
accepted, refused or waits, and runs when it may; an item refused for 2,048 cycles goes to the inbox (R257, R258, R265, R266,
R343, R404). A stalled world access (R326), an interrupt (R393), and an uncorrectable error trap; IDLE's limit passes (R409); a
trigger rolls the domain back, traps or ends the job (R432, R433), and that one of a member in no checkpointed superstep ends the job as
one in an unprotected superstep does, and that a core of no instance takes the trap, is log 107 (DEDUCED); an instance is pre-empted
(R400). -/
def Obligations.CoresAreReached : Prop :=
  ∀ s : State,
    (∀ (i : Nat) (x : NetItem) (k : Nat), s.dev.net[i]? = some x → s.mustWait i x = false → x.peer = false → x.stage = none →
      s.coreFor x.stave x.dst.toNat x.tag = some k →
      let c := s.coreAt k
      let slot := c.slot x.slot.toNat
      let mine := x.srcTag = 0 ∨ c.member.map (·.job) = some x.job
      (x.kind = .store →
        (c.loc.empty.contains (x.off / 128) = true → exec (.remoteStorePerform i) s = .next s) ∧
        (c.loc.empty.contains (x.off / 128) = false → ∃ t : State, exec (.remoteStorePerform i) s = .next t ∧
          (t.coreAt k).loc = c.loc.store x.off x.size x.data.toNat ∧
          t.dev.net = if x.inbox then listDrop s.dev.net i else listSet s.dev.net i { x with kind := .report })) ∧
      (x.kind = .message → mine → slot.bound = true → field slot.bind 16 12 = x.stream.toNat →
        (s.logAllows k x.slot.toNat x.src x.stream).1 = true →
        (slot.bind.getLsbD 1 = false →
          (slot.cap ≤ (slot.tail - slot.head).toNat → exec (.messageArrival i) s = .next s) ∧
          ((slot.tail - slot.head).toNat < slot.cap → ∃ t : State, exec (.messageArrival i) s = .next t ∧
            (t.coreAt k).loc = c.loc.store slot.ringAt 64 x.data.toNat ∧
            (t.coreAt k).slot x.slot.toNat = { slot with tail := slot.tail + 1 } ∧ (t.coreAt k).accepted = true ∧
            t.dev.net = listDrop s.dev.net i)) ∧
        (slot.bind.getLsbD 1 = true →
          let q := field slot.bind 2 3
          (16 ≤ (c.queue q).length → exec (.messageArrival i) s = .next s) ∧
          ((c.queue q).length < 16 → ∃ t : State, exec (.messageArrival i) s = .next t ∧
            (t.coreAt k).queue q = c.queue q ++ [⟨x.data, 0⟩] ∧ t.dev.net = listDrop s.dev.net i))) ∧
      (x.kind = .eos → mine → slot.bound = true → field slot.bind 16 12 = x.stream.toNat →
        (s.eosReady x = false → exec (.endOfStreamArrival i) s = .next s) ∧
        (s.eosReady x = true → ∃ t : State, exec (.endOfStreamArrival i) s = .next t ∧
          (t.coreAt k).slot x.slot.toNat = { slot with eos := slot.eos + 1 } ∧ t.dev.net = listDrop s.dev.net i)) ∧
      (∀ m, x.kind = .command → x.cmd = some m →
        (s.checkCommand k m = none → 32 ≤ c.mcmds.length → exec (.matrixCommandArrival i) s = .next s) ∧
        (s.checkCommand k m = none → c.mcmds.length < 32 → ∃ t : State, exec (.matrixCommandArrival i) s = .next t ∧
          (t.coreAt k).mcmds = c.mcmds ++ [m] ∧ t.dev.net = listDrop s.dev.net i) ∧
        (∀ st, s.checkCommand k m = some st → ∃ t : State, exec (.matrixCommandArrival i) s = .next t ∧
          (t.coreAt k).mcmds = c.mcmds ∧ t.dev.net = listDrop s.dev.net i))) ∧
    (∀ (i : Nat) (x : NetItem) (k : Nat), s.dev.net[i]? = some x → x.kind = .report →
      s.coreFor x.stave x.src.toNat x.srcTag = some k → ∃ t : State, exec (.remoteStoreAck i) s = .next t ∧
        t.dev.net = listDrop s.dev.net i ∧ (t.coreAt k).ctl.unack = (s.coreAt k).ctl.unack - 1) ∧
    (∀ (k : Nat) (m : MCmd) (rest : List MCmd), k ≠ deadCore → (s.coreAt k).mcmds = m :: rest →
      ((s.coreAt k).live = false ∨ (s.focus k).commandReady m = false → exec (.matrixCommandRun k) s = .next s) ∧
      (∀ z ev b, (s.coreAt k).live = true → (s.focus k).commandReady m = true → m.instr = some (.zclr z ev b) →
        ∃ t : State, exec (.matrixCommandRun k) s = .next t ∧ (t.coreAt k).mcmds = rest ∧
          (t.focus k).z z = .replicate 256 0 ∧ (t.coreAt k).ctl.pix = (s.coreAt k).ctl.pix)) ∧
    (∀ (i : Nat) (x : NetItem) (since : W64) (w : Whereabouts), s.dev.net[i]? = some x → x.refused = some since →
      s.whereIs x.stave x.dst.toNat x.tag = some w →
      let base := s.areaAt x.stave w
      let n := match w with
        | .core k => (s.coreAt k).inbox.length
        | .absent _ | .saved _ => s.inboxCount base
      let here := (s.coreFor x.stave x.dst.toNat x.tag).isSome
      ((base = 0 ∨ (s.dev.cycle - since).toNat < 2048 ∨ 128 ≤ n ∨ here = true) → exec (.inboxDiversion i) s = .next s) ∧
      (s.canonical → base ≠ 0 → here = false → 2048 ≤ (s.dev.cycle - since).toNat → x.kind = .message → s.mustWait i x = false → n < 128 →
        ∃ t : State, exec (.inboxDiversion i) s = .next t ∧ t.dev.net = listDrop s.dev.net i ∧
          t.inboxCount base = n + 1 ∧ (t.contextAt x.stave w).inbox = (s.contextAt x.stave w).inbox ++ [x])) ∧
    (∀ (k : Nat) (va : W64) (got : List W64), (s.coreAt k).wait = some (.remote va got) →
      (va ∈ got → exec (.remoteAccess k) s = .next s) ∧
      (va ∉ got → field va 48 16 = 0xFFFE → (∀ x ∈ s.dev.net, x.kind ≠ .store) →
        (∃ q, (s.dev.stave (s.coreAt k).stave).coreOf? (field va 18 13) = some q ∧ (s.coreAt q).live = true) →
        ∃ t : State, exec (.remoteAccess k) s = .next t ∧ t.coreAt k = { s.coreAt k with wait := some (.remote va (va :: got)) })) ∧
    (∀ (k : Nat) (w : WorldWait), (s.coreAt k).wait = some (.world w) →
      let limit := field (s.dev.stave (s.coreAt k).stave).wwait 0 32 * 1024
      ((s.dev.cycle - w.since).toNat ≤ limit → exec (.worldStall k) s = .next s) ∧
      (limit < (s.dev.cycle - w.since).toNat → w.answer = none → (s.coreAt k).bond ≠ .gang →
        ∃ t : State, exec (.worldStall k) s = .next t ∧ TrappedAt s t k 0x0A w.handle)) ∧
    (∀ k : Nat,
      ((s.coreAt k).interruptDue = false → exec (.interrupt k) s = .next s) ∧
      ((s.coreAt k).interruptDue = true → (s.coreAt k).bond ≠ .gang →
        (∀ v, (s.coreAt k).async = some v → (s.coreAt k).member = none →
          ∃ t : State, exec (.interrupt k) s = .next t ∧ TrappedAt s t k 0x0F v ∧ (t.coreAt k).async = none) ∧
        (∀ x rest, (s.coreAt k).async = none → (s.coreAt k).irqs = x :: rest →
          ∃ t : State, exec (.interrupt k) s = .next t ∧ (t.coreAt k).irqs = rest ∧
            (∀ area, x = .preempt area → TrappedAt s t k 0x12 area) ∧ ∀ word, x = .moved word → TrappedAt s t k 0x15 word))) ∧
    (∀ (k : Nat) (since limit : W64), (s.coreAt k).wait = some (.idle since limit false) → limit ≠ 0 →
      limit.toNat ≤ (s.dev.cycle - since).toNat → ∃ t : State, exec (.idleTimeout k) s = .next t ∧
        t.coreAt k = { s.coreAt k with wait := some (.idle since limit true) }) ∧
    (∀ (k : Nat) (cause : BitVec 8) (val : W64) (m : Member) (j : Job),
      let n := (s.coreAt k).stave
      (s.coreAt k).wait = some (.trigger cause val) → (s.coreAt k).member = some m → (s.dev.stave n).job? m.job = some j →
      ((∀ d, j.ckpt? m = some d → d.ck.unprot = true ∨ d.ck.rerun = true) →
        (cause = 0x10 → (s.coreAt k).bond ≠ .gang → ∃ t : State, exec (.rollback k) s = .next t ∧ TrappedAt s t k 0x10 val) ∧
        (cause ≠ 0x10 → ∃ (t : State) (j' : Job), exec (.rollback k) s = .next t ∧ (t.dev.stave n).job? m.job = some j' ∧
          j'.insts = [] ∧ (j.status = none → j'.status = some (BitVec.ofNat 16 (triggerStatus cause)) ∧ j'.reason = val))) ∧
      (∀ d, j.ckpt? m = some d → d.ck.unprot = false → d.ck.rerun = false → cause = 0x10 ∨ cause = 0x11 →
        s.ckPoisoned n d (j.counted d) = none →
        ∃ (t : State) (j' : Job), exec (.rollback k) s = .next t ∧ (t.dev.stave n).job? m.job = some j' ∧
          j'.nrollbacks = j.nrollbacks + 1 ∧ j'.rolled = true)) ∧
    (∀ (u : BitVec 32) (site : BitVec 3) (addr : Nat),
      (let old := ((s.dev.errors.find? fun x => x.1 == u).map (·.2)).getD 0
       ∃ t : State, exec (.errorDetected u site true addr) s = .next t ∧
        (t.dev.errors.find? fun x => x.1 == u).map (·.2) = some (old + 1)) ∧
      (field u 28 4 = 1 → addr < 0x30000 → ∃ t : State, exec (.errorDetected u 0 false addr) s = .next t ∧
        addr / 8 ∈ (t.coreAt (unitCore u)).loc.poison) ∧
      (field u 28 4 ≠ 1 → addr < 2 ^ 38 ∨ addr / 64 ∈ s.dev.devHolds →
        ∃ t : State, exec (.errorDetected u 0 false addr) s = .next t ∧ addr / 8 ∈ t.dev.poison) ∧
      (field u 28 4 = 1 → 0x30000 ≤ addr → (∃ x ∈ (s.coreAt (unitCore u)).l1, x.word = addr / 8) →
        ∃ t : State, exec (.errorDetected u 0 false addr) s = .next t ∧
          ∀ x ∈ (t.coreAt (unitCore u)).l1, x.word = addr / 8 → x.bad = true) ∧
      (let c := s.coreAt (unitCore u)
       field u 28 4 = 1 → c.live = true → c.stopped = false → c.finished = false → c.bond ≠ .gang →
        (c.member = none → ∃ t : State, exec (.errorDetected u 1 false addr) s = .next t ∧ TrappedAt s t (unitCore u) 0x11 0) ∧
        (c.member ≠ none → ∃ t : State, exec (.errorDetected u 1 false addr) s = .next t ∧
          (t.coreAt (unitCore u)).wait = some (.trigger 0x11 0)))) ∧
    (∀ (k : Nat) (m : Member) (i : Inst),
      let n := (s.coreAt k).stave
      (s.coreAt k).live = true → (s.coreAt k).stopped = false → (s.coreAt k).member = some m →
      (∃ x ∈ (s.dev.stave n).moves, x.job = m.job ∧ x.stage = m.stage ∧ x.inst = m.inst ∧ x.dest = none) →
      ((s.dev.stave n).job? m.job).bind (fun j => j.inst? m.stage m.inst) = some i → i.cores ≠ [] →
      field (s.dev.stave n).savebase 19 33 ≠ 0 →
      ∃ (t : State) (i' : Inst), exec (.preEmption k) s = .next t ∧
        ((t.dev.stave n).job? m.job).bind (fun j => j.inst? m.stage m.inst) = some i' ∧ i'.cores = [] ∧
        ∃ r ∈ (t.dev.stave n).ready, r.job = m.job ∧ r.stage = m.stage ∧ r.inst = some m.inst)

/-! ## The steps of the device: jobs, placement, staves -/

namespace Sys2Proof.Claims

/-- Entry i of the ready queue after a failed reservation (R91). -/
def failed (r : Ready) (now : W64) : Ready :=
  let f := r.fails + 1
  { r with fails := f, notBefore := now + w64 (if f < 11 then 64 * 2 ^ (f - 1) else 65536), compacting := r.compacting || f == 3 }

/-- Ready-queue entries but for what a change of occupancy or a slot that becomes free changes in them: whether compaction is under way
for them, and the back-off of those that have failed three times (R102, R424). -/
def plain (l : List Ready) : List Ready :=
  l.map fun r => { r with compacting := false, notBefore := if 3 ≤ r.fails then 0 else r.notBefore }

/-- What a router has sent beyond its budget, which its next window starts with (log 22, DESIGN CHOICE). -/
def owed (s : State) (b : Nat × Nat) : Nat :=
  match s.dev.ownerOf (b.1 % 1024) with
  | some n => b.2 - (s.dev.stave n).limit (decide (1024 ≤ b.1))
  | none => 0

/-- The instance that placement commits for a stage on the slot at a core, and its first word, mode and mark (R93, R94). -/
def Placed (s t : State) (n job : BitVec 6) (stage c : Nat) (g : Stage) (j : Job) : Prop :=
  (∃ (j' : Job) (i : Inst), (t.dev.stave n).job? job = some j' ∧ i ∈ j'.insts ∧ i.stage = stage ∧ i.num = g.next ∧
    i.cores = slotCores c g.width ∧ i.lcores = (slotCores c g.width).map fun k => (s.coreAt k).lcore) ∧
  ∀ m < g.width, let k := c + m
    (t.coreAt k).live = true ∧ (t.coreAt k).pc = withField (j.text + g.entry) 0 2 0 ∧ (t.coreAt k).ctl.mode = .user ∧
      (t.coreAt k).member = some ⟨job, stage, g.next, m⟩

end Sys2Proof.Claims

/-- What the placement engine and the shop's engines do by themselves: a job retires with its record and its vector (R84); fill is
sampled and a window ends at multiples of CYCLE (R97); a request is placed (R90), fails and backs off (R91), ages (R101), is served
by compaction (R102) or pre-emption (R103); a pre-empted instance resumes, or its job ends where a tag fails (R402, R403); an
instance is withdrawn, ends or is restored (R98), moves (R133); a line is handed over (R130), a cluster enters SCRUB (R125), a
scrubbed unit is FREE unless quarantined (R117, R134), budgets are renewed (R115). The model's choices in it: pre-emption waits for three
failures and for a compaction that can serve the request (log 24, DEDUCED), a migration is one step and holds its cores while stores are out
(log 65), when compaction looks for a candidate (log 66), a scrub is one step (log 71; DESIGN CHOICES). -/
def Obligations.PlacementGoesOn : Prop :=
  ∀ (s : State) (n : BitVec 6),
    (∀ (job : BitVec 6) (j : Job), (s.dev.stave n).job? job = some j →
      ((j.status = none ∨ s.dev.shutdown = true) → exec (.jobCompletion n job) s = .next s) ∧
      (j.status ≠ none → s.dev.shutdown = false → j.insts = [] →
        ((s.strayStore n = true ∨ s.jobBusy n job = true) → exec (.jobCompletion n job) s = .next s) ∧
        (s.strayStore n = false → s.jobBusy n job = false → ∃ t : State, exec (.jobCompletion n job) s = .next t ∧ (t.dev.stave n).job? job = none ∧
          ((n.toNat, j.vector) ∈ s.dev.unmasked → t.dev.msix = s.dev.msix ++ [(n.toNat, j.vector)]) ∧
          ((n.toNat, j.vector) ∉ s.dev.unmasked → t.dev.msix = s.dev.msix ∧ (n.toNat, j.vector) ∈ t.dev.pendingMsix) ∧
          (∀ x ∈ t.dev.pushes, x.stave = n → x.job ≠ job) ∧
          ∀ key u, s.canonical → s.bringSpace j.space j.completion 64 true = some (key, u) →
            t.dev.peek key 64 = j.completionWord s.dev.cycle % 2 ^ 512))) ∧
    (boundaryDue s.dev.cycle 1024 (s.dev.stave n).lastSample = false → exec (.fillSample n) s = .next s) ∧
    (boundaryDue s.dev.cycle 1024 (s.dev.stave n).lastSample = true →
      ∃ t : State, exec (.fillSample n) s = .next t ∧ (t.dev.stave n).lastSample = s.dev.cycle.toNat ∧
        ∀ (j : Job) (i : Nat) (g : Stage), (s.dev.stave n).jobs = [j] → j.stages[i]? = some g → g.ready = true →
          s.stageOf n j.num i = some g ∧ t.stageOf n j.num i = some { g with
            samples := addEach g.samples ((j.inputs i).map fun r => s.waiting n j i r.2), nsamples := g.nsamples + 1 }) ∧
    (let v := s.dev.stave n
     let tune := v.pltune
     let takes := field tune 0 5 ≠ v.winNow ∧ boundaryDue s.dev.cycle (2 ^ field tune 0 5) v.winAt = true
     (¬ takes → boundaryDue s.dev.cycle (2 ^ v.winNow) v.lastWindow = false → exec (.placementWindowEnd n) s = .next s) ∧
     (takes ∨ boundaryDue s.dev.cycle (2 ^ v.winNow) v.lastWindow = true →
       ∃ t : State, exec (.placementWindowEnd n) s = .next t ∧ (t.dev.stave n).lastWindow = s.dev.cycle.toNat ∧
        (takes → (t.dev.stave n).winNow = field tune 0 5) ∧ (¬ takes → (t.dev.stave n).winNow = v.winNow) ∧
        ∀ (j : Job) (g : Stage), (s.dev.stave n).jobs = [j] → j.status = none → j.stages = [g] →
          (field tune 8 4 ≠ 8 → j.fillIs 0 g true (field tune 8 4) = true → s.mayGrow n j 0 g = true →
            (t.dev.stave n).ready = (s.dev.stave n).ready ++ [newReady j.num 0 none 1 (j.prio 0) true s.dev.cycle]))) ∧
    (∀ (i : Nat) (r : Ready), (s.dev.stave n).ready[i]? = some r → (s.dev.stave n).serves s.dev.cycle i = true →
      let e := if r.fails = 0 then (if r.inst = none then Instr.placementRequest n i else .resumption n i) else .backoffExpiry n i
      let u := s.fixRect n r.job r.stage
      (∀ g j, r.inst = none → u.stageOf n r.job r.stage = some g → (u.dev.stave n).job? r.job = some j →
        (u.slotsFor n g r.reserved r.need [] = none →
          ∃ t : State, exec e s = .next t ∧ (t.dev.stave n).ready[i]? = some (failed r s.dev.cycle)) ∧
        (∀ c, u.slotsFor n g r.reserved r.need [] = some [c] →
          ∃ t : State, exec e s = .next t ∧ plain (t.dev.stave n).ready = plain (listDrop (s.dev.stave n).ready i) ∧
            Placed s t n r.job r.stage c g j)) ∧
      (∀ num g j x, r.inst = some num → s.stageOf n r.job r.stage = some g → (s.dev.stave n).job? r.job = some j →
        j.inst? r.stage num = some x →
        (s.slotFor n g r.reserved [] = none →
          ∃ t : State, exec e s = .next t ∧ (t.dev.stave n).ready[i]? = some (failed r s.dev.cycle)) ∧
        (∀ c, s.slotFor n g r.reserved [] = some c →
          (s.instTags n x = true → s.instError n x = none → ∃ (t : State) (j' : Job) (x' : Inst), exec e s = .next t ∧
            (t.dev.stave n).job? r.job = some j' ∧ j'.inst? r.stage num = some x' ∧ x'.cores = slotCores c x.lcores.length) ∧
          (∀ (m : Member) (a : Nat), s.instTags n x = true → s.instError n x = some (m, a) → m.job = r.job →
            (∀ d, j.ckpt? m = some d → d.ck.unprot = true ∨ d.ck.rerun = true) →
            ∃ (t : State) (j' : Job), exec e s = .next t ∧ (t.dev.stave n).job? r.job = some j' ∧ j'.insts = [] ∧
              (j.status = none → j'.status = some 0x22 ∧ j'.reason = w64 a)) ∧
          (s.instTags n x = false → ∃ (t : State) (j' : Job), exec e s = .next t ∧
            (t.dev.stave n).job? r.job = some j' ∧ j'.insts = [] ∧ (j.status = none → j'.status = some 0x23))))) ∧
    (∀ (i : Nat) (r : Ready), (s.dev.stave n).ready[i]? = some r →
      (∃ t : State, exec (.aging n i) s = .next t ∧ (t.dev.stave n).ready[i]? =
        some (if r.prio < 7 ∧ 2 ^ 20 ≤ (s.dev.cycle - r.since).toNat then
          { r with prio := r.prio + 1, since := r.since + w64 (2 ^ 20), compacting := r.compacting || decide (3 ≤ r.fails) } else r)) ∧
      (∀ g, s.stageOf n r.job r.stage = some g → s.wanting n r = true →
        (∀ cand l, r.compacting = true → s.candidate n i r g = some (cand, l) → ∃ t : State, exec (.compaction n i) s = .next t ∧
          (t.dev.stave n).ready[i]? = some { r with reserved := insertNats cand r.reserved, compacting := false } ∧
          (t.dev.stave n).moves = (s.dev.stave n).moves ++
            l.map fun m => ⟨m.1.num, m.2.1.stage, m.2.1.num, some m.2.2, 0, noIssuer⟩) ∧
        (r.compacting = true → s.candidate n i r g = none → ∃ t : State, exec (.compaction n i) s = .next t ∧
          (t.dev.stave n).ready[i]? = some { r with compacting := false } ∧ (t.dev.stave n).moves = (s.dev.stave n).moves) ∧
        (r.compacting = true → s.candidate n i r g ≠ none → exec (.preemptionDecision n i) s = .next s) ∧
        (3 ≤ r.fails → (r.compacting = false ∨ s.candidate n i r g = none) → field (s.dev.stave n).savebase 19 33 ≠ 0 →
          (∃ cl ∈ s.slotsOf n g, ∃ c ∈ cl, s.occupied n i r c = true ∧
            ∀ x ∈ (s.dev.stave n).occupants c, mayPreempt r s.dev.cycle x = true) →
          ∃ (t : State) (c : List Nat) (o : List (Job × Inst)), exec (.preemptionDecision n i) s = .next t ∧ o ≠ [] ∧
            o = (s.dev.stave n).occupants c ∧ (∀ x ∈ o, mayPreempt r s.dev.cycle x = true) ∧
            (t.dev.stave n).ready[i]? = some { r with reserved := insertNats c r.reserved, compacting := false } ∧
            (t.dev.stave n).moves = (s.dev.stave n).moves ++
              o.map fun x => ⟨x.1.num, x.2.stage, x.2.num, none, 0, noIssuer⟩)) ∧
      ((r.compacting = false ∨ s.wanting n r = false) → exec (.compaction n i) s = .next s) ∧
      ((r.fails < 3 ∨ s.wanting n r = false ∨ field (s.dev.stave n).savebase 19 33 = 0) →
        exec (.preemptionDecision n i) s = .next s)) ∧
    (∀ (job : BitVec 6) (stage num : Nat) (g : Stage) (j : Job) (x : Inst), s.stageOf n job stage = some g →
      (s.dev.stave n).job? job = some j → j.inst? stage num = some x → g.removing = some num →
      (x.withdrawn = false → s.removable x = false → exec (.instanceRemoval n job stage num) s = .next s) ∧
      (x.withdrawn = false → s.removable x = true → ∃ (t : State) (j' : Job), exec (.instanceRemoval n job stage num) s = .next t ∧
        (t.dev.stave n).job? job = some j' ∧ j'.inst? stage num = some { x with withdrawn := true }) ∧
      (x.withdrawn = true → s.onTheWay n x = true → exec (.instanceRemoval n job stage num) s = .next s) ∧
      (x.withdrawn = true → s.onTheWay n x = false → s.removable x = true → ∃ t : State,
        exec (.instanceRemoval n job stage num) s = .next t ∧
        ∀ j', (t.dev.stave n).job? job = some j' → j'.inst? stage num = none) ∧
      (x.withdrawn = true → s.onTheWay n x = false → s.removable x = false → ∃ (t : State) (j' : Job) (g' : Stage),
        exec (.instanceRemoval n job stage num) s = .next t ∧ (t.dev.stave n).job? job = some j' ∧
        j'.inst? stage num = some { x with withdrawn := false } ∧ t.stageOf n job stage = some g' ∧ g'.removing = none)) ∧
    (∀ (i : Nat) (m : Move) (c : Nat) (g : Stage) (j : Job) (x : Inst), (s.dev.stave n).moves[i]? = some m → m.dest = some c →
      s.stageOf n m.job m.stage = some g → (s.dev.stave n).job? m.job = some j → j.inst? m.stage m.inst = some x →
      (field (s.dev.stave n).savebase 19 33 = 0 → exec (.migration n i) s = .next (s.settleShrinks n)) ∧
      (field (s.dev.stave n).savebase 19 33 ≠ 0 → s.destOk n (slotCores c g.width) = true → s.storesOut x = true →
        ∃ t : State, exec (.migration n i) s = .next t ∧ (t.dev.stave n).moves = (s.dev.stave n).moves ∧
          ∀ k ∈ x.cores, (t.coreAt k).held = true) ∧
      (field (s.dev.stave n).savebase 19 33 ≠ 0 → s.destOk n (slotCores c g.width) = true → s.storesOut x = false →
        ∃ (t : State) (j' : Job) (x' : Inst), exec (.migration n i) s = .next t ∧
          (t.dev.stave n).moves.length + 1 = (s.dev.stave n).moves.length ∧ (t.dev.stave n).job? m.job = some j' ∧
          j'.nmigrations = j.nmigrations + 1 ∧ j'.inst? m.stage m.inst = some x' ∧ x'.cores = slotCores c x.lcores.length)) ∧
    (∀ (line : Nat) (x : Transition), (s.dev.stave n).trans = some x →
      (x.swept = true → exec (.lineHandover n line) s = .next s) ∧
      (x.swept = false →
        (line ∈ s.toHand n → ∃ (t : State) (y : Transition), exec (.lineHandover n line) s = .next t ∧
          (t.dev.stave n).trans = some y ∧ line ∈ y.handed) ∧
        (s.toHand n = [] → ∃ (t : State) (y : Transition), exec (.lineHandover n line) s = .next t ∧
          (t.dev.stave n).trans = some y ∧ y.swept = true))) ∧
    (∀ (cl : Nat) (o : Own), s.dev.own .cluster cl = some o → o.st = .draining →
      (∀ k ∈ slotCores (8 * cl) 8, (s.dev.stave o.stave).holdsCore k = false ∧
        ((s.coreAt k).live = false ∨ s.dev.ownedBy .headstock k o.stave = true)) →
      (s.dev.clustersHeld o.stave = [cl] → (s.dev.stave o.stave).jobs ≠ [] → exec (.clusterDrained cl) s = .next s) ∧
      ((s.dev.clustersHeld o.stave ≠ [cl] ∨ (s.dev.stave o.stave).jobs = []) → ∃ t : State, exec (.clusterDrained cl) s = .next t ∧
        t.dev.ownState .cluster cl o.stave = some .scrub)) ∧
    (∀ (kind : BitVec 2) (id : Nat) (o : Own), s.dev.own (unitKind kind) id = some o →
      (o.st ≠ .scrub → exec (.scrubComplete kind id) s = .next s) ∧
      (o.st = .scrub → s.dev.quarantined = [] → ∃ t : State, exec (.scrubComplete kind id) s = .next t ∧
        t.dev.own (unitKind kind) id = none ∧
        (kind = 1 → s.canonical → (s.dev.stave o.stave).shrinks = [] → ∀ a < 2 ^ 26, t.dev.mem.read (id * 2 ^ 26 + a) = 0)) ∧
      (o.st = .scrub → kind = 0 → s.dev.badCluster id = true → ∃ t : State,
        exec (.scrubComplete kind id) s = .next t ∧ t.dev.own .cluster id = some o) ∧
      (o.st = .scrub → kind = 3 → s.dev.badHeadstock id = true → ∃ t : State,
        exec (.scrubComplete kind id) s = .next t ∧ t.dev.own .headstock id = some o)) ∧
    (boundaryDue s.dev.cycle 1024 s.dev.renewed = false → exec .bandwidthWindow s = .next s) ∧
    (boundaryDue s.dev.cycle 1024 s.dev.renewed = true → ∃ t : State, exec .bandwidthWindow s = .next t ∧
      t.dev.budget = (s.dev.budget.map fun b => (b.1, Claims.owed s b)).filter (fun b => b.2 != 0) ∧ t.dev.renewed = s.dev.cycle.toNat)

/-! ## The steps of the device: the outside world -/

/-- What the host, the shop firmware and the board do: page requests are answered, translations arrive and end (R399, R450);
FQBASE and SAVEBASE are written, RBDATA is read (R396, R403, R442); a VF is reset (R449), the link trains (R443), the device
boots (R454) and reports (R455); cap, throttling, shutdown, telemetry and gating (R440, R456 to R458). The model's choices in it:
REGBASE follows a write of SAVEBASE (log 54, DEDUCED), a cluster with a live core is not gated (log 40, DEDUCED), a translation answers the
page request (log 76), what the firmware's HDM ranges map (log 36). -/
def Obligations.OutsideActs : Prop :=
  ∀ s : State,
    (∀ (sid : BitVec 16) (vpn : BitVec 44),
      let n : BitVec 6 := sid.extractLsb' 10 6
      let hit (t : TlbEntry) (first count : Nat) : Prop := t.sid = sid ∧ t.vpn < first + count ∧ first < t.vpn + 512 ^ t.level
      (∀ ok, (s.dev.stave n).asked sid vpn.toNat = false → exec (.priResponse sid vpn ok) s = .next s) ∧
      ((s.dev.stave n).asked sid vpn.toNat = true → ∀ k va, k ∈ s.cores → (s.coreAt k).wait = some (.park sid va 4) →
        vpnOf va = vpn.toNat →
        (∃ t : State, exec (.priResponse sid vpn true) s = .next t ∧ (t.coreAt k).wait = none) ∧
        ((∀ q ∈ s.cores, (s.coreAt q).bond ≠ .gang) → ∃ t : State, exec (.priResponse sid vpn false) s = .next t ∧
          TrappedAt s t k 0x05 va)) ∧
      (∀ first count, ∃ t : State, exec (.atsInvalidation sid first count) s = .next t ∧
        (∀ k, ∀ e ∈ (t.coreAt k).tlb, ¬ hit e first count) ∧ (∀ x ∈ t.dev.tlbs, ∀ e ∈ x.2, ¬ hit e first count) ∧
        ((∀ x ∈ s.dev.net, x.kind = .store → x.peer = true → x.stave ≠ n) →
          t.dev.atsDone = s.dev.atsDone + 1 ∧ t.dev.atsWaits = s.dev.atsWaits) ∧
        ((∃ x ∈ s.dev.net, x.kind = .store ∧ x.peer = true ∧ x.stave = n) → t.dev.atsDone = s.dev.atsDone ∧
          ∃ w, t.dev.atsWaits = s.dev.atsWaits ++ [w] ∧ w.sid = sid ∧
            ∀ x ∈ s.dev.net, x.kind = .store → x.peer = true → x.stave = n → x.order ∈ w.orders)) ∧
      (∀ pte, (pte.getLsbD 0 = false ∨ pte.getLsbD 1 = false ∨ pteMalformed pte 0 = true) →
        exec (.atsTranslationCompletion sid vpn pte) s = .next s) ∧
      (∀ pte k va, pte.getLsbD 0 = true → pte.getLsbD 1 = true → pteMalformed pte 0 = false → k ∈ s.cores →
        (s.coreAt k).wait = some (.park sid va 4) → vpnOf va = vpn.toNat → (∀ x ∈ s.dev.syncs, x.parkedOn sid vpn.toNat = false) →
        ∃ t : State, exec (.atsTranslationCompletion sid vpn pte) s = .next t ∧ (t.coreAt k).wait = none ∧
          (⟨sid, vpn.toNat, 0, pte, 0, []⟩ : TlbEntry) ∈ (t.coreAt k).tlb ∧ (t.dev.stave n).asked sid vpn.toNat = false)) ∧
    (∀ (n : BitVec 6) (v : W64),
      (13 ≤ field v 0 4 → exec (.fqbaseWrite n v) s = .next s) ∧
      (field v 0 4 < 13 → ∃ t : State, exec (.fqbaseWrite n v) s = .next t ∧
        (t.dev.stave n).fqbase = w64 (field v 7 45 * 128 + field v 0 4) ∧ (t.dev.stave n).fqHead = 0 ∧
        ((s.dev.stave n).faults = [] → s.canonical → field v 7 45 ≠ 0 →
          t.dev.peek (field v 7 36 * 128) 8 = 0 ∧ t.dev.peek (field v 7 36 * 128 + 8) 4 = 2 ^ (field v 0 4 + 4))) ∧
      (∃ t : State, exec (.savebaseWrite n v) s = .next t ∧ (t.dev.stave n).savebase = w64 (field v 19 33 * 2 ^ 19) ∧
        ∀ k ∈ s.cores, (s.coreAt k).live = true → (s.coreAt k).stave = n →
          (s.coreAt k).ctl.regbase = (s.dev.stave n).regbaseOf (s.coreAt k).lcore.toNat →
          (t.coreAt k).ctl.regbase = (t.dev.stave n).regbaseOf (s.coreAt k).lcore.toNat) ∧
      (∃ t : State, exec (.functionLevelReset n) s = .next t ∧ (t.dev.stave n).fqbase = 0 ∧
        (t.dev.stave n).jobs.length = (s.dev.stave n).jobs.length ∧
        ∀ j ∈ (t.dev.stave n).jobs, j.insts = [] ∧ j.status.isSome = true)) ∧
    (∀ d : Reg, (s.me.may .shop = false → exec (.rbdataRead d) s = .next s) ∧
      (s.me.may .shop = true → ∃ t : State, exec (.rbdataRead d) s = .next t ∧ (d ≠ 0 → t.g d = s.rbdata) ∧
        field t.dev.rbsel 3 5 = (field s.dev.rbsel 3 5 + 1) % 32 ∧ t.me.pc = s.me.pc)) ∧
    (∀ (w : BitVec 5) (cxl : Bool),
      (s.dev.shutdown = true → exec (.linkTraining w cxl) s = .next s) ∧
      (s.dev.shutdown = false → ∃ t : State, exec (.linkTraining w cxl) s = .next t ∧
        t.dev.link = (if cxl then .cxl w.toNat else .pcie w.toNat) ∧
        (cxl = true → t.dev.devHolds = s.dev.devHolds ∧ t.dev.hdm.length ≤ 16 ∧ ∀ h ∈ t.dev.hdm, h.base % 2 ^ 26 = 0) ∧
        (cxl = false → t.dev.devHolds = [] ∧ ((∀ h ∈ s.dev.devOwns, h ∈ s.dev.devHolds) → t.dev.devOwns = []) ∧ (∀ x ∈ t.dev.l2, isHostLine (2 * x.line) = false) ∧
          (∀ k ∈ s.cores, ∀ x ∈ (t.coreAt k).icache, isHostLine (2 * x.line) = false)))) ∧
    (s.dev.boot ≠ .rom → exec .boot s = .next s) ∧
    (s.dev.boot = .rom → ∃ t : State, exec .boot s = .next t ∧
      t.dev.boot = (if Config.imageVerified s.fresh then .firmware else .recovery) ∧
      (Config.imageVerified s.fresh = true → field t.dev.trcfg 9 7 ≤ 24 ∧ field t.dev.trcfg 0 9 = field s.dev.trcfg 0 9) ∧
      ∀ k, (Config.imageVerified s.fresh = true → k ∈ s.dev.bootMask → k / 2048 ≠ s.dev.bootMask.headD 0 / 2048 →
          (t.coreAt k).pc = w64 (Config.outside 7 0 / 4 * 4)) ∧
        (k ∉ s.dev.bootMask → t.coreAt k = s.coreAt k)) ∧
    (∀ nonce : BitVec 384,
      (s.dev.boot = .recovery → exec (.getMeasurements nonce) s = .next s) ∧
      (s.dev.boot ≠ .recovery → ∃ t : State, exec (.getMeasurements nonce) s = .next t ∧ t.dev.report.length = 512 ∧
        t.dev.report.take 8 = bytesLE 4 0x48424152 ++ bytesLE 4 1 ∧ (t.dev.report.drop 8).take 48 = bytesLE 48 nonce.toNat)) ∧
    (∀ w : BitVec 12,
      (800 ≤ w.toNat ∧ w.toNat ≤ 2800 → ∃ t : State, exec (.powerCapSet w) s = .next t ∧ t.dev.powerCap = w) ∧
      (¬ (800 ≤ w.toNat ∧ w.toNat ≤ 2800) → exec (.powerCapSet w) s = .next s)) ∧
    (∀ c : BitVec 2,
      (∃ t : State, exec (.thermalThrottle c) s = .next t ∧ c ∈ t.dev.throttled ∧ t.me = s.me ∧ t.others = s.others) ∧
      (∃ t : State, exec (.thermalShutdown c) s = .next t ∧ (∀ k ∈ s.cores, (t.coreAt k).stopped = true) ∧
        t.dev.shutdown = true ∧ t.dev.link = .down)) ∧
    (∃ t : State, exec .thermalThrottleRelease s = .next t ∧ t.dev.throttled = [] ∧ t.me = s.me ∧ t.others = s.others) ∧
    (let gen := s.dev.telemetry[0]
     let due := boundaryDue s.dev.cycle (2 ^ 20) s.dev.telemetryAt
     (gen.getLsbD 0 = false → due = false → exec .telemetryUpdate s = .next s) ∧
     (gen.getLsbD 0 = false → due = true → ∃ t : State, exec .telemetryUpdate s = .next t ∧ t.dev.telemetry = s.dev.telemetry.set 0 (gen + 1) ∧
       t.dev.telemetryAt = s.dev.cycle.toNat ∧ t.me = s.me) ∧
     (gen.getLsbD 0 = true → ∃ t : State, exec .telemetryUpdate s = .next t ∧ t.dev.telemetry[0] = gen + 1 ∧
       t.dev.telemetry[8] = BitVec.ofNat 32 s.dev.quarantined.length ∧ t.dev.telemetry[6].toNat ≤ 1024 ∧ t.me = s.me)) ∧
    (∀ cl : Nat,
      ((∃ k ∈ slotCores (8 * cl) 8, (s.coreAt k).live = true) → exec (.powerGating cl) s = .next s) ∧
      ((∀ k ∈ slotCores (8 * cl) 8, (s.coreAt k).live = false) → ∃ t : State, exec (.powerGating cl) s = .next t ∧
        cl ∈ t.dev.gated ∧ ∀ k ∈ slotCores (8 * cl) 8, (t.coreAt k).l1 = []))
end

