-- ==== Sys2Proof/Laws/Encoding.lean ====
section
/-! SUPPORT. The fields of a word that a format has put together (R15), and of the operand fields that share bits. -/

namespace Sys2Proof.Laws

/-! ## Fields of an append -/

theorem slice_left (x : BitVec m) (y : BitVec n) (lo k : Nat) (h : n ≤ lo) :
    (x ++ y).extractLsb' lo k = x.extractLsb' (lo - n) k := by
  ext i hi
  simp only [BitVec.getElem_extractLsb', BitVec.getLsbD_append]
  have : ¬ lo + i < n := by omega
  simp [this]
  congr 1
  omega

theorem slice_right (x : BitVec m) (y : BitVec n) (lo k : Nat) (h : lo + k ≤ n) :
    (x ++ y).extractLsb' lo k = y.extractLsb' lo k := by
  ext i hi
  have : lo + i < n := by omega
  simp [BitVec.getLsbD_append, this]

theorem slice_all (x : BitVec n) : x.extractLsb' 0 n = x := by
  ext i hi
  simp

theorem bit_left (x : BitVec m) (y : BitVec n) (i : Nat) (h : n ≤ i) : (x ++ y).getLsbD i = x.getLsbD (i - n) := by
  have : ¬ i < n := by omega
  simp [BitVec.getLsbD_append, this]

theorem bit_right (x : BitVec m) (y : BitVec n) (i : Nat) (h : i < n) : (x ++ y).getLsbD i = y.getLsbD i := by
  simp [BitVec.getLsbD_append, h]

theorem bit_ofBool (b : Bool) : (BitVec.ofBool b).getLsbD 0 = b := by cases b <;> rfl

theorem low_bits (w : Word) (n k : Nat) (h : (w.extractLsb' 0 n).toNat = k) : w.toNat % 2 ^ n = k := by
  simpa using h

/-! ## Codes of the named operand sets -/

@[simp] theorem elemTy_ofCode (t : ElemTy) : ElemTy.ofCode t.code = t := by cases t <;> rfl
@[simp] theorem memSize_ofCode (t : MemSize) : MemSize.ofCode t.code = t := by cases t <;> rfl
@[simp] theorem rMode_ofCode (t : RMode) : RMode.ofCode t.code = t := by cases t <;> rfl
@[simp] theorem ord_ofCode (t : Ord) : Ord.ofCode t.code = t := by cases t <;> rfl
@[simp] theorem scope_ofCode (t : Scope) : Scope.ofCode t.code = some t := by cases t <;> rfl
@[simp] theorem mmaTy_ofCode (t : MmaTy) : MmaTy.ofCode t.code = some t := by cases t <;> rfl
@[simp] theorem redOp_ofCode (t : RedOp) : RedOp.ofCode t.code = some t := by cases t <;> rfl
@[simp] theorem vCond_ofCode (t : VCond) : VCond.ofCode t.code = some t := by cases t <;> rfl

/-! ## R format -/

@[simp] theorem fOp_fmtR (op : BitVec 7) (d : Reg) (a : Reg) (b : Reg) (fn : BitVec 7) : fOp (fmtR op d a b fn) = op :=
  (slice_left (op ++ d ++ a ++ b) (fn) 25 7 (by decide)).trans
    ((slice_left (op ++ d ++ a) (b) 18 7 (by decide)).trans
    ((slice_left (op ++ d) (a) 12 7 (by decide)).trans
    ((slice_left (op) (d) 6 7 (by decide)).trans
    (slice_all op))))

@[simp] theorem fD_fmtR (op : BitVec 7) (d : Reg) (a : Reg) (b : Reg) (fn : BitVec 7) : fD (fmtR op d a b fn) = d :=
  (slice_left (op ++ d ++ a ++ b) (fn) 19 6 (by decide)).trans
    ((slice_left (op ++ d ++ a) (b) 12 6 (by decide)).trans
    ((slice_left (op ++ d) (a) 6 6 (by decide)).trans
    ((slice_right (op) (d) 0 6 (by decide)).trans
    (slice_all d))))

@[simp] theorem fA_fmtR (op : BitVec 7) (d : Reg) (a : Reg) (b : Reg) (fn : BitVec 7) : fA (fmtR op d a b fn) = a :=
  (slice_left (op ++ d ++ a ++ b) (fn) 13 6 (by decide)).trans
    ((slice_left (op ++ d ++ a) (b) 6 6 (by decide)).trans
    ((slice_right (op ++ d) (a) 0 6 (by decide)).trans
    (slice_all a)))

@[simp] theorem fB_fmtR (op : BitVec 7) (d : Reg) (a : Reg) (b : Reg) (fn : BitVec 7) : fB (fmtR op d a b fn) = b :=
  (slice_left (op ++ d ++ a ++ b) (fn) 7 6 (by decide)).trans
    ((slice_right (op ++ d ++ a) (b) 0 6 (by decide)).trans
    (slice_all b))

@[simp] theorem fFn_fmtR (op : BitVec 7) (d : Reg) (a : Reg) (b : Reg) (fn : BitVec 7) : fFn (fmtR op d a b fn) = fn :=
  (slice_right (op ++ d ++ a ++ b) (fn) 0 7 (by decide)).trans
    (slice_all fn)

@[simp] theorem slice_19_3_fmtR (op : BitVec 7) (d : Reg) (a : Reg) (b : Reg) (fn : BitVec 7) : (fmtR op d a b fn).extractLsb' 19 3 = d.extractLsb' 0 3 :=
  (slice_left (op ++ d ++ a ++ b) (fn) 19 3 (by decide)).trans
    ((slice_left (op ++ d ++ a) (b) 12 3 (by decide)).trans
    ((slice_left (op ++ d) (a) 6 3 (by decide)).trans
    (slice_right (op) (d) 0 3 (by decide))))

@[simp] theorem slice_20_5_fmtR (op : BitVec 7) (d : Reg) (a : Reg) (b : Reg) (fn : BitVec 7) : (fmtR op d a b fn).extractLsb' 20 5 = d.extractLsb' 1 5 :=
  (slice_left (op ++ d ++ a ++ b) (fn) 20 5 (by decide)).trans
    ((slice_left (op ++ d ++ a) (b) 13 5 (by decide)).trans
    ((slice_left (op ++ d) (a) 7 5 (by decide)).trans
    (slice_right (op) (d) 1 5 (by decide))))

@[simp] theorem bit_19_fmtR (op : BitVec 7) (d : Reg) (a : Reg) (b : Reg) (fn : BitVec 7) : fBit (fmtR op d a b fn) 19 = d.getLsbD 0 :=
  (bit_left (op ++ d ++ a ++ b) (fn) 19 (by decide)).trans
    ((bit_left (op ++ d ++ a) (b) 12 (by decide)).trans
    ((bit_left (op ++ d) (a) 6 (by decide)).trans
    (bit_right (op) (d) 0 (by decide))))

@[simp] theorem slice_13_3_fmtR (op : BitVec 7) (d : Reg) (a : Reg) (b : Reg) (fn : BitVec 7) : (fmtR op d a b fn).extractLsb' 13 3 = a.extractLsb' 0 3 :=
  (slice_left (op ++ d ++ a ++ b) (fn) 13 3 (by decide)).trans
    ((slice_left (op ++ d ++ a) (b) 6 3 (by decide)).trans
    (slice_right (op ++ d) (a) 0 3 (by decide)))

@[simp] theorem slice_7_3_fmtR (op : BitVec 7) (d : Reg) (a : Reg) (b : Reg) (fn : BitVec 7) : (fmtR op d a b fn).extractLsb' 7 3 = b.extractLsb' 0 3 :=
  (slice_left (op ++ d ++ a ++ b) (fn) 7 3 (by decide)).trans
    (slice_right (op ++ d ++ a) (b) 0 3 (by decide))

@[simp] theorem slice_0_3_fmtR (op : BitVec 7) (d : Reg) (a : Reg) (b : Reg) (fn : BitVec 7) : (fmtR op d a b fn).extractLsb' 0 3 = fn.extractLsb' 0 3 :=
  slice_right (op ++ d ++ a ++ b) (fn) 0 3 (by decide)

@[simp] theorem slice_0_6_fmtR (op : BitVec 7) (d : Reg) (a : Reg) (b : Reg) (fn : BitVec 7) : (fmtR op d a b fn).extractLsb' 0 6 = fn.extractLsb' 0 6 :=
  slice_right (op ++ d ++ a ++ b) (fn) 0 6 (by decide)

@[simp] theorem slice_5_2_fmtR (op : BitVec 7) (d : Reg) (a : Reg) (b : Reg) (fn : BitVec 7) : (fmtR op d a b fn).extractLsb' 5 2 = fn.extractLsb' 5 2 :=
  slice_right (op ++ d ++ a ++ b) (fn) 5 2 (by decide)

@[simp] theorem slice_0_2_fmtR (op : BitVec 7) (d : Reg) (a : Reg) (b : Reg) (fn : BitVec 7) : (fmtR op d a b fn).extractLsb' 0 2 = fn.extractLsb' 0 2 :=
  slice_right (op ++ d ++ a ++ b) (fn) 0 2 (by decide)

@[simp] theorem slice_0_7_fmtR (op : BitVec 7) (d : Reg) (a : Reg) (b : Reg) (fn : BitVec 7) : (fmtR op d a b fn).extractLsb' 0 7 = fn :=
  (slice_right (op ++ d ++ a ++ b) (fn) 0 7 (by decide)).trans
    (slice_all fn)

@[simp] theorem slice_0_4_fmtR (op : BitVec 7) (d : Reg) (a : Reg) (b : Reg) (fn : BitVec 7) : (fmtR op d a b fn).extractLsb' 0 4 = fn.extractLsb' 0 4 :=
  slice_right (op ++ d ++ a ++ b) (fn) 0 4 (by decide)

@[simp] theorem bit_6_fmtR (op : BitVec 7) (d : Reg) (a : Reg) (b : Reg) (fn : BitVec 7) : fBit (fmtR op d a b fn) 6 = fn.getLsbD 6 :=
  bit_right (op ++ d ++ a ++ b) (fn) 6 (by decide)

@[simp] theorem bit_4_fmtR (op : BitVec 7) (d : Reg) (a : Reg) (b : Reg) (fn : BitVec 7) : fBit (fmtR op d a b fn) 4 = fn.getLsbD 4 :=
  bit_right (op ++ d ++ a ++ b) (fn) 4 (by decide)

@[simp] theorem bit_2_fmtR (op : BitVec 7) (d : Reg) (a : Reg) (b : Reg) (fn : BitVec 7) : fBit (fmtR op d a b fn) 2 = fn.getLsbD 2 :=
  bit_right (op ++ d ++ a ++ b) (fn) 2 (by decide)

@[simp] theorem low_fmtR (op : BitVec 7) (d : Reg) (a : Reg) (b : Reg) (fn : BitVec 7) : (fmtR op d a b fn).toNat % 128 = fn.toNat :=
  low_bits _ 7 _ (congrArg BitVec.toNat (slice_0_7_fmtR op d a b fn))

@[simp] theorem low4_fmtR (op : BitVec 7) (d : Reg) (a : Reg) (b : Reg) (fn : BitVec 7) : (fmtR op d a b fn).toNat % 16 = (fn.extractLsb' 0 4).toNat :=
  low_bits _ 4 _ (congrArg BitVec.toNat (slice_0_4_fmtR op d a b fn))

/-! ## I format -/

@[simp] theorem fOp_fmtI (op : BitVec 7) (d : Reg) (a : Reg) (imm : BitVec 13) : fOp (fmtI op d a imm) = op :=
  (slice_left (op ++ d ++ a) (imm) 25 7 (by decide)).trans
    ((slice_left (op ++ d) (a) 12 7 (by decide)).trans
    ((slice_left (op) (d) 6 7 (by decide)).trans
    (slice_all op)))

@[simp] theorem fD_fmtI (op : BitVec 7) (d : Reg) (a : Reg) (imm : BitVec 13) : fD (fmtI op d a imm) = d :=
  (slice_left (op ++ d ++ a) (imm) 19 6 (by decide)).trans
    ((slice_left (op ++ d) (a) 6 6 (by decide)).trans
    ((slice_right (op) (d) 0 6 (by decide)).trans
    (slice_all d)))

@[simp] theorem fA_fmtI (op : BitVec 7) (d : Reg) (a : Reg) (imm : BitVec 13) : fA (fmtI op d a imm) = a :=
  (slice_left (op ++ d ++ a) (imm) 13 6 (by decide)).trans
    ((slice_right (op ++ d) (a) 0 6 (by decide)).trans
    (slice_all a))

@[simp] theorem fImm_fmtI (op : BitVec 7) (d : Reg) (a : Reg) (imm : BitVec 13) : fImm (fmtI op d a imm) = imm :=
  (slice_right (op ++ d ++ a) (imm) 0 13 (by decide)).trans
    (slice_all imm)

@[simp] theorem slice_6_2_fmtI (op : BitVec 7) (d : Reg) (a : Reg) (imm : BitVec 13) : (fmtI op d a imm).extractLsb' 6 2 = imm.extractLsb' 6 2 :=
  slice_right (op ++ d ++ a) (imm) 6 2 (by decide)

@[simp] theorem slice_0_6_fmtI (op : BitVec 7) (d : Reg) (a : Reg) (imm : BitVec 13) : (fmtI op d a imm).extractLsb' 0 6 = imm.extractLsb' 0 6 :=
  slice_right (op ++ d ++ a) (imm) 0 6 (by decide)

@[simp] theorem slice_11_2_fmtI (op : BitVec 7) (d : Reg) (a : Reg) (imm : BitVec 13) : (fmtI op d a imm).extractLsb' 11 2 = imm.extractLsb' 11 2 :=
  slice_right (op ++ d ++ a) (imm) 11 2 (by decide)

@[simp] theorem slice_6_5_fmtI (op : BitVec 7) (d : Reg) (a : Reg) (imm : BitVec 13) : (fmtI op d a imm).extractLsb' 6 5 = imm.extractLsb' 6 5 :=
  slice_right (op ++ d ++ a) (imm) 6 5 (by decide)

@[simp] theorem slice_0_12_fmtI (op : BitVec 7) (d : Reg) (a : Reg) (imm : BitVec 13) : (fmtI op d a imm).extractLsb' 0 12 = imm.extractLsb' 0 12 :=
  slice_right (op ++ d ++ a) (imm) 0 12 (by decide)

@[simp] theorem slice_0_9_fmtI (op : BitVec 7) (d : Reg) (a : Reg) (imm : BitVec 13) : (fmtI op d a imm).extractLsb' 0 9 = imm.extractLsb' 0 9 :=
  slice_right (op ++ d ++ a) (imm) 0 9 (by decide)

@[simp] theorem slice_10_3_fmtI (op : BitVec 7) (d : Reg) (a : Reg) (imm : BitVec 13) : (fmtI op d a imm).extractLsb' 10 3 = imm.extractLsb' 10 3 :=
  slice_right (op ++ d ++ a) (imm) 10 3 (by decide)

@[simp] theorem slice_7_3_fmtI (op : BitVec 7) (d : Reg) (a : Reg) (imm : BitVec 13) : (fmtI op d a imm).extractLsb' 7 3 = imm.extractLsb' 7 3 :=
  slice_right (op ++ d ++ a) (imm) 7 3 (by decide)

@[simp] theorem slice_4_3_fmtI (op : BitVec 7) (d : Reg) (a : Reg) (imm : BitVec 13) : (fmtI op d a imm).extractLsb' 4 3 = imm.extractLsb' 4 3 :=
  slice_right (op ++ d ++ a) (imm) 4 3 (by decide)

@[simp] theorem slice_1_3_fmtI (op : BitVec 7) (d : Reg) (a : Reg) (imm : BitVec 13) : (fmtI op d a imm).extractLsb' 1 3 = imm.extractLsb' 1 3 :=
  slice_right (op ++ d ++ a) (imm) 1 3 (by decide)

@[simp] theorem slice_0_10_fmtI (op : BitVec 7) (d : Reg) (a : Reg) (imm : BitVec 13) : (fmtI op d a imm).extractLsb' 0 10 = imm.extractLsb' 0 10 :=
  slice_right (op ++ d ++ a) (imm) 0 10 (by decide)

@[simp] theorem bit_12_fmtI (op : BitVec 7) (d : Reg) (a : Reg) (imm : BitVec 13) : fBit (fmtI op d a imm) 12 = imm.getLsbD 12 :=
  bit_right (op ++ d ++ a) (imm) 12 (by decide)

@[simp] theorem bit_10_fmtI (op : BitVec 7) (d : Reg) (a : Reg) (imm : BitVec 13) : fBit (fmtI op d a imm) 10 = imm.getLsbD 10 :=
  bit_right (op ++ d ++ a) (imm) 10 (by decide)

/-! ## J format -/

@[simp] theorem fOp_fmtJ (op : BitVec 7) (off : BitVec 25) : fOp (fmtJ op off) = op :=
  (slice_left (op) (off) 25 7 (by decide)).trans
    (slice_all op)

@[simp] theorem slice_0_25_fmtJ (op : BitVec 7) (off : BitVec 25) : (fmtJ op off).extractLsb' 0 25 = off :=
  (slice_right (op) (off) 0 25 (by decide)).trans
    (slice_all off)

/-! ## V format -/

@[simp] theorem fOp_fmtV (op : BitVec 7) (d : Reg) (a : Reg) (b : Reg) (p : PReg) (ty : ElemTy) (x : Bool) : fOp (fmtV op d a b p ty x) = op :=
  (slice_left (op ++ d ++ a ++ b ++ p ++ ty.code) (BitVec.ofBool x) 25 7 (by decide)).trans
    ((slice_left (op ++ d ++ a ++ b ++ p) (ty.code) 24 7 (by decide)).trans
    ((slice_left (op ++ d ++ a ++ b) (p) 21 7 (by decide)).trans
    ((slice_left (op ++ d ++ a) (b) 18 7 (by decide)).trans
    ((slice_left (op ++ d) (a) 12 7 (by decide)).trans
    ((slice_left (op) (d) 6 7 (by decide)).trans
    (slice_all op))))))

@[simp] theorem fD_fmtV (op : BitVec 7) (d : Reg) (a : Reg) (b : Reg) (p : PReg) (ty : ElemTy) (x : Bool) : fD (fmtV op d a b p ty x) = d :=
  (slice_left (op ++ d ++ a ++ b ++ p ++ ty.code) (BitVec.ofBool x) 19 6 (by decide)).trans
    ((slice_left (op ++ d ++ a ++ b ++ p) (ty.code) 18 6 (by decide)).trans
    ((slice_left (op ++ d ++ a ++ b) (p) 15 6 (by decide)).trans
    ((slice_left (op ++ d ++ a) (b) 12 6 (by decide)).trans
    ((slice_left (op ++ d) (a) 6 6 (by decide)).trans
    ((slice_right (op) (d) 0 6 (by decide)).trans
    (slice_all d))))))

@[simp] theorem fA_fmtV (op : BitVec 7) (d : Reg) (a : Reg) (b : Reg) (p : PReg) (ty : ElemTy) (x : Bool) : fA (fmtV op d a b p ty x) = a :=
  (slice_left (op ++ d ++ a ++ b ++ p ++ ty.code) (BitVec.ofBool x) 13 6 (by decide)).trans
    ((slice_left (op ++ d ++ a ++ b ++ p) (ty.code) 12 6 (by decide)).trans
    ((slice_left (op ++ d ++ a ++ b) (p) 9 6 (by decide)).trans
    ((slice_left (op ++ d ++ a) (b) 6 6 (by decide)).trans
    ((slice_right (op ++ d) (a) 0 6 (by decide)).trans
    (slice_all a)))))

@[simp] theorem fB_fmtV (op : BitVec 7) (d : Reg) (a : Reg) (b : Reg) (p : PReg) (ty : ElemTy) (x : Bool) : fB (fmtV op d a b p ty x) = b :=
  (slice_left (op ++ d ++ a ++ b ++ p ++ ty.code) (BitVec.ofBool x) 7 6 (by decide)).trans
    ((slice_left (op ++ d ++ a ++ b ++ p) (ty.code) 6 6 (by decide)).trans
    ((slice_left (op ++ d ++ a ++ b) (p) 3 6 (by decide)).trans
    ((slice_right (op ++ d ++ a) (b) 0 6 (by decide)).trans
    (slice_all b))))

@[simp] theorem fP_fmtV (op : BitVec 7) (d : Reg) (a : Reg) (b : Reg) (p : PReg) (ty : ElemTy) (x : Bool) : fP (fmtV op d a b p ty x) = p :=
  (slice_left (op ++ d ++ a ++ b ++ p ++ ty.code) (BitVec.ofBool x) 4 3 (by decide)).trans
    ((slice_left (op ++ d ++ a ++ b ++ p) (ty.code) 3 3 (by decide)).trans
    ((slice_right (op ++ d ++ a ++ b) (p) 0 3 (by decide)).trans
    (slice_all p)))

@[simp] theorem fTy_fmtV (op : BitVec 7) (d : Reg) (a : Reg) (b : Reg) (p : PReg) (ty : ElemTy) (x : Bool) : fTy (fmtV op d a b p ty x) = ty :=
  (congrArg ElemTy.ofCode ((slice_left (op ++ d ++ a ++ b ++ p ++ ty.code) (BitVec.ofBool x) 1 3 (by decide)).trans
    ((slice_right (op ++ d ++ a ++ b ++ p) (ty.code) 0 3 (by decide)).trans
    (slice_all ty.code)))).trans (elemTy_ofCode ty)

@[simp] theorem fX_fmtV (op : BitVec 7) (d : Reg) (a : Reg) (b : Reg) (p : PReg) (ty : ElemTy) (x : Bool) : fX (fmtV op d a b p ty x) = x :=
  (bit_right (op ++ d ++ a ++ b ++ p ++ ty.code) (BitVec.ofBool x) 0 (by decide)).trans
    (bit_ofBool x)

@[simp] theorem slice_19_3_fmtV (op : BitVec 7) (d : Reg) (a : Reg) (b : Reg) (p : PReg) (ty : ElemTy) (x : Bool) : (fmtV op d a b p ty x).extractLsb' 19 3 = d.extractLsb' 0 3 :=
  (slice_left (op ++ d ++ a ++ b ++ p ++ ty.code) (BitVec.ofBool x) 19 3 (by decide)).trans
    ((slice_left (op ++ d ++ a ++ b ++ p) (ty.code) 18 3 (by decide)).trans
    ((slice_left (op ++ d ++ a ++ b) (p) 15 3 (by decide)).trans
    ((slice_left (op ++ d ++ a) (b) 12 3 (by decide)).trans
    ((slice_left (op ++ d) (a) 6 3 (by decide)).trans
    (slice_right (op) (d) 0 3 (by decide))))))

@[simp] theorem slice_22_3_fmtV (op : BitVec 7) (d : Reg) (a : Reg) (b : Reg) (p : PReg) (ty : ElemTy) (x : Bool) : (fmtV op d a b p ty x).extractLsb' 22 3 = d.extractLsb' 3 3 :=
  (slice_left (op ++ d ++ a ++ b ++ p ++ ty.code) (BitVec.ofBool x) 22 3 (by decide)).trans
    ((slice_left (op ++ d ++ a ++ b ++ p) (ty.code) 21 3 (by decide)).trans
    ((slice_left (op ++ d ++ a ++ b) (p) 18 3 (by decide)).trans
    ((slice_left (op ++ d ++ a) (b) 15 3 (by decide)).trans
    ((slice_left (op ++ d) (a) 9 3 (by decide)).trans
    (slice_right (op) (d) 3 3 (by decide))))))

@[simp] theorem slice_7_5_fmtV (op : BitVec 7) (d : Reg) (a : Reg) (b : Reg) (p : PReg) (ty : ElemTy) (x : Bool) : (fmtV op d a b p ty x).extractLsb' 7 5 = b.extractLsb' 0 5 :=
  (slice_left (op ++ d ++ a ++ b ++ p ++ ty.code) (BitVec.ofBool x) 7 5 (by decide)).trans
    ((slice_left (op ++ d ++ a ++ b ++ p) (ty.code) 6 5 (by decide)).trans
    ((slice_left (op ++ d ++ a ++ b) (p) 3 5 (by decide)).trans
    (slice_right (op ++ d ++ a) (b) 0 5 (by decide))))

@[simp] theorem slice_11_2_fmtV (op : BitVec 7) (d : Reg) (a : Reg) (b : Reg) (p : PReg) (ty : ElemTy) (x : Bool) : (fmtV op d a b p ty x).extractLsb' 11 2 = b.extractLsb' 4 2 :=
  (slice_left (op ++ d ++ a ++ b ++ p ++ ty.code) (BitVec.ofBool x) 11 2 (by decide)).trans
    ((slice_left (op ++ d ++ a ++ b ++ p) (ty.code) 10 2 (by decide)).trans
    ((slice_left (op ++ d ++ a ++ b) (p) 7 2 (by decide)).trans
    (slice_right (op ++ d ++ a) (b) 4 2 (by decide))))

@[simp] theorem slice_7_3_fmtV (op : BitVec 7) (d : Reg) (a : Reg) (b : Reg) (p : PReg) (ty : ElemTy) (x : Bool) : (fmtV op d a b p ty x).extractLsb' 7 3 = b.extractLsb' 0 3 :=
  (slice_left (op ++ d ++ a ++ b ++ p ++ ty.code) (BitVec.ofBool x) 7 3 (by decide)).trans
    ((slice_left (op ++ d ++ a ++ b ++ p) (ty.code) 6 3 (by decide)).trans
    ((slice_left (op ++ d ++ a ++ b) (p) 3 3 (by decide)).trans
    (slice_right (op ++ d ++ a) (b) 0 3 (by decide))))

@[simp] theorem bit_12_fmtV (op : BitVec 7) (d : Reg) (a : Reg) (b : Reg) (p : PReg) (ty : ElemTy) (x : Bool) : fBit (fmtV op d a b p ty x) 12 = b.getLsbD 5 :=
  (bit_left (op ++ d ++ a ++ b ++ p ++ ty.code) (BitVec.ofBool x) 12 (by decide)).trans
    ((bit_left (op ++ d ++ a ++ b ++ p) (ty.code) 11 (by decide)).trans
    ((bit_left (op ++ d ++ a ++ b) (p) 8 (by decide)).trans
    (bit_right (op ++ d ++ a) (b) 5 (by decide))))

@[simp] theorem bit_10_fmtV (op : BitVec 7) (d : Reg) (a : Reg) (b : Reg) (p : PReg) (ty : ElemTy) (x : Bool) : fBit (fmtV op d a b p ty x) 10 = b.getLsbD 3 :=
  (bit_left (op ++ d ++ a ++ b ++ p ++ ty.code) (BitVec.ofBool x) 10 (by decide)).trans
    ((bit_left (op ++ d ++ a ++ b ++ p) (ty.code) 9 (by decide)).trans
    ((bit_left (op ++ d ++ a ++ b) (p) 6 (by decide)).trans
    (bit_right (op ++ d ++ a) (b) 3 (by decide))))

@[simp] theorem bit_4_fmtV (op : BitVec 7) (d : Reg) (a : Reg) (b : Reg) (p : PReg) (ty : ElemTy) (x : Bool) : fBit (fmtV op d a b p ty x) 4 = p.getLsbD 0 :=
  (bit_left (op ++ d ++ a ++ b ++ p ++ ty.code) (BitVec.ofBool x) 4 (by decide)).trans
    ((bit_left (op ++ d ++ a ++ b ++ p) (ty.code) 3 (by decide)).trans
    (bit_right (op ++ d ++ a ++ b) (p) 0 (by decide)))

/-! ## M format -/

@[simp] theorem fOp_fmtM (op : BitVec 7) (z : ZReg) (ev : BitVec 4) (k : Bool) (a : Reg) (b : Reg) (fn : BitVec 5) : fOp (fmtM op z ev k a b fn) = op :=
  (slice_left (op ++ z ++ ev ++ BitVec.ofBool k ++ a ++ b) (fn) 25 7 (by decide)).trans
    ((slice_left (op ++ z ++ ev ++ BitVec.ofBool k ++ a) (b) 20 7 (by decide)).trans
    ((slice_left (op ++ z ++ ev ++ BitVec.ofBool k) (a) 14 7 (by decide)).trans
    ((slice_left (op ++ z ++ ev) (BitVec.ofBool k) 8 7 (by decide)).trans
    ((slice_left (op ++ z) (ev) 7 7 (by decide)).trans
    ((slice_left (op) (z) 3 7 (by decide)).trans
    (slice_all op))))))

@[simp] theorem fZ_fmtM (op : BitVec 7) (z : ZReg) (ev : BitVec 4) (k : Bool) (a : Reg) (b : Reg) (fn : BitVec 5) : fZ (fmtM op z ev k a b fn) = z :=
  (slice_left (op ++ z ++ ev ++ BitVec.ofBool k ++ a ++ b) (fn) 22 3 (by decide)).trans
    ((slice_left (op ++ z ++ ev ++ BitVec.ofBool k ++ a) (b) 17 3 (by decide)).trans
    ((slice_left (op ++ z ++ ev ++ BitVec.ofBool k) (a) 11 3 (by decide)).trans
    ((slice_left (op ++ z ++ ev) (BitVec.ofBool k) 5 3 (by decide)).trans
    ((slice_left (op ++ z) (ev) 4 3 (by decide)).trans
    ((slice_right (op) (z) 0 3 (by decide)).trans
    (slice_all z))))))

@[simp] theorem fEv_fmtM (op : BitVec 7) (z : ZReg) (ev : BitVec 4) (k : Bool) (a : Reg) (b : Reg) (fn : BitVec 5) : fEv (fmtM op z ev k a b fn) = ev :=
  (slice_left (op ++ z ++ ev ++ BitVec.ofBool k ++ a ++ b) (fn) 18 4 (by decide)).trans
    ((slice_left (op ++ z ++ ev ++ BitVec.ofBool k ++ a) (b) 13 4 (by decide)).trans
    ((slice_left (op ++ z ++ ev ++ BitVec.ofBool k) (a) 7 4 (by decide)).trans
    ((slice_left (op ++ z ++ ev) (BitVec.ofBool k) 1 4 (by decide)).trans
    ((slice_right (op ++ z) (ev) 0 4 (by decide)).trans
    (slice_all ev)))))

@[simp] theorem fK_fmtM (op : BitVec 7) (z : ZReg) (ev : BitVec 4) (k : Bool) (a : Reg) (b : Reg) (fn : BitVec 5) : fK (fmtM op z ev k a b fn) = k :=
  (bit_left (op ++ z ++ ev ++ BitVec.ofBool k ++ a ++ b) (fn) 17 (by decide)).trans
    ((bit_left (op ++ z ++ ev ++ BitVec.ofBool k ++ a) (b) 12 (by decide)).trans
    ((bit_left (op ++ z ++ ev ++ BitVec.ofBool k) (a) 6 (by decide)).trans
    ((bit_right (op ++ z ++ ev) (BitVec.ofBool k) 0 (by decide)).trans
    (bit_ofBool k))))

@[simp] theorem fMa_fmtM (op : BitVec 7) (z : ZReg) (ev : BitVec 4) (k : Bool) (a : Reg) (b : Reg) (fn : BitVec 5) : fMa (fmtM op z ev k a b fn) = a :=
  (slice_left (op ++ z ++ ev ++ BitVec.ofBool k ++ a ++ b) (fn) 11 6 (by decide)).trans
    ((slice_left (op ++ z ++ ev ++ BitVec.ofBool k ++ a) (b) 6 6 (by decide)).trans
    ((slice_right (op ++ z ++ ev ++ BitVec.ofBool k) (a) 0 6 (by decide)).trans
    (slice_all a)))

@[simp] theorem fMb_fmtM (op : BitVec 7) (z : ZReg) (ev : BitVec 4) (k : Bool) (a : Reg) (b : Reg) (fn : BitVec 5) : fMb (fmtM op z ev k a b fn) = b :=
  (slice_left (op ++ z ++ ev ++ BitVec.ofBool k ++ a ++ b) (fn) 5 6 (by decide)).trans
    ((slice_right (op ++ z ++ ev ++ BitVec.ofBool k ++ a) (b) 0 6 (by decide)).trans
    (slice_all b))

@[simp] theorem slice_11_3_fmtM (op : BitVec 7) (z : ZReg) (ev : BitVec 4) (k : Bool) (a : Reg) (b : Reg) (fn : BitVec 5) : (fmtM op z ev k a b fn).extractLsb' 11 3 = a.extractLsb' 0 3 :=
  (slice_left (op ++ z ++ ev ++ BitVec.ofBool k ++ a ++ b) (fn) 11 3 (by decide)).trans
    ((slice_left (op ++ z ++ ev ++ BitVec.ofBool k ++ a) (b) 6 3 (by decide)).trans
    (slice_right (op ++ z ++ ev ++ BitVec.ofBool k) (a) 0 3 (by decide)))

@[simp] theorem slice_0_3_fmtM (op : BitVec 7) (z : ZReg) (ev : BitVec 4) (k : Bool) (a : Reg) (b : Reg) (fn : BitVec 5) : (fmtM op z ev k a b fn).extractLsb' 0 3 = fn.extractLsb' 0 3 :=
  slice_right (op ++ z ++ ev ++ BitVec.ofBool k ++ a ++ b) (fn) 0 3 (by decide)

@[simp] theorem slice_0_4_fmtM (op : BitVec 7) (z : ZReg) (ev : BitVec 4) (k : Bool) (a : Reg) (b : Reg) (fn : BitVec 5) : (fmtM op z ev k a b fn).extractLsb' 0 4 = fn.extractLsb' 0 4 :=
  slice_right (op ++ z ++ ev ++ BitVec.ofBool k ++ a ++ b) (fn) 0 4 (by decide)

@[simp] theorem slice_0_5_fmtM (op : BitVec 7) (z : ZReg) (ev : BitVec 4) (k : Bool) (a : Reg) (b : Reg) (fn : BitVec 5) : (fmtM op z ev k a b fn).extractLsb' 0 5 = fn :=
  (slice_right (op ++ z ++ ev ++ BitVec.ofBool k ++ a ++ b) (fn) 0 5 (by decide)).trans
    (slice_all fn)

@[simp] theorem bit_3_fmtM (op : BitVec 7) (z : ZReg) (ev : BitVec 4) (k : Bool) (a : Reg) (b : Reg) (fn : BitVec 5) : fBit (fmtM op z ev k a b fn) 3 = fn.getLsbD 3 :=
  bit_right (op ++ z ++ ev ++ BitVec.ofBool k ++ a ++ b) (fn) 3 (by decide)

@[simp] theorem bit_0_fmtM (op : BitVec 7) (z : ZReg) (ev : BitVec 4) (k : Bool) (a : Reg) (b : Reg) (fn : BitVec 5) : fBit (fmtM op z ev k a b fn) 0 = fn.getLsbD 0 :=
  bit_right (op ++ z ++ ev ++ BitVec.ofBool k ++ a ++ b) (fn) 0 (by decide)

@[simp] theorem low_fmtM (op : BitVec 7) (z : ZReg) (ev : BitVec 4) (k : Bool) (a : Reg) (b : Reg) (fn : BitVec 5) : (fmtM op z ev k a b fn).toNat % 32 = fn.toNat :=
  low_bits _ 5 _ (congrArg BitVec.toNat (slice_0_5_fmtM op z ev k a b fn))

/-! ## H format -/

@[simp] theorem fOp_fmtH (kind : BitVec 3) (payload : BitVec 22) : fOp (fmtH kind payload) = 0x7E :=
  (slice_left ((0x7E : BitVec 7) ++ kind) (payload) 25 7 (by decide)).trans
    ((slice_left ((0x7E : BitVec 7)) (kind) 3 7 (by decide)).trans
    (slice_all (0x7E : BitVec 7)))

@[simp] theorem slice_22_3_fmtH (kind : BitVec 3) (payload : BitVec 22) : (fmtH kind payload).extractLsb' 22 3 = kind :=
  (slice_left ((0x7E : BitVec 7) ++ kind) (payload) 22 3 (by decide)).trans
    ((slice_right ((0x7E : BitVec 7)) (kind) 0 3 (by decide)).trans
    (slice_all kind))

@[simp] theorem slice_0_22_fmtH (kind : BitVec 3) (payload : BitVec 22) : (fmtH kind payload).extractLsb' 0 22 = payload :=
  (slice_right ((0x7E : BitVec 7) ++ kind) (payload) 0 22 (by decide)).trans
    (slice_all payload)

@[simp] theorem slice_2_2_fmtH (kind : BitVec 3) (payload : BitVec 22) : (fmtH kind payload).extractLsb' 2 2 = payload.extractLsb' 2 2 :=
  slice_right ((0x7E : BitVec 7) ++ kind) (payload) 2 2 (by decide)

@[simp] theorem slice_0_2_fmtH (kind : BitVec 3) (payload : BitVec 22) : (fmtH kind payload).extractLsb' 0 2 = payload.extractLsb' 0 2 :=
  slice_right ((0x7E : BitVec 7) ++ kind) (payload) 0 2 (by decide)

@[simp] theorem slice_0_4_fmtH (kind : BitVec 3) (payload : BitVec 22) : (fmtH kind payload).extractLsb' 0 4 = payload.extractLsb' 0 4 :=
  slice_right ((0x7E : BitVec 7) ++ kind) (payload) 0 4 (by decide)

@[simp] theorem bit_4_fmtH (kind : BitVec 3) (payload : BitVec 22) : fBit (fmtH kind payload) 4 = payload.getLsbD 4 :=
  bit_right ((0x7E : BitVec 7) ++ kind) (payload) 4 (by decide)

/-! ## Operand fields that share bits (the encoding tables of the chapters) -/

@[simp] theorem shift_k (k : BitVec 2) (n : BitVec 6) : (0#5 ++ k ++ n : BitVec 13).extractLsb' 6 2 = k :=
  (slice_left (0#5 ++ k) (n) 6 2 (by decide)).trans
    ((slice_right (0#5) (k) 0 2 (by decide)).trans
    (slice_all k))

@[simp] theorem shift_n (k : BitVec 2) (n : BitVec 6) : (0#5 ++ k ++ n : BitVec 13).extractLsb' 0 6 = n :=
  (slice_right (0#5 ++ k) (n) 0 6 (by decide)).trans
    (slice_all n)

@[simp] theorem bitf_k (k : BitVec 2) (n : BitVec 5) (o : BitVec 6) : (k ++ n ++ o : BitVec 13).extractLsb' 11 2 = k :=
  (slice_left (k ++ n) (o) 11 2 (by decide)).trans
    ((slice_left (k) (n) 5 2 (by decide)).trans
    (slice_all k))

@[simp] theorem bitf_n (k : BitVec 2) (n : BitVec 5) (o : BitVec 6) : (k ++ n ++ o : BitVec 13).extractLsb' 6 5 = n :=
  (slice_left (k ++ n) (o) 6 5 (by decide)).trans
    ((slice_right (k) (n) 0 5 (by decide)).trans
    (slice_all n))

@[simp] theorem bitf_o (k : BitVec 2) (n : BitVec 5) (o : BitVec 6) : (k ++ n ++ o : BitVec 13).extractLsb' 0 6 = o :=
  (slice_right (k ++ n) (o) 0 6 (by decide)).trans
    (slice_all o)

@[simp] theorem lea_n (n : BitVec 3) : (0#4 ++ n : BitVec 7).extractLsb' 0 3 = n :=
  (slice_right (0#4) (n) 0 3 (by decide)).trans
    (slice_all n)

@[simp] theorem pool_bit (k : BitVec 1) (n : BitVec 12) : (k ++ n : BitVec 13).getLsbD 12 = k.getLsbD 0 :=
  bit_left (k) (n) 12 (by decide)

@[simp] theorem pool_n (k : BitVec 1) (n : BitVec 12) : (k ++ n : BitVec 13).extractLsb' 0 12 = n :=
  (slice_right (k) (n) 0 12 (by decide)).trans
    (slice_all n)

@[simp] theorem sel_bit (k : BitVec 1) (c : BitVec 6) : (k ++ c : BitVec 7).getLsbD 6 = k.getLsbD 0 :=
  bit_left (k) (c) 6 (by decide)

@[simp] theorem sel_c (k : BitVec 1) (c : BitVec 6) : (k ++ c : BitVec 7).extractLsb' 0 6 = c :=
  (slice_right (k) (c) 0 6 (by decide)).trans
    (slice_all c)

@[simp] theorem loop_k (k : BitVec 2) (n : BitVec 9) : (k ++ 0#2 ++ n : BitVec 13).extractLsb' 11 2 = k :=
  (slice_left (k ++ 0#2) (n) 11 2 (by decide)).trans
    ((slice_left (k) (0#2) 2 2 (by decide)).trans
    (slice_all k))

@[simp] theorem loop_n (k : BitVec 2) (n : BitVec 9) : (k ++ 0#2 ++ n : BitVec 13).extractLsb' 0 9 = n :=
  (slice_right (k ++ 0#2) (n) 0 9 (by decide)).trans
    (slice_all n)

@[simp] theorem repv_k (k : BitVec 3) (l : BitVec 3) (m : BitVec 3) (n : BitVec 3) : (k ++ l ++ m ++ n ++ 0#1 : BitVec 13).extractLsb' 10 3 = k :=
  (slice_left (k ++ l ++ m ++ n) (0#1) 10 3 (by decide)).trans
    ((slice_left (k ++ l ++ m) (n) 9 3 (by decide)).trans
    ((slice_left (k ++ l) (m) 6 3 (by decide)).trans
    ((slice_left (k) (l) 3 3 (by decide)).trans
    (slice_all k))))

@[simp] theorem repv_l (k : BitVec 3) (l : BitVec 3) (m : BitVec 3) (n : BitVec 3) : (k ++ l ++ m ++ n ++ 0#1 : BitVec 13).extractLsb' 7 3 = l :=
  (slice_left (k ++ l ++ m ++ n) (0#1) 7 3 (by decide)).trans
    ((slice_left (k ++ l ++ m) (n) 6 3 (by decide)).trans
    ((slice_left (k ++ l) (m) 3 3 (by decide)).trans
    ((slice_right (k) (l) 0 3 (by decide)).trans
    (slice_all l))))

@[simp] theorem repv_m (k : BitVec 3) (l : BitVec 3) (m : BitVec 3) (n : BitVec 3) : (k ++ l ++ m ++ n ++ 0#1 : BitVec 13).extractLsb' 4 3 = m :=
  (slice_left (k ++ l ++ m ++ n) (0#1) 4 3 (by decide)).trans
    ((slice_left (k ++ l ++ m) (n) 3 3 (by decide)).trans
    ((slice_right (k ++ l) (m) 0 3 (by decide)).trans
    (slice_all m)))

@[simp] theorem repv_n (k : BitVec 3) (l : BitVec 3) (m : BitVec 3) (n : BitVec 3) : (k ++ l ++ m ++ n ++ 0#1 : BitVec 13).extractLsb' 1 3 = n :=
  (slice_left (k ++ l ++ m ++ n) (0#1) 1 3 (by decide)).trans
    ((slice_right (k ++ l ++ m) (n) 0 3 (by decide)).trans
    (slice_all n))

@[simp] theorem ld_k (k : BitVec 2) (x : Bool) (n : BitVec 10) : (k ++ BitVec.ofBool x ++ n : BitVec 13).extractLsb' 11 2 = k :=
  (slice_left (k ++ BitVec.ofBool x) (n) 11 2 (by decide)).trans
    ((slice_left (k) (BitVec.ofBool x) 1 2 (by decide)).trans
    (slice_all k))

@[simp] theorem ld_bit (k : BitVec 2) (x : Bool) (n : BitVec 10) : (k ++ BitVec.ofBool x ++ n : BitVec 13).getLsbD 10 = x :=
  (bit_left (k ++ BitVec.ofBool x) (n) 10 (by decide)).trans
    ((bit_right (k) (BitVec.ofBool x) 0 (by decide)).trans
    (bit_ofBool x))

@[simp] theorem ld_n (k : BitVec 2) (x : Bool) (n : BitVec 10) : (k ++ BitVec.ofBool x ++ n : BitVec 13).extractLsb' 0 10 = n :=
  (slice_right (k ++ BitVec.ofBool x) (n) 0 10 (by decide)).trans
    (slice_all n)

@[simp] theorem st_k (k : BitVec 2) (n : BitVec 10) : (k ++ 0#1 ++ n : BitVec 13).extractLsb' 11 2 = k :=
  (slice_left (k ++ 0#1) (n) 11 2 (by decide)).trans
    ((slice_left (k) (0#1) 1 2 (by decide)).trans
    (slice_all k))

@[simp] theorem st_n (k : BitVec 2) (n : BitVec 10) : (k ++ 0#1 ++ n : BitVec 13).extractLsb' 0 10 = n :=
  (slice_right (k ++ 0#1) (n) 0 10 (by decide)).trans
    (slice_all n)

@[simp] theorem ldv_n (n : BitVec 10) : (0#3 ++ n : BitVec 13).extractLsb' 0 10 = n :=
  (slice_right (0#3) (n) 0 10 (by decide)).trans
    (slice_all n)

@[simp] theorem amo_k (k : BitVec 2) (x : Bool) (n : BitVec 4) : (k ++ BitVec.ofBool x ++ n : BitVec 7).extractLsb' 5 2 = k :=
  (slice_left (k ++ BitVec.ofBool x) (n) 5 2 (by decide)).trans
    ((slice_left (k) (BitVec.ofBool x) 1 2 (by decide)).trans
    (slice_all k))

@[simp] theorem amo_bit (k : BitVec 2) (x : Bool) (n : BitVec 4) : (k ++ BitVec.ofBool x ++ n : BitVec 7).getLsbD 4 = x :=
  (bit_left (k ++ BitVec.ofBool x) (n) 4 (by decide)).trans
    ((bit_right (k) (BitVec.ofBool x) 0 (by decide)).trans
    (bit_ofBool x))

@[simp] theorem amo_n (k : BitVec 2) (x : Bool) (n : BitVec 4) : (k ++ BitVec.ofBool x ++ n : BitVec 7).extractLsb' 0 4 = n :=
  (slice_right (k ++ BitVec.ofBool x) (n) 0 4 (by decide)).trans
    (slice_all n)

@[simp] theorem bar_bit (x : Bool) (n : BitVec 2) : (0#4 ++ BitVec.ofBool x ++ n : BitVec 7).getLsbD 2 = x :=
  (bit_left (0#4 ++ BitVec.ofBool x) (n) 2 (by decide)).trans
    ((bit_right (0#4) (BitVec.ofBool x) 0 (by decide)).trans
    (bit_ofBool x))

@[simp] theorem bar_n (x : Bool) (n : BitVec 2) : (0#4 ++ BitVec.ofBool x ++ n : BitVec 7).extractLsb' 0 2 = n :=
  (slice_right (0#4 ++ BitVec.ofBool x) (n) 0 2 (by decide)).trans
    (slice_all n)

@[simp] theorem world_k (k : BitVec 5) (n : BitVec 1) : (k ++ n : BitVec 6).extractLsb' 1 5 = k :=
  (slice_left (k) (n) 1 5 (by decide)).trans
    (slice_all k)

@[simp] theorem world_bit (k : BitVec 5) (n : BitVec 1) : (k ++ n : BitVec 6).getLsbD 0 = n.getLsbD 0 :=
  bit_right (k) (n) 0 (by decide)

@[simp] theorem quant_bit (x : Bool) (n : BitVec 5) : (BitVec.ofBool x ++ n : BitVec 6).getLsbD 5 = x :=
  (bit_left (BitVec.ofBool x) (n) 5 (by decide)).trans
    (bit_ofBool x)

@[simp] theorem quant_n (x : Bool) (n : BitVec 5) : (BitVec.ofBool x ++ n : BitVec 6).extractLsb' 0 5 = n :=
  (slice_right (BitVec.ofBool x) (n) 0 5 (by decide)).trans
    (slice_all n)

@[simp] theorem three_k (k : BitVec 3) (n : BitVec 3) : (k ++ n : BitVec 6).extractLsb' 3 3 = k :=
  (slice_left (k) (n) 3 3 (by decide)).trans
    (slice_all k)

@[simp] theorem three_n (k : BitVec 3) (n : BitVec 3) : (k ++ n : BitVec 6).extractLsb' 0 3 = n :=
  (slice_right (k) (n) 0 3 (by decide)).trans
    (slice_all n)

@[simp] theorem cvt_k (k : BitVec 2) (x : Bool) (n : BitVec 3) : (k ++ BitVec.ofBool x ++ n : BitVec 6).extractLsb' 4 2 = k :=
  (slice_left (k ++ BitVec.ofBool x) (n) 4 2 (by decide)).trans
    ((slice_left (k) (BitVec.ofBool x) 1 2 (by decide)).trans
    (slice_all k))

@[simp] theorem cvt_bit (k : BitVec 2) (x : Bool) (n : BitVec 3) : (k ++ BitVec.ofBool x ++ n : BitVec 6).getLsbD 3 = x :=
  (bit_left (k ++ BitVec.ofBool x) (n) 3 (by decide)).trans
    ((bit_right (k) (BitVec.ofBool x) 0 (by decide)).trans
    (bit_ofBool x))

@[simp] theorem cvt_n (k : BitVec 2) (x : Bool) (n : BitVec 3) : (k ++ BitVec.ofBool x ++ n : BitVec 6).extractLsb' 0 3 = n :=
  (slice_right (k ++ BitVec.ofBool x) (n) 0 3 (by decide)).trans
    (slice_all n)

@[simp] theorem ext_bit (x : Bool) : (0#2 ++ BitVec.ofBool x : BitVec 3).getLsbD 0 = x :=
  (bit_right (0#2) (BitVec.ofBool x) 0 (by decide)).trans
    (bit_ofBool x)

@[simp] theorem mma_bit (x : Bool) (n : BitVec 3) : (0#1 ++ BitVec.ofBool x ++ n : BitVec 5).getLsbD 3 = x :=
  (bit_left (0#1 ++ BitVec.ofBool x) (n) 3 (by decide)).trans
    ((bit_right (0#1) (BitVec.ofBool x) 0 (by decide)).trans
    (bit_ofBool x))

@[simp] theorem mma_n (x : Bool) (n : BitVec 3) : (0#1 ++ BitVec.ofBool x ++ n : BitVec 5).extractLsb' 0 3 = n :=
  (slice_right (0#1 ++ BitVec.ofBool x) (n) 0 3 (by decide)).trans
    (slice_all n)

@[simp] theorem clr_bit (x : Bool) : (0#4 ++ BitVec.ofBool x : BitVec 5).getLsbD 0 = x :=
  (bit_right (0#4) (BitVec.ofBool x) 0 (by decide)).trans
    (bit_ofBool x)

@[simp] theorem row_n (n : BitVec 4) : (0#1 ++ n : BitVec 5).extractLsb' 0 4 = n :=
  (slice_right (0#1) (n) 0 4 (by decide)).trans
    (slice_all n)

@[simp] theorem pol_k (k : BitVec 2) (n : BitVec 2) : (0#18 ++ k ++ n : BitVec 22).extractLsb' 2 2 = k :=
  (slice_left (0#18 ++ k) (n) 2 2 (by decide)).trans
    ((slice_right (0#18) (k) 0 2 (by decide)).trans
    (slice_all k))

@[simp] theorem pol_n (k : BitVec 2) (n : BitVec 2) : (0#18 ++ k ++ n : BitVec 22).extractLsb' 0 2 = n :=
  (slice_right (0#18 ++ k) (n) 0 2 (by decide)).trans
    (slice_all n)

@[simp] theorem round_n (n : BitVec 2) : (0#20 ++ n : BitVec 22).extractLsb' 0 2 = n :=
  (slice_right (0#20) (n) 0 2 (by decide)).trans
    (slice_all n)

@[simp] theorem sched_bit (x : Bool) (n : BitVec 4) : (0#17 ++ BitVec.ofBool x ++ n : BitVec 22).getLsbD 4 = x :=
  (bit_left (0#17 ++ BitVec.ofBool x) (n) 4 (by decide)).trans
    ((bit_right (0#17) (BitVec.ofBool x) 0 (by decide)).trans
    (bit_ofBool x))

@[simp] theorem sched_n (x : Bool) (n : BitVec 4) : (0#17 ++ BitVec.ofBool x ++ n : BitVec 22).extractLsb' 0 4 = n :=
  (slice_right (0#17 ++ BitVec.ofBool x) (n) 0 4 (by decide)).trans
    (slice_all n)

end Sys2Proof.Laws
end

