-- ==== Sys2Proof/Laws/Issue.lean ====
section
/-! SUPPORT. What issuing a word can come to: the lemmas that the proofs about single instructions cite. -/

namespace Sys2Proof.Machine

/-! ## The checks before an instruction's own -/

theorem precheck_none {i : Instr} {s : State} (h : Clear i s) : precheck i s = none := by
  have hw : (s.me.hints.wide.isSome && !acceptsWide i && !isHintInstr i) = false := by
    rcases h.wide with h | h | h <;> simp [h]
  have hp : (isTransfer i && s.me.endsBody s.me.pc) = false := by
    cases hi : isTransfer i
    · rfl
    · simpa using h.place hi
  simp [precheck, hw, hp, h.mode]

/-! ## Issuing -/

/-- Whatever the word, a core that has not stopped goes on. -/
theorem issueBy_next (chk : Check) (body : Body) {s : State} {long : Bool} (h : s.me.stopped = false) :
    ∃ t, issueBy chk body s long = .next t := by
  unfold issueBy
  rw [h]
  by_cases hg : s.me.bond = .gang
  · exact ⟨_, if_pos hg⟩
  · exact ⟨_, if_neg hg⟩

/-- A core that has stopped issues nothing (R392). -/
theorem issueBy_stopped (chk : Check) (body : Body) {s : State} {long : Bool} (h : s.me.stopped = true) :
    issueBy chk body s long = .fault .coreStopped := by
  simp [issueBy, h]

/-- A word on a core of its own: the outcome of its effect, settled. -/
theorem issueBy_alone (chk : Check) (body : Body) {s : State} {long : Bool} (hr : s.me.stopped = false) (hb : s.me.bond ≠ .gang)
    (hc : chk s = none) : issueBy chk body s long = .next ((body ⟨[s.me], 0⟩ s).giveBack s).settle := by
  simp [issueBy, hr, hb, runOne, hc]

/-- A word whose checks stop it traps. -/
theorem issueBy_check (chk : Check) (body : Body) {s : State} {long : Bool} {c : Cause} {v : W64} (hr : s.me.stopped = false)
    (hb : s.me.bond ≠ .gang) (hc : chk s = some (c, v)) : issueBy chk body s long = .next (s.raise c.code v s.me.trapPc) := by
  simp [issueBy, hr, hb, runOne, hc, Res.settle]

theorem issueG_clear {i : Instr} {body : Body} {s : State} (h : Clear i s) :
    issueG i body s = .next ((body ⟨[s.me], 0⟩ s).giveBack s).settle :=
  issueBy_alone _ _ h.running h.alone (precheck_none h)

theorem issue_clear {i : Instr} {body : State → Res} {s : State} (h : Clear i s) :
    issue i body s = .next ((body s).giveBack s).settle := issueG_clear h

/-- An instruction whose effect completes retires. -/
theorem issueG_done {i : Instr} {body : Body} {s t : State} {n : Next} (h : Clear i s)
    (hb : body ⟨[s.me], 0⟩ s = .done t n) : issueG i body s = .next (Res.done t n).settle := by
  rw [issueG_clear h, hb]; rfl

theorem issue_done {i : Instr} {body : State → Res} {s t : State} {n : Next} (h : Clear i s) (hb : body s = .done t n) :
    issue i body s = .next (Res.done t n).settle := issueG_done h hb

/-- An instruction that writes one register. -/
theorem issue_put {i : Instr} {s : State} {d : Reg} {x : W64} (h : Clear i s) {body : State → Res}
    (hb : body s = put d x s) : issue i body s = .next ((s.setG d x).retire .seq) := by
  rw [issue_done h (hb.trans rfl)]; rfl

/-- An instruction whose effect traps. -/
theorem issueG_trap {i : Instr} {body : Body} {s t : State} {c : Cause} {v : W64} (h : Clear i s)
    (hb : body ⟨[s.me], 0⟩ s = .trap c v t) :
    issueG i body s = .next ((Res.trap c v t).giveBack s).settle := by
  rw [issueG_clear h, hb]

/-- An instruction whose effect waits. -/
theorem issueG_wait {i : Instr} {body : Body} {s t : State} {w : Wait} (h : Clear i s)
    (hb : body ⟨[s.me], 0⟩ s = .wait w t) :
    issueG i body s = .next ((Res.wait w t).giveBack s).settle := by
  rw [issueG_clear h, hb]

end Sys2Proof.Machine
end

