-- ==== Sys2Proof/Laws/Memory.lean ====
section
/-! SUPPORT. Reading after writing, and that every operation on a memory keeps its canonical form. -/

namespace Sys2Proof.Machine

/-! ## The canonical form -/

theorem wfFrom_mono {lo lo' : Nat} (h : lo' ≤ lo) : ∀ {m : Cells}, Cells.wfFrom lo m = true → Cells.wfFrom lo' m = true
  | [], _ => rfl
  | (k, b) :: t, hm => by
    simp only [Cells.wfFrom, Bool.and_eq_true, decide_eq_true_eq] at hm ⊢
    exact ⟨⟨by omega, hm.1.2⟩, hm.2⟩

theorem read_below {lo a : Nat} (h : a < lo) : ∀ {m : Cells}, Cells.wfFrom lo m = true → m.read a = unlistedByte
  | [], _ => rfl
  | (k, b) :: t, hm => by
    simp only [Cells.wfFrom, Bool.and_eq_true, decide_eq_true_eq] at hm
    have h1 : ¬ k = a := by omega
    have h2 : a < k := by omega
    simp [Cells.read, h1, h2]

/-- Canonical memories that read alike from a bound up are equal. -/
theorem wfFrom_ext : ∀ {m n : Cells} {lo : Nat}, Cells.wfFrom lo m = true → Cells.wfFrom lo n = true →
    (∀ a, m.read a = n.read a) → m = n
  | [], [], _, _, _, _ => rfl
  | [], (k, b) :: t, lo, _, hn, h => by
    simp only [Cells.wfFrom, Bool.and_eq_true, bne_iff_ne] at hn
    exact absurd (by simpa [Cells.read] using (h k).symm) hn.1.2
  | (k, b) :: t, [], lo, hm, _, h => by
    simp only [Cells.wfFrom, Bool.and_eq_true, bne_iff_ne] at hm
    exact absurd (by simpa [Cells.read] using h k) hm.1.2
  | (k, b) :: t, (j, c) :: u, lo, hm, hn, h => by
    simp only [Cells.wfFrom, Bool.and_eq_true, bne_iff_ne, decide_eq_true_eq] at hm hn
    have hkj : k = j := by
      rcases Nat.lt_trichotomy k j with hlt | heq | hgt
      · have := h k
        have hj : ¬ j = k := by omega
        simp [Cells.read, hj, hlt] at this
        exact absurd this hm.1.2
      · exact heq
      · have := h j
        have hk : ¬ k = j := by omega
        simp [Cells.read, hk, hgt] at this
        exact absurd this.symm hn.1.2
    subst hkj
    have hb : b = c := by simpa [Cells.read] using h k
    subst hb
    congr 1
    refine wfFrom_ext hm.2 hn.2 fun a => ?_
    rcases Nat.lt_trichotomy a k with hlt | heq | hgt
    · rw [read_below (by omega) hm.2, read_below (by omega) hn.2]
    · rw [read_below (by omega) hm.2, read_below (by omega) hn.2]
    · have := h a
      have h1 : ¬ k = a := by omega
      have h2 : ¬ a < k := by omega
      simpa [Cells.read, h1, h2] using this

/-- Equal memories are equal lists. -/
theorem wf_ext {m n : Cells} (hm : m.wf = true) (hn : n.wf = true) (h : ∀ a, m.read a = n.read a) : m = n :=
  wfFrom_ext hm hn h

/-! ## One byte -/

theorem write_wfFrom {b : Byte} : ∀ {m : Cells} {lo a : Nat}, lo ≤ a → Cells.wfFrom lo m = true →
    Cells.wfFrom lo (m.write a b) = true
  | [], lo, a, h, _ => by
    by_cases hb : b = unlistedByte <;> simp [Cells.write, hb, Cells.wfFrom, h]
  | (k, c) :: t, lo, a, h, hm => by
    have hm' := hm
    simp only [Cells.wfFrom, Bool.and_eq_true, bne_iff_ne, decide_eq_true_eq] at hm'
    by_cases hk : k = a
    · by_cases hb : b = unlistedByte
      · simpa [Cells.write, hk, hb] using wfFrom_mono (by omega) hm'.2
      · subst hk
        simp [Cells.write, hb, Cells.wfFrom, h, hm'.2]
    · by_cases ha : a < k
      · by_cases hb : b = unlistedByte
        · simpa [Cells.write, hk, ha, hb] using hm
        · have hka : a + 1 ≤ k := ha
          simp [Cells.write, hk, ha, hb, Cells.wfFrom, h, hka, hm'.1.2, hm'.2]
      · have := write_wfFrom (b := b) (lo := k + 1) (a := a) (by omega) hm'.2
        simp [Cells.write, hk, ha, Cells.wfFrom, hm'.1.1, hm'.1.2, this]

theorem write_wf {m : Cells} (h : m.wf = true) (a : Nat) (b : Byte) : (m.write a b).wf = true :=
  write_wfFrom (Nat.zero_le a) h

theorem read_write_same (b : Byte) : ∀ {m : Cells} {lo : Nat} (a : Nat), Cells.wfFrom lo m = true →
    (m.write a b).read a = b
  | [], _, a, _ => by
    by_cases hb : b = unlistedByte <;> simp [Cells.write, hb, Cells.read]
  | (k, c) :: t, lo, a, hm => by
    simp only [Cells.wfFrom, Bool.and_eq_true, bne_iff_ne, decide_eq_true_eq] at hm
    by_cases hk : k = a
    · subst hk
      by_cases hb : b = unlistedByte
      · simpa [Cells.write, hb] using read_below (Nat.lt_succ_self k) hm.2
      · simp [Cells.write, hb, Cells.read]
    · by_cases ha : a < k
      · by_cases hb : b = unlistedByte <;> simp [Cells.write, hk, ha, hb, Cells.read]
      · simpa [Cells.write, hk, ha, Cells.read] using read_write_same b a hm.2

theorem read_write_ne (b : Byte) : ∀ {m : Cells} {lo a a' : Nat}, a' ≠ a → Cells.wfFrom lo m = true →
    (m.write a b).read a' = m.read a'
  | [], _, a, a', h, _ => by
    by_cases hb : b = unlistedByte
    · simp [Cells.write, hb]
    · have h1 : ¬ a = a' := fun e => h e.symm
      simp [Cells.write, hb, Cells.read, h1]
  | (k, c) :: t, lo, a, a', h, hm => by
    simp only [Cells.wfFrom, Bool.and_eq_true, bne_iff_ne, decide_eq_true_eq] at hm
    have h1 : ¬ a = a' := fun e => h e.symm
    by_cases hk : k = a
    · subst hk
      by_cases hb : b = unlistedByte
      · by_cases h2 : a' < k
        · simp [Cells.write, hb, Cells.read, h1, h2, read_below (show a' < k + 1 by omega) hm.2]
        · simp [Cells.write, hb, Cells.read, h1, h2]
      · simp [Cells.write, hb, Cells.read, h1]
    · by_cases ha : a < k
      · by_cases hb : b = unlistedByte
        · simp [Cells.write, hk, ha, hb]
        · by_cases h2 : a' < a
          · have h3 : ¬ k = a' := by omega
            have h4 : a' < k := by omega
            simp [Cells.write, hk, ha, hb, Cells.read, h1, h2, h3, h4]
          · simp [Cells.write, hk, ha, hb, Cells.read, h1, h2]
      · have := read_write_ne b (a := a) (a' := a') h hm.2
        simp [Cells.write, hk, ha, Cells.read, this]

/-! ## Several bytes -/

theorem writeN_wf : ∀ (n : Nat) {m : Cells} (a x : Nat), m.wf = true → (m.writeN a n x).wf = true
  | 0, _, _, _, h => h
  | n + 1, _, a, x, h => writeN_wf n (a + 1) (x / 256) (write_wf h a _)

theorem writeMask_wf : ∀ (n : Nat) {m : Cells} (a x mask : Nat), m.wf = true → (m.writeMask a n x mask).wf = true
  | 0, _, _, _, _, h => h
  | n + 1, m, a, x, mask, h => by
    unfold Cells.writeMask
    split
    · exact writeMask_wf n _ _ _ (write_wf h a _)
    · exact writeMask_wf n _ _ _ h

/-- A write of n bytes leaves every other byte alone. -/
theorem read_writeN_out : ∀ (n : Nat) {m : Cells} (a x : Nat) {a' : Nat}, m.wf = true → (a' < a ∨ a + n ≤ a') →
    (m.writeN a n x).read a' = m.read a'
  | 0, _, _, _, _, _, _ => rfl
  | n + 1, m, a, x, a', h, ho => by
    unfold Cells.writeN
    rw [read_writeN_out n (a + 1) (x / 256) (write_wf h a _) (by omega), read_write_ne _ (by omega) h]

/-- A write of n bytes puts each of them where it belongs (R6). -/
theorem read_writeN_in : ∀ (n : Nat) {m : Cells} (a x i : Nat), m.wf = true → i < n →
    (m.writeN a n x).read (a + i) = byteOf x i
  | 0, _, _, _, i, _, hi => absurd hi (Nat.not_lt_zero i)
  | n + 1, m, a, x, 0, h, _ => by
    change ((m.write a (BitVec.ofNat 8 x)).writeN (a + 1) n (x / 256)).read a = byteOf x 0
    rw [read_writeN_out n (a + 1) (x / 256) (write_wf h a _) (Or.inl (Nat.lt_succ_self a)), read_write_same _ a h]
    simp [byteOf]
  | n + 1, m, a, x, i + 1, h, hi => by
    unfold Cells.writeN
    have := read_writeN_in n (m := m.write a (BitVec.ofNat 8 x)) (a + 1) (x / 256) i (write_wf h a _) (by omega)
    rw [show a + (i + 1) = a + 1 + i by omega, this, byteOf, byteOf, Nat.div_div_eq_div_mul, Nat.pow_succ, Nat.mul_comm]

theorem readN_congr {m m' : Cells} : ∀ (n a : Nat), (∀ i, i < n → m.read (a + i) = m'.read (a + i)) →
    m.readN a n = m'.readN a n
  | 0, _, _ => rfl
  | n + 1, a, h => by
    unfold Cells.readN
    rw [show m.read a = m'.read a from h 0 (Nat.succ_pos n), readN_congr n (a + 1) fun i hi => ?_]
    have := h (i + 1) (by omega)
    rwa [show a + (i + 1) = a + 1 + i by omega] at this

/-- A read of the bytes written gives the value written. -/
theorem readN_writeN : ∀ (n : Nat) {m : Cells} (a x : Nat), m.wf = true → (m.writeN a n x).readN a n = x % 256 ^ n
  | 0, _, _, x, _ => by simp [Cells.readN, Nat.mod_one]
  | n + 1, m, a, x, h => by
    have h0 : (m.writeN a (n + 1) x).read a = byteOf x 0 := read_writeN_in (n + 1) a x 0 h (Nat.succ_pos n)
    unfold Cells.readN
    rw [h0]
    unfold Cells.writeN
    rw [readN_writeN n (a + 1) (x / 256) (write_wf h a _)]
    rw [show 256 ^ (n + 1) = 256 * 256 ^ n by rw [Nat.pow_succ, Nat.mul_comm], Nat.mod_mul]
    simp [byteOf]

/-- A read of n bytes away from those written gives what it gave. -/
theorem readN_writeN_out (n k : Nat) {m : Cells} (a b x : Nat) (h : m.wf = true) (ho : b + k ≤ a ∨ a + n ≤ b) :
    (m.writeN a n x).readN b k = m.readN b k :=
  readN_congr k b fun i hi => read_writeN_out n a x h (by omega)

/-! ## Parts of a memory -/

theorem filter_wfFrom (p : Host.Cell → Bool) : ∀ {m : Cells} {lo : Nat}, Cells.wfFrom lo m = true →
    Cells.wfFrom lo (m.filter p) = true
  | [], _, _ => rfl
  | (k, b) :: t, lo, hm => by
    simp only [Cells.wfFrom, Bool.and_eq_true, bne_iff_ne, decide_eq_true_eq] at hm
    by_cases hp : p (k, b) = true
    · simp [hp, Cells.wfFrom, hm.1.1, hm.1.2, filter_wfFrom p hm.2]
    · simp only [Bool.not_eq_true] at hp
      simpa [hp] using wfFrom_mono (by omega) (filter_wfFrom p hm.2)

theorem zero_wf {m : Cells} (h : m.wf = true) (a n : Nat) : (m.zero a n).wf = true := filter_wfFrom _ h

/-- Canonical form from a bound, of the cells below another. -/
theorem append_wfFrom : ∀ {m n : Cells} {lo hi : Nat}, Cells.wfFrom lo m = true → (∀ c ∈ m, c.1 < hi) → lo ≤ hi →
    Cells.wfFrom hi n = true → Cells.wfFrom lo (m ++ n) = true
  | [], _, _, _, _, _, hl, hn => wfFrom_mono hl hn
  | (k, b) :: t, n, lo, hi, hm, hb, _, hn => by
    simp only [Cells.wfFrom, Bool.and_eq_true, bne_iff_ne, decide_eq_true_eq] at hm
    have hk : k < hi := hb (k, b) (by simp)
    have := append_wfFrom hm.2 (fun c hc => hb c (by simp [hc])) (by omega) hn
    simp [Cells.wfFrom, hm.1.1, hm.1.2, this]

theorem shift_wfFrom (a : Nat) : ∀ {m : Cells} {lo : Nat}, Cells.wfFrom lo m = true →
    Cells.wfFrom (lo + a) (m.map fun c => (c.1 + a, c.2)) = true
  | [], _, _ => rfl
  | (k, b) :: t, lo, hm => by
    simp only [Cells.wfFrom, Bool.and_eq_true, bne_iff_ne, decide_eq_true_eq] at hm
    have h := shift_wfFrom a hm.2
    rw [show k + 1 + a = k + a + 1 by omega] at h
    simp [Cells.wfFrom, hm.1.1, hm.1.2, h]

/-- Cells from a bound up, where all of them lie from a higher one up. -/
theorem raise_wfFrom {m : Cells} {lo hi : Nat} (hm : Cells.wfFrom lo m = true) (h : ∀ c ∈ m, hi ≤ c.1) :
    Cells.wfFrom hi m = true := by
  cases m with
  | nil => rfl
  | cons c t =>
    obtain ⟨k, b⟩ := c
    simp only [Cells.wfFrom, Bool.and_eq_true, bne_iff_ne, decide_eq_true_eq] at hm ⊢
    exact ⟨⟨h (k, b) (by simp), hm.1.2⟩, hm.2⟩

theorem paste_wf {m x : Cells} (hm : m.wf = true) (hx : x.wf = true) (a n : Nat) : (m.paste a n x).wf = true := by
  unfold Cells.paste
  rw [List.append_assoc]
  refine append_wfFrom (hi := a) (filter_wfFrom _ hm) (fun c hc => by simpa using (List.mem_filter.mp hc).2) (Nat.zero_le a)
    (append_wfFrom (hi := a + n) (wfFrom_mono (by omega) (shift_wfFrom a (filter_wfFrom _ hx))) ?_ (by omega)
      (raise_wfFrom (filter_wfFrom _ hm) fun c hc => by simpa using (List.mem_filter.mp hc).2))
  intro c hc
  obtain ⟨d, hd, rfl⟩ := List.mem_map.mp hc
  have : d.1 < n := by simpa using (List.mem_filter.mp hd).2
  simp only
  omega

theorem unshift_wfFrom (a : Nat) : ∀ {m : Cells} {lo : Nat}, Cells.wfFrom (lo + a) m = true →
    Cells.wfFrom lo (m.map fun c => (c.1 - a, c.2)) = true
  | [], _, _ => rfl
  | (k, b) :: t, lo, hm => by
    simp only [Cells.wfFrom, Bool.and_eq_true, bne_iff_ne, decide_eq_true_eq] at hm
    have h := unshift_wfFrom a (lo := k - a + 1) (m := t) (by rw [show k - a + 1 + a = k + 1 by omega]; exact hm.2)
    simp only [List.map_cons, Cells.wfFrom, Bool.and_eq_true, bne_iff_ne, decide_eq_true_eq]
    exact ⟨⟨by omega, hm.1.2⟩, h⟩

theorem cut_wf {m : Cells} (hm : m.wf = true) (a n : Nat) : (m.cut a n).wf = true := by
  refine unshift_wfFrom a (raise_wfFrom (filter_wfFrom _ hm) fun c hc => ?_)
  have := (List.mem_filter.mp hc).2
  simp only [decide_eq_true_eq] at this
  omega

theorem filterMap_wfFrom (x a n : Nat) : ∀ (k i : Nat), i + k = n →
    Cells.wfFrom (a + i) ((List.range' i k).filterMap fun j =>
      if byteOf x j = unlistedByte then none else some (a + j, byteOf x j)) = true ∧
    ∀ c ∈ ((List.range' i k).filterMap fun j =>
      if byteOf x j = unlistedByte then none else some (a + j, byteOf x j)), c.1 < a + n
  | 0, _, _ => ⟨rfl, by simp⟩
  | k + 1, i, h => by
    obtain ⟨h1, h2⟩ := filterMap_wfFrom x a n k (i + 1) (by omega)
    rw [List.range'_succ]
    by_cases hb : byteOf x i = unlistedByte
    · simp only [List.filterMap_cons, hb, if_true]
      exact ⟨wfFrom_mono (by omega) h1, h2⟩
    · simp only [List.filterMap_cons, hb, if_false]
      refine ⟨?_, ?_⟩
      · rw [show a + (i + 1) = a + i + 1 by omega] at h1
        simp [Cells.wfFrom, hb, h1]
      · intro c hc
        rcases List.mem_cons.mp hc with rfl | hc
        · simp only; omega
        · exact h2 c hc

theorem cellsFrom_wf : ∀ (ws : List W64) (i a : Nat),
    Cells.wfFrom (a + 8 * i) ((ws.zipIdx i).flatMap fun w => (List.range 8).filterMap fun j =>
      let b := byteOf w.1.toNat j
      if b = unlistedByte then none else some (a + 8 * w.2 + j, b)) = true
  | [], _, _ => rfl
  | w :: t, i, a => by
    have h := filterMap_wfFrom w.toNat (a + 8 * i) 8 8 0 rfl
    rw [← List.range_eq_range'] at h
    simp only [List.zipIdx_cons, List.flatMap_cons]
    refine append_wfFrom (hi := a + 8 * (i + 1)) (by simpa using h.1) ?_ (by omega) (cellsFrom_wf t (i + 1) a)
    intro c hc
    have := h.2 c hc
    omega

theorem cellsOf_wf (a : Nat) (ws : List W64) : (cellsOf a ws).wf = true :=
  wfFrom_mono (Nat.zero_le _) (by simpa [cellsOf] using cellsFrom_wf ws 0 a)

/-! ## Bytes with poison (R280) -/

theorem putBytes_wf {m : Cells} (h : m.wf = true) (poison : List Nat) (a n x : Nat) :
    (putBytes m poison a n x).1.wf = true := by
  unfold putBytes
  split
  · split
    · exact h
    · exact writeN_wf n a x h
  · exact writeN_wf n a x h

theorem putWord_wf {m : Cells} (h : m.wf = true) (poison : List Nat) (word : Nat) (x : W64) (mask : BitVec 8) :
    (putWord m poison word x mask).1.wf = true := by
  unfold putWord
  split
  · exact writeN_wf 8 _ _ h
  · split
    · exact h
    · exact writeMask_wf 8 _ _ _ h

theorem putSpan_wf {m : Cells} (h : m.wf = true) (poison : List Nat) (a n x : Nat) :
    (putSpan m poison a n x).1.wf = true := by
  unfold putSpan
  generalize List.range ((a + n + 7) / 8 - a / 8) = l
  suffices ∀ (l : List Nat) (r : Cells × List Nat), r.1.wf = true → (l.foldl (fun r i =>
      let w := a / 8 + i
      let mask := onesOf 8 0xFF |>.foldl (fun k b => if a ≤ 8 * w + b ∧ 8 * w + b < a + n then k + 2 ^ b else k) 0
      let word := if a ≤ 8 * w then x / 256 ^ (8 * w - a) else x * 256 ^ (a - 8 * w)
      putWord r.1 r.2 w (w64 word) (BitVec.ofNat 8 mask)) r).1.wf = true from this l (m, poison) h
  intro l
  induction l with
  | nil => exact fun r hr => hr
  | cons i t ih => exact fun r hr => ih _ (putWord_wf hr _ _ _ _)

theorem put_wf {d : Dev} (h : d.mem.wf = true) (key n x : Nat) : (d.put key n x).mem.wf = true :=
  putBytes_wf h _ _ _ _

theorem poke_wf {d : Dev} (h : d.mem.wf = true) (key n x : Nat) : (d.poke key n x).mem.wf = true :=
  writeN_wf n key x h

theorem store_wf {l : Loc} (h : l.bytes.wf = true) (off n x : Nat) : (l.store off n x).bytes.wf = true :=
  putBytes_wf h _ _ _ _

end Sys2Proof.Machine
end

