-- ==== Sys2Proof/Laws/PerInstr.lean ====
section
/-! SUPPORT. The family Encoding: for every instruction, the fields of its encoding name it again (R15, R34). A step of the
device has no encoding (Instr.hasWord), so that the statement says nothing of it. -/

namespace Sys2Proof.Laws

/-! ## The majors (Table 11 of 01) -/

theorem cand_01 (w : Word) (h : fOp w = 0x01) : cand w = (candAlu w (fD w) (fA w) (fB w)) := by
  rw [cand, h]; rfl

theorem cand_02 (w : Word) (h : fOp w = 0x02) : cand w = (some (.addi (fD w) (fA w) (fImm w))) := by
  rw [cand, h]; rfl

theorem cand_03 (w : Word) (h : fOp w = 0x03) : cand w = (some (.andi (fD w) (fA w) (fImm w))) := by
  rw [cand, h]; rfl

theorem cand_04 (w : Word) (h : fOp w = 0x04) : cand w = (some (.ori (fD w) (fA w) (fImm w))) := by
  rw [cand, h]; rfl

theorem cand_05 (w : Word) (h : fOp w = 0x05) : cand w = (some (.xori (fD w) (fA w) (fImm w))) := by
  rw [cand, h]; rfl

theorem cand_06 (w : Word) (h : fOp w = 0x06) : cand w = (candShift w (fD w) (fA w)) := by
  rw [cand, h]; rfl

theorem cand_07 (w : Word) (h : fOp w = 0x07) : cand w = (some (.slti (fD w) (fA w) (fImm w))) := by
  rw [cand, h]; rfl

theorem cand_08 (w : Word) (h : fOp w = 0x08) : cand w = (some (.sltci (fD w) (fA w) (fImm w))) := by
  rw [cand, h]; rfl

theorem cand_09 (w : Word) (h : fOp w = 0x09) : cand w = (some (.muli (fD w) (fA w) (fImm w))) := by
  rw [cand, h]; rfl

theorem cand_0a (w : Word) (h : fOp w = 0x0A) : cand w = (candBitf w (fD w) (fA w)) := by
  rw [cand, h]; rfl

theorem cand_0b (w : Word) (h : fOp w = 0x0B) : cand w = (some (.lea (fD w) (fA w) (fB w) (w.extractLsb' 0 3))) := by
  rw [cand, h]; rfl

theorem cand_0c (w : Word) (h : fOp w = 0x0C) : cand w = (if fBit w 12 then some (.laddrLen (fD w) (w.extractLsb' 0 12)) else some (.laddr (fD w) (fA w) (w.extractLsb' 0 12))) := by
  rw [cand, h]; rfl

theorem cand_0d (w : Word) (h : fOp w = 0x0D) : cand w = (candUnary w (fD w) (fA w)) := by
  rw [cand, h]; rfl

theorem cand_0e (w : Word) (h : fOp w = 0x0E) : cand w = (if fBit w 6 then some (.selz (fD w) (fA w) (fB w) (w.extractLsb' 0 6)) else some (.sel (fD w) (fA w) (fB w) (w.extractLsb' 0 6))) := by
  rw [cand, h]; rfl

theorem cand_10 (w : Word) (h : fOp w = 0x10) : cand w = (some (.beq (fD w) (fA w) (fImm w))) := by
  rw [cand, h]; rfl

theorem cand_11 (w : Word) (h : fOp w = 0x11) : cand w = (some (.bne (fD w) (fA w) (fImm w))) := by
  rw [cand, h]; rfl

theorem cand_12 (w : Word) (h : fOp w = 0x12) : cand w = (some (.blt (fD w) (fA w) (fImm w))) := by
  rw [cand, h]; rfl

theorem cand_13 (w : Word) (h : fOp w = 0x13) : cand w = (some (.bge (fD w) (fA w) (fImm w))) := by
  rw [cand, h]; rfl

theorem cand_14 (w : Word) (h : fOp w = 0x14) : cand w = (some (.bltc (fD w) (fA w) (fImm w))) := by
  rw [cand, h]; rfl

theorem cand_15 (w : Word) (h : fOp w = 0x15) : cand w = (some (.bgec (fD w) (fA w) (fImm w))) := by
  rw [cand, h]; rfl

theorem cand_16 (w : Word) (h : fOp w = 0x16) : cand w = (some (.j (w.extractLsb' 0 25))) := by
  rw [cand, h]; rfl

theorem cand_17 (w : Word) (h : fOp w = 0x17) : cand w = (some (.jal (w.extractLsb' 0 25))) := by
  rw [cand, h]; rfl

theorem cand_18 (w : Word) (h : fOp w = 0x18) : cand w = (if (fD w) = 0 then some (.jr (fA w) (fImm w)) else some (.jalr (fD w) (fA w) (fImm w))) := by
  rw [cand, h]; rfl

theorem cand_19 (w : Word) (h : fOp w = 0x19) : cand w = (some (.loop (fA w) (w.extractLsb' 11 2) (w.extractLsb' 0 9))) := by
  rw [cand, h]; rfl

theorem cand_1a (w : Word) (h : fOp w = 0x1A) : cand w = (some (.repv (fD w) (w.extractLsb' 10 3) (w.extractLsb' 7 3) (w.extractLsb' 4 3) (w.extractLsb' 1 3))) := by
  rw [cand, h]; rfl

theorem cand_1b (w : Word) (h : fOp w = 0x1B) : cand w = (candGroup w (fD w)) := by
  rw [cand, h]; rfl

theorem cand_1c (w : Word) (h : fOp w = 0x1C) : cand w = (some (.brk (fImm w))) := by
  rw [cand, h]; rfl

theorem cand_20 (w : Word) (h : fOp w = 0x20) : cand w = (some (.ld (fD w) (fA w) (.ofCode (w.extractLsb' 11 2)) (fBit w 10) (w.extractLsb' 0 10))) := by
  rw [cand, h]; rfl

theorem cand_21 (w : Word) (h : fOp w = 0x21) : cand w = (some (.st (fD w) (fA w) (.ofCode (w.extractLsb' 11 2)) (w.extractLsb' 0 10))) := by
  rw [cand, h]; rfl

theorem cand_22 (w : Word) (h : fOp w = 0x22) : cand w = (some (.ldv (fD w) (fA w) (w.extractLsb' 0 10))) := by
  rw [cand, h]; rfl

theorem cand_23 (w : Word) (h : fOp w = 0x23) : cand w = (some (.stv (fD w) (fA w) (w.extractLsb' 0 10))) := by
  rw [cand, h]; rfl

theorem cand_24 (w : Word) (h : fOp w = 0x24) : cand w = (some (.ldvol (fD w) (fA w) (.ofCode (w.extractLsb' 11 2)) (fBit w 10) (w.extractLsb' 0 10))) := by
  rw [cand, h]; rfl

theorem cand_25 (w : Word) (h : fOp w = 0x25) : cand w = (some (.stvol (fD w) (fA w) (.ofCode (w.extractLsb' 11 2)) (w.extractLsb' 0 10))) := by
  rw [cand, h]; rfl

theorem cand_26 (w : Word) (h : fOp w = 0x26) : cand w = (some (.gath (fD w) (fA w) (fB w) (fP w) (fTy w))) := by
  rw [cand, h]; rfl

theorem cand_27 (w : Word) (h : fOp w = 0x27) : cand w = (some (.scat (fD w) (fA w) (fB w) (fP w) (fTy w))) := by
  rw [cand, h]; rfl

theorem cand_28 (w : Word) (h : fOp w = 0x28) : cand w = (candCache w (fD w) (fA w) (fB w)) := by
  rw [cand, h]; rfl

theorem cand_29 (w : Word) (h : fOp w = 0x29) : cand w = (candAmo w (fD w) (fA w) (fB w)) := by
  rw [cand, h]; rfl

theorem cand_2a (w : Word) (h : fOp w = 0x2A) : cand w = (some (.cas (fD w) (fA w) (fB w) (.ofCode (w.extractLsb' 5 2)) (fBit w 4))) := by
  rw [cand, h]; rfl

theorem cand_30 (w : Word) (h : fOp w = 0x30) : cand w = (candSync w (fD w) (fA w) (fB w)) := by
  rw [cand, h]; rfl

theorem cand_31 (w : Word) (h : fOp w = 0x31) : cand w = (some (.bar (fD w) (w.extractLsb' 0 2) (fBit w 2))) := by
  rw [cand, h]; rfl

theorem cand_32 (w : Word) (h : fOp w = 0x32) : cand w = (candMsg w (fD w) (fA w) (fB w)) := by
  rw [cand, h]; rfl

theorem cand_33 (w : Word) (h : fOp w = 0x33) : cand w = (candCopy w (fD w) (fA w) (fB w)) := by
  rw [cand, h]; rfl

theorem cand_34 (w : Word) (h : fOp w = 0x34) : cand w = (candWorld w (fD w) (fA w) (fB w)) := by
  rw [cand, h]; rfl

theorem cand_35 (w : Word) (h : fOp w = 0x35) : cand w = (candWld w (fA w) (fB w)) := by
  rw [cand, h]; rfl

theorem cand_36 (w : Word) (h : fOp w = 0x36) : cand w = (candPattern w (fD w) (fA w)) := by
  rw [cand, h]; rfl

theorem cand_37 (w : Word) (h : fOp w = 0x37) : cand w = (some (.quant (fD w) (fA w) (fBit w 12) (w.extractLsb' 7 5) (fP w) (fTy w))) := by
  rw [cand, h]; rfl

theorem cand_38 (w : Word) (h : fOp w = 0x38) : cand w = (some (.dquant (fD w) (fA w) (fBit w 12) (w.extractLsb' 7 5) (fP w) (fTy w))) := by
  rw [cand, h]; rfl

theorem cand_40 (w : Word) (h : fOp w = 0x40) : cand w = (some (.vadd (fD w) (fA w) (fB w) (fP w) (fTy w) (fX w))) := by
  rw [cand, h]; rfl

theorem cand_41 (w : Word) (h : fOp w = 0x41) : cand w = (some (.vsub (fD w) (fA w) (fB w) (fP w) (fTy w) (fX w))) := by
  rw [cand, h]; rfl

theorem cand_42 (w : Word) (h : fOp w = 0x42) : cand w = (some (.vmul (fD w) (fA w) (fB w) (fP w) (fTy w) (fX w))) := by
  rw [cand, h]; rfl

theorem cand_43 (w : Word) (h : fOp w = 0x43) : cand w = (some (.vfma (fD w) (fA w) (fB w) (fP w) (fTy w) (fX w))) := by
  rw [cand, h]; rfl

theorem cand_44 (w : Word) (h : fOp w = 0x44) : cand w = (some (.vfnma (fD w) (fA w) (fB w) (fP w) (fTy w) (fX w))) := by
  rw [cand, h]; rfl

theorem cand_45 (w : Word) (h : fOp w = 0x45) : cand w = (some (.vdiv (fD w) (fA w) (fB w) (fP w) (fTy w) (fX w))) := by
  rw [cand, h]; rfl

theorem cand_46 (w : Word) (h : fOp w = 0x46) : cand w = (some (.vmin (fD w) (fA w) (fB w) (fP w) (fTy w) (fX w))) := by
  rw [cand, h]; rfl

theorem cand_47 (w : Word) (h : fOp w = 0x47) : cand w = (some (.vmax (fD w) (fA w) (fB w) (fP w) (fTy w) (fX w))) := by
  rw [cand, h]; rfl

theorem cand_48 (w : Word) (h : fOp w = 0x48) : cand w = (some (.vcpys (fD w) (fA w) (fB w) (fP w) (fTy w) (fX w))) := by
  rw [cand, h]; rfl

theorem cand_49 (w : Word) (h : fOp w = 0x49) : cand w = (candVunary w) := by
  rw [cand, h]; rfl

theorem cand_4a (w : Word) (h : fOp w = 0x4A) : cand w = (some (.vand (fD w) (fA w) (fB w) (fP w) (fTy w) (fX w))) := by
  rw [cand, h]; rfl

theorem cand_4b (w : Word) (h : fOp w = 0x4B) : cand w = (some (.vor (fD w) (fA w) (fB w) (fP w) (fTy w) (fX w))) := by
  rw [cand, h]; rfl

theorem cand_4c (w : Word) (h : fOp w = 0x4C) : cand w = (some (.vxor (fD w) (fA w) (fB w) (fP w) (fTy w) (fX w))) := by
  rw [cand, h]; rfl

theorem cand_4d (w : Word) (h : fOp w = 0x4D) : cand w = (some (.vshl (fD w) (fA w) (fB w) (fP w) (fTy w) (fX w))) := by
  rw [cand, h]; rfl

theorem cand_4e (w : Word) (h : fOp w = 0x4E) : cand w = (some (.vshr (fD w) (fA w) (fB w) (fP w) (fTy w) (fX w))) := by
  rw [cand, h]; rfl

theorem cand_4f (w : Word) (h : fOp w = 0x4F) : cand w = (some (.vsar (fD w) (fA w) (fB w) (fP w) (fTy w) (fX w))) := by
  rw [cand, h]; rfl

theorem cand_50 (w : Word) (h : fOp w = 0x50) : cand w = ((VCond.ofCode (w.extractLsb' 22 3)).map fun c => .vcmp c (w.extractLsb' 19 3) (fA w) (fB w) (fP w) (fTy w) (fX w)) := by
  rw [cand, h]; rfl

theorem cand_51 (w : Word) (h : fOp w = 0x51) : cand w = (some (.vsel (fD w) (fA w) (fB w) (fP w) (fTy w) (fX w))) := by
  rw [cand, h]; rfl

theorem cand_52 (w : Word) (h : fOp w = 0x52) : cand w = (some (.vcvt (fD w) (fA w) (w.extractLsb' 11 2) (fBit w 10) (.ofCode (w.extractLsb' 7 3)) (fP w) (fTy w) (fX w))) := by
  rw [cand, h]; rfl

theorem cand_53 (w : Word) (h : fOp w = 0x53) : cand w = (some (.vbcast (fD w) (fA w) (fP w) (fTy w) (fX w))) := by
  rw [cand, h]; rfl

theorem cand_54 (w : Word) (h : fOp w = 0x54) : cand w = (some (.vins (fD w) (fA w) (fB w) (fP w) (fTy w))) := by
  rw [cand, h]; rfl

theorem cand_55 (w : Word) (h : fOp w = 0x55) : cand w = (some (.vext (fD w) (fA w) (fB w) (fBit w 4) (fTy w))) := by
  rw [cand, h]; rfl

theorem cand_56 (w : Word) (h : fOp w = 0x56) : cand w = (some (.vperm (fD w) (fA w) (fB w) (fP w) (fTy w) (fX w))) := by
  rw [cand, h]; rfl

theorem cand_57 (w : Word) (h : fOp w = 0x57) : cand w = (some (.vslide (fD w) (fA w) (fB w) (fP w) (fTy w) (fX w))) := by
  rw [cand, h]; rfl

theorem cand_58 (w : Word) (h : fOp w = 0x58) : cand w = ((RedOp.ofCode (fB w)).map fun o => .vred (fD w) (fA w) o (fP w) (fTy w) (fX w)) := by
  rw [cand, h]; rfl

theorem cand_59 (w : Word) (h : fOp w = 0x59) : cand w = ((RedOp.ofCode (fB w)).map fun o => .vscan (fD w) (fA w) o (fP w) (fTy w) (fX w)) := by
  rw [cand, h]; rfl

theorem cand_5a (w : Word) (h : fOp w = 0x5A) : cand w = (some (.vcxs (fD w) (fA w) (fB w) (fP w) (fTy w) (fX w))) := by
  rw [cand, h]; rfl

theorem cand_5b (w : Word) (h : fOp w = 0x5B) : cand w = (some (.vcompr (fD w) (fA w) (fP w) (fTy w) (fX w))) := by
  rw [cand, h]; rfl

theorem cand_5c (w : Word) (h : fOp w = 0x5C) : cand w = (some (.vexpnd (fD w) (fA w) (fP w) (fTy w) (fX w))) := by
  rw [cand, h]; rfl

theorem cand_5d (w : Word) (h : fOp w = 0x5D) : cand w = (some (.vlut (fD w) (fA w) (fB w) (fP w) (fTy w))) := by
  rw [cand, h]; rfl

theorem cand_5e (w : Word) (h : fOp w = 0x5E) : cand w = (some (.vdot (fD w) (fA w) (fB w) (fP w) (fTy w) (fX w))) := by
  rw [cand, h]; rfl

theorem cand_5f (w : Word) (h : fOp w = 0x5F) : cand w = (candPred w (fD w) (fA w)) := by
  rw [cand, h]; rfl

theorem cand_68 (w : Word) (h : fOp w = 0x68) : cand w = (candZop w) := by
  rw [cand, h]; rfl

theorem cand_69 (w : Word) (h : fOp w = 0x69) : cand w = ((MmaTy.ofCode (w.extractLsb' 0 3)).map fun t => .mma (fZ w) (fEv w) (fK w) (fMa w) (fMb w) (fBit w 3) t) := by
  rw [cand, h]; rfl

theorem cand_6a (w : Word) (h : fOp w = 0x6A) : cand w = (some (.sclacc (fZ w) (fEv w) (fK w) (w.extractLsb' 11 3) (fMb w) (fBit w 0))) := by
  rw [cand, h]; rfl

theorem cand_6b (w : Word) (h : fOp w = 0x6B) : cand w = (some (.outlacc (fZ w) (fEv w) (fK w) (fMa w) (fMb w) (w.extractLsb' 0 4))) := by
  rw [cand, h]; rfl

theorem cand_6c (w : Word) (h : fOp w = 0x6C) : cand w = (if w.toNat % 128 = 0 then some (.mcmd (fD w) (fA w) (fB w)) else some (.mcmdT (fD w) (fA w) (fB w))) := by
  rw [cand, h]; rfl

theorem cand_6d (w : Word) (h : fOp w = 0x6D) : cand w = (candCap w (fD w) (fA w) (fB w)) := by
  rw [cand, h]; rfl

theorem cand_6e (w : Word) (h : fOp w = 0x6E) : cand w = (some (.zwaitv (fZ w) (fEv w))) := by
  rw [cand, h]; rfl

theorem cand_70 (w : Word) (h : fOp w = 0x70) : cand w = (candSys w (fA w)) := by
  rw [cand, h]; rfl

theorem cand_71 (w : Word) (h : fOp w = 0x71) : cand w = (some (.crd (fD w) (w.extractLsb' 0 12))) := by
  rw [cand, h]; rfl

theorem cand_72 (w : Word) (h : fOp w = 0x72) : cand w = (some (.cwr (fA w) (w.extractLsb' 0 12))) := by
  rw [cand, h]; rfl

theorem cand_73 (w : Word) (h : fOp w = 0x73) : cand w = (some (.tlbinv (fD w) (fA w) (fB w))) := by
  rw [cand, h]; rfl

theorem cand_74 (w : Word) (h : fOp w = 0x74) : cand w = (some (.ctxsw (fD w) (fA w) (fB w))) := by
  rw [cand, h]; rfl

theorem cand_75 (w : Word) (h : fOp w = 0x75) : cand w = (if w.toNat % 128 = 0 then some (.freplay (fD w) (fA w) (fB w)) else if w.toNat % 128 = 1 then some (.fkill (fD w) (fA w) (fB w)) else some (.fqack (fD w) (fA w))) := by
  rw [cand, h]; rfl

theorem cand_76 (w : Word) (h : fOp w = 0x76) : cand w = (if w.toNat % 128 = 0 then some (.cpair (fD w)) else some (.unpair (fD w))) := by
  rw [cand, h]; rfl

theorem cand_77 (w : Word) (h : fOp w = 0x77) : cand w = (candStave w (fD w) (fA w) (fB w)) := by
  rw [cand, h]; rfl

theorem cand_7e (w : Word) (h : fOp w = 0x7E) : cand w = (candHint w) := by
  rw [cand, h]; rfl

end Sys2Proof.Laws

namespace Sys2Proof.Laws.Encoding

set_option Elab.async false

/-- The fields of the encoding of a well-formed instruction name that instruction. -/
def Statement (i : Instr) : Prop := i.wf = true → i.hasWord = true → cand (encode i) = some i

theorem add d a b : Statement (.add d a b) := by
  intro _ _
  refine (cand_01 _ (fOp_fmtR _ _ _ _ _ )).trans ?_
  simp only [candAlu, BitVec.ofNat_eq_ofNat, low_fmtR, BitVec.toNat_ofNat, Nat.reducePow, Nat.zero_mod, fD_fmtR,
    fA_fmtR, fB_fmtR]

theorem sub d a b : Statement (.sub d a b) := by
  intro _ _
  refine (cand_01 _ (fOp_fmtR _ _ _ _ _ )).trans ?_
  simp only [candAlu, BitVec.ofNat_eq_ofNat, low_fmtR, BitVec.toNat_ofNat, Nat.reducePow, Nat.one_mod, fD_fmtR,
    fA_fmtR, fB_fmtR]

theorem and d a b : Statement (.and d a b) := by
  intro _ _
  refine (cand_01 _ (fOp_fmtR _ _ _ _ _ )).trans ?_
  simp only [candAlu, BitVec.ofNat_eq_ofNat, low_fmtR, BitVec.toNat_ofNat, Nat.reducePow, Nat.reduceMod, fD_fmtR,
    fA_fmtR, fB_fmtR]

theorem or d a b : Statement (.or d a b) := by
  intro _ _
  refine (cand_01 _ (fOp_fmtR _ _ _ _ _ )).trans ?_
  simp only [candAlu, BitVec.ofNat_eq_ofNat, low_fmtR, BitVec.toNat_ofNat, Nat.reducePow, Nat.reduceMod, fD_fmtR,
    fA_fmtR, fB_fmtR]

theorem xor d a b : Statement (.xor d a b) := by
  intro _ _
  refine (cand_01 _ (fOp_fmtR _ _ _ _ _ )).trans ?_
  simp only [candAlu, BitVec.ofNat_eq_ofNat, low_fmtR, BitVec.toNat_ofNat, Nat.reducePow, Nat.reduceMod, fD_fmtR,
    fA_fmtR, fB_fmtR]

theorem andn d a b : Statement (.andn d a b) := by
  intro _ _
  refine (cand_01 _ (fOp_fmtR _ _ _ _ _ )).trans ?_
  simp only [candAlu, BitVec.ofNat_eq_ofNat, low_fmtR, BitVec.toNat_ofNat, Nat.reducePow, Nat.reduceMod, fD_fmtR,
    fA_fmtR, fB_fmtR]

theorem shl d a b : Statement (.shl d a b) := by
  intro _ _
  refine (cand_01 _ (fOp_fmtR _ _ _ _ _ )).trans ?_
  simp only [candAlu, BitVec.ofNat_eq_ofNat, low_fmtR, BitVec.toNat_ofNat, Nat.reducePow, Nat.reduceMod, fD_fmtR,
    fA_fmtR, fB_fmtR]

theorem shr d a b : Statement (.shr d a b) := by
  intro _ _
  refine (cand_01 _ (fOp_fmtR _ _ _ _ _ )).trans ?_
  simp only [candAlu, BitVec.ofNat_eq_ofNat, low_fmtR, BitVec.toNat_ofNat, Nat.reducePow, Nat.reduceMod, fD_fmtR,
    fA_fmtR, fB_fmtR]

theorem sar d a b : Statement (.sar d a b) := by
  intro _ _
  refine (cand_01 _ (fOp_fmtR _ _ _ _ _ )).trans ?_
  simp only [candAlu, BitVec.ofNat_eq_ofNat, low_fmtR, BitVec.toNat_ofNat, Nat.reducePow, Nat.reduceMod, fD_fmtR,
    fA_fmtR, fB_fmtR]

theorem ror d a b : Statement (.ror d a b) := by
  intro _ _
  refine (cand_01 _ (fOp_fmtR _ _ _ _ _ )).trans ?_
  simp only [candAlu, BitVec.ofNat_eq_ofNat, low_fmtR, BitVec.toNat_ofNat, Nat.reducePow, Nat.reduceMod, fD_fmtR,
    fA_fmtR, fB_fmtR]

theorem slt d a b : Statement (.slt d a b) := by
  intro _ _
  refine (cand_01 _ (fOp_fmtR _ _ _ _ _ )).trans ?_
  simp only [candAlu, BitVec.ofNat_eq_ofNat, low_fmtR, BitVec.toNat_ofNat, Nat.reducePow, Nat.reduceMod, fD_fmtR,
    fA_fmtR, fB_fmtR]

theorem sltc d a b : Statement (.sltc d a b) := by
  intro _ _
  refine (cand_01 _ (fOp_fmtR _ _ _ _ _ )).trans ?_
  simp only [candAlu, BitVec.ofNat_eq_ofNat, low_fmtR, BitVec.toNat_ofNat, Nat.reducePow, Nat.reduceMod, fD_fmtR,
    fA_fmtR, fB_fmtR]

theorem min d a b : Statement (.min d a b) := by
  intro _ _
  refine (cand_01 _ (fOp_fmtR _ _ _ _ _ )).trans ?_
  simp only [candAlu, BitVec.ofNat_eq_ofNat, low_fmtR, BitVec.toNat_ofNat, Nat.reducePow, Nat.reduceMod, fD_fmtR,
    fA_fmtR, fB_fmtR]

theorem max d a b : Statement (.max d a b) := by
  intro _ _
  refine (cand_01 _ (fOp_fmtR _ _ _ _ _ )).trans ?_
  simp only [candAlu, BitVec.ofNat_eq_ofNat, low_fmtR, BitVec.toNat_ofNat, Nat.reducePow, Nat.reduceMod, fD_fmtR,
    fA_fmtR, fB_fmtR]

theorem minc d a b : Statement (.minc d a b) := by
  intro _ _
  refine (cand_01 _ (fOp_fmtR _ _ _ _ _ )).trans ?_
  simp only [candAlu, BitVec.ofNat_eq_ofNat, low_fmtR, BitVec.toNat_ofNat, Nat.reducePow, Nat.reduceMod, fD_fmtR,
    fA_fmtR, fB_fmtR]

theorem maxc d a b : Statement (.maxc d a b) := by
  intro _ _
  refine (cand_01 _ (fOp_fmtR _ _ _ _ _ )).trans ?_
  simp only [candAlu, BitVec.ofNat_eq_ofNat, low_fmtR, BitVec.toNat_ofNat, Nat.reducePow, Nat.reduceMod, fD_fmtR,
    fA_fmtR, fB_fmtR]

theorem mul d a b : Statement (.mul d a b) := by
  intro _ _
  refine (cand_01 _ (fOp_fmtR _ _ _ _ _ )).trans ?_
  simp only [candAlu, BitVec.ofNat_eq_ofNat, low_fmtR, BitVec.toNat_ofNat, Nat.reducePow, Nat.reduceMod, fD_fmtR,
    fA_fmtR, fB_fmtR]

theorem mulh d a b : Statement (.mulh d a b) := by
  intro _ _
  refine (cand_01 _ (fOp_fmtR _ _ _ _ _ )).trans ?_
  simp only [candAlu, BitVec.ofNat_eq_ofNat, low_fmtR, BitVec.toNat_ofNat, Nat.reducePow, Nat.reduceMod, fD_fmtR,
    fA_fmtR, fB_fmtR]

theorem mulhc d a b : Statement (.mulhc d a b) := by
  intro _ _
  refine (cand_01 _ (fOp_fmtR _ _ _ _ _ )).trans ?_
  simp only [candAlu, BitVec.ofNat_eq_ofNat, low_fmtR, BitVec.toNat_ofNat, Nat.reducePow, Nat.reduceMod, fD_fmtR,
    fA_fmtR, fB_fmtR]

theorem mulhsc d a b : Statement (.mulhsc d a b) := by
  intro _ _
  refine (cand_01 _ (fOp_fmtR _ _ _ _ _ )).trans ?_
  simp only [candAlu, BitVec.ofNat_eq_ofNat, low_fmtR, BitVec.toNat_ofNat, Nat.reducePow, Nat.reduceMod, fD_fmtR,
    fA_fmtR, fB_fmtR]

theorem div d a b : Statement (.div d a b) := by
  intro _ _
  refine (cand_01 _ (fOp_fmtR _ _ _ _ _ )).trans ?_
  simp only [candAlu, BitVec.ofNat_eq_ofNat, low_fmtR, BitVec.toNat_ofNat, Nat.reducePow, Nat.reduceMod, fD_fmtR,
    fA_fmtR, fB_fmtR]

theorem divc d a b : Statement (.divc d a b) := by
  intro _ _
  refine (cand_01 _ (fOp_fmtR _ _ _ _ _ )).trans ?_
  simp only [candAlu, BitVec.ofNat_eq_ofNat, low_fmtR, BitVec.toNat_ofNat, Nat.reducePow, Nat.reduceMod, fD_fmtR,
    fA_fmtR, fB_fmtR]

theorem rem d a b : Statement (.rem d a b) := by
  intro _ _
  refine (cand_01 _ (fOp_fmtR _ _ _ _ _ )).trans ?_
  simp only [candAlu, BitVec.ofNat_eq_ofNat, low_fmtR, BitVec.toNat_ofNat, Nat.reducePow, Nat.reduceMod, fD_fmtR,
    fA_fmtR, fB_fmtR]

theorem remc d a b : Statement (.remc d a b) := by
  intro _ _
  refine (cand_01 _ (fOp_fmtR _ _ _ _ _ )).trans ?_
  simp only [candAlu, BitVec.ofNat_eq_ofNat, low_fmtR, BitVec.toNat_ofNat, Nat.reducePow, Nat.reduceMod, fD_fmtR,
    fA_fmtR, fB_fmtR]

theorem addi d a imm : Statement (.addi d a imm) := by
  intro _ _
  refine (cand_02 _ (fOp_fmtI _ _ _ _ )).trans ?_
  simp only [BitVec.ofNat_eq_ofNat, fD_fmtI, fA_fmtI, fImm_fmtI]

theorem andi d a imm : Statement (.andi d a imm) := by
  intro _ _
  refine (cand_03 _ (fOp_fmtI _ _ _ _ )).trans ?_
  simp only [BitVec.ofNat_eq_ofNat, fD_fmtI, fA_fmtI, fImm_fmtI]

theorem ori d a imm : Statement (.ori d a imm) := by
  intro _ _
  refine (cand_04 _ (fOp_fmtI _ _ _ _ )).trans ?_
  simp only [BitVec.ofNat_eq_ofNat, fD_fmtI, fA_fmtI, fImm_fmtI]

theorem xori d a imm : Statement (.xori d a imm) := by
  intro _ _
  refine (cand_05 _ (fOp_fmtI _ _ _ _ )).trans ?_
  simp only [BitVec.ofNat_eq_ofNat, fD_fmtI, fA_fmtI, fImm_fmtI]

theorem slti d a imm : Statement (.slti d a imm) := by
  intro _ _
  refine (cand_07 _ (fOp_fmtI _ _ _ _ )).trans ?_
  simp only [BitVec.ofNat_eq_ofNat, fD_fmtI, fA_fmtI, fImm_fmtI]

theorem sltci d a imm : Statement (.sltci d a imm) := by
  intro _ _
  refine (cand_08 _ (fOp_fmtI _ _ _ _ )).trans ?_
  simp only [BitVec.ofNat_eq_ofNat, fD_fmtI, fA_fmtI, fImm_fmtI]

theorem muli d a imm : Statement (.muli d a imm) := by
  intro _ _
  refine (cand_09 _ (fOp_fmtI _ _ _ _ )).trans ?_
  simp only [BitVec.ofNat_eq_ofNat, fD_fmtI, fA_fmtI, fImm_fmtI]

theorem shli d a n : Statement (.shli d a n) := by
  intro _ _
  refine (cand_06 _ (fOp_fmtI _ _ _ _ )).trans ?_
  simp only [candShift, BitVec.ofNat_eq_ofNat, Nat.reduceAdd, slice_6_2_fmtI, shift_k, BitVec.toNat_ofNat,
    Nat.reducePow, Nat.zero_mod, fD_fmtI, fA_fmtI, slice_0_6_fmtI, shift_n]

theorem shri d a n : Statement (.shri d a n) := by
  intro _ _
  refine (cand_06 _ (fOp_fmtI _ _ _ _ )).trans ?_
  simp only [candShift, BitVec.ofNat_eq_ofNat, Nat.reduceAdd, slice_6_2_fmtI, shift_k, BitVec.toNat_ofNat,
    Nat.reducePow, Nat.one_mod, fD_fmtI, fA_fmtI, slice_0_6_fmtI, shift_n]

theorem sari d a n : Statement (.sari d a n) := by
  intro _ _
  refine (cand_06 _ (fOp_fmtI _ _ _ _ )).trans ?_
  simp only [candShift, BitVec.ofNat_eq_ofNat, Nat.reduceAdd, slice_6_2_fmtI, shift_k, BitVec.toNat_ofNat,
    Nat.reducePow, Nat.reduceMod, fD_fmtI, fA_fmtI, slice_0_6_fmtI, shift_n]

theorem rori d a n : Statement (.rori d a n) := by
  intro _ _
  refine (cand_06 _ (fOp_fmtI _ _ _ _ )).trans ?_
  simp only [candShift, BitVec.ofNat_eq_ofNat, Nat.reduceAdd, slice_6_2_fmtI, shift_k, BitVec.toNat_ofNat,
    Nat.reducePow, Nat.mod_succ, fD_fmtI, fA_fmtI, slice_0_6_fmtI, shift_n]

theorem bext d a width off : Statement (.bext d a width off) := by
  intro _ _
  refine (cand_0a _ (fOp_fmtI _ _ _ _ )).trans ?_
  simp only [candBitf, BitVec.ofNat_eq_ofNat, Nat.reduceAdd, slice_11_2_fmtI, bitf_k, BitVec.toNat_ofNat,
    Nat.reducePow, Nat.zero_mod, fD_fmtI, fA_fmtI, slice_6_5_fmtI, bitf_n, slice_0_6_fmtI, bitf_o]

theorem bexts d a width off : Statement (.bexts d a width off) := by
  intro _ _
  refine (cand_0a _ (fOp_fmtI _ _ _ _ )).trans ?_
  simp only [candBitf, BitVec.ofNat_eq_ofNat, Nat.reduceAdd, slice_11_2_fmtI, bitf_k, BitVec.toNat_ofNat,
    Nat.reducePow, Nat.one_mod, fD_fmtI, fA_fmtI, slice_6_5_fmtI, bitf_n, slice_0_6_fmtI, bitf_o]

theorem bins d a width off : Statement (.bins d a width off) := by
  intro _ _
  refine (cand_0a _ (fOp_fmtI _ _ _ _ )).trans ?_
  simp only [candBitf, BitVec.ofNat_eq_ofNat, Nat.reduceAdd, slice_11_2_fmtI, bitf_k, BitVec.toNat_ofNat,
    Nat.reducePow, Nat.reduceMod, fD_fmtI, fA_fmtI, slice_6_5_fmtI, bitf_n, slice_0_6_fmtI, bitf_o]

theorem lea d a b s : Statement (.lea d a b s) := by
  intro _ _
  refine (cand_0b _ (fOp_fmtR _ _ _ _ _ )).trans ?_
  simp only [BitVec.ofNat_eq_ofNat, Nat.reduceAdd, fD_fmtR, fA_fmtR, fB_fmtR, slice_0_3_fmtR, lea_n]

theorem laddr d a idx : Statement (.laddr d a idx) := by
  intro _ _
  refine (cand_0c _ (fOp_fmtI _ _ _ _ )).trans ?_
  simp only [BitVec.ofNat_eq_ofNat, Nat.reduceAdd, bit_12_fmtI, pool_bit, BitVec.getLsbD_zero, Bool.false_eq_true,
    ↓reduceIte, fD_fmtI, fA_fmtI, slice_0_12_fmtI, pool_n]

theorem laddrLen d idx : Statement (.laddrLen d idx) := by
  intro _ _
  refine (cand_0c _ (fOp_fmtI _ _ _ _ )).trans ?_
  simp only [BitVec.ofNat_eq_ofNat, Nat.reduceAdd, bit_12_fmtI, pool_bit, BitVec.getLsbD_one, Order.lt_one_iff,
    decide_true, Bool.and_self, ↓reduceIte, fD_fmtI, slice_0_12_fmtI, pool_n]

theorem clz d a : Statement (.clz d a) := by
  intro _ _
  refine (cand_0d _ (fOp_fmtR _ _ _ _ _ )).trans ?_
  simp only [candUnary, BitVec.ofNat_eq_ofNat, low_fmtR, BitVec.toNat_ofNat, Nat.reducePow, Nat.zero_mod, fD_fmtR,
    fA_fmtR]

theorem ctz d a : Statement (.ctz d a) := by
  intro _ _
  refine (cand_0d _ (fOp_fmtR _ _ _ _ _ )).trans ?_
  simp only [candUnary, BitVec.ofNat_eq_ofNat, low_fmtR, BitVec.toNat_ofNat, Nat.reducePow, Nat.one_mod, fD_fmtR,
    fA_fmtR]

theorem popc d a : Statement (.popc d a) := by
  intro _ _
  refine (cand_0d _ (fOp_fmtR _ _ _ _ _ )).trans ?_
  simp only [candUnary, BitVec.ofNat_eq_ofNat, low_fmtR, BitVec.toNat_ofNat, Nat.reducePow, Nat.reduceMod, fD_fmtR,
    fA_fmtR]

theorem brev d a : Statement (.brev d a) := by
  intro _ _
  refine (cand_0d _ (fOp_fmtR _ _ _ _ _ )).trans ?_
  simp only [candUnary, BitVec.ofNat_eq_ofNat, low_fmtR, BitVec.toNat_ofNat, Nat.reducePow, Nat.reduceMod, fD_fmtR,
    fA_fmtR]

theorem bswap d a : Statement (.bswap d a) := by
  intro _ _
  refine (cand_0d _ (fOp_fmtR _ _ _ _ _ )).trans ?_
  simp only [candUnary, BitVec.ofNat_eq_ofNat, low_fmtR, BitVec.toNat_ofNat, Nat.reducePow, Nat.reduceMod, fD_fmtR,
    fA_fmtR]

theorem sextb d a : Statement (.sextb d a) := by
  intro _ _
  refine (cand_0d _ (fOp_fmtR _ _ _ _ _ )).trans ?_
  simp only [candUnary, BitVec.ofNat_eq_ofNat, low_fmtR, BitVec.toNat_ofNat, Nat.reducePow, Nat.reduceMod, fD_fmtR,
    fA_fmtR]

theorem sexth d a : Statement (.sexth d a) := by
  intro _ _
  refine (cand_0d _ (fOp_fmtR _ _ _ _ _ )).trans ?_
  simp only [candUnary, BitVec.ofNat_eq_ofNat, low_fmtR, BitVec.toNat_ofNat, Nat.reducePow, Nat.reduceMod, fD_fmtR,
    fA_fmtR]

theorem sextw d a : Statement (.sextw d a) := by
  intro _ _
  refine (cand_0d _ (fOp_fmtR _ _ _ _ _ )).trans ?_
  simp only [candUnary, BitVec.ofNat_eq_ofNat, low_fmtR, BitVec.toNat_ofNat, Nat.reducePow, Nat.reduceMod, fD_fmtR,
    fA_fmtR]

theorem zexth d a : Statement (.zexth d a) := by
  intro _ _
  refine (cand_0d _ (fOp_fmtR _ _ _ _ _ )).trans ?_
  simp only [candUnary, BitVec.ofNat_eq_ofNat, low_fmtR, BitVec.toNat_ofNat, Nat.reducePow, Nat.reduceMod, fD_fmtR,
    fA_fmtR]

theorem zextw d a : Statement (.zextw d a) := by
  intro _ _
  refine (cand_0d _ (fOp_fmtR _ _ _ _ _ )).trans ?_
  simp only [candUnary, BitVec.ofNat_eq_ofNat, low_fmtR, BitVec.toNat_ofNat, Nat.reducePow, Nat.reduceMod, fD_fmtR,
    fA_fmtR]

theorem sel d a b c : Statement (.sel d a b c) := by
  intro _ _
  refine (cand_0e _ (fOp_fmtR _ _ _ _ _ )).trans ?_
  simp only [BitVec.ofNat_eq_ofNat, Nat.reduceAdd, bit_6_fmtR, sel_bit, BitVec.getLsbD_zero, Bool.false_eq_true,
    ↓reduceIte, fD_fmtR, fA_fmtR, fB_fmtR, slice_0_6_fmtR, sel_c]

theorem selz d a b c : Statement (.selz d a b c) := by
  intro _ _
  refine (cand_0e _ (fOp_fmtR _ _ _ _ _ )).trans ?_
  simp only [BitVec.ofNat_eq_ofNat, Nat.reduceAdd, bit_6_fmtR, sel_bit, BitVec.getLsbD_one, Order.lt_one_iff,
    decide_true, Bool.and_self, ↓reduceIte, fD_fmtR, fA_fmtR, fB_fmtR, slice_0_6_fmtR, sel_c]

theorem beq a b off : Statement (.beq a b off) := by
  intro _ _
  refine (cand_10 _ (fOp_fmtI _ _ _ _ )).trans ?_
  simp only [BitVec.ofNat_eq_ofNat, fD_fmtI, fA_fmtI, fImm_fmtI]

theorem bne a b off : Statement (.bne a b off) := by
  intro _ _
  refine (cand_11 _ (fOp_fmtI _ _ _ _ )).trans ?_
  simp only [BitVec.ofNat_eq_ofNat, fD_fmtI, fA_fmtI, fImm_fmtI]

theorem blt a b off : Statement (.blt a b off) := by
  intro _ _
  refine (cand_12 _ (fOp_fmtI _ _ _ _ )).trans ?_
  simp only [BitVec.ofNat_eq_ofNat, fD_fmtI, fA_fmtI, fImm_fmtI]

theorem bge a b off : Statement (.bge a b off) := by
  intro _ _
  refine (cand_13 _ (fOp_fmtI _ _ _ _ )).trans ?_
  simp only [BitVec.ofNat_eq_ofNat, fD_fmtI, fA_fmtI, fImm_fmtI]

theorem bltc a b off : Statement (.bltc a b off) := by
  intro _ _
  refine (cand_14 _ (fOp_fmtI _ _ _ _ )).trans ?_
  simp only [BitVec.ofNat_eq_ofNat, fD_fmtI, fA_fmtI, fImm_fmtI]

theorem bgec a b off : Statement (.bgec a b off) := by
  intro _ _
  refine (cand_15 _ (fOp_fmtI _ _ _ _ )).trans ?_
  simp only [BitVec.ofNat_eq_ofNat, fD_fmtI, fA_fmtI, fImm_fmtI]

theorem j off : Statement (.j off) := by
  intro _ _
  refine (cand_16 _ (fOp_fmtJ _ _ )).trans ?_
  simp only [BitVec.ofNat_eq_ofNat, slice_0_25_fmtJ]

theorem jal off : Statement (.jal off) := by
  intro _ _
  refine (cand_17 _ (fOp_fmtJ _ _ )).trans ?_
  simp only [BitVec.ofNat_eq_ofNat, slice_0_25_fmtJ]

theorem jalr d a imm : Statement (.jalr d a imm) := by
  intro hw _
  refine (cand_18 _ (fOp_fmtI _ _ _ _ )).trans ?_
  simpa [encode, Instr.wf] using hw

theorem jr a imm : Statement (.jr a imm) := by
  intro _ _
  refine (cand_18 _ (fOp_fmtI _ _ _ _ )).trans ?_
  simp only [BitVec.ofNat_eq_ofNat, fD_fmtI, ↓reduceIte, fA_fmtI, fImm_fmtI]

theorem loop a lc len : Statement (.loop a lc len) := by
  intro _ _
  refine (cand_19 _ (fOp_fmtI _ _ _ _ )).trans ?_
  simp only [BitVec.ofNat_eq_ofNat, Nat.reduceAdd, fA_fmtI, slice_11_2_fmtI, loop_k, slice_0_9_fmtI, loop_n]

theorem repv count len dstep astep bstep : Statement (.repv count len dstep astep bstep) := by
  intro _ _
  refine (cand_1a _ (fOp_fmtI _ _ _ _ )).trans ?_
  simp only [BitVec.ofNat_eq_ofNat, Nat.reduceAdd, fD_fmtI, slice_10_3_fmtI, repv_k, slice_7_3_fmtI, repv_l,
    slice_4_3_fmtI, repv_m, slice_1_3_fmtI, repv_n]

theorem follow d : Statement (.follow d) := by
  intro _ _
  refine (cand_1b _ (fOp_fmtR _ _ _ _ _ )).trans ?_
  simp only [candGroup, BitVec.ofNat_eq_ofNat, low_fmtR, BitVec.toNat_ofNat, Nat.reducePow, Nat.zero_mod, fD_fmtR]

theorem gang d : Statement (.gang d) := by
  intro _ _
  refine (cand_1b _ (fOp_fmtR _ _ _ _ _ )).trans ?_
  simp only [candGroup, BitVec.ofNat_eq_ofNat, low_fmtR, BitVec.toNat_ofNat, Nat.reducePow, Nat.reduceMod, fD_fmtR]

theorem unfollow : Statement (.unfollow) := by
  intro _ _
  refine (cand_1b _ (fOp_fmtR _ _ _ _ _ )).trans ?_
  simp only [candGroup, BitVec.ofNat_eq_ofNat, low_fmtR, BitVec.toNat_ofNat, Nat.reducePow, Nat.one_mod]

theorem disband : Statement (.disband) := by
  intro _ _
  refine (cand_1b _ (fOp_fmtR _ _ _ _ _ )).trans ?_
  simp only [candGroup, BitVec.ofNat_eq_ofNat, low_fmtR, BitVec.toNat_ofNat, Nat.reducePow, Nat.reduceMod]

theorem brk code : Statement (.brk code) := by
  intro _ _
  refine (cand_1c _ (fOp_fmtI _ _ _ _ )).trans ?_
  simp only [BitVec.ofNat_eq_ofNat, fImm_fmtI]

theorem ld d a size sx off : Statement (.ld d a size sx off) := by
  intro _ _
  refine (cand_20 _ (fOp_fmtI _ _ _ _ )).trans ?_
  simp only [BitVec.ofNat_eq_ofNat, Nat.reduceAdd, fD_fmtI, fA_fmtI, slice_11_2_fmtI, ld_k, memSize_ofCode,
    bit_10_fmtI, ld_bit, slice_0_10_fmtI, ld_n]

theorem ldvol d a size sx off : Statement (.ldvol d a size sx off) := by
  intro _ _
  refine (cand_24 _ (fOp_fmtI _ _ _ _ )).trans ?_
  simp only [BitVec.ofNat_eq_ofNat, Nat.reduceAdd, fD_fmtI, fA_fmtI, slice_11_2_fmtI, ld_k, memSize_ofCode,
    bit_10_fmtI, ld_bit, slice_0_10_fmtI, ld_n]

theorem st src a size off : Statement (.st src a size off) := by
  intro _ _
  refine (cand_21 _ (fOp_fmtI _ _ _ _ )).trans ?_
  simp only [BitVec.ofNat_eq_ofNat, Nat.reduceAdd, fD_fmtI, fA_fmtI, slice_11_2_fmtI, st_k, memSize_ofCode,
    slice_0_10_fmtI, st_n]

theorem stvol src a size off : Statement (.stvol src a size off) := by
  intro _ _
  refine (cand_25 _ (fOp_fmtI _ _ _ _ )).trans ?_
  simp only [BitVec.ofNat_eq_ofNat, Nat.reduceAdd, fD_fmtI, fA_fmtI, slice_11_2_fmtI, st_k, memSize_ofCode,
    slice_0_10_fmtI, st_n]

theorem ldv d a off : Statement (.ldv d a off) := by
  intro _ _
  refine (cand_22 _ (fOp_fmtI _ _ _ _ )).trans ?_
  simp only [BitVec.ofNat_eq_ofNat, Nat.reduceAdd, fD_fmtI, fA_fmtI, slice_0_10_fmtI, ldv_n]

theorem stv src a off : Statement (.stv src a off) := by
  intro _ _
  refine (cand_23 _ (fOp_fmtI _ _ _ _ )).trans ?_
  simp only [BitVec.ofNat_eq_ofNat, Nat.reduceAdd, fD_fmtI, fA_fmtI, slice_0_10_fmtI, ldv_n]

theorem gath d a b p ty : Statement (.gath d a b p ty) := by
  intro _ _
  refine (cand_26 _ (fOp_fmtV _ _ _ _ _ _ _ )).trans ?_
  simp only [BitVec.ofNat_eq_ofNat, fD_fmtV, fA_fmtV, fB_fmtV, fP_fmtV, fTy_fmtV]

theorem scat d a b p ty : Statement (.scat d a b p ty) := by
  intro _ _
  refine (cand_27 _ (fOp_fmtV _ _ _ _ _ _ _ )).trans ?_
  simp only [BitVec.ofNat_eq_ofNat, fD_fmtV, fA_fmtV, fB_fmtV, fP_fmtV, fTy_fmtV]

theorem pref a : Statement (.pref a) := by
  intro _ _
  refine (cand_28 _ (fOp_fmtR _ _ _ _ _ )).trans ?_
  simp only [candCache, BitVec.ofNat_eq_ofNat, low_fmtR, BitVec.toNat_ofNat, Nat.reducePow, Nat.zero_mod, fA_fmtR]

theorem prefX a : Statement (.prefX a) := by
  intro _ _
  refine (cand_28 _ (fOp_fmtR _ _ _ _ _ )).trans ?_
  simp only [candCache, BitVec.ofNat_eq_ofNat, low_fmtR, BitVec.toNat_ofNat, Nat.reducePow, Nat.reduceMod, fA_fmtR]

theorem prefL2 a : Statement (.prefL2 a) := by
  intro _ _
  refine (cand_28 _ (fOp_fmtR _ _ _ _ _ )).trans ?_
  simp only [candCache, BitVec.ofNat_eq_ofNat, low_fmtR, BitVec.toNat_ofNat, Nat.reducePow, Nat.reduceMod, fA_fmtR]

theorem bpref d a b : Statement (.bpref d a b) := by
  intro _ _
  refine (cand_28 _ (fOp_fmtR _ _ _ _ _ )).trans ?_
  simp only [candCache, BitVec.ofNat_eq_ofNat, low_fmtR, BitVec.toNat_ofNat, Nat.reducePow, Nat.one_mod, fD_fmtR,
    fA_fmtR, fB_fmtR]

theorem clean a : Statement (.clean a) := by
  intro _ _
  refine (cand_28 _ (fOp_fmtR _ _ _ _ _ )).trans ?_
  simp only [candCache, BitVec.ofNat_eq_ofNat, low_fmtR, BitVec.toNat_ofNat, Nat.reducePow, Nat.reduceMod, fA_fmtR]

theorem cleanP a : Statement (.cleanP a) := by
  intro _ _
  refine (cand_28 _ (fOp_fmtR _ _ _ _ _ )).trans ?_
  simp only [candCache, BitVec.ofNat_eq_ofNat, low_fmtR, BitVec.toNat_ofNat, Nat.reducePow, Nat.reduceMod, fA_fmtR]

theorem cinv a : Statement (.cinv a) := by
  intro _ _
  refine (cand_28 _ (fOp_fmtR _ _ _ _ _ )).trans ?_
  simp only [candCache, BitVec.ofNat_eq_ofNat, low_fmtR, BitVec.toNat_ofNat, Nat.reducePow, Nat.reduceMod, fA_fmtR]

theorem ldAcq d a dw : Statement (.ldAcq d a dw) := by
  intro _ _
  refine (cand_29 _ (fOp_fmtR _ _ _ _ _ )).trans ?_
  simp only [candAmo, BitVec.ofNat_eq_ofNat, Nat.reduceAdd, low4_fmtR, amo_n, BitVec.toNat_ofNat, Nat.reducePow,
    Nat.zero_mod, fD_fmtR, fA_fmtR, bit_4_fmtR, amo_bit]

theorem stRel a b dw : Statement (.stRel a b dw) := by
  intro _ _
  refine (cand_29 _ (fOp_fmtR _ _ _ _ _ )).trans ?_
  simp only [candAmo, BitVec.ofNat_eq_ofNat, Nat.reduceAdd, low4_fmtR, amo_n, BitVec.toNat_ofNat, Nat.reducePow,
    Nat.one_mod, fA_fmtR, fB_fmtR, bit_4_fmtR, amo_bit]

theorem atswap d a b ord dw : Statement (.atswap d a b ord dw) := by
  intro _ _
  refine (cand_29 _ (fOp_fmtR _ _ _ _ _ )).trans ?_
  simp only [candAmo, BitVec.ofNat_eq_ofNat, Nat.reduceAdd, low4_fmtR, amo_n, BitVec.toNat_ofNat, Nat.reducePow,
    Nat.reduceMod, fD_fmtR, fA_fmtR, fB_fmtR, slice_5_2_fmtR, amo_k, ord_ofCode, bit_4_fmtR, amo_bit]

theorem atadd d a b ord dw : Statement (.atadd d a b ord dw) := by
  intro _ _
  refine (cand_29 _ (fOp_fmtR _ _ _ _ _ )).trans ?_
  simp only [candAmo, BitVec.ofNat_eq_ofNat, Nat.reduceAdd, low4_fmtR, amo_n, BitVec.toNat_ofNat, Nat.reducePow,
    Nat.reduceMod, fD_fmtR, fA_fmtR, fB_fmtR, slice_5_2_fmtR, amo_k, ord_ofCode, bit_4_fmtR, amo_bit]

theorem atand d a b ord dw : Statement (.atand d a b ord dw) := by
  intro _ _
  refine (cand_29 _ (fOp_fmtR _ _ _ _ _ )).trans ?_
  simp only [candAmo, BitVec.ofNat_eq_ofNat, Nat.reduceAdd, low4_fmtR, amo_n, BitVec.toNat_ofNat, Nat.reducePow,
    Nat.reduceMod, fD_fmtR, fA_fmtR, fB_fmtR, slice_5_2_fmtR, amo_k, ord_ofCode, bit_4_fmtR, amo_bit]

theorem ator d a b ord dw : Statement (.ator d a b ord dw) := by
  intro _ _
  refine (cand_29 _ (fOp_fmtR _ _ _ _ _ )).trans ?_
  simp only [candAmo, BitVec.ofNat_eq_ofNat, Nat.reduceAdd, low4_fmtR, amo_n, BitVec.toNat_ofNat, Nat.reducePow,
    Nat.reduceMod, fD_fmtR, fA_fmtR, fB_fmtR, slice_5_2_fmtR, amo_k, ord_ofCode, bit_4_fmtR, amo_bit]

theorem atxor d a b ord dw : Statement (.atxor d a b ord dw) := by
  intro _ _
  refine (cand_29 _ (fOp_fmtR _ _ _ _ _ )).trans ?_
  simp only [candAmo, BitVec.ofNat_eq_ofNat, Nat.reduceAdd, low4_fmtR, amo_n, BitVec.toNat_ofNat, Nat.reducePow,
    Nat.reduceMod, fD_fmtR, fA_fmtR, fB_fmtR, slice_5_2_fmtR, amo_k, ord_ofCode, bit_4_fmtR, amo_bit]

theorem atmin d a b ord dw : Statement (.atmin d a b ord dw) := by
  intro _ _
  refine (cand_29 _ (fOp_fmtR _ _ _ _ _ )).trans ?_
  simp only [candAmo, BitVec.ofNat_eq_ofNat, Nat.reduceAdd, low4_fmtR, amo_n, BitVec.toNat_ofNat, Nat.reducePow,
    Nat.reduceMod, fD_fmtR, fA_fmtR, fB_fmtR, slice_5_2_fmtR, amo_k, ord_ofCode, bit_4_fmtR, amo_bit]

theorem atmax d a b ord dw : Statement (.atmax d a b ord dw) := by
  intro _ _
  refine (cand_29 _ (fOp_fmtR _ _ _ _ _ )).trans ?_
  simp only [candAmo, BitVec.ofNat_eq_ofNat, Nat.reduceAdd, low4_fmtR, amo_n, BitVec.toNat_ofNat, Nat.reducePow,
    Nat.reduceMod, fD_fmtR, fA_fmtR, fB_fmtR, slice_5_2_fmtR, amo_k, ord_ofCode, bit_4_fmtR, amo_bit]

theorem atminc d a b ord dw : Statement (.atminc d a b ord dw) := by
  intro _ _
  refine (cand_29 _ (fOp_fmtR _ _ _ _ _ )).trans ?_
  simp only [candAmo, BitVec.ofNat_eq_ofNat, Nat.reduceAdd, low4_fmtR, amo_n, BitVec.toNat_ofNat, Nat.reducePow,
    Nat.reduceMod, fD_fmtR, fA_fmtR, fB_fmtR, slice_5_2_fmtR, amo_k, ord_ofCode, bit_4_fmtR, amo_bit]

theorem atmaxc d a b ord dw : Statement (.atmaxc d a b ord dw) := by
  intro _ _
  refine (cand_29 _ (fOp_fmtR _ _ _ _ _ )).trans ?_
  simp only [candAmo, BitVec.ofNat_eq_ofNat, Nat.reduceAdd, low4_fmtR, amo_n, BitVec.toNat_ofNat, Nat.reducePow,
    Nat.reduceMod, fD_fmtR, fA_fmtR, fB_fmtR, slice_5_2_fmtR, amo_k, ord_ofCode, bit_4_fmtR, amo_bit]

theorem cas d a b ord dw : Statement (.cas d a b ord dw) := by
  intro _ _
  refine (cand_2a _ (fOp_fmtR _ _ _ _ _ )).trans ?_
  simp only [BitVec.ofNat_eq_ofNat, Nat.reduceAdd, fD_fmtR, fA_fmtR, fB_fmtR, slice_5_2_fmtR, amo_k, ord_ofCode,
    bit_4_fmtR, amo_bit]

theorem fence scope : Statement (.fence scope) := by
  intro _ _
  refine (cand_30 _ (fOp_fmtR _ _ _ _ _ )).trans ?_
  cases scope <;> rfl

theorem fenceSc scope : Statement (.fenceSc scope) := by
  intro _ _
  refine (cand_30 _ (fOp_fmtR _ _ _ _ _ )).trans ?_
  cases scope <;> rfl

theorem mwait d a b : Statement (.mwait d a b) := by
  intro _ _
  refine (cand_30 _ (fOp_fmtR _ _ _ _ _ )).trans ?_
  simp only [candSync, BitVec.ofNat_eq_ofNat, low_fmtR, BitVec.toNat_ofNat, Nat.reducePow, Nat.reduceMod,
    ↓reduceIte, fD_fmtR, fA_fmtR, fB_fmtR]

theorem bar d level ck : Statement (.bar d level ck) := by
  intro _ _
  refine (cand_31 _ (fOp_fmtR _ _ _ _ _ )).trans ?_
  simp only [BitVec.ofNat_eq_ofNat, Nat.reduceAdd, fD_fmtR, slice_0_2_fmtR, bar_n, bit_2_fmtR, bar_bit]

theorem send a b : Statement (.send a b) := by
  intro _ _
  refine (cand_32 _ (fOp_fmtR _ _ _ _ _ )).trans ?_
  simp only [candMsg, BitVec.ofNat_eq_ofNat, low_fmtR, BitVec.toNat_ofNat, Nat.reducePow, Nat.zero_mod, fA_fmtR,
    fB_fmtR]

theorem sendv a b : Statement (.sendv a b) := by
  intro _ _
  refine (cand_32 _ (fOp_fmtR _ _ _ _ _ )).trans ?_
  simp only [candMsg, BitVec.ofNat_eq_ofNat, low_fmtR, BitVec.toNat_ofNat, Nat.reducePow, Nat.one_mod, fA_fmtR,
    fB_fmtR]

theorem sendEos a : Statement (.sendEos a) := by
  intro _ _
  refine (cand_32 _ (fOp_fmtR _ _ _ _ _ )).trans ?_
  simp only [candMsg, BitVec.ofNat_eq_ofNat, low_fmtR, BitVec.toNat_ofNat, Nat.reducePow, Nat.reduceMod, fA_fmtR]

theorem stbind d a b : Statement (.stbind d a b) := by
  intro _ _
  refine (cand_32 _ (fOp_fmtR _ _ _ _ _ )).trans ?_
  simp only [candMsg, BitVec.ofNat_eq_ofNat, low_fmtR, BitVec.toNat_ofNat, Nat.reducePow, Nat.reduceMod, fD_fmtR,
    fA_fmtR, fB_fmtR]

theorem stdrop d a b : Statement (.stdrop d a b) := by
  intro _ _
  refine (cand_32 _ (fOp_fmtR _ _ _ _ _ )).trans ?_
  simp only [candMsg, BitVec.ofNat_eq_ofNat, low_fmtR, BitVec.toNat_ofNat, Nat.reducePow, Nat.reduceMod, fD_fmtR,
    fA_fmtR, fB_fmtR]

theorem waiteos d a b : Statement (.waiteos d a b) := by
  intro _ _
  refine (cand_32 _ (fOp_fmtR _ _ _ _ _ )).trans ?_
  simp only [candMsg, BitVec.ofNat_eq_ofNat, low_fmtR, BitVec.toNat_ofNat, Nat.reducePow, Nat.reduceMod, fD_fmtR,
    fA_fmtR, fB_fmtR]

theorem xtpl d a b : Statement (.xtpl d a b) := by
  intro _ _
  refine (cand_33 _ (fOp_fmtR _ _ _ _ _ )).trans ?_
  simp only [candCopy, BitVec.ofNat_eq_ofNat, low_fmtR, BitVec.toNat_ofNat, Nat.reducePow, Nat.zero_mod, fD_fmtR,
    fA_fmtR, fB_fmtR]

theorem swinit d a b : Statement (.swinit d a b) := by
  intro _ _
  refine (cand_33 _ (fOp_fmtR _ _ _ _ _ )).trans ?_
  simp only [candCopy, BitVec.ofNat_eq_ofNat, low_fmtR, BitVec.toNat_ofNat, Nat.reducePow, Nat.one_mod, fD_fmtR,
    fA_fmtR, fB_fmtR]

theorem swait d a b : Statement (.swait d a b) := by
  intro _ _
  refine (cand_33 _ (fOp_fmtR _ _ _ _ _ )).trans ?_
  simp only [candCopy, BitVec.ofNat_eq_ofNat, low_fmtR, BitVec.toNat_ofNat, Nat.reducePow, Nat.reduceMod, fD_fmtR,
    fA_fmtR, fB_fmtR]

theorem fesetE a b : Statement (.fesetE a b) := by
  intro _ _
  refine (cand_33 _ (fOp_fmtR _ _ _ _ _ )).trans ?_
  simp only [candCopy, BitVec.ofNat_eq_ofNat, low_fmtR, BitVec.toNat_ofNat, Nat.reducePow, Nat.reduceMod, fA_fmtR,
    fB_fmtR]

theorem fesetF a b : Statement (.fesetF a b) := by
  intro _ _
  refine (cand_33 _ (fOp_fmtR _ _ _ _ _ )).trans ?_
  simp only [candCopy, BitVec.ofNat_eq_ofNat, low_fmtR, BitVec.toNat_ofNat, Nat.reducePow, Nat.reduceMod, fA_fmtR,
    fB_fmtR]

theorem wreg d a b : Statement (.wreg d a b) := by
  intro _ _
  refine (cand_34 _ (fOp_fmtR _ _ _ _ _ )).trans ?_
  simp only [candWorld, BitVec.ofNat_eq_ofNat, low_fmtR, BitVec.toNat_ofNat, Nat.reducePow, Nat.zero_mod, fD_fmtR,
    fA_fmtR, fB_fmtR]

theorem wst src a b : Statement (.wst src a b) := by
  intro _ _
  refine (cand_34 _ (fOp_fmtR _ _ _ _ _ )).trans ?_
  simp only [candWorld, BitVec.ofNat_eq_ofNat, Nat.reduceAdd, low_fmtR, BitVec.toNat_ofNat, Nat.reducePow,
    Nat.one_mod, slice_20_5_fmtR, world_k, fA_fmtR, fB_fmtR]

theorem whzn d a b : Statement (.whzn d a b) := by
  intro _ _
  refine (cand_34 _ (fOp_fmtR _ _ _ _ _ )).trans ?_
  simp only [candWorld, BitVec.ofNat_eq_ofNat, low_fmtR, BitVec.toNat_ofNat, Nat.reducePow, Nat.reduceMod, fD_fmtR,
    fA_fmtR, fB_fmtR]

theorem wretain d a b : Statement (.wretain d a b) := by
  intro _ _
  refine (cand_34 _ (fOp_fmtR _ _ _ _ _ )).trans ?_
  simp only [candWorld, BitVec.ofNat_eq_ofNat, low_fmtR, BitVec.toNat_ofNat, Nat.reducePow, Nat.reduceMod, fD_fmtR,
    fA_fmtR, fB_fmtR]

theorem wseed a : Statement (.wseed a) := by
  intro _ _
  refine (cand_34 _ (fOp_fmtR _ _ _ _ _ )).trans ?_
  simp only [candWorld, BitVec.ofNat_eq_ofNat, low_fmtR, BitVec.toNat_ofNat, Nat.reducePow, Nat.reduceMod, fA_fmtR]

theorem wstat d a : Statement (.wstat d a) := by
  intro _ _
  refine (cand_34 _ (fOp_fmtR _ _ _ _ _ )).trans ?_
  simp only [candWorld, BitVec.ofNat_eq_ofNat, low_fmtR, BitVec.toNat_ofNat, Nat.reducePow, Nat.reduceMod, fD_fmtR,
    fA_fmtR]

theorem wld d a b lim : Statement (.wld d a b lim) := by
  intro _ _
  refine (cand_35 _ (fOp_fmtR _ _ _ _ _ )).trans ?_
  simp only [candWld, BitVec.ofNat_eq_ofNat, Nat.reduceAdd, bit_19_fmtR, world_bit, BitVec.getLsbD_zero,
    Bool.false_eq_true, ↓reduceIte, slice_20_5_fmtR, world_k, fA_fmtR, fB_fmtR, fFn_fmtR]

theorem wldT d a b lim : Statement (.wldT d a b lim) := by
  intro _ _
  refine (cand_35 _ (fOp_fmtR _ _ _ _ _ )).trans ?_
  simp only [candWld, BitVec.ofNat_eq_ofNat, Nat.reduceAdd, bit_19_fmtR, world_bit, BitVec.getLsbD_one,
    Order.lt_one_iff, decide_true, Bool.and_self, ↓reduceIte, slice_20_5_fmtR, world_k, fA_fmtR, fB_fmtR, fFn_fmtR]

theorem patrec d a : Statement (.patrec d a) := by
  intro _ _
  refine (cand_36 _ (fOp_fmtR _ _ _ _ _ )).trans ?_
  simp only [candPattern, BitVec.ofNat_eq_ofNat, low_fmtR, BitVec.toNat_ofNat, Nat.reducePow, Nat.zero_mod, fD_fmtR,
    fA_fmtR]

theorem patplay d a : Statement (.patplay d a) := by
  intro _ _
  refine (cand_36 _ (fOp_fmtR _ _ _ _ _ )).trans ?_
  simp only [candPattern, BitVec.ofNat_eq_ofNat, low_fmtR, BitVec.toNat_ofNat, Nat.reducePow, Nat.one_mod, fD_fmtR,
    fA_fmtR]

theorem patoff d a : Statement (.patoff d a) := by
  intro _ _
  refine (cand_36 _ (fOp_fmtR _ _ _ _ _ )).trans ?_
  simp only [candPattern, BitVec.ofNat_eq_ofNat, low_fmtR, BitVec.toNat_ofNat, Nat.reducePow, Nat.reduceMod,
    fD_fmtR, fA_fmtR]

theorem patstat d a : Statement (.patstat d a) := by
  intro _ _
  refine (cand_36 _ (fOp_fmtR _ _ _ _ _ )).trans ?_
  simp only [candPattern, BitVec.ofNat_eq_ofNat, low_fmtR, BitVec.toNat_ofNat, Nat.reducePow, Nat.reduceMod,
    fD_fmtR, fA_fmtR]

theorem patdrop d a : Statement (.patdrop d a) := by
  intro _ _
  refine (cand_36 _ (fOp_fmtR _ _ _ _ _ )).trans ?_
  simp only [candPattern, BitVec.ofNat_eq_ofNat, low_fmtR, BitVec.toNat_ofNat, Nat.reducePow, Nat.reduceMod,
    fD_fmtR, fA_fmtR]

theorem quant d a q4 prm p ty : Statement (.quant d a q4 prm p ty) := by
  intro _ _
  refine (cand_37 _ (fOp_fmtV _ _ _ _ _ _ _ )).trans ?_
  simp only [BitVec.ofNat_eq_ofNat, Nat.reduceAdd, fD_fmtV, fA_fmtV, bit_12_fmtV, quant_bit, slice_7_5_fmtV,
    quant_n, fP_fmtV, fTy_fmtV]

theorem dquant d a q4 prm p ty : Statement (.dquant d a q4 prm p ty) := by
  intro _ _
  refine (cand_38 _ (fOp_fmtV _ _ _ _ _ _ _ )).trans ?_
  simp only [BitVec.ofNat_eq_ofNat, Nat.reduceAdd, fD_fmtV, fA_fmtV, bit_12_fmtV, quant_bit, slice_7_5_fmtV,
    quant_n, fP_fmtV, fTy_fmtV]

theorem vadd d a b p ty x : Statement (.vadd d a b p ty x) := by
  intro _ _
  refine (cand_40 _ (fOp_fmtV _ _ _ _ _ _ _ )).trans ?_
  simp only [BitVec.ofNat_eq_ofNat, fD_fmtV, fA_fmtV, fB_fmtV, fP_fmtV, fTy_fmtV, fX_fmtV]

theorem vsub d a b p ty x : Statement (.vsub d a b p ty x) := by
  intro _ _
  refine (cand_41 _ (fOp_fmtV _ _ _ _ _ _ _ )).trans ?_
  simp only [BitVec.ofNat_eq_ofNat, fD_fmtV, fA_fmtV, fB_fmtV, fP_fmtV, fTy_fmtV, fX_fmtV]

theorem vmul d a b p ty x : Statement (.vmul d a b p ty x) := by
  intro _ _
  refine (cand_42 _ (fOp_fmtV _ _ _ _ _ _ _ )).trans ?_
  simp only [BitVec.ofNat_eq_ofNat, fD_fmtV, fA_fmtV, fB_fmtV, fP_fmtV, fTy_fmtV, fX_fmtV]

theorem vfma d a b p ty x : Statement (.vfma d a b p ty x) := by
  intro _ _
  refine (cand_43 _ (fOp_fmtV _ _ _ _ _ _ _ )).trans ?_
  simp only [BitVec.ofNat_eq_ofNat, fD_fmtV, fA_fmtV, fB_fmtV, fP_fmtV, fTy_fmtV, fX_fmtV]

theorem vfnma d a b p ty x : Statement (.vfnma d a b p ty x) := by
  intro _ _
  refine (cand_44 _ (fOp_fmtV _ _ _ _ _ _ _ )).trans ?_
  simp only [BitVec.ofNat_eq_ofNat, fD_fmtV, fA_fmtV, fB_fmtV, fP_fmtV, fTy_fmtV, fX_fmtV]

theorem vdiv d a b p ty x : Statement (.vdiv d a b p ty x) := by
  intro _ _
  refine (cand_45 _ (fOp_fmtV _ _ _ _ _ _ _ )).trans ?_
  simp only [BitVec.ofNat_eq_ofNat, fD_fmtV, fA_fmtV, fB_fmtV, fP_fmtV, fTy_fmtV, fX_fmtV]

theorem vmin d a b p ty x : Statement (.vmin d a b p ty x) := by
  intro _ _
  refine (cand_46 _ (fOp_fmtV _ _ _ _ _ _ _ )).trans ?_
  simp only [BitVec.ofNat_eq_ofNat, fD_fmtV, fA_fmtV, fB_fmtV, fP_fmtV, fTy_fmtV, fX_fmtV]

theorem vmax d a b p ty x : Statement (.vmax d a b p ty x) := by
  intro _ _
  refine (cand_47 _ (fOp_fmtV _ _ _ _ _ _ _ )).trans ?_
  simp only [BitVec.ofNat_eq_ofNat, fD_fmtV, fA_fmtV, fB_fmtV, fP_fmtV, fTy_fmtV, fX_fmtV]

theorem vcpys d a b p ty x : Statement (.vcpys d a b p ty x) := by
  intro _ _
  refine (cand_48 _ (fOp_fmtV _ _ _ _ _ _ _ )).trans ?_
  simp only [BitVec.ofNat_eq_ofNat, fD_fmtV, fA_fmtV, fB_fmtV, fP_fmtV, fTy_fmtV, fX_fmtV]

theorem vabs d a p ty x : Statement (.vabs d a p ty x) := by
  intro _ _
  refine (cand_49 _ (fOp_fmtV _ _ _ _ _ _ _ )).trans ?_
  simp only [candVunary, BitVec.ofNat_eq_ofNat, fB_fmtV, BitVec.toNat_ofNat, Nat.reducePow, Nat.zero_mod, fD_fmtV,
    fA_fmtV, fP_fmtV, fTy_fmtV, fX_fmtV]

theorem vneg d a p ty x : Statement (.vneg d a p ty x) := by
  intro _ _
  refine (cand_49 _ (fOp_fmtV _ _ _ _ _ _ _ )).trans ?_
  simp only [candVunary, BitVec.ofNat_eq_ofNat, fB_fmtV, BitVec.toNat_ofNat, Nat.reducePow, Nat.one_mod, fD_fmtV,
    fA_fmtV, fP_fmtV, fTy_fmtV, fX_fmtV]

theorem vnot d a p ty x : Statement (.vnot d a p ty x) := by
  intro _ _
  refine (cand_49 _ (fOp_fmtV _ _ _ _ _ _ _ )).trans ?_
  simp only [candVunary, BitVec.ofNat_eq_ofNat, fB_fmtV, BitVec.toNat_ofNat, Nat.reducePow, Nat.reduceMod, fD_fmtV,
    fA_fmtV, fP_fmtV, fTy_fmtV, fX_fmtV]

theorem vsqrt d a p ty x : Statement (.vsqrt d a p ty x) := by
  intro _ _
  refine (cand_49 _ (fOp_fmtV _ _ _ _ _ _ _ )).trans ?_
  simp only [candVunary, BitVec.ofNat_eq_ofNat, fB_fmtV, BitVec.toNat_ofNat, Nat.reducePow, Nat.reduceMod, fD_fmtV,
    fA_fmtV, fP_fmtV, fTy_fmtV, fX_fmtV]

theorem vrcp d a p ty x : Statement (.vrcp d a p ty x) := by
  intro _ _
  refine (cand_49 _ (fOp_fmtV _ _ _ _ _ _ _ )).trans ?_
  simp only [candVunary, BitVec.ofNat_eq_ofNat, fB_fmtV, BitVec.toNat_ofNat, Nat.reducePow, Nat.reduceMod, fD_fmtV,
    fA_fmtV, fP_fmtV, fTy_fmtV, fX_fmtV]

theorem vrsq d a p ty x : Statement (.vrsq d a p ty x) := by
  intro _ _
  refine (cand_49 _ (fOp_fmtV _ _ _ _ _ _ _ )).trans ?_
  simp only [candVunary, BitVec.ofNat_eq_ofNat, fB_fmtV, BitVec.toNat_ofNat, Nat.reducePow, Nat.reduceMod, fD_fmtV,
    fA_fmtV, fP_fmtV, fTy_fmtV, fX_fmtV]

theorem vexp2 d a p ty x : Statement (.vexp2 d a p ty x) := by
  intro _ _
  refine (cand_49 _ (fOp_fmtV _ _ _ _ _ _ _ )).trans ?_
  simp only [candVunary, BitVec.ofNat_eq_ofNat, fB_fmtV, BitVec.toNat_ofNat, Nat.reducePow, Nat.reduceMod, fD_fmtV,
    fA_fmtV, fP_fmtV, fTy_fmtV, fX_fmtV]

theorem vlog2 d a p ty x : Statement (.vlog2 d a p ty x) := by
  intro _ _
  refine (cand_49 _ (fOp_fmtV _ _ _ _ _ _ _ )).trans ?_
  simp only [candVunary, BitVec.ofNat_eq_ofNat, fB_fmtV, BitVec.toNat_ofNat, Nat.reducePow, Nat.reduceMod, fD_fmtV,
    fA_fmtV, fP_fmtV, fTy_fmtV, fX_fmtV]

theorem vsinpi d a p ty x : Statement (.vsinpi d a p ty x) := by
  intro _ _
  refine (cand_49 _ (fOp_fmtV _ _ _ _ _ _ _ )).trans ?_
  simp only [candVunary, BitVec.ofNat_eq_ofNat, fB_fmtV, BitVec.toNat_ofNat, Nat.reducePow, Nat.reduceMod, fD_fmtV,
    fA_fmtV, fP_fmtV, fTy_fmtV, fX_fmtV]

theorem vcospi d a p ty x : Statement (.vcospi d a p ty x) := by
  intro _ _
  refine (cand_49 _ (fOp_fmtV _ _ _ _ _ _ _ )).trans ?_
  simp only [candVunary, BitVec.ofNat_eq_ofNat, fB_fmtV, BitVec.toNat_ofNat, Nat.reducePow, Nat.reduceMod, fD_fmtV,
    fA_fmtV, fP_fmtV, fTy_fmtV, fX_fmtV]

theorem vtanh d a p ty x : Statement (.vtanh d a p ty x) := by
  intro _ _
  refine (cand_49 _ (fOp_fmtV _ _ _ _ _ _ _ )).trans ?_
  simp only [candVunary, BitVec.ofNat_eq_ofNat, fB_fmtV, BitVec.toNat_ofNat, Nat.reducePow, Nat.reduceMod, fD_fmtV,
    fA_fmtV, fP_fmtV, fTy_fmtV, fX_fmtV]

theorem vand d a b p ty x : Statement (.vand d a b p ty x) := by
  intro _ _
  refine (cand_4a _ (fOp_fmtV _ _ _ _ _ _ _ )).trans ?_
  simp only [BitVec.ofNat_eq_ofNat, fD_fmtV, fA_fmtV, fB_fmtV, fP_fmtV, fTy_fmtV, fX_fmtV]

theorem vor d a b p ty x : Statement (.vor d a b p ty x) := by
  intro _ _
  refine (cand_4b _ (fOp_fmtV _ _ _ _ _ _ _ )).trans ?_
  simp only [BitVec.ofNat_eq_ofNat, fD_fmtV, fA_fmtV, fB_fmtV, fP_fmtV, fTy_fmtV, fX_fmtV]

theorem vxor d a b p ty x : Statement (.vxor d a b p ty x) := by
  intro _ _
  refine (cand_4c _ (fOp_fmtV _ _ _ _ _ _ _ )).trans ?_
  simp only [BitVec.ofNat_eq_ofNat, fD_fmtV, fA_fmtV, fB_fmtV, fP_fmtV, fTy_fmtV, fX_fmtV]

theorem vshl d a b p ty x : Statement (.vshl d a b p ty x) := by
  intro _ _
  refine (cand_4d _ (fOp_fmtV _ _ _ _ _ _ _ )).trans ?_
  simp only [BitVec.ofNat_eq_ofNat, fD_fmtV, fA_fmtV, fB_fmtV, fP_fmtV, fTy_fmtV, fX_fmtV]

theorem vshr d a b p ty x : Statement (.vshr d a b p ty x) := by
  intro _ _
  refine (cand_4e _ (fOp_fmtV _ _ _ _ _ _ _ )).trans ?_
  simp only [BitVec.ofNat_eq_ofNat, fD_fmtV, fA_fmtV, fB_fmtV, fP_fmtV, fTy_fmtV, fX_fmtV]

theorem vsar d a b p ty x : Statement (.vsar d a b p ty x) := by
  intro _ _
  refine (cand_4f _ (fOp_fmtV _ _ _ _ _ _ _ )).trans ?_
  simp only [BitVec.ofNat_eq_ofNat, fD_fmtV, fA_fmtV, fB_fmtV, fP_fmtV, fTy_fmtV, fX_fmtV]

theorem vcmp cond d a b p ty x : Statement (.vcmp cond d a b p ty x) := by
  intro _ _
  refine (cand_50 _ (fOp_fmtV _ _ _ _ _ _ _ )).trans ?_
  simp only [BitVec.ofNat_eq_ofNat, Nat.reduceAdd, slice_19_3_fmtV, three_n, fA_fmtV, fB_fmtV, fP_fmtV, fTy_fmtV,
    fX_fmtV, slice_22_3_fmtV, three_k, vCond_ofCode, Option.map_some]

theorem vsel d a b p ty x : Statement (.vsel d a b p ty x) := by
  intro _ _
  refine (cand_51 _ (fOp_fmtV _ _ _ _ _ _ _ )).trans ?_
  simp only [BitVec.ofNat_eq_ofNat, fD_fmtV, fA_fmtV, fB_fmtV, fP_fmtV, fTy_fmtV, fX_fmtV]

theorem vcvt d a part c src p ty x : Statement (.vcvt d a part c src p ty x) := by
  intro _ _
  refine (cand_52 _ (fOp_fmtV _ _ _ _ _ _ _ )).trans ?_
  simp only [BitVec.ofNat_eq_ofNat, Nat.reduceAdd, fD_fmtV, fA_fmtV, slice_11_2_fmtV, cvt_k, bit_10_fmtV, cvt_bit,
    slice_7_3_fmtV, cvt_n, elemTy_ofCode, fP_fmtV, fTy_fmtV, fX_fmtV]

theorem vbcast d a p ty x : Statement (.vbcast d a p ty x) := by
  intro _ _
  refine (cand_53 _ (fOp_fmtV _ _ _ _ _ _ _ )).trans ?_
  simp only [BitVec.ofNat_eq_ofNat, fD_fmtV, fA_fmtV, fP_fmtV, fTy_fmtV, fX_fmtV]

theorem vins d a b p ty : Statement (.vins d a b p ty) := by
  intro _ _
  refine (cand_54 _ (fOp_fmtV _ _ _ _ _ _ _ )).trans ?_
  simp only [BitVec.ofNat_eq_ofNat, fD_fmtV, fA_fmtV, fB_fmtV, fP_fmtV, fTy_fmtV]

theorem vext d a b z ty : Statement (.vext d a b z ty) := by
  intro _ _
  refine (cand_55 _ (fOp_fmtV _ _ _ _ _ _ _ )).trans ?_
  simp only [BitVec.ofNat_eq_ofNat, Nat.reduceAdd, fD_fmtV, fA_fmtV, fB_fmtV, bit_4_fmtV, ext_bit, fTy_fmtV]

theorem vperm d a b p ty x : Statement (.vperm d a b p ty x) := by
  intro _ _
  refine (cand_56 _ (fOp_fmtV _ _ _ _ _ _ _ )).trans ?_
  simp only [BitVec.ofNat_eq_ofNat, fD_fmtV, fA_fmtV, fB_fmtV, fP_fmtV, fTy_fmtV, fX_fmtV]

theorem vslide d a b p ty x : Statement (.vslide d a b p ty x) := by
  intro _ _
  refine (cand_57 _ (fOp_fmtV _ _ _ _ _ _ _ )).trans ?_
  simp only [BitVec.ofNat_eq_ofNat, fD_fmtV, fA_fmtV, fB_fmtV, fP_fmtV, fTy_fmtV, fX_fmtV]

theorem vred d a op p ty x : Statement (.vred d a op p ty x) := by
  intro _ _
  refine (cand_58 _ (fOp_fmtV _ _ _ _ _ _ _ )).trans ?_
  simp only [BitVec.ofNat_eq_ofNat, fD_fmtV, fA_fmtV, fP_fmtV, fTy_fmtV, fX_fmtV, fB_fmtV, redOp_ofCode,
    Option.map_some]

theorem vscan d a op p ty x : Statement (.vscan d a op p ty x) := by
  intro _ _
  refine (cand_59 _ (fOp_fmtV _ _ _ _ _ _ _ )).trans ?_
  simp only [BitVec.ofNat_eq_ofNat, fD_fmtV, fA_fmtV, fP_fmtV, fTy_fmtV, fX_fmtV, fB_fmtV, redOp_ofCode,
    Option.map_some]

theorem vcxs d a b p ty x : Statement (.vcxs d a b p ty x) := by
  intro _ _
  refine (cand_5a _ (fOp_fmtV _ _ _ _ _ _ _ )).trans ?_
  simp only [BitVec.ofNat_eq_ofNat, fD_fmtV, fA_fmtV, fB_fmtV, fP_fmtV, fTy_fmtV, fX_fmtV]

theorem vcompr d a p ty x : Statement (.vcompr d a p ty x) := by
  intro _ _
  refine (cand_5b _ (fOp_fmtV _ _ _ _ _ _ _ )).trans ?_
  simp only [BitVec.ofNat_eq_ofNat, fD_fmtV, fA_fmtV, fP_fmtV, fTy_fmtV, fX_fmtV]

theorem vexpnd d a p ty x : Statement (.vexpnd d a p ty x) := by
  intro _ _
  refine (cand_5c _ (fOp_fmtV _ _ _ _ _ _ _ )).trans ?_
  simp only [BitVec.ofNat_eq_ofNat, fD_fmtV, fA_fmtV, fP_fmtV, fTy_fmtV, fX_fmtV]

theorem vlut d a b p ty : Statement (.vlut d a b p ty) := by
  intro _ _
  refine (cand_5d _ (fOp_fmtV _ _ _ _ _ _ _ )).trans ?_
  simp only [BitVec.ofNat_eq_ofNat, fD_fmtV, fA_fmtV, fB_fmtV, fP_fmtV, fTy_fmtV]

theorem vdot d a b p ty x : Statement (.vdot d a b p ty x) := by
  intro _ _
  refine (cand_5e _ (fOp_fmtV _ _ _ _ _ _ _ )).trans ?_
  simp only [BitVec.ofNat_eq_ofNat, fD_fmtV, fA_fmtV, fB_fmtV, fP_fmtV, fTy_fmtV, fX_fmtV]

theorem pset d a : Statement (.pset d a) := by
  intro _ _
  refine (cand_5f _ (fOp_fmtR _ _ _ _ _ )).trans ?_
  simp only [candPred, BitVec.ofNat_eq_ofNat, Nat.reduceAdd, low_fmtR, BitVec.toNat_ofNat, Nat.reducePow,
    Nat.zero_mod, slice_19_3_fmtR, three_n, fA_fmtR]

theorem pand d a b : Statement (.pand d a b) := by
  intro _ _
  refine (cand_5f _ (fOp_fmtR _ _ _ _ _ )).trans ?_
  simp only [candPred, BitVec.ofNat_eq_ofNat, Nat.reduceAdd, low_fmtR, BitVec.toNat_ofNat, Nat.reducePow,
    Nat.one_mod, slice_19_3_fmtR, three_n, slice_13_3_fmtR, slice_7_3_fmtR]

theorem por d a b : Statement (.por d a b) := by
  intro _ _
  refine (cand_5f _ (fOp_fmtR _ _ _ _ _ )).trans ?_
  simp only [candPred, BitVec.ofNat_eq_ofNat, Nat.reduceAdd, low_fmtR, BitVec.toNat_ofNat, Nat.reducePow,
    Nat.reduceMod, slice_19_3_fmtR, three_n, slice_13_3_fmtR, slice_7_3_fmtR]

theorem pxor d a b : Statement (.pxor d a b) := by
  intro _ _
  refine (cand_5f _ (fOp_fmtR _ _ _ _ _ )).trans ?_
  simp only [candPred, BitVec.ofNat_eq_ofNat, Nat.reduceAdd, low_fmtR, BitVec.toNat_ofNat, Nat.reducePow,
    Nat.reduceMod, slice_19_3_fmtR, three_n, slice_13_3_fmtR, slice_7_3_fmtR]

theorem pnot d a : Statement (.pnot d a) := by
  intro _ _
  refine (cand_5f _ (fOp_fmtR _ _ _ _ _ )).trans ?_
  simp only [candPred, BitVec.ofNat_eq_ofNat, Nat.reduceAdd, low_fmtR, BitVec.toNat_ofNat, Nat.reducePow,
    Nat.reduceMod, slice_19_3_fmtR, three_n, slice_13_3_fmtR]

theorem pcnt d a : Statement (.pcnt d a) := by
  intro _ _
  refine (cand_5f _ (fOp_fmtR _ _ _ _ _ )).trans ?_
  simp only [candPred, BitVec.ofNat_eq_ofNat, Nat.reduceAdd, low_fmtR, BitVec.toNat_ofNat, Nat.reducePow,
    Nat.reduceMod, fD_fmtR, slice_13_3_fmtR, three_n]

theorem pfirst d a : Statement (.pfirst d a) := by
  intro _ _
  refine (cand_5f _ (fOp_fmtR _ _ _ _ _ )).trans ?_
  simp only [candPred, BitVec.ofNat_eq_ofNat, Nat.reduceAdd, low_fmtR, BitVec.toNat_ofNat, Nat.reducePow,
    Nat.reduceMod, fD_fmtR, slice_13_3_fmtR, three_n]

theorem zclr z ev k : Statement (.zclr z ev k) := by
  intro _ _
  refine (cand_68 _ (fOp_fmtM _ _ _ _ _ _ _ )).trans ?_
  simp only [candZop, BitVec.ofNat_eq_ofNat, low_fmtM, BitVec.toNat_ofNat, Nat.reducePow, Nat.zero_mod, fZ_fmtM,
    fEv_fmtM, fK_fmtM]

theorem zld z ev k a b : Statement (.zld z ev k a b) := by
  intro _ _
  refine (cand_68 _ (fOp_fmtM _ _ _ _ _ _ _ )).trans ?_
  simp only [candZop, BitVec.ofNat_eq_ofNat, low_fmtM, BitVec.toNat_ofNat, Nat.reducePow, Nat.one_mod, fZ_fmtM,
    fEv_fmtM, fK_fmtM, fMa_fmtM, fMb_fmtM]

theorem zst z ev k a b : Statement (.zst z ev k a b) := by
  intro _ _
  refine (cand_68 _ (fOp_fmtM _ _ _ _ _ _ _ )).trans ?_
  simp only [candZop, BitVec.ofNat_eq_ofNat, low_fmtM, BitVec.toNat_ofNat, Nat.reducePow, Nat.reduceMod, fZ_fmtM,
    fEv_fmtM, fK_fmtM, fMa_fmtM, fMb_fmtM]

theorem zver z ev k a : Statement (.zver z ev k a) := by
  intro _ _
  refine (cand_68 _ (fOp_fmtM _ _ _ _ _ _ _ )).trans ?_
  simp only [candZop, BitVec.ofNat_eq_ofNat, low_fmtM, BitVec.toNat_ofNat, Nat.reducePow, Nat.reduceMod, fZ_fmtM,
    fEv_fmtM, fK_fmtM, fMa_fmtM]

theorem mma z ev k a b mc ty : Statement (.mma z ev k a b mc ty) := by
  intro _ _
  refine (cand_69 _ (fOp_fmtM _ _ _ _ _ _ _ )).trans ?_
  simp only [BitVec.ofNat_eq_ofNat, Nat.reduceAdd, fZ_fmtM, fEv_fmtM, fK_fmtM, fMa_fmtM, fMb_fmtM, bit_3_fmtM,
    mma_bit, slice_0_3_fmtM, mma_n, mmaTy_ofCode, Option.map_some]

theorem sclacc z ev k part b clr : Statement (.sclacc z ev k part b clr) := by
  intro _ _
  refine (cand_6a _ (fOp_fmtM _ _ _ _ _ _ _ )).trans ?_
  simp only [BitVec.ofNat_eq_ofNat, Nat.reduceAdd, fZ_fmtM, fEv_fmtM, fK_fmtM, slice_11_3_fmtM, three_n, fMb_fmtM,
    bit_0_fmtM, clr_bit]

theorem outlacc z ev k a b row : Statement (.outlacc z ev k a b row) := by
  intro _ _
  refine (cand_6b _ (fOp_fmtM _ _ _ _ _ _ _ )).trans ?_
  simp only [BitVec.ofNat_eq_ofNat, Nat.reduceAdd, fZ_fmtM, fEv_fmtM, fK_fmtM, fMa_fmtM, fMb_fmtM, slice_0_4_fmtM,
    row_n]

theorem mcmd d a b : Statement (.mcmd d a b) := by
  intro _ _
  refine (cand_6c _ (fOp_fmtR _ _ _ _ _ )).trans ?_
  simp only [BitVec.ofNat_eq_ofNat, low_fmtR, BitVec.toNat_ofNat, Nat.reducePow, Nat.zero_mod, ↓reduceIte, fD_fmtR,
    fA_fmtR, fB_fmtR]

theorem mcmdT d a b : Statement (.mcmdT d a b) := by
  intro _ _
  refine (cand_6c _ (fOp_fmtR _ _ _ _ _ )).trans ?_
  simp only [BitVec.ofNat_eq_ofNat, low_fmtR, BitVec.toNat_ofNat, Nat.reducePow, Nat.one_mod, one_ne_zero,
    ↓reduceIte, fD_fmtR, fA_fmtR, fB_fmtR]

theorem capgrant d a b : Statement (.capgrant d a b) := by
  intro _ _
  refine (cand_6d _ (fOp_fmtR _ _ _ _ _ )).trans ?_
  simp only [candCap, BitVec.ofNat_eq_ofNat, low_fmtR, BitVec.toNat_ofNat, Nat.reducePow, Nat.zero_mod, fD_fmtR,
    fA_fmtR, fB_fmtR]

theorem capdrop b : Statement (.capdrop b) := by
  intro _ _
  refine (cand_6d _ (fOp_fmtR _ _ _ _ _ )).trans ?_
  simp only [candCap, BitVec.ofNat_eq_ofNat, low_fmtR, BitVec.toNat_ofNat, Nat.reducePow, Nat.one_mod, fB_fmtR]

theorem zwaitv z ev : Statement (.zwaitv z ev) := by
  intro _ _
  refine (cand_6e _ (fOp_fmtM _ _ _ _ _ _ _ )).trans ?_
  simp only [BitVec.ofNat_eq_ofNat, fZ_fmtM, fEv_fmtM]

theorem trap a : Statement (.trap a) := by
  intro _ _
  refine (cand_70 _ (fOp_fmtR _ _ _ _ _ )).trans ?_
  simp only [candSys, BitVec.ofNat_eq_ofNat, low_fmtR, BitVec.toNat_ofNat, Nat.reducePow, Nat.zero_mod, fA_fmtR]

theorem tret : Statement (.tret) := by
  intro _ _
  refine (cand_70 _ (fOp_fmtR _ _ _ _ _ )).trans ?_
  simp only [candSys, BitVec.ofNat_eq_ofNat, low_fmtR, BitVec.toNat_ofNat, Nat.reducePow, Nat.one_mod]

theorem idle a : Statement (.idle a) := by
  intro _ _
  refine (cand_70 _ (fOp_fmtR _ _ _ _ _ )).trans ?_
  simp only [candSys, BitVec.ofNat_eq_ofNat, low_fmtR, BitVec.toNat_ofNat, Nat.reducePow, Nat.reduceMod, fA_fmtR]

theorem done : Statement (.done) := by
  intro _ _
  refine (cand_70 _ (fOp_fmtR _ _ _ _ _ )).trans ?_
  simp only [candSys, BitVec.ofNat_eq_ofNat, low_fmtR, BitVec.toNat_ofNat, Nat.reducePow, Nat.reduceMod]

theorem crd d num : Statement (.crd d num) := by
  intro _ _
  refine (cand_71 _ (fOp_fmtI _ _ _ _ )).trans ?_
  simp only [BitVec.ofNat_eq_ofNat, Nat.reduceAdd, fD_fmtI, slice_0_12_fmtI, pool_n]

theorem cwr a num : Statement (.cwr a num) := by
  intro _ _
  refine (cand_72 _ (fOp_fmtI _ _ _ _ )).trans ?_
  simp only [BitVec.ofNat_eq_ofNat, Nat.reduceAdd, fA_fmtI, slice_0_12_fmtI, pool_n]

theorem tlbinv d a b : Statement (.tlbinv d a b) := by
  intro _ _
  refine (cand_73 _ (fOp_fmtR _ _ _ _ _ )).trans ?_
  simp only [BitVec.ofNat_eq_ofNat, fD_fmtR, fA_fmtR, fB_fmtR]

theorem ctxsw d a b : Statement (.ctxsw d a b) := by
  intro _ _
  refine (cand_74 _ (fOp_fmtR _ _ _ _ _ )).trans ?_
  simp only [BitVec.ofNat_eq_ofNat, fD_fmtR, fA_fmtR, fB_fmtR]

theorem freplay d a b : Statement (.freplay d a b) := by
  intro _ _
  refine (cand_75 _ (fOp_fmtR _ _ _ _ _ )).trans ?_
  simp only [BitVec.ofNat_eq_ofNat, low_fmtR, BitVec.toNat_ofNat, Nat.reducePow, Nat.zero_mod, ↓reduceIte, fD_fmtR,
    fA_fmtR, fB_fmtR]

theorem fkill d a b : Statement (.fkill d a b) := by
  intro _ _
  refine (cand_75 _ (fOp_fmtR _ _ _ _ _ )).trans ?_
  simp only [BitVec.ofNat_eq_ofNat, low_fmtR, BitVec.toNat_ofNat, Nat.reducePow, Nat.one_mod, one_ne_zero,
    ↓reduceIte, fD_fmtR, fA_fmtR, fB_fmtR]

theorem fqack d a : Statement (.fqack d a) := by
  intro _ _
  refine (cand_75 _ (fOp_fmtR _ _ _ _ _ )).trans ?_
  simp only [BitVec.ofNat_eq_ofNat, low_fmtR, BitVec.toNat_ofNat, Nat.reducePow, Nat.reduceMod, OfNat.ofNat_ne_zero,
    ↓reduceIte, OfNat.ofNat_ne_one, fD_fmtR, fA_fmtR]

theorem cpair d : Statement (.cpair d) := by
  intro _ _
  refine (cand_76 _ (fOp_fmtR _ _ _ _ _ )).trans ?_
  simp only [BitVec.ofNat_eq_ofNat, low_fmtR, BitVec.toNat_ofNat, Nat.reducePow, Nat.zero_mod, ↓reduceIte, fD_fmtR]

theorem unpair d : Statement (.unpair d) := by
  intro _ _
  refine (cand_76 _ (fOp_fmtR _ _ _ _ _ )).trans ?_
  simp only [BitVec.ofNat_eq_ofNat, low_fmtR, BitVec.toNat_ofNat, Nat.reducePow, Nat.one_mod, one_ne_zero,
    ↓reduceIte, fD_fmtR]

theorem launch d a : Statement (.launch d a) := by
  intro _ _
  refine (cand_77 _ (fOp_fmtR _ _ _ _ _ )).trans ?_
  simp only [candStave, BitVec.ofNat_eq_ofNat, low_fmtR, BitVec.toNat_ofNat, Nat.reducePow, Nat.zero_mod, fD_fmtR,
    fA_fmtR]

theorem stvgrow d a b : Statement (.stvgrow d a b) := by
  intro _ _
  refine (cand_77 _ (fOp_fmtR _ _ _ _ _ )).trans ?_
  simp only [candStave, BitVec.ofNat_eq_ofNat, low_fmtR, BitVec.toNat_ofNat, Nat.reducePow, Nat.one_mod, fD_fmtR,
    fA_fmtR, fB_fmtR]

theorem stvshrink d a b : Statement (.stvshrink d a b) := by
  intro _ _
  refine (cand_77 _ (fOp_fmtR _ _ _ _ _ )).trans ?_
  simp only [candStave, BitVec.ofNat_eq_ofNat, low_fmtR, BitVec.toNat_ofNat, Nat.reducePow, Nat.reduceMod, fD_fmtR,
    fA_fmtR, fB_fmtR]

theorem stvmap d a b : Statement (.stvmap d a b) := by
  intro _ _
  refine (cand_77 _ (fOp_fmtR _ _ _ _ _ )).trans ?_
  simp only [candStave, BitVec.ofNat_eq_ofNat, low_fmtR, BitVec.toNat_ofNat, Nat.reducePow, Nat.reduceMod, fD_fmtR,
    fA_fmtR, fB_fmtR]

theorem rhashBegin d a b : Statement (.rhashBegin d a b) := by
  intro _ _
  refine (cand_77 _ (fOp_fmtR _ _ _ _ _ )).trans ?_
  simp only [candStave, BitVec.ofNat_eq_ofNat, low_fmtR, BitVec.toNat_ofNat, Nat.reducePow, Nat.reduceMod, fD_fmtR,
    fA_fmtR, fB_fmtR]

theorem rhashCommit d a : Statement (.rhashCommit d a) := by
  intro _ _
  refine (cand_77 _ (fOp_fmtR _ _ _ _ _ )).trans ?_
  simp only [candStave, BitVec.ofNat_eq_ofNat, low_fmtR, BitVec.toNat_ofNat, Nat.reducePow, Nat.reduceMod, fD_fmtR,
    fA_fmtR]

theorem migrate d a b : Statement (.migrate d a b) := by
  intro _ _
  refine (cand_77 _ (fOp_fmtR _ _ _ _ _ )).trans ?_
  simp only [candStave, BitVec.ofNat_eq_ofNat, low_fmtR, BitVec.toNat_ofNat, Nat.reducePow, Nat.reduceMod, fD_fmtR,
    fA_fmtR, fB_fmtR]

theorem quar d a b : Statement (.quar d a b) := by
  intro _ _
  refine (cand_77 _ (fOp_fmtR _ _ _ _ _ )).trans ?_
  simp only [candStave, BitVec.ofNat_eq_ofNat, low_fmtR, BitVec.toNat_ofNat, Nat.reducePow, Nat.reduceMod, fD_fmtR,
    fA_fmtR, fB_fmtR]

theorem hintWide hi : Statement (.hintWide hi) := by
  intro _ _
  refine (cand_7e _ (fOp_fmtH _ _ )).trans ?_
  simp only [candHint, BitVec.ofNat_eq_ofNat, slice_22_3_fmtH, BitVec.toNat_ofNat, Nat.reducePow, Nat.zero_mod,
    slice_0_22_fmtH]

theorem hintMempol llc alloc : Statement (.hintMempol llc alloc) := by
  intro hw _
  refine (cand_7e _ (fOp_fmtH _ _ )).trans ?_
  simpa [encode, candHint, Instr.wf, -BitVec.getLsbD_eq_getElem, -BitVec.extractLsb'_toNat, -BitVec.reduceAppend] using hw

theorem hintRound mode : Statement (.hintRound mode) := by
  intro _ _
  refine (cand_7e _ (fOp_fmtH _ _ )).trans ?_
  simp only [candHint, BitVec.ofNat_eq_ofNat, Nat.reduceAdd, slice_22_3_fmtH, BitVec.toNat_ofNat, Nat.reducePow,
    Nat.reduceMod, slice_0_2_fmtH, round_n, rMode_ofCode]

theorem hintSched taken gap : Statement (.hintSched taken gap) := by
  intro _ _
  refine (cand_7e _ (fOp_fmtH _ _ )).trans ?_
  simp only [candHint, BitVec.ofNat_eq_ofNat, Nat.reduceAdd, slice_22_3_fmtH, BitVec.toNat_ofNat, Nat.reducePow,
    Nat.reduceMod, bit_4_fmtH, sched_bit, slice_0_4_fmtH, sched_n]

theorem fqbaseWrite x0 x1 : Statement (.fqbaseWrite x0 x1) := fun _ h => nomatch h

theorem rbdataRead x0 : Statement (.rbdataRead x0) := fun _ h => nomatch h

theorem interrupt x0 : Statement (.interrupt x0) := fun _ h => nomatch h

theorem priResponse x0 x1 x2 : Statement (.priResponse x0 x1 x2) := fun _ h => nomatch h

theorem atsInvalidation x0 x1 x2 : Statement (.atsInvalidation x0 x1 x2) := fun _ h => nomatch h

theorem readRequest x0 x1 x2 x3 : Statement (.readRequest x0 x1 x2 x3) := fun _ h => nomatch h

theorem writeRequest x0 x1 x2 x3 : Statement (.writeRequest x0 x1 x2 x3) := fun _ h => nomatch h

theorem nonAllocatingRequest x0 x1 x2 x3 x4 : Statement (.nonAllocatingRequest x0 x1 x2 x3 x4) := fun _ h => nomatch h

theorem lineHandover x0 x1 : Statement (.lineHandover x0 x1) := fun _ h => nomatch h

theorem remoteStorePerform x0 : Statement (.remoteStorePerform x0) := fun _ h => nomatch h

theorem remoteStoreAck x0 : Statement (.remoteStoreAck x0) := fun _ h => nomatch h

theorem copySector x0 x1 x2 : Statement (.copySector x0 x1 x2) := fun _ h => nomatch h

theorem bprefLine x0 x1 : Statement (.bprefLine x0 x1) := fun _ h => nomatch h

theorem matrixCommandArrival x0 : Statement (.matrixCommandArrival x0) := fun _ h => nomatch h

theorem matrixCommandRun x0 : Statement (.matrixCommandRun x0) := fun _ h => nomatch h

theorem messageArrival x0 : Statement (.messageArrival x0) := fun _ h => nomatch h

theorem endOfStreamArrival x0 : Statement (.endOfStreamArrival x0) := fun _ h => nomatch h

theorem pushDelivery x0 : Statement (.pushDelivery x0) := fun _ h => nomatch h

theorem worldStall x0 : Statement (.worldStall x0) := fun _ h => nomatch h

theorem jobCompletion x0 x1 : Statement (.jobCompletion x0 x1) := fun _ h => nomatch h

theorem fillSample x0 : Statement (.fillSample x0) := fun _ h => nomatch h

theorem placementWindowEnd x0 : Statement (.placementWindowEnd x0) := fun _ h => nomatch h

theorem placementRequest x0 x1 : Statement (.placementRequest x0 x1) := fun _ h => nomatch h

theorem backoffExpiry x0 x1 : Statement (.backoffExpiry x0 x1) := fun _ h => nomatch h

theorem compaction x0 x1 : Statement (.compaction x0 x1) := fun _ h => nomatch h

theorem aging x0 x1 : Statement (.aging x0 x1) := fun _ h => nomatch h

theorem preemptionDecision x0 x1 : Statement (.preemptionDecision x0 x1) := fun _ h => nomatch h

theorem instanceRemoval x0 x1 x2 x3 : Statement (.instanceRemoval x0 x1 x2 x3) := fun _ h => nomatch h

theorem preEmption x0 : Statement (.preEmption x0) := fun _ h => nomatch h

theorem resumption x0 x1 : Statement (.resumption x0 x1) := fun _ h => nomatch h

theorem inboxDiversion x0 : Statement (.inboxDiversion x0) := fun _ h => nomatch h

theorem migration x0 x1 : Statement (.migration x0 x1) := fun _ h => nomatch h

theorem clusterDrained x0 : Statement (.clusterDrained x0) := fun _ h => nomatch h

theorem scrubComplete x0 x1 : Statement (.scrubComplete x0 x1) := fun _ h => nomatch h

theorem bandwidthWindow : Statement (.bandwidthWindow) := fun _ h => nomatch h

theorem rollback x0 : Statement (.rollback x0) := fun _ h => nomatch h

theorem errorDetected x0 x1 x2 x3 : Statement (.errorDetected x0 x1 x2 x3) := fun _ h => nomatch h

theorem directoryRebuild x0 : Statement (.directoryRebuild x0) := fun _ h => nomatch h

theorem hostSnoop x0 : Statement (.hostSnoop x0) := fun _ h => nomatch h

theorem hostMemRequest x0 x1 x2 : Statement (.hostMemRequest x0 x1 x2) := fun _ h => nomatch h

theorem hostPoisonResponse x0 : Statement (.hostPoisonResponse x0) := fun _ h => nomatch h

theorem peerAccess x0 x1 x2 x3 : Statement (.peerAccess x0 x1 x2 x3) := fun _ h => nomatch h

theorem functionLevelReset x0 : Statement (.functionLevelReset x0) := fun _ h => nomatch h

theorem linkTraining x0 x1 : Statement (.linkTraining x0 x1) := fun _ h => nomatch h

theorem boot : Statement (.boot) := fun _ h => nomatch h

theorem getMeasurements x0 : Statement (.getMeasurements x0) := fun _ h => nomatch h

theorem powerCapSet x0 : Statement (.powerCapSet x0) := fun _ h => nomatch h

theorem thermalThrottle x0 : Statement (.thermalThrottle x0) := fun _ h => nomatch h

theorem thermalShutdown x0 : Statement (.thermalShutdown x0) := fun _ h => nomatch h

theorem telemetryUpdate : Statement (.telemetryUpdate) := fun _ h => nomatch h

theorem idleTimeout x0 : Statement (.idleTimeout x0) := fun _ h => nomatch h

theorem illegalWord x0 : Statement (.illegalWord x0) := fun _ h => nomatch h

theorem remoteAccess x0 : Statement (.remoteAccess x0) := fun _ h => nomatch h

theorem savebaseWrite x0 x1 : Statement (.savebaseWrite x0 x1) := fun _ h => nomatch h

theorem thermalThrottleRelease : Statement (.thermalThrottleRelease) := fun _ h => nomatch h

theorem hostDataResponse x0 : Statement (.hostDataResponse x0) := fun _ h => nomatch h

theorem atsTranslationCompletion x0 x1 x2 : Statement (.atsTranslationCompletion x0 x1 x2) := fun _ h => nomatch h

theorem powerGating x0 : Statement (.powerGating x0) := fun _ h => nomatch h

end Sys2Proof.Laws.Encoding
end

