-- ==== Sys2Proof/Laws/State.lean ====
section
/-! SUPPORT. What each named update of the state leaves and what it writes, field by field. -/

namespace Sys2Proof.Machine

set_option Elab.async false

/-! ## Registers read after they are written (Table 2 of 01) -/

@[simp] theorem g_zero (s : State) : s.g 0 = 0 := rfl

@[simp] theorem p_zero (s : State) : s.p 0 = -1 := rfl

/-- Writes to g0 are discarded. -/
@[simp] theorem setG_zero (s : State) (x : W64) : s.setG 0 x = s := rfl

/-- Writes to p0 are discarded. -/
@[simp] theorem setP_zero (s : State) (x : W64) : s.setP 0 x = s := rfl

theorem g_setG_same {d : Reg} (h : d ≠ 0) (s : State) (x : W64) : (s.setG d x).g d = x := by
  rw [State.g, State.setG, if_neg h, if_neg h]
  exact Vector.getElem_set_self ..

theorem g_setG_ne {d r : Reg} (h : r ≠ d) (s : State) (x : W64) : (s.setG d x).g r = s.g r := by
  have h' : d.toNat ≠ r.toNat := fun e => h (BitVec.eq_of_toNat_eq e).symm
  by_cases hd : d = 0
  · rw [State.setG, if_pos hd]
  · by_cases hr : r = 0
    · rw [State.g, State.g, if_pos hr, if_pos hr]
    · rw [State.g, State.g, State.setG, if_neg hd, if_neg hr, if_neg hr]
      exact Vector.getElem_set_ne d.isLt r.isLt h'

theorem p_setP_same {d : PReg} (h : d ≠ 0) (s : State) (x : W64) : (s.setP d x).p d = x := by
  rw [State.p, State.setP, if_neg h, if_neg h]
  exact Vector.getElem_set_self ..

theorem p_setP_ne {d r : PReg} (h : r ≠ d) (s : State) (x : W64) : (s.setP d x).p r = s.p r := by
  have h' : d.toNat ≠ r.toNat := fun e => h (BitVec.eq_of_toNat_eq e).symm
  by_cases hd : d = 0
  · rw [State.setP, if_pos hd]
  · by_cases hr : r = 0
    · rw [State.p, State.p, if_pos hr, if_pos hr]
    · rw [State.p, State.p, State.setP, if_neg hd, if_neg hr, if_neg hr]
      exact Vector.getElem_set_ne d.isLt r.isLt h'

theorem v_setV_same {n : Nat} (h : n < 56) (s : State) (x : V512) : (s.setV n x).v n = x := by
  simp [State.v, Core.v, State.setV, h]

theorem v_setV_ne {n k : Nat} (h : k ≠ n) (s : State) (x : V512) : (s.setV n x).v k = s.v k := by
  by_cases hn : n < 56
  · by_cases hk : k < 56
    · simp [State.v, Core.v, State.setV, hn, hk, Vector.getElem_set_ne, h.symm]
    · simp [State.v, Core.v, hk]
  · simp [State.setV, hn]

theorem z_setZ_same (s : State) (z : ZReg) (x : Vector (BitVec 32) 256) : (s.setZ z x).z z = x := by
  simp [State.z, State.setZ]

theorem z_setZ_ne {z y : ZReg} (h : y ≠ z) (s : State) (x : Vector (BitVec 32) 256) : (s.setZ z x).z y = s.z y := by
  have h' : z.toNat ≠ y.toNat := fun e => h (BitVec.eq_of_toNat_eq e).symm
  simp [State.z, State.setZ, Vector.getElem_set_ne, h']

theorem zver_bumpZ_same (s : State) (z : ZReg) : (s.bumpZ z).zver z = s.zver z + 1 := by
  simp [State.zver, State.bumpZ]

theorem zver_bumpZ_ne {z y : ZReg} (h : y ≠ z) (s : State) : (s.bumpZ z).zver y = s.zver y := by
  have h' : z.toNat ≠ y.toNat := fun e => h (BitVec.eq_of_toNat_eq e).symm
  simp [State.zver, State.bumpZ, Vector.getElem_set_ne, h']

/-! ## setG -/

@[simp] theorem setG_here (s : State) (d : Reg) (x : W64) : (s.setG d x).here = s.here := by
  unfold State.setG; split <;> rfl

@[simp] theorem setG_others (s : State) (d : Reg) (x : W64) : (s.setG d x).others = s.others := by
  unfold State.setG; split <;> rfl

@[simp] theorem setG_dev (s : State) (d : Reg) (x : W64) : (s.setG d x).dev = s.dev := by
  unfold State.setG; split <;> rfl

@[simp] theorem setG_agenda (s : State) (d : Reg) (x : W64) : (s.setG d x).agenda = s.agenda := by
  unfold State.setG; split <;> rfl

@[simp] theorem setG_fresh (s : State) (d : Reg) (x : W64) : (s.setG d x).fresh = s.fresh := by
  unfold State.setG; split <;> rfl

@[simp] theorem setG_me_pc (s : State) (d : Reg) (x : W64) : (s.setG d x).me.pc = s.me.pc := by
  unfold State.setG; split <;> rfl

@[simp] theorem setG_me_hints (s : State) (d : Reg) (x : W64) : (s.setG d x).me.hints = s.me.hints := by
  unfold State.setG; split <;> rfl

@[simp] theorem setG_me_ctl (s : State) (d : Reg) (x : W64) : (s.setG d x).me.ctl = s.me.ctl := by
  unfold State.setG; split <;> rfl

@[simp] theorem setG_me_lcore (s : State) (d : Reg) (x : W64) : (s.setG d x).me.lcore = s.me.lcore := by
  unfold State.setG; split <;> rfl

@[simp] theorem setG_me_loc (s : State) (d : Reg) (x : W64) : (s.setG d x).me.loc = s.me.loc := by
  unfold State.setG; split <;> rfl

@[simp] theorem setG_me_l1 (s : State) (d : Reg) (x : W64) : (s.setG d x).me.l1 = s.me.l1 := by
  unfold State.setG; split <;> rfl

@[simp] theorem setG_me_icache (s : State) (d : Reg) (x : W64) : (s.setG d x).me.icache = s.me.icache := by
  unfold State.setG; split <;> rfl

@[simp] theorem setG_me_tlb (s : State) (d : Reg) (x : W64) : (s.setG d x).me.tlb = s.me.tlb := by
  unfold State.setG; split <;> rfl

@[simp] theorem setG_me_loopBuf (s : State) (d : Reg) (x : W64) : (s.setG d x).me.loopBuf = s.me.loopBuf := by
  unfold State.setG; split <;> rfl

@[simp] theorem setG_me_templates (s : State) (d : Reg) (x : W64) : (s.setG d x).me.templates = s.me.templates := by
  unfold State.setG; split <;> rfl

@[simp] theorem setG_me_chans (s : State) (d : Reg) (x : W64) : (s.setG d x).me.chans = s.me.chans := by
  unfold State.setG; split <;> rfl

@[simp] theorem setG_me_slots (s : State) (d : Reg) (x : W64) : (s.setG d x).me.slots = s.me.slots := by
  unfold State.setG; split <;> rfl

@[simp] theorem setG_me_queues (s : State) (d : Reg) (x : W64) : (s.setG d x).me.queues = s.me.queues := by
  unfold State.setG; split <;> rfl

@[simp] theorem setG_me_caps (s : State) (d : Reg) (x : W64) : (s.setG d x).me.caps = s.me.caps := by
  unfold State.setG; split <;> rfl

@[simp] theorem setG_me_mcmds (s : State) (d : Reg) (x : W64) : (s.setG d x).me.mcmds = s.me.mcmds := by
  unfold State.setG; split <;> rfl

@[simp] theorem setG_me_asked (s : State) (d : Reg) (x : W64) : (s.setG d x).me.asked = s.me.asked := by
  unfold State.setG; split <;> rfl

@[simp] theorem setG_me_counts (s : State) (d : Reg) (x : W64) : (s.setG d x).me.counts = s.me.counts := by
  unfold State.setG; split <;> rfl

@[simp] theorem setG_me_notes (s : State) (d : Reg) (x : W64) : (s.setG d x).me.notes = s.me.notes := by
  unfold State.setG; split <;> rfl

@[simp] theorem setG_me_member (s : State) (d : Reg) (x : W64) : (s.setG d x).me.member = s.me.member := by
  unfold State.setG; split <;> rfl

@[simp] theorem setG_me_bond (s : State) (d : Reg) (x : W64) : (s.setG d x).me.bond = s.me.bond := by
  unfold State.setG; split <;> rfl

@[simp] theorem setG_me_rank (s : State) (d : Reg) (x : W64) : (s.setG d x).me.rank = s.me.rank := by
  unfold State.setG; split <;> rfl

@[simp] theorem setG_me_crew (s : State) (d : Reg) (x : W64) : (s.setG d x).me.crew = s.me.crew := by
  unfold State.setG; split <;> rfl

@[simp] theorem setG_me_released (s : State) (d : Reg) (x : W64) : (s.setG d x).me.released = s.me.released := by
  unfold State.setG; split <;> rfl

@[simp] theorem setG_me_trail (s : State) (d : Reg) (x : W64) : (s.setG d x).me.trail = s.me.trail := by
  unfold State.setG; split <;> rfl

@[simp] theorem setG_me_orphan (s : State) (d : Reg) (x : W64) : (s.setG d x).me.orphan = s.me.orphan := by
  unfold State.setG; split <;> rfl

@[simp] theorem setG_me_handed (s : State) (d : Reg) (x : W64) : (s.setG d x).me.handed = s.me.handed := by
  unfold State.setG; split <;> rfl

@[simp] theorem setG_me_pair (s : State) (d : Reg) (x : W64) : (s.setG d x).me.pair = s.me.pair := by
  unfold State.setG; split <;> rfl

@[simp] theorem setG_me_pairOps (s : State) (d : Reg) (x : W64) : (s.setG d x).me.pairOps = s.me.pairOps := by
  unfold State.setG; split <;> rfl

@[simp] theorem setG_me_wait (s : State) (d : Reg) (x : W64) : (s.setG d x).me.wait = s.me.wait := by
  unfold State.setG; split <;> rfl

@[simp] theorem setG_me_accepted (s : State) (d : Reg) (x : W64) : (s.setG d x).me.accepted = s.me.accepted := by
  unfold State.setG; split <;> rfl

@[simp] theorem setG_me_count0 (s : State) (d : Reg) (x : W64) : (s.setG d x).me.count0 = s.me.count0 := by
  unfold State.setG; split <;> rfl

@[simp] theorem setG_me_irqs (s : State) (d : Reg) (x : W64) : (s.setG d x).me.irqs = s.me.irqs := by
  unfold State.setG; split <;> rfl

@[simp] theorem setG_me_async (s : State) (d : Reg) (x : W64) : (s.setG d x).me.async = s.me.async := by
  unfold State.setG; split <;> rfl

@[simp] theorem setG_me_sigPend (s : State) (d : Reg) (x : W64) : (s.setG d x).me.sigPend = s.me.sigPend := by
  unfold State.setG; split <;> rfl

@[simp] theorem setG_me_held (s : State) (d : Reg) (x : W64) : (s.setG d x).me.held = s.me.held := by
  unfold State.setG; split <;> rfl

@[simp] theorem setG_me_live (s : State) (d : Reg) (x : W64) : (s.setG d x).me.live = s.me.live := by
  unfold State.setG; split <;> rfl

@[simp] theorem setG_me_stopped (s : State) (d : Reg) (x : W64) : (s.setG d x).me.stopped = s.me.stopped := by
  unfold State.setG; split <;> rfl

@[simp] theorem setG_me_finished (s : State) (d : Reg) (x : W64) : (s.setG d x).me.finished = s.me.finished := by
  unfold State.setG; split <;> rfl

@[simp] theorem setG_me_entering (s : State) (d : Reg) (x : W64) : (s.setG d x).me.entering = s.me.entering := by
  unfold State.setG; split <;> rfl

@[simp] theorem setG_me_inbox (s : State) (d : Reg) (x : W64) : (s.setG d x).me.inbox = s.me.inbox := by
  unfold State.setG; split <;> rfl

@[simp] theorem setG_me_seq (s : State) (d : Reg) (x : W64) : (s.setG d x).me.seq = s.me.seq := by
  unfold State.setG; split <;> rfl

@[simp] theorem setG_me_pass (s : State) (d : Reg) (x : W64) : (s.setG d x).me.pass = s.me.pass := by
  unfold State.setG; split <;> rfl

@[simp] theorem setG_me_issued (s : State) (d : Reg) (x : W64) : (s.setG d x).me.issued = s.me.issued := by
  unfold State.setG; split <;> rfl

@[simp] theorem setG_me_peerWords (s : State) (d : Reg) (x : W64) : (s.setG d x).me.peerWords = s.me.peerWords := by
  unfold State.setG; split <;> rfl

@[simp] theorem setG_me_nretired (s : State) (d : Reg) (x : W64) : (s.setG d x).me.nretired = s.me.nretired := by
  unfold State.setG; split <;> rfl

@[simp] theorem setG_me_quota (s : State) (d : Reg) (x : W64) : (s.setG d x).me.quota = s.me.quota := by
  unfold State.setG; split <;> rfl

@[simp] theorem setG_regs_v (s : State) (d : Reg) (x : W64) : (s.setG d x).me.regs.v = s.me.regs.v := by
  unfold State.setG; split <;> rfl

@[simp] theorem setG_regs_p (s : State) (d : Reg) (x : W64) : (s.setG d x).me.regs.p = s.me.regs.p := by
  unfold State.setG; split <;> rfl

@[simp] theorem setG_regs_z (s : State) (d : Reg) (x : W64) : (s.setG d x).me.regs.z = s.me.regs.z := by
  unfold State.setG; split <;> rfl

@[simp] theorem setG_regs_zver (s : State) (d : Reg) (x : W64) : (s.setG d x).me.regs.zver = s.me.regs.zver := by
  unfold State.setG; split <;> rfl

@[simp] theorem setG_regs_lc (s : State) (d : Reg) (x : W64) : (s.setG d x).me.regs.lc = s.me.regs.lc := by
  unfold State.setG; split <;> rfl

/-! ## setP -/

@[simp] theorem setP_here (s : State) (d : PReg) (x : W64) : (s.setP d x).here = s.here := by
  unfold State.setP; split <;> rfl

@[simp] theorem setP_others (s : State) (d : PReg) (x : W64) : (s.setP d x).others = s.others := by
  unfold State.setP; split <;> rfl

@[simp] theorem setP_dev (s : State) (d : PReg) (x : W64) : (s.setP d x).dev = s.dev := by
  unfold State.setP; split <;> rfl

@[simp] theorem setP_agenda (s : State) (d : PReg) (x : W64) : (s.setP d x).agenda = s.agenda := by
  unfold State.setP; split <;> rfl

@[simp] theorem setP_fresh (s : State) (d : PReg) (x : W64) : (s.setP d x).fresh = s.fresh := by
  unfold State.setP; split <;> rfl

@[simp] theorem setP_me_pc (s : State) (d : PReg) (x : W64) : (s.setP d x).me.pc = s.me.pc := by
  unfold State.setP; split <;> rfl

@[simp] theorem setP_me_hints (s : State) (d : PReg) (x : W64) : (s.setP d x).me.hints = s.me.hints := by
  unfold State.setP; split <;> rfl

@[simp] theorem setP_me_ctl (s : State) (d : PReg) (x : W64) : (s.setP d x).me.ctl = s.me.ctl := by
  unfold State.setP; split <;> rfl

@[simp] theorem setP_me_lcore (s : State) (d : PReg) (x : W64) : (s.setP d x).me.lcore = s.me.lcore := by
  unfold State.setP; split <;> rfl

@[simp] theorem setP_me_loc (s : State) (d : PReg) (x : W64) : (s.setP d x).me.loc = s.me.loc := by
  unfold State.setP; split <;> rfl

@[simp] theorem setP_me_l1 (s : State) (d : PReg) (x : W64) : (s.setP d x).me.l1 = s.me.l1 := by
  unfold State.setP; split <;> rfl

@[simp] theorem setP_me_icache (s : State) (d : PReg) (x : W64) : (s.setP d x).me.icache = s.me.icache := by
  unfold State.setP; split <;> rfl

@[simp] theorem setP_me_tlb (s : State) (d : PReg) (x : W64) : (s.setP d x).me.tlb = s.me.tlb := by
  unfold State.setP; split <;> rfl

@[simp] theorem setP_me_loopBuf (s : State) (d : PReg) (x : W64) : (s.setP d x).me.loopBuf = s.me.loopBuf := by
  unfold State.setP; split <;> rfl

@[simp] theorem setP_me_templates (s : State) (d : PReg) (x : W64) : (s.setP d x).me.templates = s.me.templates := by
  unfold State.setP; split <;> rfl

@[simp] theorem setP_me_chans (s : State) (d : PReg) (x : W64) : (s.setP d x).me.chans = s.me.chans := by
  unfold State.setP; split <;> rfl

@[simp] theorem setP_me_slots (s : State) (d : PReg) (x : W64) : (s.setP d x).me.slots = s.me.slots := by
  unfold State.setP; split <;> rfl

@[simp] theorem setP_me_queues (s : State) (d : PReg) (x : W64) : (s.setP d x).me.queues = s.me.queues := by
  unfold State.setP; split <;> rfl

@[simp] theorem setP_me_caps (s : State) (d : PReg) (x : W64) : (s.setP d x).me.caps = s.me.caps := by
  unfold State.setP; split <;> rfl

@[simp] theorem setP_me_mcmds (s : State) (d : PReg) (x : W64) : (s.setP d x).me.mcmds = s.me.mcmds := by
  unfold State.setP; split <;> rfl

@[simp] theorem setP_me_asked (s : State) (d : PReg) (x : W64) : (s.setP d x).me.asked = s.me.asked := by
  unfold State.setP; split <;> rfl

@[simp] theorem setP_me_counts (s : State) (d : PReg) (x : W64) : (s.setP d x).me.counts = s.me.counts := by
  unfold State.setP; split <;> rfl

@[simp] theorem setP_me_notes (s : State) (d : PReg) (x : W64) : (s.setP d x).me.notes = s.me.notes := by
  unfold State.setP; split <;> rfl

@[simp] theorem setP_me_member (s : State) (d : PReg) (x : W64) : (s.setP d x).me.member = s.me.member := by
  unfold State.setP; split <;> rfl

@[simp] theorem setP_me_bond (s : State) (d : PReg) (x : W64) : (s.setP d x).me.bond = s.me.bond := by
  unfold State.setP; split <;> rfl

@[simp] theorem setP_me_rank (s : State) (d : PReg) (x : W64) : (s.setP d x).me.rank = s.me.rank := by
  unfold State.setP; split <;> rfl

@[simp] theorem setP_me_crew (s : State) (d : PReg) (x : W64) : (s.setP d x).me.crew = s.me.crew := by
  unfold State.setP; split <;> rfl

@[simp] theorem setP_me_released (s : State) (d : PReg) (x : W64) : (s.setP d x).me.released = s.me.released := by
  unfold State.setP; split <;> rfl

@[simp] theorem setP_me_trail (s : State) (d : PReg) (x : W64) : (s.setP d x).me.trail = s.me.trail := by
  unfold State.setP; split <;> rfl

@[simp] theorem setP_me_orphan (s : State) (d : PReg) (x : W64) : (s.setP d x).me.orphan = s.me.orphan := by
  unfold State.setP; split <;> rfl

@[simp] theorem setP_me_handed (s : State) (d : PReg) (x : W64) : (s.setP d x).me.handed = s.me.handed := by
  unfold State.setP; split <;> rfl

@[simp] theorem setP_me_pair (s : State) (d : PReg) (x : W64) : (s.setP d x).me.pair = s.me.pair := by
  unfold State.setP; split <;> rfl

@[simp] theorem setP_me_pairOps (s : State) (d : PReg) (x : W64) : (s.setP d x).me.pairOps = s.me.pairOps := by
  unfold State.setP; split <;> rfl

@[simp] theorem setP_me_wait (s : State) (d : PReg) (x : W64) : (s.setP d x).me.wait = s.me.wait := by
  unfold State.setP; split <;> rfl

@[simp] theorem setP_me_accepted (s : State) (d : PReg) (x : W64) : (s.setP d x).me.accepted = s.me.accepted := by
  unfold State.setP; split <;> rfl

@[simp] theorem setP_me_count0 (s : State) (d : PReg) (x : W64) : (s.setP d x).me.count0 = s.me.count0 := by
  unfold State.setP; split <;> rfl

@[simp] theorem setP_me_irqs (s : State) (d : PReg) (x : W64) : (s.setP d x).me.irqs = s.me.irqs := by
  unfold State.setP; split <;> rfl

@[simp] theorem setP_me_async (s : State) (d : PReg) (x : W64) : (s.setP d x).me.async = s.me.async := by
  unfold State.setP; split <;> rfl

@[simp] theorem setP_me_sigPend (s : State) (d : PReg) (x : W64) : (s.setP d x).me.sigPend = s.me.sigPend := by
  unfold State.setP; split <;> rfl

@[simp] theorem setP_me_held (s : State) (d : PReg) (x : W64) : (s.setP d x).me.held = s.me.held := by
  unfold State.setP; split <;> rfl

@[simp] theorem setP_me_live (s : State) (d : PReg) (x : W64) : (s.setP d x).me.live = s.me.live := by
  unfold State.setP; split <;> rfl

@[simp] theorem setP_me_stopped (s : State) (d : PReg) (x : W64) : (s.setP d x).me.stopped = s.me.stopped := by
  unfold State.setP; split <;> rfl

@[simp] theorem setP_me_finished (s : State) (d : PReg) (x : W64) : (s.setP d x).me.finished = s.me.finished := by
  unfold State.setP; split <;> rfl

@[simp] theorem setP_me_entering (s : State) (d : PReg) (x : W64) : (s.setP d x).me.entering = s.me.entering := by
  unfold State.setP; split <;> rfl

@[simp] theorem setP_me_inbox (s : State) (d : PReg) (x : W64) : (s.setP d x).me.inbox = s.me.inbox := by
  unfold State.setP; split <;> rfl

@[simp] theorem setP_me_seq (s : State) (d : PReg) (x : W64) : (s.setP d x).me.seq = s.me.seq := by
  unfold State.setP; split <;> rfl

@[simp] theorem setP_me_pass (s : State) (d : PReg) (x : W64) : (s.setP d x).me.pass = s.me.pass := by
  unfold State.setP; split <;> rfl

@[simp] theorem setP_me_issued (s : State) (d : PReg) (x : W64) : (s.setP d x).me.issued = s.me.issued := by
  unfold State.setP; split <;> rfl

@[simp] theorem setP_me_peerWords (s : State) (d : PReg) (x : W64) : (s.setP d x).me.peerWords = s.me.peerWords := by
  unfold State.setP; split <;> rfl

@[simp] theorem setP_me_nretired (s : State) (d : PReg) (x : W64) : (s.setP d x).me.nretired = s.me.nretired := by
  unfold State.setP; split <;> rfl

@[simp] theorem setP_me_quota (s : State) (d : PReg) (x : W64) : (s.setP d x).me.quota = s.me.quota := by
  unfold State.setP; split <;> rfl

@[simp] theorem setP_regs_g (s : State) (d : PReg) (x : W64) : (s.setP d x).me.regs.g = s.me.regs.g := by
  unfold State.setP; split <;> rfl

@[simp] theorem setP_regs_v (s : State) (d : PReg) (x : W64) : (s.setP d x).me.regs.v = s.me.regs.v := by
  unfold State.setP; split <;> rfl

@[simp] theorem setP_regs_z (s : State) (d : PReg) (x : W64) : (s.setP d x).me.regs.z = s.me.regs.z := by
  unfold State.setP; split <;> rfl

@[simp] theorem setP_regs_zver (s : State) (d : PReg) (x : W64) : (s.setP d x).me.regs.zver = s.me.regs.zver := by
  unfold State.setP; split <;> rfl

@[simp] theorem setP_regs_lc (s : State) (d : PReg) (x : W64) : (s.setP d x).me.regs.lc = s.me.regs.lc := by
  unfold State.setP; split <;> rfl

/-! ## setV -/

@[simp] theorem setV_here (s : State) (n : Nat) (x : V512) : (s.setV n x).here = s.here := by
  unfold State.setV; split <;> rfl

@[simp] theorem setV_others (s : State) (n : Nat) (x : V512) : (s.setV n x).others = s.others := by
  unfold State.setV; split <;> rfl

@[simp] theorem setV_dev (s : State) (n : Nat) (x : V512) : (s.setV n x).dev = s.dev := by
  unfold State.setV; split <;> rfl

@[simp] theorem setV_agenda (s : State) (n : Nat) (x : V512) : (s.setV n x).agenda = s.agenda := by
  unfold State.setV; split <;> rfl

@[simp] theorem setV_fresh (s : State) (n : Nat) (x : V512) : (s.setV n x).fresh = s.fresh := by
  unfold State.setV; split <;> rfl

@[simp] theorem setV_me_pc (s : State) (n : Nat) (x : V512) : (s.setV n x).me.pc = s.me.pc := by
  unfold State.setV; split <;> rfl

@[simp] theorem setV_me_hints (s : State) (n : Nat) (x : V512) : (s.setV n x).me.hints = s.me.hints := by
  unfold State.setV; split <;> rfl

@[simp] theorem setV_me_ctl (s : State) (n : Nat) (x : V512) : (s.setV n x).me.ctl = s.me.ctl := by
  unfold State.setV; split <;> rfl

@[simp] theorem setV_me_lcore (s : State) (n : Nat) (x : V512) : (s.setV n x).me.lcore = s.me.lcore := by
  unfold State.setV; split <;> rfl

@[simp] theorem setV_me_loc (s : State) (n : Nat) (x : V512) : (s.setV n x).me.loc = s.me.loc := by
  unfold State.setV; split <;> rfl

@[simp] theorem setV_me_l1 (s : State) (n : Nat) (x : V512) : (s.setV n x).me.l1 = s.me.l1 := by
  unfold State.setV; split <;> rfl

@[simp] theorem setV_me_icache (s : State) (n : Nat) (x : V512) : (s.setV n x).me.icache = s.me.icache := by
  unfold State.setV; split <;> rfl

@[simp] theorem setV_me_tlb (s : State) (n : Nat) (x : V512) : (s.setV n x).me.tlb = s.me.tlb := by
  unfold State.setV; split <;> rfl

@[simp] theorem setV_me_loopBuf (s : State) (n : Nat) (x : V512) : (s.setV n x).me.loopBuf = s.me.loopBuf := by
  unfold State.setV; split <;> rfl

@[simp] theorem setV_me_templates (s : State) (n : Nat) (x : V512) : (s.setV n x).me.templates = s.me.templates := by
  unfold State.setV; split <;> rfl

@[simp] theorem setV_me_chans (s : State) (n : Nat) (x : V512) : (s.setV n x).me.chans = s.me.chans := by
  unfold State.setV; split <;> rfl

@[simp] theorem setV_me_slots (s : State) (n : Nat) (x : V512) : (s.setV n x).me.slots = s.me.slots := by
  unfold State.setV; split <;> rfl

@[simp] theorem setV_me_queues (s : State) (n : Nat) (x : V512) : (s.setV n x).me.queues = s.me.queues := by
  unfold State.setV; split <;> rfl

@[simp] theorem setV_me_caps (s : State) (n : Nat) (x : V512) : (s.setV n x).me.caps = s.me.caps := by
  unfold State.setV; split <;> rfl

@[simp] theorem setV_me_mcmds (s : State) (n : Nat) (x : V512) : (s.setV n x).me.mcmds = s.me.mcmds := by
  unfold State.setV; split <;> rfl

@[simp] theorem setV_me_asked (s : State) (n : Nat) (x : V512) : (s.setV n x).me.asked = s.me.asked := by
  unfold State.setV; split <;> rfl

@[simp] theorem setV_me_counts (s : State) (n : Nat) (x : V512) : (s.setV n x).me.counts = s.me.counts := by
  unfold State.setV; split <;> rfl

@[simp] theorem setV_me_notes (s : State) (n : Nat) (x : V512) : (s.setV n x).me.notes = s.me.notes := by
  unfold State.setV; split <;> rfl

@[simp] theorem setV_me_member (s : State) (n : Nat) (x : V512) : (s.setV n x).me.member = s.me.member := by
  unfold State.setV; split <;> rfl

@[simp] theorem setV_me_bond (s : State) (n : Nat) (x : V512) : (s.setV n x).me.bond = s.me.bond := by
  unfold State.setV; split <;> rfl

@[simp] theorem setV_me_rank (s : State) (n : Nat) (x : V512) : (s.setV n x).me.rank = s.me.rank := by
  unfold State.setV; split <;> rfl

@[simp] theorem setV_me_crew (s : State) (n : Nat) (x : V512) : (s.setV n x).me.crew = s.me.crew := by
  unfold State.setV; split <;> rfl

@[simp] theorem setV_me_released (s : State) (n : Nat) (x : V512) : (s.setV n x).me.released = s.me.released := by
  unfold State.setV; split <;> rfl

@[simp] theorem setV_me_trail (s : State) (n : Nat) (x : V512) : (s.setV n x).me.trail = s.me.trail := by
  unfold State.setV; split <;> rfl

@[simp] theorem setV_me_orphan (s : State) (n : Nat) (x : V512) : (s.setV n x).me.orphan = s.me.orphan := by
  unfold State.setV; split <;> rfl

@[simp] theorem setV_me_handed (s : State) (n : Nat) (x : V512) : (s.setV n x).me.handed = s.me.handed := by
  unfold State.setV; split <;> rfl

@[simp] theorem setV_me_pair (s : State) (n : Nat) (x : V512) : (s.setV n x).me.pair = s.me.pair := by
  unfold State.setV; split <;> rfl

@[simp] theorem setV_me_pairOps (s : State) (n : Nat) (x : V512) : (s.setV n x).me.pairOps = s.me.pairOps := by
  unfold State.setV; split <;> rfl

@[simp] theorem setV_me_wait (s : State) (n : Nat) (x : V512) : (s.setV n x).me.wait = s.me.wait := by
  unfold State.setV; split <;> rfl

@[simp] theorem setV_me_accepted (s : State) (n : Nat) (x : V512) : (s.setV n x).me.accepted = s.me.accepted := by
  unfold State.setV; split <;> rfl

@[simp] theorem setV_me_count0 (s : State) (n : Nat) (x : V512) : (s.setV n x).me.count0 = s.me.count0 := by
  unfold State.setV; split <;> rfl

@[simp] theorem setV_me_irqs (s : State) (n : Nat) (x : V512) : (s.setV n x).me.irqs = s.me.irqs := by
  unfold State.setV; split <;> rfl

@[simp] theorem setV_me_async (s : State) (n : Nat) (x : V512) : (s.setV n x).me.async = s.me.async := by
  unfold State.setV; split <;> rfl

@[simp] theorem setV_me_sigPend (s : State) (n : Nat) (x : V512) : (s.setV n x).me.sigPend = s.me.sigPend := by
  unfold State.setV; split <;> rfl

@[simp] theorem setV_me_held (s : State) (n : Nat) (x : V512) : (s.setV n x).me.held = s.me.held := by
  unfold State.setV; split <;> rfl

@[simp] theorem setV_me_live (s : State) (n : Nat) (x : V512) : (s.setV n x).me.live = s.me.live := by
  unfold State.setV; split <;> rfl

@[simp] theorem setV_me_stopped (s : State) (n : Nat) (x : V512) : (s.setV n x).me.stopped = s.me.stopped := by
  unfold State.setV; split <;> rfl

@[simp] theorem setV_me_finished (s : State) (n : Nat) (x : V512) : (s.setV n x).me.finished = s.me.finished := by
  unfold State.setV; split <;> rfl

@[simp] theorem setV_me_entering (s : State) (n : Nat) (x : V512) : (s.setV n x).me.entering = s.me.entering := by
  unfold State.setV; split <;> rfl

@[simp] theorem setV_me_inbox (s : State) (n : Nat) (x : V512) : (s.setV n x).me.inbox = s.me.inbox := by
  unfold State.setV; split <;> rfl

@[simp] theorem setV_me_seq (s : State) (n : Nat) (x : V512) : (s.setV n x).me.seq = s.me.seq := by
  unfold State.setV; split <;> rfl

@[simp] theorem setV_me_pass (s : State) (n : Nat) (x : V512) : (s.setV n x).me.pass = s.me.pass := by
  unfold State.setV; split <;> rfl

@[simp] theorem setV_me_issued (s : State) (n : Nat) (x : V512) : (s.setV n x).me.issued = s.me.issued := by
  unfold State.setV; split <;> rfl

@[simp] theorem setV_me_peerWords (s : State) (n : Nat) (x : V512) : (s.setV n x).me.peerWords = s.me.peerWords := by
  unfold State.setV; split <;> rfl

@[simp] theorem setV_me_nretired (s : State) (n : Nat) (x : V512) : (s.setV n x).me.nretired = s.me.nretired := by
  unfold State.setV; split <;> rfl

@[simp] theorem setV_me_quota (s : State) (n : Nat) (x : V512) : (s.setV n x).me.quota = s.me.quota := by
  unfold State.setV; split <;> rfl

@[simp] theorem setV_regs_g (s : State) (n : Nat) (x : V512) : (s.setV n x).me.regs.g = s.me.regs.g := by
  unfold State.setV; split <;> rfl

@[simp] theorem setV_regs_p (s : State) (n : Nat) (x : V512) : (s.setV n x).me.regs.p = s.me.regs.p := by
  unfold State.setV; split <;> rfl

@[simp] theorem setV_regs_z (s : State) (n : Nat) (x : V512) : (s.setV n x).me.regs.z = s.me.regs.z := by
  unfold State.setV; split <;> rfl

@[simp] theorem setV_regs_zver (s : State) (n : Nat) (x : V512) : (s.setV n x).me.regs.zver = s.me.regs.zver := by
  unfold State.setV; split <;> rfl

@[simp] theorem setV_regs_lc (s : State) (n : Nat) (x : V512) : (s.setV n x).me.regs.lc = s.me.regs.lc := by
  unfold State.setV; split <;> rfl

/-! ## setZ -/

@[simp] theorem setZ_here (s : State) (z : ZReg) (x : Vector (BitVec 32) 256) : (s.setZ z x).here = s.here := rfl

@[simp] theorem setZ_others (s : State) (z : ZReg) (x : Vector (BitVec 32) 256) : (s.setZ z x).others = s.others := rfl

@[simp] theorem setZ_dev (s : State) (z : ZReg) (x : Vector (BitVec 32) 256) : (s.setZ z x).dev = s.dev := rfl

@[simp] theorem setZ_agenda (s : State) (z : ZReg) (x : Vector (BitVec 32) 256) : (s.setZ z x).agenda = s.agenda := rfl

@[simp] theorem setZ_fresh (s : State) (z : ZReg) (x : Vector (BitVec 32) 256) : (s.setZ z x).fresh = s.fresh := rfl

@[simp] theorem setZ_me_pc (s : State) (z : ZReg) (x : Vector (BitVec 32) 256) : (s.setZ z x).me.pc = s.me.pc := rfl

@[simp] theorem setZ_me_hints (s : State) (z : ZReg) (x : Vector (BitVec 32) 256) : (s.setZ z x).me.hints = s.me.hints := rfl

@[simp] theorem setZ_me_ctl (s : State) (z : ZReg) (x : Vector (BitVec 32) 256) : (s.setZ z x).me.ctl = s.me.ctl := rfl

@[simp] theorem setZ_me_lcore (s : State) (z : ZReg) (x : Vector (BitVec 32) 256) : (s.setZ z x).me.lcore = s.me.lcore := rfl

@[simp] theorem setZ_me_loc (s : State) (z : ZReg) (x : Vector (BitVec 32) 256) : (s.setZ z x).me.loc = s.me.loc := rfl

@[simp] theorem setZ_me_l1 (s : State) (z : ZReg) (x : Vector (BitVec 32) 256) : (s.setZ z x).me.l1 = s.me.l1 := rfl

@[simp] theorem setZ_me_icache (s : State) (z : ZReg) (x : Vector (BitVec 32) 256) : (s.setZ z x).me.icache = s.me.icache := rfl

@[simp] theorem setZ_me_tlb (s : State) (z : ZReg) (x : Vector (BitVec 32) 256) : (s.setZ z x).me.tlb = s.me.tlb := rfl

@[simp] theorem setZ_me_loopBuf (s : State) (z : ZReg) (x : Vector (BitVec 32) 256) : (s.setZ z x).me.loopBuf = s.me.loopBuf := rfl

@[simp] theorem setZ_me_templates (s : State) (z : ZReg) (x : Vector (BitVec 32) 256) : (s.setZ z x).me.templates = s.me.templates := rfl

@[simp] theorem setZ_me_chans (s : State) (z : ZReg) (x : Vector (BitVec 32) 256) : (s.setZ z x).me.chans = s.me.chans := rfl

@[simp] theorem setZ_me_slots (s : State) (z : ZReg) (x : Vector (BitVec 32) 256) : (s.setZ z x).me.slots = s.me.slots := rfl

@[simp] theorem setZ_me_queues (s : State) (z : ZReg) (x : Vector (BitVec 32) 256) : (s.setZ z x).me.queues = s.me.queues := rfl

@[simp] theorem setZ_me_caps (s : State) (z : ZReg) (x : Vector (BitVec 32) 256) : (s.setZ z x).me.caps = s.me.caps := rfl

@[simp] theorem setZ_me_mcmds (s : State) (z : ZReg) (x : Vector (BitVec 32) 256) : (s.setZ z x).me.mcmds = s.me.mcmds := rfl

@[simp] theorem setZ_me_asked (s : State) (z : ZReg) (x : Vector (BitVec 32) 256) : (s.setZ z x).me.asked = s.me.asked := rfl

@[simp] theorem setZ_me_counts (s : State) (z : ZReg) (x : Vector (BitVec 32) 256) : (s.setZ z x).me.counts = s.me.counts := rfl

@[simp] theorem setZ_me_notes (s : State) (z : ZReg) (x : Vector (BitVec 32) 256) : (s.setZ z x).me.notes = s.me.notes := rfl

@[simp] theorem setZ_me_member (s : State) (z : ZReg) (x : Vector (BitVec 32) 256) : (s.setZ z x).me.member = s.me.member := rfl

@[simp] theorem setZ_me_bond (s : State) (z : ZReg) (x : Vector (BitVec 32) 256) : (s.setZ z x).me.bond = s.me.bond := rfl

@[simp] theorem setZ_me_rank (s : State) (z : ZReg) (x : Vector (BitVec 32) 256) : (s.setZ z x).me.rank = s.me.rank := rfl

@[simp] theorem setZ_me_crew (s : State) (z : ZReg) (x : Vector (BitVec 32) 256) : (s.setZ z x).me.crew = s.me.crew := rfl

@[simp] theorem setZ_me_released (s : State) (z : ZReg) (x : Vector (BitVec 32) 256) : (s.setZ z x).me.released = s.me.released := rfl

@[simp] theorem setZ_me_trail (s : State) (z : ZReg) (x : Vector (BitVec 32) 256) : (s.setZ z x).me.trail = s.me.trail := rfl

@[simp] theorem setZ_me_orphan (s : State) (z : ZReg) (x : Vector (BitVec 32) 256) : (s.setZ z x).me.orphan = s.me.orphan := rfl

@[simp] theorem setZ_me_handed (s : State) (z : ZReg) (x : Vector (BitVec 32) 256) : (s.setZ z x).me.handed = s.me.handed := rfl

@[simp] theorem setZ_me_pair (s : State) (z : ZReg) (x : Vector (BitVec 32) 256) : (s.setZ z x).me.pair = s.me.pair := rfl

@[simp] theorem setZ_me_pairOps (s : State) (z : ZReg) (x : Vector (BitVec 32) 256) : (s.setZ z x).me.pairOps = s.me.pairOps := rfl

@[simp] theorem setZ_me_wait (s : State) (z : ZReg) (x : Vector (BitVec 32) 256) : (s.setZ z x).me.wait = s.me.wait := rfl

@[simp] theorem setZ_me_accepted (s : State) (z : ZReg) (x : Vector (BitVec 32) 256) : (s.setZ z x).me.accepted = s.me.accepted := rfl

@[simp] theorem setZ_me_count0 (s : State) (z : ZReg) (x : Vector (BitVec 32) 256) : (s.setZ z x).me.count0 = s.me.count0 := rfl

@[simp] theorem setZ_me_irqs (s : State) (z : ZReg) (x : Vector (BitVec 32) 256) : (s.setZ z x).me.irqs = s.me.irqs := rfl

@[simp] theorem setZ_me_async (s : State) (z : ZReg) (x : Vector (BitVec 32) 256) : (s.setZ z x).me.async = s.me.async := rfl

@[simp] theorem setZ_me_sigPend (s : State) (z : ZReg) (x : Vector (BitVec 32) 256) : (s.setZ z x).me.sigPend = s.me.sigPend := rfl

@[simp] theorem setZ_me_held (s : State) (z : ZReg) (x : Vector (BitVec 32) 256) : (s.setZ z x).me.held = s.me.held := rfl

@[simp] theorem setZ_me_live (s : State) (z : ZReg) (x : Vector (BitVec 32) 256) : (s.setZ z x).me.live = s.me.live := rfl

@[simp] theorem setZ_me_stopped (s : State) (z : ZReg) (x : Vector (BitVec 32) 256) : (s.setZ z x).me.stopped = s.me.stopped := rfl

@[simp] theorem setZ_me_finished (s : State) (z : ZReg) (x : Vector (BitVec 32) 256) : (s.setZ z x).me.finished = s.me.finished := rfl

@[simp] theorem setZ_me_entering (s : State) (z : ZReg) (x : Vector (BitVec 32) 256) : (s.setZ z x).me.entering = s.me.entering := rfl

@[simp] theorem setZ_me_inbox (s : State) (z : ZReg) (x : Vector (BitVec 32) 256) : (s.setZ z x).me.inbox = s.me.inbox := rfl

@[simp] theorem setZ_me_seq (s : State) (z : ZReg) (x : Vector (BitVec 32) 256) : (s.setZ z x).me.seq = s.me.seq := rfl

@[simp] theorem setZ_me_pass (s : State) (z : ZReg) (x : Vector (BitVec 32) 256) : (s.setZ z x).me.pass = s.me.pass := rfl

@[simp] theorem setZ_me_issued (s : State) (z : ZReg) (x : Vector (BitVec 32) 256) : (s.setZ z x).me.issued = s.me.issued := rfl

@[simp] theorem setZ_me_peerWords (s : State) (z : ZReg) (x : Vector (BitVec 32) 256) : (s.setZ z x).me.peerWords = s.me.peerWords := rfl

@[simp] theorem setZ_me_nretired (s : State) (z : ZReg) (x : Vector (BitVec 32) 256) : (s.setZ z x).me.nretired = s.me.nretired := rfl

@[simp] theorem setZ_me_quota (s : State) (z : ZReg) (x : Vector (BitVec 32) 256) : (s.setZ z x).me.quota = s.me.quota := rfl

@[simp] theorem setZ_regs_g (s : State) (z : ZReg) (x : Vector (BitVec 32) 256) : (s.setZ z x).me.regs.g = s.me.regs.g := rfl

@[simp] theorem setZ_regs_v (s : State) (z : ZReg) (x : Vector (BitVec 32) 256) : (s.setZ z x).me.regs.v = s.me.regs.v := rfl

@[simp] theorem setZ_regs_p (s : State) (z : ZReg) (x : Vector (BitVec 32) 256) : (s.setZ z x).me.regs.p = s.me.regs.p := rfl

@[simp] theorem setZ_regs_zver (s : State) (z : ZReg) (x : Vector (BitVec 32) 256) : (s.setZ z x).me.regs.zver = s.me.regs.zver := rfl

@[simp] theorem setZ_regs_lc (s : State) (z : ZReg) (x : Vector (BitVec 32) 256) : (s.setZ z x).me.regs.lc = s.me.regs.lc := rfl

/-! ## bumpZ -/

@[simp] theorem bumpZ_here (s : State) (z : ZReg) : (s.bumpZ z).here = s.here := rfl

@[simp] theorem bumpZ_others (s : State) (z : ZReg) : (s.bumpZ z).others = s.others := rfl

@[simp] theorem bumpZ_dev (s : State) (z : ZReg) : (s.bumpZ z).dev = s.dev := rfl

@[simp] theorem bumpZ_agenda (s : State) (z : ZReg) : (s.bumpZ z).agenda = s.agenda := rfl

@[simp] theorem bumpZ_fresh (s : State) (z : ZReg) : (s.bumpZ z).fresh = s.fresh := rfl

@[simp] theorem bumpZ_me_pc (s : State) (z : ZReg) : (s.bumpZ z).me.pc = s.me.pc := rfl

@[simp] theorem bumpZ_me_hints (s : State) (z : ZReg) : (s.bumpZ z).me.hints = s.me.hints := rfl

@[simp] theorem bumpZ_me_ctl (s : State) (z : ZReg) : (s.bumpZ z).me.ctl = s.me.ctl := rfl

@[simp] theorem bumpZ_me_lcore (s : State) (z : ZReg) : (s.bumpZ z).me.lcore = s.me.lcore := rfl

@[simp] theorem bumpZ_me_loc (s : State) (z : ZReg) : (s.bumpZ z).me.loc = s.me.loc := rfl

@[simp] theorem bumpZ_me_l1 (s : State) (z : ZReg) : (s.bumpZ z).me.l1 = s.me.l1 := rfl

@[simp] theorem bumpZ_me_icache (s : State) (z : ZReg) : (s.bumpZ z).me.icache = s.me.icache := rfl

@[simp] theorem bumpZ_me_tlb (s : State) (z : ZReg) : (s.bumpZ z).me.tlb = s.me.tlb := rfl

@[simp] theorem bumpZ_me_loopBuf (s : State) (z : ZReg) : (s.bumpZ z).me.loopBuf = s.me.loopBuf := rfl

@[simp] theorem bumpZ_me_templates (s : State) (z : ZReg) : (s.bumpZ z).me.templates = s.me.templates := rfl

@[simp] theorem bumpZ_me_chans (s : State) (z : ZReg) : (s.bumpZ z).me.chans = s.me.chans := rfl

@[simp] theorem bumpZ_me_slots (s : State) (z : ZReg) : (s.bumpZ z).me.slots = s.me.slots := rfl

@[simp] theorem bumpZ_me_queues (s : State) (z : ZReg) : (s.bumpZ z).me.queues = s.me.queues := rfl

@[simp] theorem bumpZ_me_caps (s : State) (z : ZReg) : (s.bumpZ z).me.caps = s.me.caps := rfl

@[simp] theorem bumpZ_me_mcmds (s : State) (z : ZReg) : (s.bumpZ z).me.mcmds = s.me.mcmds := rfl

@[simp] theorem bumpZ_me_asked (s : State) (z : ZReg) : (s.bumpZ z).me.asked = s.me.asked := rfl

@[simp] theorem bumpZ_me_counts (s : State) (z : ZReg) : (s.bumpZ z).me.counts = s.me.counts := rfl

@[simp] theorem bumpZ_me_notes (s : State) (z : ZReg) : (s.bumpZ z).me.notes = s.me.notes := rfl

@[simp] theorem bumpZ_me_member (s : State) (z : ZReg) : (s.bumpZ z).me.member = s.me.member := rfl

@[simp] theorem bumpZ_me_bond (s : State) (z : ZReg) : (s.bumpZ z).me.bond = s.me.bond := rfl

@[simp] theorem bumpZ_me_rank (s : State) (z : ZReg) : (s.bumpZ z).me.rank = s.me.rank := rfl

@[simp] theorem bumpZ_me_crew (s : State) (z : ZReg) : (s.bumpZ z).me.crew = s.me.crew := rfl

@[simp] theorem bumpZ_me_released (s : State) (z : ZReg) : (s.bumpZ z).me.released = s.me.released := rfl

@[simp] theorem bumpZ_me_trail (s : State) (z : ZReg) : (s.bumpZ z).me.trail = s.me.trail := rfl

@[simp] theorem bumpZ_me_orphan (s : State) (z : ZReg) : (s.bumpZ z).me.orphan = s.me.orphan := rfl

@[simp] theorem bumpZ_me_handed (s : State) (z : ZReg) : (s.bumpZ z).me.handed = s.me.handed := rfl

@[simp] theorem bumpZ_me_pair (s : State) (z : ZReg) : (s.bumpZ z).me.pair = s.me.pair := rfl

@[simp] theorem bumpZ_me_pairOps (s : State) (z : ZReg) : (s.bumpZ z).me.pairOps = s.me.pairOps := rfl

@[simp] theorem bumpZ_me_wait (s : State) (z : ZReg) : (s.bumpZ z).me.wait = s.me.wait := rfl

@[simp] theorem bumpZ_me_accepted (s : State) (z : ZReg) : (s.bumpZ z).me.accepted = s.me.accepted := rfl

@[simp] theorem bumpZ_me_count0 (s : State) (z : ZReg) : (s.bumpZ z).me.count0 = s.me.count0 := rfl

@[simp] theorem bumpZ_me_irqs (s : State) (z : ZReg) : (s.bumpZ z).me.irqs = s.me.irqs := rfl

@[simp] theorem bumpZ_me_async (s : State) (z : ZReg) : (s.bumpZ z).me.async = s.me.async := rfl

@[simp] theorem bumpZ_me_sigPend (s : State) (z : ZReg) : (s.bumpZ z).me.sigPend = s.me.sigPend := rfl

@[simp] theorem bumpZ_me_held (s : State) (z : ZReg) : (s.bumpZ z).me.held = s.me.held := rfl

@[simp] theorem bumpZ_me_live (s : State) (z : ZReg) : (s.bumpZ z).me.live = s.me.live := rfl

@[simp] theorem bumpZ_me_stopped (s : State) (z : ZReg) : (s.bumpZ z).me.stopped = s.me.stopped := rfl

@[simp] theorem bumpZ_me_finished (s : State) (z : ZReg) : (s.bumpZ z).me.finished = s.me.finished := rfl

@[simp] theorem bumpZ_me_entering (s : State) (z : ZReg) : (s.bumpZ z).me.entering = s.me.entering := rfl

@[simp] theorem bumpZ_me_inbox (s : State) (z : ZReg) : (s.bumpZ z).me.inbox = s.me.inbox := rfl

@[simp] theorem bumpZ_me_seq (s : State) (z : ZReg) : (s.bumpZ z).me.seq = s.me.seq := rfl

@[simp] theorem bumpZ_me_pass (s : State) (z : ZReg) : (s.bumpZ z).me.pass = s.me.pass := rfl

@[simp] theorem bumpZ_me_issued (s : State) (z : ZReg) : (s.bumpZ z).me.issued = s.me.issued := rfl

@[simp] theorem bumpZ_me_peerWords (s : State) (z : ZReg) : (s.bumpZ z).me.peerWords = s.me.peerWords := rfl

@[simp] theorem bumpZ_me_nretired (s : State) (z : ZReg) : (s.bumpZ z).me.nretired = s.me.nretired := rfl

@[simp] theorem bumpZ_me_quota (s : State) (z : ZReg) : (s.bumpZ z).me.quota = s.me.quota := rfl

@[simp] theorem bumpZ_regs_g (s : State) (z : ZReg) : (s.bumpZ z).me.regs.g = s.me.regs.g := rfl

@[simp] theorem bumpZ_regs_v (s : State) (z : ZReg) : (s.bumpZ z).me.regs.v = s.me.regs.v := rfl

@[simp] theorem bumpZ_regs_p (s : State) (z : ZReg) : (s.bumpZ z).me.regs.p = s.me.regs.p := rfl

@[simp] theorem bumpZ_regs_z (s : State) (z : ZReg) : (s.bumpZ z).me.regs.z = s.me.regs.z := rfl

@[simp] theorem bumpZ_regs_lc (s : State) (z : ZReg) : (s.bumpZ z).me.regs.lc = s.me.regs.lc := rfl

@[simp] theorem p_setG (s : State) (d : Reg) (x : W64) (r : PReg) : (s.setG d x).p r = s.p r := by
  unfold State.setG; split <;> rfl

@[simp] theorem v_setG (s : State) (d : Reg) (x : W64) (k : Nat) : (s.setG d x).v k = s.v k := by
  unfold State.setG; split <;> rfl

@[simp] theorem z_setG (s : State) (d : Reg) (x : W64) (y : ZReg) : (s.setG d x).z y = s.z y := by
  unfold State.setG; split <;> rfl

@[simp] theorem zver_setG (s : State) (d : Reg) (x : W64) (y : ZReg) : (s.setG d x).zver y = s.zver y := by
  unfold State.setG; split <;> rfl

@[simp] theorem g_setP (s : State) (d : PReg) (x : W64) (r : Reg) : (s.setP d x).g r = s.g r := by
  unfold State.setP; split <;> rfl

@[simp] theorem v_setP (s : State) (d : PReg) (x : W64) (k : Nat) : (s.setP d x).v k = s.v k := by
  unfold State.setP; split <;> rfl

@[simp] theorem z_setP (s : State) (d : PReg) (x : W64) (y : ZReg) : (s.setP d x).z y = s.z y := by
  unfold State.setP; split <;> rfl

@[simp] theorem zver_setP (s : State) (d : PReg) (x : W64) (y : ZReg) : (s.setP d x).zver y = s.zver y := by
  unfold State.setP; split <;> rfl

@[simp] theorem g_setV (s : State) (n : Nat) (x : V512) (r : Reg) : (s.setV n x).g r = s.g r := by
  unfold State.setV; split <;> rfl

@[simp] theorem p_setV (s : State) (n : Nat) (x : V512) (r : PReg) : (s.setV n x).p r = s.p r := by
  unfold State.setV; split <;> rfl

@[simp] theorem z_setV (s : State) (n : Nat) (x : V512) (y : ZReg) : (s.setV n x).z y = s.z y := by
  unfold State.setV; split <;> rfl

@[simp] theorem zver_setV (s : State) (n : Nat) (x : V512) (y : ZReg) : (s.setV n x).zver y = s.zver y := by
  unfold State.setV; split <;> rfl

@[simp] theorem g_setZ (s : State) (z : ZReg) (x : Vector (BitVec 32) 256) (r : Reg) : (s.setZ z x).g r = s.g r := rfl

@[simp] theorem p_setZ (s : State) (z : ZReg) (x : Vector (BitVec 32) 256) (r : PReg) : (s.setZ z x).p r = s.p r := rfl

@[simp] theorem v_setZ (s : State) (z : ZReg) (x : Vector (BitVec 32) 256) (k : Nat) : (s.setZ z x).v k = s.v k := rfl

@[simp] theorem zver_setZ (s : State) (z : ZReg) (x : Vector (BitVec 32) 256) (y : ZReg) : (s.setZ z x).zver y = s.zver y := rfl

@[simp] theorem g_bumpZ (s : State) (z : ZReg) (r : Reg) : (s.bumpZ z).g r = s.g r := rfl

@[simp] theorem p_bumpZ (s : State) (z : ZReg) (r : PReg) : (s.bumpZ z).p r = s.p r := rfl

@[simp] theorem v_bumpZ (s : State) (z : ZReg) (k : Nat) : (s.bumpZ z).v k = s.v k := rfl

@[simp] theorem z_bumpZ (s : State) (z : ZReg) (y : ZReg) : (s.bumpZ z).z y = s.z y := rfl

/-! ## The program counter goes on (R139, R140) -/

theorem setLc_frame (c : Core) (n : Nat) (x : W64) : c.setLc n x = { c with regs.lc := (c.setLc n x).regs.lc } := by
  unfold Core.setLc; split <;> rfl

theorem endSteps_frame : ∀ (l : List Nat) (c : Core) (next : W64), (c.endSteps next l).1 =
    { c with regs.lc := (c.endSteps next l).1.regs.lc, ctl.llen := (c.endSteps next l).1.ctl.llen }
  | [], _, _ => rfl
  | n :: t, c, next => by
    unfold Core.endSteps
    simp only
    split
    · unfold Core.setLc; split <;> rfl
    · rw [endSteps_frame t]
      have := setLc_frame c n (c.lc n - 1)
      rw [Core.loopOff, this]

theorem loopsOff_frame (l : List Nat) (c : Core) : l.foldl Core.loopOff c =
    { c with ctl.llen := (l.foldl Core.loopOff c).ctl.llen } := by
  induction l generalizing c with
  | nil => rfl
  | cons n t ih => rw [List.foldl_cons, ih]; rfl

/-- Going on writes the pc, the loop counters and LLEN, and nothing else. -/
theorem goOn_frame (c : Core) (n : Next) : c.goOn n =
    { c with pc := (c.goOn n).pc, regs.lc := (c.goOn n).regs.lc, ctl.llen := (c.goOn n).ctl.llen } := by
  cases n with
  | seq => simp only [Core.goOn]; rw [endSteps_frame]
  | trapAfter _ _ => simp only [Core.goOn]; rw [endSteps_frame]
  | skip _ => simp only [Core.goOn]; rw [endSteps_frame]
  | jump t => simp only [Core.goOn, Core.leaveLoops]; rw [loopsOff_frame]
  | stay => rfl
  | switched => rfl
  | again => rfl
  | chain => rfl

/-! ## retire -/

@[simp] theorem retire_here (s : State) (n : Next) : (s.retire n).here = s.here := rfl

@[simp] theorem retire_others (s : State) (n : Next) : (s.retire n).others = s.others := rfl

@[simp] theorem retire_dev (s : State) (n : Next) : (s.retire n).dev = s.dev := rfl

@[simp] theorem retire_agenda (s : State) (n : Next) : (s.retire n).agenda = s.agenda := rfl

@[simp] theorem retire_fresh (s : State) (n : Next) : (s.retire n).fresh = s.fresh := rfl

@[simp] theorem retire_me_lcore (s : State) (n : Next) : (s.retire n).me.lcore = s.me.lcore := by
  simp only [State.retire, State.retireTo]; rw [goOn_frame]

@[simp] theorem retire_me_loc (s : State) (n : Next) : (s.retire n).me.loc = s.me.loc := by
  simp only [State.retire, State.retireTo]; rw [goOn_frame]

@[simp] theorem retire_me_l1 (s : State) (n : Next) : (s.retire n).me.l1 = s.me.l1 := by
  simp only [State.retire, State.retireTo]; rw [goOn_frame]

@[simp] theorem retire_me_icache (s : State) (n : Next) : (s.retire n).me.icache = s.me.icache := by
  simp only [State.retire, State.retireTo]; rw [goOn_frame]

@[simp] theorem retire_me_tlb (s : State) (n : Next) : (s.retire n).me.tlb = s.me.tlb := by
  simp only [State.retire, State.retireTo]; rw [goOn_frame]

@[simp] theorem retire_me_loopBuf (s : State) (n : Next) : (s.retire n).me.loopBuf = s.me.loopBuf := by
  simp only [State.retire, State.retireTo]; rw [goOn_frame]

@[simp] theorem retire_me_templates (s : State) (n : Next) : (s.retire n).me.templates = s.me.templates := by
  simp only [State.retire, State.retireTo]; rw [goOn_frame]

@[simp] theorem retire_me_chans (s : State) (n : Next) : (s.retire n).me.chans = s.me.chans := by
  simp only [State.retire, State.retireTo]; rw [goOn_frame]

@[simp] theorem retire_me_slots (s : State) (n : Next) : (s.retire n).me.slots = s.me.slots := by
  simp only [State.retire, State.retireTo]; rw [goOn_frame]

@[simp] theorem retire_me_queues (s : State) (n : Next) : (s.retire n).me.queues = s.me.queues := by
  simp only [State.retire, State.retireTo]; rw [goOn_frame]

@[simp] theorem retire_me_caps (s : State) (n : Next) : (s.retire n).me.caps = s.me.caps := by
  simp only [State.retire, State.retireTo]; rw [goOn_frame]

@[simp] theorem retire_me_mcmds (s : State) (n : Next) : (s.retire n).me.mcmds = s.me.mcmds := by
  simp only [State.retire, State.retireTo]; rw [goOn_frame]

@[simp] theorem retire_me_asked (s : State) (n : Next) : (s.retire n).me.asked = s.me.asked := by
  simp only [State.retire, State.retireTo]; rw [goOn_frame]

@[simp] theorem retire_me_counts (s : State) (n : Next) : (s.retire n).me.counts = s.me.counts := by
  simp only [State.retire, State.retireTo]; rw [goOn_frame]

@[simp] theorem retire_me_notes (s : State) (n : Next) : (s.retire n).me.notes = s.me.notes := by
  simp only [State.retire, State.retireTo]; rw [goOn_frame]

@[simp] theorem retire_me_member (s : State) (n : Next) : (s.retire n).me.member = s.me.member := by
  simp only [State.retire, State.retireTo]; rw [goOn_frame]

@[simp] theorem retire_me_bond (s : State) (n : Next) : (s.retire n).me.bond = s.me.bond := by
  simp only [State.retire, State.retireTo]; rw [goOn_frame]

@[simp] theorem retire_me_rank (s : State) (n : Next) : (s.retire n).me.rank = s.me.rank := by
  simp only [State.retire, State.retireTo]; rw [goOn_frame]

@[simp] theorem retire_me_crew (s : State) (n : Next) : (s.retire n).me.crew = s.me.crew := by
  simp only [State.retire, State.retireTo]; rw [goOn_frame]

@[simp] theorem retire_me_released (s : State) (n : Next) : (s.retire n).me.released = s.me.released := by
  simp only [State.retire, State.retireTo]; rw [goOn_frame]

@[simp] theorem retire_me_trail (s : State) (n : Next) : (s.retire n).me.trail = s.me.trail := by
  simp only [State.retire, State.retireTo]; rw [goOn_frame]

@[simp] theorem retire_me_orphan (s : State) (n : Next) : (s.retire n).me.orphan = s.me.orphan := by
  simp only [State.retire, State.retireTo]; rw [goOn_frame]

@[simp] theorem retire_me_pair (s : State) (n : Next) : (s.retire n).me.pair = s.me.pair := by
  simp only [State.retire, State.retireTo]; rw [goOn_frame]

@[simp] theorem retire_me_pairOps (s : State) (n : Next) : (s.retire n).me.pairOps = s.me.pairOps := by
  simp only [State.retire, State.retireTo]; rw [goOn_frame]

@[simp] theorem retire_me_accepted (s : State) (n : Next) : (s.retire n).me.accepted = s.me.accepted := by
  simp only [State.retire, State.retireTo]; rw [goOn_frame]

@[simp] theorem retire_me_count0 (s : State) (n : Next) : (s.retire n).me.count0 = s.me.count0 := by
  simp only [State.retire, State.retireTo]; rw [goOn_frame]

@[simp] theorem retire_me_irqs (s : State) (n : Next) : (s.retire n).me.irqs = s.me.irqs := by
  simp only [State.retire, State.retireTo]; rw [goOn_frame]

@[simp] theorem retire_me_async (s : State) (n : Next) : (s.retire n).me.async = s.me.async := by
  simp only [State.retire, State.retireTo]; rw [goOn_frame]

@[simp] theorem retire_me_sigPend (s : State) (n : Next) : (s.retire n).me.sigPend = s.me.sigPend := by
  simp only [State.retire, State.retireTo]; rw [goOn_frame]

@[simp] theorem retire_me_held (s : State) (n : Next) : (s.retire n).me.held = s.me.held := by
  simp only [State.retire, State.retireTo]; rw [goOn_frame]

@[simp] theorem retire_me_live (s : State) (n : Next) : (s.retire n).me.live = s.me.live := by
  simp only [State.retire, State.retireTo]; rw [goOn_frame]

@[simp] theorem retire_me_stopped (s : State) (n : Next) : (s.retire n).me.stopped = s.me.stopped := by
  simp only [State.retire, State.retireTo]; rw [goOn_frame]

@[simp] theorem retire_me_finished (s : State) (n : Next) : (s.retire n).me.finished = s.me.finished := by
  simp only [State.retire, State.retireTo]; rw [goOn_frame]

@[simp] theorem retire_me_inbox (s : State) (n : Next) : (s.retire n).me.inbox = s.me.inbox := by
  simp only [State.retire, State.retireTo]; rw [goOn_frame]

@[simp] theorem retire_me_seq (s : State) (n : Next) : (s.retire n).me.seq = s.me.seq := by
  simp only [State.retire, State.retireTo]; rw [goOn_frame]

@[simp] theorem retire_me_pass (s : State) (n : Next) : (s.retire n).me.pass = s.me.pass := by
  simp only [State.retire, State.retireTo]; rw [goOn_frame]

@[simp] theorem retire_me_quota (s : State) (n : Next) : (s.retire n).me.quota = s.me.quota := by
  simp only [State.retire, State.retireTo]; rw [goOn_frame]

@[simp] theorem retire_issued (s : State) (n : Next) : (s.retire n).me.issued = false := rfl

@[simp] theorem retire_peerWords (s : State) (n : Next) : (s.retire n).me.peerWords = [] := rfl

@[simp] theorem retire_nretired (s : State) (n : Next) : (s.retire n).me.nretired = s.me.nretired + s.me.counts1 n := by
  simp only [State.retire, State.retireTo]; rw [goOn_frame]

@[simp] theorem retire_regs_g (s : State) (n : Next) : (s.retire n).me.regs.g = s.me.regs.g := by
  simp only [State.retire, State.retireTo]; rw [goOn_frame]

@[simp] theorem retire_regs_v (s : State) (n : Next) : (s.retire n).me.regs.v = s.me.regs.v := by
  simp only [State.retire, State.retireTo]; rw [goOn_frame]

@[simp] theorem retire_regs_p (s : State) (n : Next) : (s.retire n).me.regs.p = s.me.regs.p := by
  simp only [State.retire, State.retireTo]; rw [goOn_frame]

@[simp] theorem retire_regs_z (s : State) (n : Next) : (s.retire n).me.regs.z = s.me.regs.z := by
  simp only [State.retire, State.retireTo]; rw [goOn_frame]

@[simp] theorem retire_regs_zver (s : State) (n : Next) : (s.retire n).me.regs.zver = s.me.regs.zver := by
  simp only [State.retire, State.retireTo]; rw [goOn_frame]

@[simp] theorem retire_ctl_mode (s : State) (n : Next) : (s.retire n).me.ctl.mode = s.me.ctl.mode := by
  simp only [State.retire, State.retireTo]; rw [goOn_frame]

@[simp] theorem retire_ctl_ie (s : State) (n : Next) : (s.retire n).me.ctl.ie = s.me.ctl.ie := by
  simp only [State.retire, State.retireTo]; rw [goOn_frame]

@[simp] theorem retire_ctl_fpctl (s : State) (n : Next) : (s.retire n).me.ctl.fpctl = s.me.ctl.fpctl := by
  simp only [State.retire, State.retireTo]; rw [goOn_frame]

@[simp] theorem retire_ctl_qctl (s : State) (n : Next) : (s.retire n).me.ctl.qctl = s.me.ctl.qctl := by
  simp only [State.retire, State.retireTo]; rw [goOn_frame]

@[simp] theorem retire_ctl_wlimit (s : State) (n : Next) : (s.retire n).me.ctl.wlimit = s.me.ctl.wlimit := by
  simp only [State.retire, State.retireTo]; rw [goOn_frame]

@[simp] theorem retire_ctl_wstat (s : State) (n : Next) : (s.retire n).me.ctl.wstat = s.me.ctl.wstat := by
  simp only [State.retire, State.retireTo]; rw [goOn_frame]

@[simp] theorem retire_ctl_patctl (s : State) (n : Next) : (s.retire n).me.ctl.patctl = s.me.ctl.patctl := by
  simp only [State.retire, State.retireTo]; rw [goOn_frame]

@[simp] theorem retire_ctl_tvec (s : State) (n : Next) : (s.retire n).me.ctl.tvec = s.me.ctl.tvec := by
  simp only [State.retire, State.retireTo]; rw [goOn_frame]

@[simp] theorem retire_ctl_tcause (s : State) (n : Next) : (s.retire n).me.ctl.tcause = s.me.ctl.tcause := by
  simp only [State.retire, State.retireTo]; rw [goOn_frame]

@[simp] theorem retire_ctl_tval (s : State) (n : Next) : (s.retire n).me.ctl.tval = s.me.ctl.tval := by
  simp only [State.retire, State.retireTo]; rw [goOn_frame]

@[simp] theorem retire_ctl_tpc (s : State) (n : Next) : (s.retire n).me.ctl.tpc = s.me.ctl.tpc := by
  simp only [State.retire, State.retireTo]; rw [goOn_frame]

@[simp] theorem retire_ctl_tstat (s : State) (n : Next) : (s.retire n).me.ctl.tstat = s.me.ctl.tstat := by
  simp only [State.retire, State.retireTo]; rw [goOn_frame]

@[simp] theorem retire_ctl_pix (s : State) (n : Next) : (s.retire n).me.ctl.pix = s.me.ctl.pix := by
  simp only [State.retire, State.retireTo]; rw [goOn_frame]

@[simp] theorem retire_ctl_regbase (s : State) (n : Next) : (s.retire n).me.ctl.regbase = s.me.ctl.regbase := by
  simp only [State.retire, State.retireTo]; rw [goOn_frame]

@[simp] theorem retire_ctl_unack (s : State) (n : Next) : (s.retire n).me.ctl.unack = s.me.ctl.unack := by
  simp only [State.retire, State.retireTo]; rw [goOn_frame]

@[simp] theorem retire_ctl_sigctl (s : State) (n : Next) : (s.retire n).me.ctl.sigctl = s.me.ctl.sigctl := by
  simp only [State.retire, State.retireTo]; rw [goOn_frame]

@[simp] theorem retire_ctl_brka (s : State) (n : Next) : (s.retire n).me.ctl.brka = s.me.ctl.brka := by
  simp only [State.retire, State.retireTo]; rw [goOn_frame]

@[simp] theorem retire_ctl_ptbase (s : State) (n : Next) : (s.retire n).me.ctl.ptbase = s.me.ctl.ptbase := by
  simp only [State.retire, State.retireTo]; rw [goOn_frame]

@[simp] theorem retire_ctl_sid (s : State) (n : Next) : (s.retire n).me.ctl.sid = s.me.ctl.sid := by
  simp only [State.retire, State.retireTo]; rw [goOn_frame]

@[simp] theorem retire_ctl_ctxtag (s : State) (n : Next) : (s.retire n).me.ctl.ctxtag = s.me.ctl.ctxtag := by
  simp only [State.retire, State.retireTo]; rw [goOn_frame]

@[simp] theorem retire_ctl_poolbase (s : State) (n : Next) : (s.retire n).me.ctl.poolbase = s.me.ctl.poolbase := by
  simp only [State.retire, State.retireTo]; rw [goOn_frame]

@[simp] theorem retire_ctl_lbody (s : State) (n : Next) : (s.retire n).me.ctl.lbody = s.me.ctl.lbody := by
  simp only [State.retire, State.retireTo]; rw [goOn_frame]

@[simp] theorem retire_ctl_sigtab (s : State) (n : Next) : (s.retire n).me.ctl.sigtab = s.me.ctl.sigtab := by
  simp only [State.retire, State.retireTo]; rw [goOn_frame]

@[simp] theorem retire_ctl_sigtext (s : State) (n : Next) : (s.retire n).me.ctl.sigtext = s.me.ctl.sigtext := by
  simp only [State.retire, State.retireTo]; rw [goOn_frame]

@[simp] theorem retire_ctl_sigst (s : State) (n : Next) : (s.retire n).me.ctl.sigst = s.me.ctl.sigst := by
  simp only [State.retire, State.retireTo]; rw [goOn_frame]

@[simp] theorem retire_retired (s : State) (n : Next) :
    (s.retire n).me.ctl.retired = s.me.ctl.retired + w64 (s.me.counts1 n) := by
  simp only [State.retire, State.retireTo]; rw [goOn_frame]

@[simp] theorem retire_pc (s : State) (n : Next) : (s.retire n).me.pc = (s.me.goOn n).pc := rfl

@[simp] theorem retire_llen (s : State) (n : Next) : (s.retire n).me.ctl.llen = (s.me.goOn n).ctl.llen := rfl

@[simp] theorem retire_lc (s : State) (n : Next) : (s.retire n).me.regs.lc = (s.me.goOn n).regs.lc := rfl

@[simp] theorem retire_wait (s : State) (n : Next) : (s.retire n).me.wait = none := rfl

@[simp] theorem g_retire (s : State) (n : Next) (r : Reg) : (s.retire n).g r = s.g r := by simp [State.g]

@[simp] theorem p_retire (s : State) (n : Next) (r : PReg) : (s.retire n).p r = s.p r := by simp [State.p]

@[simp] theorem v_retire (s : State) (n : Next) (k : Nat) : (s.retire n).v k = s.v k := by
  simp only [State.v, Core.v, retire_regs_v]

@[simp] theorem z_retire (s : State) (n : Next) (z : ZReg) : (s.retire n).z z = s.z z := by simp [State.z]

@[simp] theorem zver_retire (s : State) (n : Next) (z : ZReg) : (s.retire n).zver z = s.zver z := by simp [State.zver]

end Sys2Proof.Machine
end

