-- ==== Sys2Proof/Laws/Translate.lean ====
section
/-! SUPPORT. Translating an address and parking an access keep the memory's canonical form. -/

namespace Sys2Proof.Machine

/-- The state that an outcome of an effect holds. -/
def Res.state : Res → State
  | .done s _ => s
  | .trap _ _ s => s
  | .wait _ s => s

/-- The state in which a translation leaves the machine. -/
def Xlate.state : Xlate → State
  | .hit _ s => s
  | .miss _ _ s => s

theorem markUsed_wf {d : Dev} (h : d.mem.wf = true) : ∀ path : List Nat, (d.markUsed path).mem.wf = true := by
  intro path
  unfold Dev.markUsed
  induction path generalizing d with
  | nil => exact h
  | cons k t ih => exact ih (d := { d with mem := d.mem.writeN k 8 (d.peek k 8 ||| 0x80) }) (writeN_wf 8 k _ h)

theorem markDirty_canonical {s : State} (h : s.canonical) (leaf : Option Nat) : (s.markDirty leaf).canonical := by
  cases leaf with
  | none => exact h
  | some k => exact writeN_wf 8 k _ h

theorem walkFill_canonical {s : State} (h : s.canonical) (sp : Space) (va : Nat) : (s.walkFill sp va).state.canonical := by
  unfold State.walkFill
  split
  · exact markUsed_wf h _
  · exact markUsed_wf h _

theorem pick_canonical {s : State} (h : s.canonical) (t : TlbEntry) (va : Nat) : (s.pick t va).state.canonical := by
  unfold State.pick
  simp only
  split
  · exact h
  · split
    · exact h
    · split
      · exact h
      · exact markUsed_wf (d := s.dev) h _

/-- A translation keeps the memory's canonical form. -/
theorem translate_canonical {s : State} (h : s.canonical) (sp : Space) (va : Nat) (store : Bool) :
    (s.translate sp va store).state.canonical := by
  have hw : (match s.walkFill sp va with
      | .hit t s => s.pick t va
      | .miss l b s => Xlate.miss l b s).state.canonical := by
    have := walkFill_canonical h sp va
    cases hx : s.walkFill sp va with
    | hit t u => rw [hx] at this; exact pick_canonical this t va
    | miss l b u => rw [hx] at this; exact this
  unfold State.translate
  simp only
  split
  · split
    · exact hw
    · exact pick_canonical h _ va
  · split
    · exact h
    · exact hw

theorem appendFault_canonical {s : State} (h : s.canonical) (n : BitVec 6) (r : FaultRec) : (s.appendFault n r).1.canonical := by
  unfold State.appendFault State.canonical Dev.setStave
  simp only
  generalize s.dev.stave n = t
  exact poke_wf (poke_wf h _ _ _) _ _ _

theorem enterFault_canonical {s t : State} (h : s.canonical) {n : BitVec 6} {r : FaultRec} {job : Option (BitVec 6)}
    (he : s.enterFault n r job = some t) : t.canonical := by
  unfold State.enterFault at he
  simp only at he
  split at he
  · split at he
    · split at he
      · cases he; exact poke_wf (d := _) (by exact h) _ _ _
      · cases he; exact h
    · cases he; exact h
  · split at he
    · cases he
    · have hr : (if (s.dev.stave n).fqRoom then s.appendFault n r else (s, r)).1.canonical := by
        split
        · exact appendFault_canonical h n r
        · exact h
      revert he
      generalize (if (s.dev.stave n).fqRoom then s.appendFault n r else (s, r)) = x at hr
      intro he
      cases job <;> (cases he; exact hr)

/-- Parking an access keeps the memory's canonical form. -/
theorem parkAccess_canonical {s : State} (h : s.canonical) (va : W64) (kind : AccKind) (lv : Nat) (bad : Bool) :
    (s.parkAccess va kind lv bad).state.canonical := by
  unfold State.parkAccess
  simp only
  split
  · split
    · exact h
    · split <;> exact h
  · split
    · exact h
    · split
      · exact h
      · split
        · next he => exact enterFault_canonical h he
        · exact h

end Sys2Proof.Machine
end

