-- ==== Sys2Proof/Laws/Trap.lean ====
section
/-! SUPPORT. What taking an exception writes and leaves (R389), what settling an outcome can do, and that issuing a word keeps
the memory's canonical form where the word's effect does. -/

namespace Sys2Proof.Machine

/-! ## Cores other than the one in focus -/

@[simp] theorem setCore_dev (s : State) (k : Nat) (c : Core) : (s.setCore k c).dev = s.dev := by
  unfold State.setCore; split <;> rfl

@[simp] theorem setCore_here (s : State) (k : Nat) (c : Core) : (s.setCore k c).here = s.here := by
  unfold State.setCore; split <;> rfl

@[simp] theorem setCore_agenda (s : State) (k : Nat) (c : Core) : (s.setCore k c).agenda = s.agenda := by
  unfold State.setCore; split <;> rfl

@[simp] theorem setCore_fresh (s : State) (k : Nat) (c : Core) : (s.setCore k c).fresh = s.fresh := by
  unfold State.setCore; split <;> rfl

@[simp] theorem onCore_dev (s : State) (k : Nat) (f : Core → Core) : (s.onCore k f).dev = s.dev := setCore_dev ..

@[simp] theorem onCore_here (s : State) (k : Nat) (f : Core → Core) : (s.onCore k f).here = s.here := setCore_here ..

@[simp] theorem onCore_agenda (s : State) (k : Nat) (f : Core → Core) : (s.onCore k f).agenda = s.agenda := setCore_agenda ..

@[simp] theorem onCore_fresh (s : State) (k : Nat) (f : Core → Core) : (s.onCore k f).fresh = s.fresh := setCore_fresh ..

theorem onCore_me_ne {s : State} {k : Nat} (h : k ≠ s.here) (f : Core → Core) : (s.onCore k f).me = s.me := by
  simp [State.onCore, State.setCore, h]

theorem onCore_me_here (s : State) (f : Core → Core) : (s.onCore s.here f).me = f s.me := by
  simp [State.onCore, State.setCore, State.coreAt]

@[simp] theorem focus_dev (s : State) (k : Nat) : (s.focus k).dev = s.dev := by
  unfold State.focus; split <;> rfl

@[simp] theorem focus_agenda (s : State) (k : Nat) : (s.focus k).agenda = s.agenda := by
  unfold State.focus; split <;> rfl

@[simp] theorem focus_fresh (s : State) (k : Nat) : (s.focus k).fresh = s.fresh := by
  unfold State.focus; split <;> rfl

@[simp] theorem focus_here (s : State) (k : Nat) : (s.focus k).here = k := by
  unfold State.focus
  split
  · next h => exact h.symm
  · rfl

/-- A fold whose steps leave a part of the state leaves it. -/
theorem foldl_leaves {α β : Type} (p : State → β) (f : State → α → State) (h : ∀ s x, p (f s x) = p s) :
    ∀ (l : List α) (s : State), p (l.foldl f s) = p s
  | [], _ => rfl
  | x :: t, s => (foldl_leaves p f h t (f s x)).trans (h s x)

/-- A fold whose steps keep a property keeps it. -/
theorem foldl_keeps {α : Type} (p : State → Prop) (f : State → α → State) (h : ∀ s x, p s → p (f s x)) :
    ∀ (l : List α) (s : State), p s → p (l.foldl f s)
  | [], _, hs => hs
  | x :: t, s, hs => foldl_keeps p f h t (f s x) (h s x hs)

/-! ## Leaving a bond and a checked pair (R389) -/

@[simp] theorem leaveBond_dev (s : State) : s.leaveBond.dev = s.dev := by
  unfold State.leaveBond
  split
  · rfl
  · split
    · exact foldl_leaves State.dev _ (fun s k => onCore_dev s k _) _ s
    · exact onCore_dev s _ _
  · rfl

@[simp] theorem leaveBond_here (s : State) : s.leaveBond.here = s.here := by
  unfold State.leaveBond
  split
  · rfl
  · split
    · exact foldl_leaves State.here _ (fun s k => onCore_here s k _) _ s
    · exact onCore_here s _ _
  · rfl

@[simp] theorem leaveBond_agenda (s : State) : s.leaveBond.agenda = s.agenda := by
  unfold State.leaveBond
  split
  · rfl
  · split
    · exact foldl_leaves State.agenda _ (fun s k => onCore_agenda s k _) _ s
    · exact onCore_agenda s _ _
  · rfl

@[simp] theorem leaveBond_fresh (s : State) : s.leaveBond.fresh = s.fresh := by
  unfold State.leaveBond
  split
  · rfl
  · split
    · exact foldl_leaves State.fresh _ (fun s k => onCore_fresh s k _) _ s
    · exact onCore_fresh s _ _
  · rfl

/-- Cores other than the one in focus are changed one by one; the one in focus stays. -/
theorem foldl_onCore_me (f : Core → Core) : ∀ (l : List Nat) (s : State), (∀ k ∈ l, k ≠ s.here) →
    (l.foldl (fun t k => t.onCore k f) s).me = s.me
  | [], _, _ => rfl
  | k :: t, s, h => by
    rw [List.foldl_cons, foldl_onCore_me f t _ fun j hj => by simpa using h j (by simp [hj])]
    exact onCore_me_ne (h k (by simp)) f

/-- What the core that leaves its bond holds: its bond is over and nothing else has changed. -/
theorem leaveBond_me (s : State) : s.leaveBond.me = if s.me.bond = .none then s.me else s.me.unbond := by
  cases h : s.me.bond with
  | none => simp [State.leaveBond, h]
  | gang => simp [State.leaveBond, h]
  | follow =>
    rw [if_neg (by decide), State.leaveBond, h]
    simp only
    by_cases hr : s.me.rank = 0
    · rw [if_pos hr]
      have := foldl_onCore_me (fun x => x.cutOff s.me) (s.me.crew.filter s.follows) s fun k hk e => by
        have hf := (List.mem_filter.mp hk).2
        simp [State.follows, e, State.coreAt, hr] at hf
      exact congrArg Core.unbond this
    · rw [if_neg hr]
      by_cases hl : s.me.crew.headD s.here = s.here
      · rw [hl]
        simp only [onCore_me_here]
        split <;> rfl
      · simp only [onCore_me_ne hl]

@[simp] theorem leavePair_dev (s : State) : s.leavePair.dev = s.dev := by
  unfold State.leavePair; split <;> simp

@[simp] theorem leavePair_here (s : State) : s.leavePair.here = s.here := by
  unfold State.leavePair; split <;> simp

@[simp] theorem leavePair_agenda (s : State) : s.leavePair.agenda = s.agenda := by
  unfold State.leavePair; split <;> simp

@[simp] theorem leavePair_fresh (s : State) : s.leavePair.fresh = s.fresh := by
  unfold State.leavePair; split <;> simp

theorem leavePair_me (s : State) :
    s.leavePair.me = if s.me.pair = none then s.me else { s.me with pair := none, pairOps := [] } := by
  unfold State.leavePair
  split
  · next h => simp [h]
  · next k h =>
    by_cases hk : k = s.here
    · subst hk; simp [h, onCore_me_here]
    · simp [h, onCore_me_ne hk]

/-! ## Trap entry (R389) -/

@[simp] theorem trapEntry_dev (s : State) (c : BitVec 8) (v t : W64) : (s.trapEntry c v t).dev = s.dev := by
  simp [State.trapEntry]

@[simp] theorem trapEntry_here (s : State) (c : BitVec 8) (v t : W64) : (s.trapEntry c v t).here = s.here := by
  simp [State.trapEntry]

@[simp] theorem trapEntry_agenda (s : State) (c : BitVec 8) (v t : W64) : (s.trapEntry c v t).agenda = s.agenda := by
  simp [State.trapEntry]

@[simp] theorem trapEntry_fresh (s : State) (c : BitVec 8) (v t : W64) : (s.trapEntry c v t).fresh = s.fresh := by
  simp [State.trapEntry]

/-- What the core in focus holds after a trap has been taken. -/
theorem trapEntry_me (s : State) (c : BitVec 8) (v t : W64) : (s.trapEntry c v t).me =
    { (if s.me.bond = .none then s.me else s.me.unbond) with
      pair := none
      pairOps := if s.me.pair = none then s.me.pairOps else []
      ctl := { s.me.ctl with
        tpc := t, tcause := zext c, tval := v, tstat := s.me.tstatWord,
        mode := if s.me.ctl.mode = .user then .stave else s.me.ctl.mode, ie := false }
      pc := s.me.ctl.tvec, hints := .none, wait := none, seq := [], issued := false, peerWords := [], entering := true } := by
  simp only [State.trapEntry, leavePair_me, leaveBond_me]
  by_cases hb : s.me.bond = .none <;> by_cases hp : s.me.pair = none <;> simp [hb, hp, Core.unbond]

@[simp] theorem raise_dev (s : State) (c : BitVec 8) (v t : W64) : (s.raise c v t).dev = s.dev := by
  unfold State.raise; split <;> simp

@[simp] theorem raise_agenda (s : State) (c : BitVec 8) (v t : W64) : (s.raise c v t).agenda = s.agenda := by
  unfold State.raise; split <;> simp

@[simp] theorem raise_here (s : State) (c : BitVec 8) (v t : W64) : (s.raise c v t).here = s.here := by
  unfold State.raise; split <;> simp

/-! ## The memory through an outcome -/

@[simp] theorem giveBack_dev (r : Res) (s : State) : (r.giveBack s).state.dev = r.state.dev := by
  cases r <;> rfl

@[simp] theorem settle_dev (r : Res) : r.settle.dev = r.state.dev := by
  cases r with
  | done s n => cases n <;> simp [Res.settle, Res.state]
  | trap c v s => simp [Res.settle, Res.state]
  | wait w s => rfl

theorem canonical_of_dev {s t : State} (h : t.dev = s.dev) (hs : s.canonical) : t.canonical := by
  unfold State.canonical; rw [h]; exact hs

/-- An effect keeps the memory in canonical form. -/
def Body.keeps (body : Body) : Prop := ∀ w s, s.canonical → (body w s).state.canonical

theorem runOne_canonical {chk : Check} {body : Body} (hb : body.keeps) (w : Crew) {s : State} (hs : s.canonical) :
    (runOne chk body w s).state.canonical := by
  unfold runOne
  split
  · exact hs
  · exact canonical_of_dev (giveBack_dev _ _) (hb w s hs)

theorem focus_canonical {s : State} (hs : s.canonical) (k : Nat) : (s.focus k).canonical :=
  canonical_of_dev (focus_dev s k) hs

theorem crewResults_canonical {chk : Check} {body : Body} (hb : body.keeps) (cores : List Core) :
    ∀ (l : List Nat) (n : Nat) (s : State), s.canonical →
      ∀ r ∈ crewResults chk body cores l n s, r.2.state.canonical
  | [], _, _, _ => by simp [crewResults]
  | k :: t, n, s, hs => by
    have h0 := runOne_canonical (chk := chk) hb ⟨cores, n⟩ (focus_canonical hs k)
    intro r hr
    unfold crewResults at hr
    rcases List.mem_cons.mp hr with rfl | hr
    · exact h0
    · refine crewResults_canonical hb cores t (n + 1) _ ?_ r hr
      generalize runOne chk body ⟨cores, n⟩ (s.focus k) = x at h0 ⊢
      cases x with
      | done _ _ => exact h0
      | trap _ _ _ => exact hs
      | wait _ _ => exact h0

theorem lastState_canonical : ∀ (l : List (Nat × Res)) (s : State), s.canonical →
    (∀ r ∈ l, r.2.state.canonical) → (lastState s l).canonical
  | [], _, hs, _ => hs
  | (k, .done s' n) :: t, _, _, h =>
    lastState_canonical t s' (h (k, .done s' n) (by simp)) fun r hr => h r (by simp [hr])
  | (_, .trap _ _ _) :: t, s, hs, h => lastState_canonical t s hs fun r hr => h r (by simp [hr])
  | (_, .wait _ _) :: t, s, hs, h => lastState_canonical t s hs fun r hr => h r (by simp [hr])

@[simp] theorem haltCrew_dev (rs : List (Nat × Res)) (s : State) : (haltCrew rs s).dev = s.dev := by
  unfold haltCrew
  simp only
  split
  · refine foldl_leaves State.dev _ (fun s r => ?_) rs s
    rcases r with ⟨k, _ | ⟨c, v, t⟩ | _⟩
    · simp
    · simp only; split <;> simp
    · simp
  · refine foldl_leaves State.dev _ (fun s r => ?_) rs s
    rcases r with ⟨k, _ | ⟨c, v, t⟩ | _⟩
    · simp
    · exact (raise_dev _ _ _ _).trans (focus_dev s k)
    · simp

theorem retireTo_dev (s : State) (c : Core) (n : Next) : (s.retireTo c n).dev = s.dev := rfl

@[simp] theorem retireCrew_dev (rs : List (Nat × Res)) (s : State) : (retireCrew rs s).dev = s.dev := by
  unfold retireCrew
  simp only
  rw [foldl_leaves State.dev _ (fun s r => by split <;> simp) rs]
  refine foldl_leaves State.dev _ (fun s r => ?_) rs s
  rw [retireTo_dev, focus_dev]

theorem waitBare_canonical {s : State} (hs : s.canonical) (w : Wait) : (s.waitBare w).canonical := by
  unfold State.waitBare
  simp only
  split
  · next va kind =>
    have ht := translate_canonical hs s.me.space va.toNat (AccKind.ofCode kind).writes
    split
    · next lv bad t hx =>
      rw [hx] at ht
      have hp := parkAccess_canonical (s := t) ht va (AccKind.ofCode kind) lv bad
      split
      · next he => rw [he] at hp; exact hp
      · exact hs
      · exact hs
    · exact hs
  all_goals exact hs

theorem holdCrew_canonical {long parked : Bool} {chk : Check} {body : Body} (hb : body.keeps) (cores : List Core) :
    ∀ (l : List Nat) (n : Nat) (s : State), s.canonical → (holdCrew long parked chk body cores l n s).canonical
  | [], _, _, hs => hs
  | k :: t, n, s, hs => by
    have h0 := runOne_canonical (chk := chk) hb ⟨cores, n⟩ (focus_canonical hs k)
    unfold holdCrew
    refine holdCrew_canonical hb cores t (n + 1) _ ?_
    generalize runOne chk body ⟨cores, n⟩ (s.focus k) = x at h0 ⊢
    cases x with
    | done _ _ => simp only; split <;> exact focus_canonical hs k
    | trap _ _ _ => simp only; split <;> exact focus_canonical hs k
    | wait w _ =>
      simp only
      split
      · exact waitBare_canonical (focus_canonical hs k) w
      · exact h0

theorem onAll_dev (s : State) (ks : List Nat) (f : Core → Core) : (s.onAll ks f).dev = s.dev :=
  foldl_leaves State.dev _ (fun s k => onCore_dev s k f) ks s

theorem runCrew_canonical {long : Bool} {chk : Check} {body : Body} (hb : body.keeps) {s : State} (hs : s.canonical) :
    (runCrew long chk body s).canonical := by
  unfold runCrew
  refine focus_canonical ?_ _
  split
  · exact canonical_of_dev (haltCrew_dev _ _) hs
  · split
    · split
      · split <;> exact holdCrew_canonical hb _ _ _ _ (canonical_of_dev (onAll_dev _ _ _) hs)
      · refine holdCrew_canonical hb _ _ _ _ ?_
        split
        · exact canonical_of_dev (onAll_dev _ _ _) hs
        · exact hs
    · exact canonical_of_dev (retireCrew_dev _ _)
        (lastState_canonical _ _ hs (crewResults_canonical hb _ _ _ _ hs))

/-- Issuing a word keeps the memory's canonical form where its effect does. -/
theorem issueBy_canonical {long : Bool} {chk : Check} {body : Body} (hb : body.keeps) {s t : State} (hs : s.canonical)
    (h : issueBy chk body s long = .next t) : t.canonical := by
  unfold issueBy at h
  split at h
  · cases h
  · split at h
    · cases h; exact runCrew_canonical hb hs
    · cases h; exact canonical_of_dev (settle_dev _) (runOne_canonical hb _ hs)

end Sys2Proof.Machine
end

