-- ==== Sys2Proof/Tests/Slice0.lean ====
section
/-! SUPPORT. Tests: terms that the well-formedness checks refuse, words of every encoded row, single steps, and for every
statement states that meet its hypotheses. -/

namespace Sys2Proof.Tests

set_option Elab.async false

open Sys2Proof Sys2Proof.Machine Sys2Proof.Claims

/-! ## How the tests say things -/

/-- An outcome that goes on, in a state with p. -/
def after (x : Out) (p : State → Bool) : Bool :=
  match x with
  | .next t => p t
  | .fault _ | .refused _ => false

/-- A computation that gives a value with p. -/
def yields {α : Type} (x : Except Res α) (p : α → Bool) : Bool :=
  match x with
  | .ok a => p a
  | .error _ => false

/-- The checks of Clear, computed. -/
def clearB (i : Instr) (s : State) : Bool :=
  !s.me.stopped && s.me.bond != .gang && (s.me.hints.wide == none || acceptsWide i || isHintInstr i) &&
    (!isTransfer i || !s.me.endsBody s.me.pc) && s.me.may (s.needs i)

theorem after_iff {x : Out} {p : State → Bool} : after x p = true ↔ ∃ t, x = .next t ∧ p t = true := by
  cases x <;> simp [after]

theorem yields_iff {α : Type} {x : Except Res α} {p : α → Bool} : yields x p = true ↔ ∃ a, x = .ok a ∧ p a = true := by
  cases x <;> simp [yields]

theorem clearB_iff {i : Instr} {s : State} : clearB i s = true ↔ Clear i s := by
  simp only [clearB, Bool.and_eq_true, Bool.or_eq_true, Bool.not_eq_true', bne_iff_ne, beq_iff_eq]
  constructor
  · rintro ⟨⟨⟨⟨h1, h2⟩, h3⟩, h4⟩, h5⟩
    exact ⟨h1, h2, or_assoc.mp h3, fun h => by simpa [h] using h4, h5⟩
  · rintro ⟨h1, h2, h3, h4, h5⟩
    refine ⟨⟨⟨⟨h1, h2⟩, or_assoc.mpr h3⟩, ?_⟩, h5⟩
    cases h : isTransfer i
    · exact .inl rfl
    · exact .inr (h4 h)

/-! ## States to test on -/

/-- A core in shop mode that runs alone, its pc at 0x1000. -/
def base : State := { State.reset with me := { Core.booting with pc := 0x1000 } }

/-- The same in user mode. -/
def user : State := { base with me := { base.me with ctl := { Ctl.reset with mode := .user, tvec := 0x4000 } } }

/-- Registers g1, g2, g3 hold given values. -/
def withG (s : State) (x y z : W64) : State := ((s.setG 1 x).setG 2 y).setG 3 z

/-- Vector registers v1 and v2 hold given values. -/
def withV (s : State) (x y : V512) : State := (s.setV 1 x).setV 2 y

/-- An address in the core's own local memory. -/
def own (off : Nat) : W64 := 0xFFFF000000000000 + w64 off

/-- A number written at an offset of the core's own local memory. -/
def filled (s : State) (off n x : Nat) : State := { s with me := { s.me with loc := s.me.loc.store off n x } }

/-- Lanes from a list of numbers, the first lowest. -/
def lanes (n : Nat) (l : List Nat) : V512 := BitVec.ofNat 512 (l.reverse.foldl (fun x e => x * 2 ^ n + e) 0)

/-! ## Terms that the well-formedness checks refuse (R18, R35 and each instruction's own rule) -/

theorem test_ill_formed_scalar :
    ([.jalr 0 1 0, .loop 1 3 4, .loop 1 0 0, .loop 1 0 257, .crd 1 0x06, .cwr 1 0x71, .hintMempol 3 0] : List Instr).all
      (fun i => !i.wf) = true := by decide

theorem test_ill_formed_memory :
    ([.ld 1 2 .d true 0, .ldvol 1 2 .d true 0, .ldv 56 1 0, .gath 56 1 2 0 .i32, .wst 28 1 2, .wld 28 1 2 0,
      .wldT 31 1 2 0] : List Instr).all (fun i => !i.wf) = true := by decide

theorem test_ill_formed_vector_destinations :
    ([.vadd 56 1 2 0 .f32 false, .vsub 63 1 2 0 .f32 false, .vmul 56 1 2 0 .f32 false, .vfma 56 1 2 0 .f32 false,
      .vfnma 56 1 2 0 .f32 false, .vmin 56 1 2 0 .f32 false, .vmax 56 1 2 0 .f32 false, .vabs 56 1 0 .f32 false,
      .vneg 56 1 0 .f32 false, .vnot 56 1 0 .f32 false, .vand 56 1 2 0 .i8 false, .vor 56 1 2 0 .i8 false,
      .vxor 56 1 2 0 .i8 false, .vsel 56 1 2 0 .i8 false, .vbcast 56 1 0 .i8 false, .vins 56 1 2 0 .i8,
      .vperm 56 1 2 0 .i8 false, .vslide 56 1 2 0 .i8 false, .vcompr 56 1 0 .i8 false, .vexpnd 56 1 0 .i8 false,
      .vcxs 55 1 2 0 .i64 false, .quant 56 1 false 0 0 .f32, .dquant 56 1 false 0 0 .f32] : List Instr).all
      (fun i => !i.wf) = true := by decide

theorem test_ill_formed_vector_types :
    ([.vdiv 1 2 3 0 .i32 false, .vcpys 1 2 3 0 .i8 false, .vsqrt 1 2 0 .i32 false, .vrcp 1 2 0 .i64 false,
      .vrsq 1 2 0 .f64 false, .vexp2 1 2 0 .f64 false, .vlog2 1 2 0 .i16 false, .vsinpi 1 2 0 .f64 false,
      .vcospi 1 2 0 .f64 false, .vtanh 1 2 0 .f64 false, .vshl 1 2 3 0 .f32 false, .vshr 1 2 3 0 .f16 false,
      .vsar 1 2 3 0 .bf16 false, .vcmp .ltc 1 2 3 0 .f32 false, .vcmp .un 1 2 3 0 .i32 false, .vext 1 2 3 true .f32,
      .vred 1 2 .minc 0 .f32 false, .vscan 1 2 .maxc 0 .f64 false, .quant 1 2 false 0 0 .f64, .dquant 1 2 true 0 0 .i32,
      .vdot 1 2 3 0 .i32 false, .vdot 1 2 3 0 .f64 false] : List Instr).all (fun i => !i.wf) = true := by decide

theorem test_ill_formed_conversions :
    ([.vcvt 1 2 0 false .f32 0 .f32 false, .vcvt 1 2 0 false .i8 0 .f64 false, .vcvt 1 2 2 false .f32 0 .f64 false,
      .vcvt 1 2 0 true .f32 0 .f64 false, .vcvt 56 2 0 false .f32 0 .f64 false, .vlut 56 1 2 0 .i8, .vlut 1 56 2 0 .i8,
      .vlut 1 1 2 0 .i8] : List Instr).all (fun i => !i.wf) = true := by decide

theorem test_ill_formed_accumulators :
    ([.zclr 1 5 false, .zld 1 5 false 2 3, .zst 1 5 false 2 3, .zver 1 5 false 2, .mma 1 5 false 2 3 false .q8,
      .sclacc 1 5 false 2 3 false, .sclacc 1 0 false 1 3 false, .outlacc 1 5 false 2 3 0] : List Instr).all
      (fun i => !i.wf) = true := by decide

/-! ## Words of every encoded row, from the opcode table's match and field positions -/

theorem test_decode_add_to_sltc :
    decode 0x02293100 = .ok (.add 5 9 34) ∧
    decode 0x02315181 = .ok (.sub 6 10 35) ∧
    decode 0x02397202 = .ok (.and 7 11 36) ∧
    decode 0x02419283 = .ok (.or 8 12 37) ∧
    decode 0x0249B304 = .ok (.xor 9 13 38) ∧
    decode 0x0251D385 = .ok (.andn 10 14 39) ∧
    decode 0x0259F406 = .ok (.shl 11 15 40) ∧
    decode 0x02621487 = .ok (.shr 12 16 41) ∧
    decode 0x02293108 = .ok (.sar 5 9 34) ∧
    decode 0x02315189 = .ok (.ror 6 10 35) ∧
    decode 0x0239720A = .ok (.slt 7 11 36) ∧
    decode 0x0241928B = .ok (.sltc 8 12 37) := by decide

theorem test_decode_min_to_remc :
    decode 0x0249B30C = .ok (.min 9 13 38) ∧
    decode 0x0251D38D = .ok (.max 10 14 39) ∧
    decode 0x0259F40E = .ok (.minc 11 15 40) ∧
    decode 0x0262148F = .ok (.maxc 12 16 41) ∧
    decode 0x02293110 = .ok (.mul 5 9 34) ∧
    decode 0x02315191 = .ok (.mulh 6 10 35) ∧
    decode 0x02397212 = .ok (.mulhc 7 11 36) ∧
    decode 0x02419293 = .ok (.mulhsc 8 12 37) ∧
    decode 0x0249B314 = .ok (.div 9 13 38) ∧
    decode 0x0251D395 = .ok (.divc 10 14 39) ∧
    decode 0x0259F416 = .ok (.rem 11 15 40) ∧
    decode 0x02621497 = .ok (.remc 12 16 41) := by decide

theorem test_decode_addi_to_bext :
    decode 0x04293CE1 = .ok (.addi 5 9 0x1ce1) ∧
    decode 0x06315CE8 = .ok (.andi 6 10 0x1ce8) ∧
    decode 0x08397CEF = .ok (.ori 7 11 0x1cef) ∧
    decode 0x0A419CF6 = .ok (.xori 8 12 0x1cf6) ∧
    decode 0x0C49A03D = .ok (.shli 9 13 61) ∧
    decode 0x0C51C044 = .ok (.shri 10 14 4) ∧
    decode 0x0C59E08B = .ok (.sari 11 15 11) ∧
    decode 0x0C6200D2 = .ok (.rori 12 16 18) ∧
    decode 0x0E293D19 = .ok (.slti 5 9 0x1d19) ∧
    decode 0x10315D20 = .ok (.sltci 6 10 0x1d20) ∧
    decode 0x12397D27 = .ok (.muli 7 11 0x1d27) ∧
    decode 0x14418393 = .ok (.bext 8 12 14 19) := by decide

theorem test_decode_bexts_to_sexth :
    decode 0x1449AD5A = .ok (.bexts 9 13 21 26) ∧
    decode 0x1451D721 = .ok (.bins 10 14 28 33) ∧
    decode 0x1659F400 = .ok (.lea 11 15 40 0) ∧
    decode 0x18620D4A = .ok (.laddr 12 16 0xd4a) ∧
    decode 0x182817AC = .ok (.laddrLen 5 0x7ac) ∧
    decode 0x1A314000 = .ok (.clz 6 10) ∧
    decode 0x1A396001 = .ok (.ctz 7 11) ∧
    decode 0x1A418002 = .ok (.popc 8 12) ∧
    decode 0x1A49A003 = .ok (.brev 9 13) ∧
    decode 0x1A51C004 = .ok (.bswap 10 14) ∧
    decode 0x1A59E005 = .ok (.sextb 11 15) ∧
    decode 0x1A620006 = .ok (.sexth 12 16) := by decide

theorem test_decode_sextw_to_j :
    decode 0x1A292007 = .ok (.sextw 5 9) ∧
    decode 0x1A314008 = .ok (.zexth 6 10) ∧
    decode 0x1A396009 = .ok (.zextw 7 11) ∧
    decode 0x1C419283 = .ok (.sel 8 12 37 3) ∧
    decode 0x1C49B34A = .ok (.selz 9 13 38 10) ∧
    decode 0x2074FDAC = .ok (.beq 14 39 0x1dac) ∧
    decode 0x227D1DB3 = .ok (.bne 15 40 0x1db3) ∧
    decode 0x24853DBA = .ok (.blt 16 41 0x1dba) ∧
    decode 0x264C5DC1 = .ok (.bge 9 34 0x1dc1) ∧
    decode 0x28547DC8 = .ok (.bltc 10 35 0x1dc8) ∧
    decode 0x2A5C9DCF = .ok (.bgec 11 36 0x1dcf) ∧
    decode 0x2C40F28C = .ok (.j 0x40f28c) := by decide

theorem test_decode_jal_to_st :
    decode 0x2E40F293 = .ok (.jal 0x40f293) ∧
    decode 0x3051DDE4 = .ok (.jalr 10 14 0x1de4) ∧
    decode 0x3001F846 = .ok (.jr 15 0x1846) ∧
    decode 0x320210C8 = .ok (.loop 16 2 200) ∧
    decode 0x357810E6 = .ok (.repv 47 4 1 6 3) ∧
    decode 0x36300000 = .ok (.follow 6) ∧
    decode 0x36000001 = .ok .unfollow ∧
    decode 0x36400002 = .ok (.gang 8) ∧
    decode 0x36000003 = .ok .disband ∧
    decode 0x380012D2 = .ok (.brk 0x12d2) ∧
    decode 0x4059F56D = .ok (.ld 11 15 .w true 0x16d) ∧
    decode 0x43621BCF = .ok (.st 44 16 .d 0x3cf) := by decide

theorem test_decode_ldv_to_cleanP :
    decode 0x44292231 = .ok (.ldv 5 9 0x231) ∧
    decode 0x47314238 = .ok (.stv 38 10 0x238) ∧
    decode 0x48396D89 = .ok (.ldvol 7 11 .h true 0x189) ∧
    decode 0x4B4183EB = .ok (.stvol 40 12 .b 0x3eb) ∧
    decode 0x4C49B37A = .ok (.gath 9 13 38 7 .i16) ∧
    decode 0x4E51D38C = .ok (.scat 10 14 39 0 .i32) ∧
    decode 0x5001E000 = .ok (.pref 15) ∧
    decode 0x50020010 = .ok (.prefX 16) ∧
    decode 0x50012020 = .ok (.prefL2 9) ∧
    decode 0x50315181 = .ok (.bpref 6 10 35) ∧
    decode 0x50016002 = .ok (.clean 11) ∧
    decode 0x5001800A = .ok (.cleanP 12) := by decide

theorem test_decode_cinv_to_atmaxc :
    decode 0x5001A003 = .ok (.cinv 13) ∧
    decode 0x5251C020 = .ok (.ldAcq 10 14 false) ∧
    decode 0x5201F451 = .ok (.stRel 15 40 true) ∧
    decode 0x526214E2 = .ok (.atswap 12 16 41 .acqrel false) ∧
    decode 0x52293113 = .ok (.atadd 5 9 34 .plain true) ∧
    decode 0x523151A4 = .ok (.atand 6 10 35 .acq false) ∧
    decode 0x52397255 = .ok (.ator 7 11 36 .rel true) ∧
    decode 0x524192E6 = .ok (.atxor 8 12 37 .acqrel false) ∧
    decode 0x5249B317 = .ok (.atmin 9 13 38 .plain true) ∧
    decode 0x5251D3A8 = .ok (.atmax 10 14 39 .acq false) ∧
    decode 0x5259F459 = .ok (.atminc 11 15 40 .rel true) ∧
    decode 0x526214EA = .ok (.atmaxc 12 16 41 .acqrel false) := by decide

theorem test_decode_cas_to_xtpl :
    decode 0x54293110 = .ok (.cas 5 9 34 .plain true) ∧
    decode 0x60000001 = .ok (.fence .cluster) ∧
    decode 0x6000000C = .ok (.fenceSc .system) ∧
    decode 0x60419290 = .ok (.mwait 8 12 37) ∧
    decode 0x62480004 = .ok (.bar 9 0 true) ∧
    decode 0x6401D380 = .ok (.send 14 39) ∧
    decode 0x6401F401 = .ok (.sendv 15 40) ∧
    decode 0x64020002 = .ok (.sendEos 16) ∧
    decode 0x64293103 = .ok (.stbind 5 9 34) ∧
    decode 0x64315184 = .ok (.stdrop 6 10 35) ∧
    decode 0x64397205 = .ok (.waiteos 7 11 36) ∧
    decode 0x66419280 = .ok (.xtpl 8 12 37) := by decide

theorem test_decode_swinit_to_wldT :
    decode 0x6649B301 = .ok (.swinit 9 13 38) ∧
    decode 0x6651D382 = .ok (.swait 10 14 39) ∧
    decode 0x6601F403 = .ok (.fesetE 15 40) ∧
    decode 0x66021493 = .ok (.fesetF 16 41) ∧
    decode 0x68293100 = .ok (.wreg 5 9 34) ∧
    decode 0x69315181 = .ok (.wst 19 10 35) ∧
    decode 0x68397202 = .ok (.whzn 7 11 36) ∧
    decode 0x68419283 = .ok (.wretain 8 12 37) ∧
    decode 0x6801A004 = .ok (.wseed 13) ∧
    decode 0x6851C005 = .ok (.wstat 10 14) ∧
    decode 0x6B51F455 = .ok (.wld 21 15 40 85) ∧
    decode 0x6B5A14D5 = .ok (.wldT 21 16 41 85) := by decide

theorem test_decode_patrec_to_vfnma :
    decode 0x6C292000 = .ok (.patrec 5 9) ∧
    decode 0x6C314001 = .ok (.patplay 6 10) ∧
    decode 0x6C396002 = .ok (.patoff 7 11) ∧
    decode 0x6C418003 = .ok (.patstat 8 12) ∧
    decode 0x6C49A004 = .ok (.patdrop 9 13) ∧
    decode 0x6E51C486 = .ok (.quant 10 14 false 9 0 .bf16) ∧
    decode 0x7059F814 = .ok (.dquant 11 15 true 16 1 .f16) ∧
    decode 0x806214A0 = .ok (.vadd 12 16 41 2 .f32 false) ∧
    decode 0x82293133 = .ok (.vsub 5 9 34 3 .f64 true) ∧
    decode 0x843151C4 = .ok (.vmul 6 10 35 4 .f16 false) ∧
    decode 0x86397257 = .ok (.vfma 7 11 36 5 .bf16 true) ∧
    decode 0x884192E8 = .ok (.vfnma 8 12 37 6 .i8 false) := by decide

theorem test_decode_vdiv_to_vlog2 :
    decode 0x8A49B371 = .ok (.vdiv 9 13 38 7 .f32 true) ∧
    decode 0x8C51D38C = .ok (.vmin 10 14 39 0 .i32 false) ∧
    decode 0x8E59F41F = .ok (.vmax 11 15 40 1 .i64 true) ∧
    decode 0x906214A6 = .ok (.vcpys 12 16 41 2 .bf16 false) ∧
    decode 0x92292033 = .ok (.vabs 5 9 3 .f64 true) ∧
    decode 0x923140C4 = .ok (.vneg 6 10 4 .f16 false) ∧
    decode 0x92396157 = .ok (.vnot 7 11 5 .bf16 true) ∧
    decode 0x924181E6 = .ok (.vsqrt 8 12 6 .bf16 false) ∧
    decode 0x9249A271 = .ok (.vrcp 9 13 7 .f32 true) ∧
    decode 0x9251C280 = .ok (.vrsq 10 14 0 .f32 false) ∧
    decode 0x9259E315 = .ok (.vexp2 11 15 1 .f16 true) ∧
    decode 0x926203A6 = .ok (.vlog2 12 16 2 .bf16 false) := by decide

theorem test_decode_vsinpi_to_vcvt :
    decode 0x92292431 = .ok (.vsinpi 5 9 3 .f32 true) ∧
    decode 0x923144C4 = .ok (.vcospi 6 10 4 .f16 false) ∧
    decode 0x92396557 = .ok (.vtanh 7 11 5 .bf16 true) ∧
    decode 0x944192E8 = .ok (.vand 8 12 37 6 .i8 false) ∧
    decode 0x9649B37B = .ok (.vor 9 13 38 7 .i16 true) ∧
    decode 0x9851D38C = .ok (.vxor 10 14 39 0 .i32 false) ∧
    decode 0x9A59F41D = .ok (.vshl 11 15 40 1 .i32 true) ∧
    decode 0x9C6214AE = .ok (.vshr 12 16 41 2 .i64 false) ∧
    decode 0x9E293139 = .ok (.vsar 5 9 34 3 .i8 true) ∧
    decode 0xA12951CC = .ok (.vcmp .ltc 5 10 35 4 .i32 false) ∧
    decode 0xA2397257 = .ok (.vsel 7 11 36 5 .bf16 true) ∧
    decode 0xA4418864 = .ok (.vcvt 8 12 1 false .f32 6 .f16 false) := by decide

theorem test_decode_vbcast_to_vdot :
    decode 0xA649A07B = .ok (.vbcast 9 13 7 .i16 true) ∧
    decode 0xA851D38C = .ok (.vins 10 14 39 0 .i32) ∧
    decode 0xAA59F41A = .ok (.vext 11 15 40 true .i16) ∧
    decode 0xAC6214A0 = .ok (.vperm 12 16 41 2 .f32 false) ∧
    decode 0xAE293133 = .ok (.vslide 5 9 34 3 .f64 true) ∧
    decode 0xB03141CC = .ok (.vred 6 10 .minc 4 .i32 false) ∧
    decode 0xB23963DD = .ok (.vscan 7 11 .xor 5 .i32 true) ∧
    decode 0xB44192E8 = .ok (.vcxs 8 12 37 6 .i8 false) ∧
    decode 0xB649A07B = .ok (.vcompr 9 13 7 .i16 true) ∧
    decode 0xB851C00C = .ok (.vexpnd 10 14 0 .i32 false) ∧
    decode 0xBA59B41E = .ok (.vlut 11 13 40 1 .i64) ∧
    decode 0xBC6214A8 = .ok (.vdot 12 16 41 2 .i8 false) := by decide

theorem test_decode_pset_to_mma :
    decode 0xBE292000 = .ok (.pset 5 9) ∧
    decode 0xBE28C181 = .ok (.pand 5 6 3) ∧
    decode 0xBE28C182 = .ok (.por 5 6 3) ∧
    decode 0xBE28C183 = .ok (.pxor 5 6 3) ∧
    decode 0xBE28C004 = .ok (.pnot 5 6) ∧
    decode 0xBE50C005 = .ok (.pcnt 10 6) ∧
    decode 0xBE58C006 = .ok (.pfirst 11 6) ∧
    decode 0xD0620000 = .ok (.zclr 1 8 true) ∧
    decode 0xD0A64C41 = .ok (.zld 2 9 true 9 34) ∧
    decode 0xD0EA5462 = .ok (.zst 3 10 true 10 35) ∧
    decode 0xD12E5803 = .ok (.zver 4 11 true 11) ∧
    decode 0xD37264A4 = .ok (.mma 5 12 true 12 37 false .q4) := by decide

theorem test_decode_sclacc_to_crd :
    decode 0xD5B61CC1 = .ok (.sclacc 6 13 true 3 38 true) ∧
    decode 0xD7FA74EB = .ok (.outlacc 7 14 true 14 39 11) ∧
    decode 0xD859F400 = .ok (.mcmd 11 15 40) ∧
    decode 0xD8621481 = .ok (.mcmdT 12 16 41) ∧
    decode 0xDA293100 = .ok (.capgrant 5 9 34) ∧
    decode 0xDA001181 = .ok (.capdrop 35) ∧
    decode 0xDD0E0000 = .ok (.zwaitv 4 3) ∧
    decode 0xE0018000 = .ok (.trap 12) ∧
    decode 0xE0000001 = .ok .tret ∧
    decode 0xE001C002 = .ok (.idle 14) ∧
    decode 0xE0000003 = .ok .done ∧
    decode 0xE2600068 = .ok (.crd 12 104) := by decide

theorem test_decode_cwr_to_stvmap :
    decode 0xE4012010 = .ok (.cwr 9 16) ∧
    decode 0xE6315180 = .ok (.tlbinv 6 10 35) ∧
    decode 0xE8397200 = .ok (.ctxsw 7 11 36) ∧
    decode 0xEA419280 = .ok (.freplay 8 12 37) ∧
    decode 0xEA49B301 = .ok (.fkill 9 13 38) ∧
    decode 0xEA51C002 = .ok (.fqack 10 14) ∧
    decode 0xEC580000 = .ok (.cpair 11) ∧
    decode 0xEC600001 = .ok (.unpair 12) ∧
    decode 0xEE292000 = .ok (.launch 5 9) ∧
    decode 0xEE315181 = .ok (.stvgrow 6 10 35) ∧
    decode 0xEE397202 = .ok (.stvshrink 7 11 36) ∧
    decode 0xEE419283 = .ok (.stvmap 8 12 37) := by decide

theorem test_decode_rhashBegin_to_hintSched :
    decode 0xEE49B304 = .ok (.rhashBegin 9 13 38) ∧
    decode 0xEE51C005 = .ok (.rhashCommit 10 14) ∧
    decode 0xEE59F406 = .ok (.migrate 11 15 40) ∧
    decode 0xEE621487 = .ok (.quar 12 16 41) ∧
    decode 0xFC00F69F = .ok (.hintWide 0xf69f) ∧
    decode 0xFC40000B = .ok (.hintMempol 2 3) ∧
    decode 0xFC800002 = .ok (.hintRound .rup) ∧
    decode 0xFCC00009 = .ok (.hintSched false 9) := by decide

/-- Words that name nothing, or whose reserved fields are not zero (R17, R31, R35, R38). -/
theorem test_words_refused :
    ([0x00000000, 0xFFFFFFFF, 0x02000018, 0x1A000080, 0xFC40000C, 0x1E000000] : List Word).all
      (fun w => !(decode w).toBool) = true := by decide

/-! ## Single steps. Each expected value is the manual's own example or computed by hand from its rule. -/

/-- R166: div of -7 by 2 is -3, rem -1; divc of the same bits by 2 is 0x7FFFFFFFFFFFFFFC, remc 1. -/
theorem test_division :
    let s := withG base (-7) 2 0
    (after (exec (.div 3 1 2) s) (fun t => t.g 3 == -3) && after (exec (.rem 3 1 2) s) (fun t => t.g 3 == -1) &&
      after (exec (.divc 3 1 2) s) (fun t => t.g 3 == 0x7FFFFFFFFFFFFFFC) &&
      after (exec (.remc 3 1 2) s) (fun t => t.g 3 == 1)) = true := by decide

/-- R166: by zero the quotient is all ones and the remainder the dividend; -2^63 by -1 gives -2^63 and 0. -/
theorem test_division_corners :
    let s := withG base (-7) 0 0
    let m := withG base 0x8000000000000000 (-1) 5
    (after (exec (.div 3 1 2) s) (fun t => t.g 3 == -1) && after (exec (.remc 3 1 2) s) (fun t => t.g 3 == -7) &&
      after (exec (.div 3 1 2) m) (fun t => t.g 3 == 0x8000000000000000) && after (exec (.rem 3 1 2) m) (fun t => t.g 3 == 0)) =
      true := by decide

theorem test_alu_wraps :
    let s := withG base (-1) 65 0x8000000000000000
    (after (exec (.add 4 1 1) s) (fun t => t.g 4 == -2) && after (exec (.shl 4 1 2) s) (fun t => t.g 4 == -2) &&
      after (exec (.sar 4 3 2) s) (fun t => t.g 4 == 0xC000000000000000) && after (exec (.slt 4 3 1) s) (fun t => t.g 4 == 1) &&
      after (exec (.sltc 4 1 3) s) (fun t => t.g 4 == 0) && after (exec (.mulhc 4 1 1) s) (fun t => t.g 4 == -2) &&
      after (exec (.mulh 4 1 1) s) (fun t => t.g 4 == 0) && after (exec (.mulhsc 4 1 1) s) (fun t => t.g 4 == -1)) = true := by decide

theorem test_writes_to_g0_are_discarded :
    after (exec (.add 0 1 2) (withG base 1 2 3)) (fun t => t.g 0 == 0 && t.me.pc == 0x1004) = true := by decide

/-- R30: an immediate under HINT.WIDE is 35 bits, sign-extended. -/
theorem test_wide_immediate :
    let s := { base with me := { base.me with hints := { Hints.none with wide := some 0x3FFFFF, start := some 0x0FFC, words := [0xFC3FFFFF] } } }
    (after (exec (.addi 1 0 0x1FFE) s) (fun t => t.g 1 == -2 && t.me.hints == Hints.none && t.me.ctl.retired == 2)) = true := by decide

theorem test_bit_fields :
    let s := withG base 0x123456789ABCDEF0 0 0
    (after (exec (.bext 3 1 8 4) s) (fun t => t.g 3 == 0xEF) && after (exec (.bexts 3 1 8 4) s) (fun t => t.g 3 == -0x11) &&
      after (exec (.bins 1 2 8 4) s) (fun t => t.g 1 == 0x123456789ABCD000) && after (exec (.bswap 3 1) s) (fun t => t.g 3 == 0xF0DEBC9A78563412) &&
      after (exec (.clz 3 1) s) (fun t => t.g 3 == 3) && after (exec (.ctz 3 1) s) (fun t => t.g 3 == 4)) = true := by decide

/-- R175: sel takes g[a] when g[C] is not zero, selz when it is. -/
theorem test_select :
    let s := withG base 10 20 0
    (after (exec (.sel 4 1 2 3) s) (fun t => t.g 4 == 20) && after (exec (.selz 4 1 2 3) s) (fun t => t.g 4 == 10)) = true := by decide

/-- R176: 0x22201FFF is bne g4, g0 to the word before; R178: jalr g5, g5 jumps to the old g5. -/
theorem test_transfers :
    (after (exec (.bne 4 0 0x1FFF) (base.setG 4 1)) (fun t => t.me.pc == 0xFFC) &&
      after (exec (.bne 4 0 0x1FFF) base) (fun t => t.me.pc == 0x1004) &&
      after (exec (.jalr 5 5 0) (base.setG 5 0x2000)) (fun t => t.me.pc == 0x2000 && t.g 5 == 0x1004) &&
      after (exec (.jr 5 2) (base.setG 5 0x2000)) (fun t => t.me.ctl.tcause == 3 && t.me.ctl.tval == 0x2002) &&
      after (exec (.jal 0x100) base) (fun t => t.me.pc == 0x1400 && t.g 63 == 0x1004)) = true := by decide

/-- R138, R139: a body of one word is run g[a] times. -/
theorem test_loop :
    (after (exec (.loop 1 0 1) (base.setG 1 2)) (fun t => t.me.pc == 0x1004 && t.me.lc 0 == 2 &&
        after (exec (.add 2 0 0) t) (fun u => u.me.pc == 0x1004 && u.me.lc 0 == 1 &&
          after (exec (.add 2 0 0) u) (fun v => v.me.pc == 0x1008 && !v.me.loopAct 0))) &&
      after (exec (.loop 1 0 1) base) (fun t => t.me.pc == 0x1008 && !t.me.loopAct 0)) = true := by decide

/-- R389, R408: TRAP saves the next pc and enters the handler in stave mode; TRET goes back. -/
theorem test_trap_and_return :
    after (exec (.trap 1) (user.setG 1 77)) (fun t =>
      t.me.pc == 0x4000 && t.me.ctl.tpc == 0x1004 && t.me.ctl.tcause == 8 && t.me.ctl.tval == 77 && t.me.ctl.mode == .stave &&
        after (exec .tret t) (fun u => u.me.pc == 0x1004 && u.me.ctl.mode == .user)) = true := by decide

/-- R36, R158: a stave instruction in user mode traps PRIV; BRK's TVAL is its own address + 1. -/
theorem test_priv_and_brk :
    (after (exec .tret user) (fun t => t.me.ctl.tcause == 2 && t.me.ctl.tpc == 0x1000) &&
      after (exec (.brk 5) user) (fun t => t.me.ctl.tcause == 7 && t.me.ctl.tval == 0x1001 && t.me.ctl.tpc == 0x1004)) = true := by decide

/-- R283, R6: a load of a stored word, low byte first, sign-extended; R281: misalignment first. -/
theorem test_load_store :
    let s := withG base (own 0x100) 0x1122334455667788 0
    (after (exec (.st 2 1 .d 0) s) (fun t =>
        after (exec (.ld 3 1 .b true 0) t) (fun u => u.g 3 == -0x78) && after (exec (.ld 3 1 .h false 3) t) (fun u => u.g 3 == 0x1122)) &&
      after (exec (.ld 3 1 .h false 0) (s.setG 1 (own 0x101))) (fun t => t.me.ctl.tcause == 3) &&
      after (exec (.ld 3 1 .b false 0) (s.setG 1 0x8000000000000000)) (fun t => t.me.ctl.tcause == 4)) = true := by decide

/-- R289: an addition at four bytes wraps there, and returns the old value. -/
theorem test_atomics :
    let s := filled (withG base (own 0x40) 2 9) 0x40 8 0x5FFFFFFFF
    (after (exec (.atadd 4 1 2 .plain false) s) (fun t => t.g 4 == 0xFFFFFFFF && t.me.loc.bytes.readN 0x40 8 == 0x500000001) &&
      after (exec (.cas 3 1 2 .plain true) s) (fun t => t.g 3 == 0x5FFFFFFFF && t.me.loc.bytes.readN 0x40 8 == 0x5FFFFFFFF)) = true := by decide

/-- R226: the manual's step of a sort. -/
theorem test_vcxs :
    let s := (((base.setV 8 (lanes 64 [5, 1, 7, 3, 2, 8, 6, 4])).setV 9 (lanes 64 [0, 1, 2, 3, 4, 5, 6, 7])).setG 4 1).setG 5 2
    after (exec (.vcxs 8 4 5 0 .i64 false) s) (fun t =>
      t.v 8 == lanes 64 [1, 5, 7, 3, 2, 8, 6, 4] && t.v 9 == lanes 64 [1, 0, 2, 3, 4, 5, 6, 7]) = true := by decide +kernel

theorem test_vector_integers :
    let s := withV base (lanes 32 [0xFFFFFFFF, 5, 3]) (lanes 32 [1, 7, 3])
    let s := s.setP 1 3
    (after (exec (.vadd 3 1 2 1 .i32 false) (s.setV 3 (lanes 32 [9, 9, 9]))) (fun t => t.v 3 == lanes 32 [0, 12, 9]) &&
      after (exec (.vcmp .ltc 2 1 2 0 .i32 false) s) (fun t => t.p 2 == 2) &&
      after (exec (.vred 3 1 .add 1 .i32 false) s) (fun t => t.v 3 == lanes 32 [4])) = true := by decide +kernel

/-- 1.5 + 2.25 is 3.75 in f32; 1 / 0 raises divide by zero, which is bit 1 of the flags (Table 3 of 08). -/
theorem test_vector_floats :
    let s := (withV base (lanes 32 [0x3FC00000, 0x3F800000]) (lanes 32 [0x40100000, 0])).setP 1 1
    (after (exec (.vadd 3 1 2 1 .f32 false) s) (fun t => t.v 3 == lanes 32 [0x40700000]) &&
      after (exec (.vdiv 3 1 2 2 .f32 false) (s.setP 2 2)) (fun t => t.v 3 == lanes 32 [0, 0x7F800000] && t.me.ctl.fpctl == 0x20)) =
      true := by decide +kernel

theorem test_predicates :
    (after (exec (.pset 1 1) (base.setG 1 0xF0)) (fun t => t.p 1 == 0xF0 && after (exec (.pcnt 2 1) t) (fun u => u.g 2 == 4) &&
        after (exec (.pfirst 2 1) t) (fun u => u.g 2 == 4)) &&
      after (exec (.pcnt 2 0) base) (fun t => t.g 2 == 64) && after (exec (.pset 0 1) base) (fun t => t.p 0 == -1)) = true := by decide

/-- R390: ie is bit 2 of MODE; R407: a read-only register keeps its value. -/
theorem test_control_registers :
    (after (exec (.cwr 1 0x05) (base.setG 1 4)) (fun t => t.me.ctl.ie && t.me.ctl.mode == .shop) &&
      after (exec (.crd 2 0x00) base) (fun t => t.g 2 == 0) &&
      after (exec (.cwr 1 0x10) (base.setG 1 0x1237)) (fun t => t.me.ctl.tvec == 0x1234)) = true := by decide


/-! ## Witnesses: for each statement with hypotheses, states and operands that meet them, clause by clause. Where the outcome is
cheap to look at, the theorem looks at it too. -/

/-- A state whose HINT chain holds one HINT.WIDE. -/
def wideOpen (s : State) (hi : BitVec 22) : State :=
  { s with me := { s.me with hints := { Hints.none with wide := some hi, start := some (s.me.pc - 4), words := [encode (.hintWide hi)] } } }

/-- Loop n is active: a body of len words whose first is at the address, with a count. -/
def looping (s : State) (n : Nat) (start : W64) (len : Nat) (count : W64) : State :=
  let c := s.me.setLc n count
  { s with me := { c with ctl := { c.ctl with
    lbody := c.ctl.lbody.setIfInBounds n start
    llen := withField c.ctl.llen (10 * n) 10 (512 + len) } } }

/-- base with a word of code at its pc. -/
def running (w : Nat) : State := base.withFetchWord 32 w

theorem wit_StepKeepsMemoryCanonical :
    (Memory.wf (running 0x04080003).dev.mem && after (step (running 0x04080003)) (fun t => t.g 1 == 3)) = true := by decide +kernel

/-- The two cases: an instruction that answers, and a core that has stopped. -/
theorem wit_EveryInstructionAnswers :
    (after (exec (.add 0 0 0) base) (fun t => t.me.pc == 0x1004)) = true ∧
      exec (.add 0 0 0) { base with me := { base.me with stopped := true } } = .fault .coreStopped ∧
      exec (.illegalWord 0) { base with me := { base.me with stopped := true } } = .fault .coreStopped :=
  ⟨by decide, rfl, rfl⟩

/-- Every hypothesis of the first clause holds of `s`: its word is addi g1, g0, 3. -/
def fetches (s : State) : Bool :=
  !s.toLeader.me.interruptDue && s.toLeader.sigPending == none &&
    yields s.toLeader.fetchNext (fun x => !x.2.lagging (handedBy x.2 x.1) && x.1 == 0x04080003 && decide (decode x.1 = .ok (.addi 1 0 3)) &&
      yields x.2.brkAddrs (fun y => y.2.team.all fun k => (y.2.brkAt y.1 k).1 == none))

theorem wit_StepRunsTheDecodedInstruction :
    let s := running 0x04080003
    (fetches s && !s.dev.shutdown && s.agenda == [] && s.canRun s.here && s.me.wait == none &&
      after (step s) (fun t => t.g 1 == 3)) = true := by decide +kernel

theorem wit_StepRunsTheDecodedInstruction_agenda :
    let s := running 0x04080003
    let s' : State := { s with agenda := [.core 0] }
    let e : State := { s with agenda := [.event .bandwidthWindow] }
    (fetches (({ s' with agenda := [] } : State).focus 0) && s'.canRun 0 && !s'.dev.shutdown &&
      after (step s') (fun t => t.g 1 == 3 && t.agenda == []) && after (step e) (fun t => t.agenda == [] && t.me.pc == 0x1000)) =
      true := by decide +kernel

/-- A core steps part-way; and a TRAP that ends a block whose checker has met a mismatch retires without its trap, where it traps otherwise. -/
theorem wit_StepRunsTheDecodedInstruction_part :
    let s := running 0x04080003
    let s' : State := { s with agenda := [.part 0 1] }
    let w := encode (.trap 1)
    let o := onNext (fun x => base.afterWord x w (.trap 1)) (issue (.trap 1) State.ok base)
    let p : State := { base with me := { base.me with sigPend := some 0x1000 } }
    let q := onNext (fun x => p.afterWord x w (.trap 1)) (issue (.trap 1) State.ok p)
    (!s'.dev.shutdown && !s.me.stopped && s.canRun 0 && after (step s') (fun t => t.g 1 == 3 && t.me.quota == none) &&
      trapsAfter (.trap 1) && !mismatched base.team o && after (base.issueWord w) (fun t => t.me.ctl.tcause == 8) &&
      mismatched p.team q && after (p.issueWord w) (fun t => t.me.ctl.tcause == 0 && t.me.pc == 0x1004)) = true := by decide +kernel

theorem wit_NothingFollowsALoneWord :
    base.me.bond = .none ∧ base.me.trail = [] ∧ base.me.handed = false ∧ ((base.cores.all fun k => !(base.coreAt k).sigActive) = true) ∧
      base.afterWord base 0x04080003 (.addi 1 0 3) = base := by
  refine ⟨rfl, rfl, rfl, by decide +kernel, by decide +kernel⟩

theorem wit_DecodingUndoesEncoding :
    let i := Instr.vadd 55 63 63 7 .f64 true
    i.wf = true ∧ i.hasWord = true ∧ decode (encode i) = .ok i := by decide

theorem wit_DecodedWordsAreEncodings : decode 0xFC3FFFFF = .ok (.hintWide 0x3FFFFF) ∧ encode (.hintWide 0x3FFFFF) = 0xFC3FFFFF := by decide

theorem wit_AluResults :
    let s := withG base 7 0 0
    (clearB (.div 3 1 2) s && aluRule s (.div 3 1 2) == some (3, -1) && clearB (.add 0 1 1) s && aluRule s (.add 0 1 1) == some (0, 14) &&
      after (exec (.add 0 1 1) s) (fun t => t.g 0 == 0)) = true := by decide +kernel

theorem wit_ImmediateAndUnaryResults :
    let s := withG base 7 0 0
    let w := wideOpen s 0x3FFFFF
    (clearB (.addi 3 1 0x1000) s && immediateRule s (.addi 3 1 0x1000) == some (3, -4089) &&
      clearB (.addi 3 1 0x1FFF) w && immediateRule w (.addi 3 1 0x1FFF) == some (3, 6) &&
      clearB (.bexts 3 1 3 0) s && immediateRule s (.bexts 3 1 3 0) == some (3, -1) &&
      clearB (.clz 3 2) s && unaryRule s (.clz 3 2) == some (3, 64) && clearB (.sel 3 1 2 2) s && unaryRule s (.sel 3 1 2 2) == some (3, 0)) =
      true := by decide +kernel

theorem wit_BranchesDecideByTheirCondition :
    let s := withG base 7 (-1) 0
    (clearB (.blt 2 1 0x1FFF) s && branchRule s (.blt 2 1 0x1FFF) == some (true, 0x1FFF) && clearB (.bltc 2 1 1) s &&
      branchRule s (.bltc 2 1 1) == some (false, 1) && clearB (.beq 1 1 1) (wideOpen s 0)) = true := by decide +kernel

theorem wit_JumpsGoToTheirTargets :
    let s := withG base 0x2000 0x2002 0
    (clearB (.j 0x1FFFFFF) s && clearB (.jal 1) (wideOpen s 1) && clearB (.jalr 3 1 4) s && (s.g 1 + BitVec.ofInt 64 (immRule s 4)).toNat % 4 == 0 &&
      clearB (.jr 1 4) s && clearB (.jalr 3 2 4) s && (s.g 2 + BitVec.ofInt 64 (immRule s 4)).toNat % 4 != 0 && clearB (.jr 2 0) s) =
      true := by decide +kernel

theorem wit_PoolRecordsAreRead :
    let s := filled base 0x110 8 0x5000
    let s := filled s 0x118 4 24
    let s := withG { s with me := { s.me with ctl := { s.me.ctl with poolbase := own 0x100 } } } 8 0 0
    (clearB (.laddr 2 1 1) s && yields (s.noPol.load (own 0x110) 8) (fun x => x.1 == 0x5000) && clearB (.laddrLen 2 1) s &&
      yields (s.noPol.load (own 0x118) 4) (fun x => x.1 == 24) && after (exec (.laddr 2 1 1) s) (fun t => t.g 2 == 0x5008) &&
      after (exec (.laddrLen 2 1) s) (fun t => t.g 2 == 24)) = true := by decide +kernel

theorem wit_RegisterInstructionsLeaveTheRest :
    let s := withG base 7 9 0
    (clearB (.add 3 1 2) s && aluRule s (.add 3 1 2) == some (3, 16) && after (exec (.add 3 1 2) s) (fun t => t.g 1 == 7) &&
      clearB (.pcnt 3 0) s && after (exec (.pcnt 3 0) s) (fun t => t.g 2 == 9)) = true := by decide +kernel

/-- Each clause: an open WIDE, the last word of a body, the mode; and a word that is no instruction, among the HINTs too. -/
theorem wit_EarlierChecksTrap :
    let w := wideOpen base 0
    let l := looping base 0 0x0FFC 2 1
    (acceptsWide (.add 1 2 3) == false && isHintInstr (.add 1 2 3) == false && w.me.hints.wide.isSome &&
      after (exec (.add 1 2 3) w) (fun t => t.me.ctl.tcause == 1 && t.me.ctl.tval == zext (encode (.add 1 2 3)) && t.me.ctl.tpc == 0x0FFC) &&
      isTransfer (.j 0) && l.me.endsBody l.me.pc && after (exec (.j 0) l) (fun t => t.me.ctl.tcause == 1) &&
      isTransfer .tret == false && user.me.may (user.needs .tret) == false && after (exec .tret user) (fun t => t.me.ctl.tcause == 2) &&
      fOp 0x00000000 != 0x7E && after (exec (.illegalWord 0) user) (fun t => t.me.ctl.tcause == 1 && t.me.ctl.tval == 0) &&
      fOp 0xFC40000C == 0x7E && after (exec (.illegalWord 0xFC40000C) w) (fun t => t.me.ctl.tpc == 0x1000 && t.me.hints == .none) &&
      !(decode 0).toBool && after (base.issueWord 0) (fun t => t.me.ctl.tcause == 1)) = true := by decide +kernel

/-- A job of one stage of w cores, with given streams. -/
def oneStage (w : Nat) (streams : List (BitVec 256)) : Job :=
  newJob 0 0 Core.reset ⟨0x10000, 0, 0, false, 0, 0, [BitVec.ofNat 512 (2 ^ 192 * w + 2 ^ 224 + 4 * 2 ^ 240)], streams⟩ 0

/-- Its instance 0 on the cores 0 to w - 1. -/
def oneInst (w : Nat) : Inst :=
  ⟨0, 0, (List.range w).map (BitVec.ofNat 13), List.range w, false, [], false, 0, false⟩

/-- base with that job in stave 0, its instance placed, the logical numbers equal to the physical ones. -/
def crewed (w : Nat) (streams : List (BitVec 256)) : State :=
  let s := base.onStave 0 fun t => { t with
    jobs := [{ oneStage w streams with insts := [oneInst w] }], map := (List.range w).map fun l => (l, BitVec.ofNat 16 (0x8000 + l)) }
  (List.range w).foldl (fun s k => s.onCore k fun c =>
    { c with live := true, pc := 0x1000, lcore := BitVec.ofNat 13 k, member := some ⟨0, 0, 0, k⟩ }) s

/-- Its cores in a locked gang. -/
def ganged (w : Nat) : State :=
  (List.range w).foldl (fun s k => s.onCore k fun c => { c with bond := .gang, rank := k, crew := List.range w }) (crewed w [])

/-- Another core waits at a join word. -/
def joining (s : State) (k : Nat) (pc : W64) (w : Word) : State :=
  s.onCore k fun c => { c with pc := pc, wait := some (.join w) }

theorem wit_TrapAndBrkTrapAfterRetiring :
    let l := looping (user.setG 1 5) 0 0x1000 1 2
    (clearB (.trap 1) l && clearB (.brk 7) l && after (exec (.trap 1) l) (fun t => t.me.ctl.tpc == 0x1000 && t.me.lc 0 == 1) &&
      after (exec (.brk 7) l) (fun t => t.me.ctl.tval == 0x1001)) = true := by decide +kernel

/-- TRET to user mode, to the present mode at most, to a reserved mode and to a higher one. -/
theorem wit_TretRestores :
    let st (x : W64) : State := { user with me := { user.me with ctl := { user.me.ctl with mode := .stave, tstat := x, tpc := 0x2000 } } }
    (clearB .tret (st 4) && Mode.ofCode ((st 4).me.ctl.tstat.extractLsb' 0 2) == some .user && (st 4).me.may .user &&
      after (exec .tret (st 4)) (fun t => t.me.pc == 0x2000 && t.me.ctl.ie && t.me.ctl.mode == .user) && clearB .tret (st 3) &&
      Mode.ofCode ((st 3).me.ctl.tstat.extractLsb' 0 2) == none && after (exec .tret (st 3)) (fun t => t.me.ctl.tcause == 2) &&
      Mode.ofCode ((st 2).me.ctl.tstat.extractLsb' 0 2) == some .shop && !(st 2).me.may .shop &&
      after (exec .tret (st 2)) (fun t => t.me.ctl.tcause == 2)) = true := by decide +kernel

/-- Two loops that end at one word, the inner with one repetition left; and none. -/
theorem wit_LoopBodiesRepeat :
    let s := looping (looping base 0 0x0FF8 3 2) 1 0x1000 1 1
    (s.me.loopsEnding s.me.pc == [1, 0] && s.me.lc 1 == 1 && (looping base 0 0x0FF8 3 2).me.loopsEnding 0x1000 == [0] &&
      (looping base 0 0x0FF8 3 2).me.lc 0 != 1 && base.me.loopsEnding 0x1000 == [] && (s.me.goOn .seq).pc == 0x0FF8 &&
      (s.me.goOn .seq).lc 0 == 1) = true := by decide +kernel

/-- A loop that is active already, one whose body crosses its holder's end, a count of 0, and a body that is entered. -/
theorem wit_LoopActivatesOrSkips :
    let s := base.setG 1 2
    let a := looping s 0 0x2000 4 1
    let x := looping s 1 0x1000 2 1
    ((Instr.loop 1 0 3).wf && clearB (.loop 1 0 3) a && a.me.loopAct 0 && after (exec (.loop 1 0 3) a) (fun t => t.me.ctl.tcause == 1) &&
      clearB (.loop 1 0 3) x && !x.me.loopAct 0 && x.me.loopAct 1 && x.me.inLoop 1 x.me.pc &&
      decide ((x.me.loopEnd 1).toNat < (x.me.pc + 12).toNat) && after (exec (.loop 1 0 3) x) (fun t => t.me.ctl.tcause == 1) &&
      clearB (.loop 2 0 256) s && s.g 2 == 0 && after (exec (.loop 2 0 256) s) (fun t => t.me.pc == 0x1404) &&
      s.g 1 != 0 && after (exec (.loop 1 0 256) s) (fun t => t.me.lc 0 == 2 && t.me.loopLen 0 == 256)) = true := by decide +kernel

theorem wit_HintsFormAChain :
    let w := wideOpen base 1
    let l := looping base 0 0x1000 1 2
    (clearB (.hintWide 0) base && !base.me.endsBody 0x1000 && base.me.hints.wide == none && clearB (.hintRound .rtz) w &&
      w.me.hints.round == none && after (exec (.hintRound .rtz) w) (fun t => t.me.hints.start == some 0x0FFC && t.me.hints.words.length == 2) &&
      clearB (.hintWide 0) w && w.me.hints.wide.isSome && after (exec (.hintWide 0) w) (fun t => t.me.ctl.tcause == 1 && t.me.ctl.tpc == 0x1000) &&
      clearB (.hintSched true 3) l && l.me.endsBody l.me.pc && after (exec (.hintSched true 3) l) (fun t => t.me.ctl.tcause == 1) &&
      clearB (.hintMempol 1 2) base && base.me.hints.mempol == none) = true := by decide +kernel

/-- Alone; before another member comes; the last to come; with a member elsewhere; and the ends of bonds. -/
theorem wit_JoinsBondAnInstance :
    let s := crewed 2 []
    let w := encode (.gang 5)
    let j := joining s 1 0x1000 w
    let e := joining s 1 0x2000 w
    let lead : State := { s with me := { s.me with bond := .follow, rank := 0, crew := [0, 1] } }
    (clearB (.follow 3) base && (base.mates.filter fun k => k != 0) == [] && after (exec (.follow 3) base) (fun t => t.g 3 == 1) &&
      clearB (.gang 3) s && s.me.bond == .none && (s.mates.filter fun k => k != 0) == [1] &&
      (s.coreAt 1).joinAt == none && after (exec (.gang 3) s) (fun t => t.me.wait == some (.join (encode (.gang 3)))) &&
      (j.coreAt 1).joinAt == some (j.me.pc, w) && joinKind w == joinKind (encode (.gang 3)) &&
      after (exec (.gang 3) j) (fun t => t.me.bond == .gang && t.g 3 == 1 && (t.focus 1).g 5 == 1 && (t.coreAt 1).pc == 0x1004) &&
      (e.coreAt 1).joinAt == some (0x2000, w) && after (exec (.gang 3) e) (fun t => t.g 3 == 0 && (t.focus 1).g 5 == 0 &&
        (t.coreAt 1).pc == 0x2004 && (t.coreAt 1).wait == none) &&
      clearB .disband base && clearB .unfollow base && clearB .unfollow lead && after (exec .unfollow lead) (fun t => t.me.bond == .none)) =
      true := by decide +kernel

/-- DISBAND of a locked gang of two. -/
theorem wit_JoinsBondAnInstance_disband :
    let s := ganged 2
    (!s.me.stopped && s.me.bond == .gang && decide s.me.crew.Nodup && s.me.crew.contains s.here &&
      (s.me.crew.all fun k => (s.coreAt k).bond == .gang && precheck .disband (s.focus k) == none) &&
      after (exec .disband s) (fun t => [0, 1].all fun k => (t.coreAt k).bond == .none && (t.coreAt k).pc == 0x1004)) = true := by
  decide +kernel

theorem wit_GangsIssueInEveryMember :
    let s := ((ganged 2).setG 1 5).onCore 1 fun c => { c with regs := { c.regs with g := c.regs.g.setIfInBounds 1 9 } }
    (!s.me.stopped && s.me.bond == .gang && decide s.me.crew.Nodup && s.me.crew.contains s.here &&
      (s.me.crew.all fun k => precheck (.addi 3 1 1) (s.focus k) == none && (aluRule (s.focus k) (.add 3 1 1)).isSome) &&
      after (exec (.add 3 1 1) s) (fun t => t.g 3 == 10 && (t.focus 1).g 3 == 18 && (t.coreAt 1).pc == 0x1004)) = true := by decide +kernel

/-- Core 1's word traps for its mode, core 0's would not. -/
theorem wit_GangsHaltTogether :
    let s := (ganged 2).onCore 1 fun c => { c with ctl := { c.ctl with mode := .user, tvec := 0x4000 } }
    let chk : Check := precheck .tret
    let body : Body := fun _ s => s.ok
    let rs := crewResults chk body (s.me.crew.map s.coreAt) s.me.crew 0 s
    (!s.me.stopped && s.me.bond == .gang && (rs.any fun r => match r.2 with | .trap _ _ _ => r.1 == 1 | _ => false) &&
      decide (rs.map (·.1)).Nodup && firstTrap rs 0 == some (1, 0x1000) && !crewTrigger rs s && (rs.all fun x => (s.coreAt x.1).bond == .gang) &&
      after (exec .tret s) (fun t => t.me.ctl.tcause == 0x0D && t.me.ctl.tval == 1 && (t.coreAt 1).ctl.tcause == 2 && (t.coreAt 1).pc == 0x4000)) =
      true := by decide +kernel

/-- REPV over one addition, with its sequence in memory; repv (count 1) is the first repetition of two, (count 0) the last. -/
def repeating (count : BitVec 6) (w : Word) : State :=
  let s := base.withFetchWord 32 (encode (.repv count 0 1 1 0)).toNat
  let s : State := { s with dev := { s.dev with mem := s.dev.mem.writeN 0x103004 4 w.toNat } }
  withV s (lanes 32 [1, 2]) (lanes 32 [3, 4])

theorem wit_RepvRunsItsUnits :
    let w := encode (.vadd 3 1 2 0 .i32 false)
    let s := repeating 1 w
    let u := repeating 0 w
    (clearB (.repv 1 0 1 1 0) s && yields (s.sequence 1) (fun x => x.1 == [w] && (seqUnits 1 x.1).isSome &&
        (match seqUnits 1 x.1 with | some us => seqOk us ⟨1, 1, 0⟩ 2 | none => false) && !x.2.me.crosses 1 &&
        (firstUnit x.1 none false 0).isSome && decide (stagger (.vadd 3 1 2 0 .i32 false) 0 0 0 = some (.vadd 3 1 2 0 .i32 false)) &&
        (vecBody (.vadd 3 1 2 0 .i32 false)).isSome) && (s.me.ctl.brka.toList.all fun b => !b.getLsbD 0) &&
      after (exec (.repv 1 0 1 1 0) s) (fun t => t.me.ctl.pix == 1 && t.me.pc == 0x1000 && t.v 3 == lanes 32 [4, 6] &&
        after (exec (.repv 1 0 1 1 0) t) (fun r => r.me.ctl.pix == 0 && r.me.pc == 0x1008 && r.v 4 == lanes 32 [6, 8])) &&
      clearB (.repv 0 0 1 1 0) u && after (exec (.repv 0 0 1 1 0) u) (fun t => t.me.ctl.pix == 0 && t.me.pc == 0x1008)) = true := by
  decide +kernel

/-- A sequence that is none: its one word is a jump. -/
theorem wit_RepvRunsItsUnits_illegal :
    let s := repeating 1 (encode (.j 4))
    (clearB (.repv 1 0 1 1 0) s && yields (s.sequence 1) (fun x => (seqUnits 1 x.1).isNone) &&
      after (exec (.repv 1 0 1 1 0) s) (fun t => t.me.ctl.tcause == 1)) = true := by decide +kernel

/-- base with a readable and writable page at 0x2000, of the class that the code names, over physical address 0x200000. -/
def paged (cls : Nat) : State :=
  let s := running 0x04080003
  { s with dev := { s.dev with mem := s.dev.mem.writeN 0x102010 8 (0x20018F + 512 * cls) } }

/-- Slot 0 is bound to operand queue 0, which holds given entries. -/
def queued (s : State) (l : List QEntry) : State :=
  { s with me := { s.me with
    queues := s.me.queues.setIfInBounds 0 l
    slots := s.me.slots.setIfInBounds 0 ⟨3, 0, BitVec.ofNat 32 l.length, 0⟩ } }

/-- The conditions of Readable, computed. -/
def readableB (s : State) (off n : Nat) : Bool :=
  decide (off % n = 0 ∧ off + n ≤ 0x30000) && !s.me.loc.empty.contains (off / 128) && firstPoison s.me.loc.poison off n == none

/-- The pre-conditions of a load or store at a place that is one of ours, with its value. -/
def loads (s : State) (va : W64) (n : Nat) (ap vol : Bool) (x : Nat) : Bool :=
  yields (s.place va n .read ap) fun q => yields (q.2.readPlace q.1 va n vol) fun r => r.1 == x

def stores (s : State) (va : W64) (n x : Nat) (vol : Bool) : Bool :=
  yields (s.place va n .write true) fun q => (match q.1 with | .aperture _ => false | _ => true) &&
    yields (q.2.storeAt q.1 va n x vol true) fun _ => true

/-- Offsets 0 and 0x2FFFF of local memory, an aperture, the last byte of the stream table, and physical memory. -/
theorem wit_LoadsExtend :
    let s := filled (filled base 0 8 0x80) 0x2FFFF 1 0xFF
    let u (off : Nat) : State := s.setG 1 (own off)
    let p := (paged 0).setG 1 0x2008
    (clearB (.ld 3 1 .b true 0) (u 0x2FFFF) && loads (u 0x2FFFF) (own 0x2FFFF) 1 true false 0xFF &&
      after (exec (.ld 3 1 .b true 0) (u 0x2FFFF)) (fun t => t.g 3 == -1) && clearB (.ldvol 3 1 .d false 0) (u 0x30018) &&
      loads (u 0x30018) (own 0x30018) 8 true true 0 && clearB (.ld 3 1 .d false 0) (u 0x30BF8) && loads (u 0x30BF8) (own 0x30BF8) 8 true false 0 &&
      clearB (.ldv 3 1 0) (u 0) && loads (u 0) (own 0) 64 false false 0x80 && after (exec (.ldv 3 1 0) (u 0)) (fun t => t.v 3 == 0x80) &&
      clearB (.ldAcq 3 1 true) (u 0) && loads (u 0) (own 0) 8 true false 0x80 && after (exec (.ldAcq 3 1 true) (u 0)) (fun t => t.g 3 == 0x80) &&
      clearB (.ldAcq 3 1 false) p && loads p 0x2008 4 true false 0 && after (exec (.ldAcq 3 1 false) p) (fun t => t.me.pc == 0x1004)) = true := by
  decide +kernel

/-- Local memory and physical memory, an aperture, a vector from a queue, a release. -/
theorem wit_StoresPerform :
    let s := withG base (own 0x100) (-1) (own 0x30000)
    let p := withG (paged 0) 0x2008 (-1) 0
    let q := queued s [⟨5, 0⟩]
    (clearB (.st 2 1 .w 0) s && stores s (own 0x100) 4 0xFFFFFFFF false && clearB (.stvol 2 1 .w 0) p && stores p 0x2008 4 0xFFFFFFFF true &&
      after (exec (.st 2 1 .w 0) p) (fun t => t.dev.mem.readN 0x200008 8 == 0xFFFFFFFF) && clearB (.st 2 3 .d 0) s &&
      yields (s.place (own 0x30000) 8 .write true) (fun x => x.1 == .aperture 0 &&
        yields (x.2.paired .aperture (own 0x30000) 8 (s.g 2).toNat (fun u => u.startCopy 0 (s.g 2))) fun _ => true) &&
      after (exec (.st 2 3 .d 0) s) (fun t => t.me.pc == 0x1004) && clearB (.stv 56 1 0) q &&
      yields (q.vsrc 56) (fun x => x.1 == 5 && yields (x.2.place (own 0x100) 64 .write false) fun y =>
        yields (y.2.storeAt y.1 (own 0x100) 64 5 false true) fun _ => true) &&
      after (exec (.stv 56 1 0) q) (fun t => t.me.queue 0 == [] && t.me.loc.bytes.readN 0x100 64 == 5) && clearB (.stRel 1 2 true) p &&
      yields (p.place 0x2008 8 .write true) (fun x => (match x.1 with | .phys _ _ _ _ => true | _ => false)) && yields p.release (fun t =>
        yields (t.place 0x2008 8 .write true) fun y => yields (y.2.storeAt y.1 0x2008 8 (2 ^ 64 - 1) false true) fun _ => true) &&
      after (exec (.stRel 1 2 true) p) (fun t => t.dev.mem.readN 0x200008 8 == 2 ^ 64 - 1)) = true := by decide +kernel

/-- The last bytes below the apertures, an empty line, a poisoned word. -/
theorem wit_LocalMemoryIsReadAndWritten :
    let s := withG base (own 0x2FFF8) (-1) (own 0x2FFC0)
    let e : State := { s with me := { s.me with loc := { s.me.loc with empty := [1535] } } }
    (s.ea 1 0 8 == own 0x2FFF8 && clearB (.ld 4 1 .d false 0) s && readableB s 0x2FFF8 8 && clearB (.st 2 1 .d 0) s && s.me.member == none &&
      after (exec (.st 2 1 .d 0) s) (fun t => after (exec (.ld 4 1 .d false 0) t) fun u => u.g 4 == -1) &&
      e.me.loc.empty.contains (0x2FFF8 / 128) && after (exec (.ld 4 1 .d false 0) e) (fun t => t.me.wait == some .empty && t.me.pc == 0x1000) &&
      s.ea 3 0 64 == own 0x2FFC0 && readableB s 0x2FFC0 64 && clearB (.ldv 4 3 0) s && Memory.wf s.me.loc.bytes &&
      (({ Loc.reset with poison := [1] } : Loc).store 8 4 5 == { Loc.reset with poison := [1] }) &&
      (({ Loc.reset with poison := [1] } : Loc).store 8 8 5).poison == []) = true := by decide +kernel

/-- Misalignment first, also where the address names nothing; both ends of the range between the windows; an address above the
own window; both ends of each reserved range of offsets. -/
theorem wit_AddressesAreChecked :
    let u (a : W64) : State := base.setG 1 a
    let i := Instr.ld 3 1 .d false 0
    let hits (a c : W64) : Bool := clearB i (u a) && accessOf (u a) i == some (a, 8) &&
      after (exec i (u a)) (fun t => t.me.ctl.tcause == c && t.me.ctl.tval == a)
    (hits 0x8000000000000001 3 && hits (own 0x30024) 3 && hits 0x0100000000000000 4 && hits 0xFFFDFFFFFFFFFFF8 4 &&
      hits 0xFFFF000000040000 4 && hits (own 0x30020) 6 && hits (own 0x307F8) 6 && hits (own 0x30C00) 6 && hits (own 0x3FFF8) 6 &&
      accessOf (queued (u (own 0x30C00)) [⟨5, 0⟩]) (.stv 56 1 0) == some (own 0x30C00, 64) &&
      after (exec (.stv 56 1 0) (queued (u (own 0x30C00)) [⟨5, 0⟩])) (fun t => t.me.ctl.tcause == 6 && t.me.queue 0 == [⟨5, 0⟩])) = true := by decide +kernel

theorem wit_StoresLeaveOtherMemory :
    let p := paged 0
    let p : State := { p with dev := { p.dev with mem := p.dev.mem.writeN 0x102010 8 0x20008F } }
    let l := paged 1
    (Memory.wf p.dev.mem && yields (p.storeAt (.phys 0x200008 0x200008 .dir (some 0x102010)) 0x2008 8 5 false true) (fun t =>
        t.dev.mem.readN 0x200008 8 == 5 && t.dev.mem.readN 0x200000 8 == 0 && t.dev.mem.readN 0x102010 8 == 0x20018F) && p.stave.jobs == [] && p.dev.paKind 0x200008 == .dram &&
      !p.dev.worldLine 0x200008 && p.me.pair == none && !p.dev.poison.contains 0x40001 && decide (p.me.imageAt + 0x4000 ≤ 0x200008) &&
      Memory.wf l.dev.mem && l.me.alloc == 0 && yields (l.storeAt (.phys 0x200008 0x200008 .self none) 0x2008 8 5 false true) (fun t =>
        t.dev.mem.readN 0x200008 8 == 0 && (t.selfLoad 0x200008 8 true).1 == 5) &&
      yields (l.storeAt (.phys 0x200008 0x200008 .self none) 0x2008 2 5 true true) (fun t => t.dev.mem.readN 0x200008 8 == 5)) = true := by
  decide +kernel

theorem wit_AtomicsReadModifyWrite :
    let s := filled (withG base (own 0x40) 2 9) 0x40 8 0x5FFFFFFFF
    let p := withG (paged 0) 0x2008 2 0
    ((amoRule s (.atadd 4 1 2 .plain false)).isSome && clearB (.atadd 4 1 2 .plain false) s && readableB s 0x40 4 && s.me.member == none && s.me.pair == none &&
      (amoRule p (.atmin 4 1 2 .acqrel true)).isSome && clearB (.atmin 4 1 2 .acqrel true) p &&
      yields (p.place 0x2008 8 .atomic false) (fun x => yields x.2.release fun t =>
        yields (t.atomicAt x.1 0x2008 8 (amoFn (.atmin 4 1 2 .acqrel true)) 2 (fun x => some (if twos 64 2 < twos 64 x then 2 else x))) fun y => y.1 == 0) &&
      after (exec (.atmin 4 1 2 .acqrel true) p) (fun t => t.g 4 == 0 && t.me.pc == 0x1004) &&
      yields (p.place 0x2008 8 .atomic false) (fun x => yields (x.2.atomicAt x.1 0x2008 8 (amoFn (.atswap 4 1 2 .plain true)) 2 (fun _ => some 2)) fun y => y.1 == 0) &&
      after (exec (.atswap 4 1 2 .plain true) p) (fun t => t.g 4 == 0 && t.dev.mem.readN 0x200008 8 == 2)) = true := by decide +kernel

/-- Two active elements, one at a negative index; the first at the element that PIX names. -/
theorem wit_GathersAndScatters :
    let s := filled (withG base (own 0x100) 0 0) 0xFC 4 0x77
    let s := ((s.setV 2 (lanes 32 [1, 0xFFFFFFFF])).setV 3 (lanes 32 [8, 9])).setP 1 3
    (clearB (.gath 3 1 2 1 .i32) s && yields (s.vsrc 2) (fun x => yields (gathFrom 3 (s.g 1) 32 (x.2.me.mask 1 16) (lanesOf 32 x.1) 16 0 x.2) fun _ => true) &&
      (s.g 1 + BitVec.ofInt 64 ((BitVec.ofNat 32 (field (s.v 2) 32 32)).toInt * 4) == own 0xFC) && readableB s 0xFC 4 && readableB s 0x104 4 &&
      after (exec (.gath 3 1 2 1 .i32) s) (fun t => t.v 3 == lanes 32 [0, 0x77] && t.me.ctl.pix == 0) && clearB (.scat 3 1 2 1 .i32) s &&
      yields (s.vsrc 3) (fun x => yields (x.2.vsrc 2) fun y =>
        yields (scatFrom (s.g 1) 32 (y.2.me.mask 1 16) (lanesOf 32 y.1) (lanesOf 32 x.1) 16 0 y.2) fun _ => true) &&
      after (exec (.scat 3 1 2 1 .i32) s) (fun t => t.me.loc.bytes.readN 0x104 4 == 8 && t.me.loc.bytes.readN 0xFC 4 == 9)) = true := by decide +kernel

/-- A place at address 0x200008 of memory, of a class. -/
def at0 (cls : MemCls) : Place → Bool
  | .phys pa key c _ => pa == 0x200008 && key == 0x200008 && c == cls
  | _ => false

/-- PREF of no line, of lines of each class; CLEAN and CINV of them and of local memory; CLEAN.p at the last line and beyond;
BPREF misaligned, of length 0, 1, 2^30 and more. -/
theorem wit_CacheInstructions :
    let n := base.setG 1 (own 0)
    let d := (paged 0).setG 1 0x2008
    let l := (paged 1).setG 1 0x2008
    let u := (paged 2).setG 1 0x2008
    let b (x y : W64) : State := ((base.setG 1 0x2000).setG 2 x).setG 3 y
    (clearB (.pref 1) n && (n.quietPlace n.issuer (n.g 1) false).1 == none && after (exec (.pref 1) n) (fun t => t.me.pc == 0x1004) &&
      (d.quietPlace d.issuer 0x2008 true).1 == some (0x200008, 0x200008, .dir) && clearB (.prefX 1) d && clearB (.prefL2 1) d && clearB (.pref 1) d &&
      after (exec (.prefX 1) d) (fun t => t.me.pc == 0x1004) && (l.quietPlace l.issuer 0x2008 false).1 == some (0x200008, 0x200008, .self) &&
      clearB (.pref 1) l && (u.quietPlace u.issuer 0x2008 false).1 == some (0x200008, 0x200008, .unc) && clearB (.pref 1) u &&
      yields (d.noPol.cachePlace 0x2008) (fun x => at0 .dir x.1 && yields (x.2.askClean 0) fun _ => true) && clearB (.clean 1) d && clearB (.cinv 1) d &&
      yields (l.noPol.cachePlace 0x2008) (fun x => at0 .self x.1 && yields (x.2.askClean 0) fun _ => true) && clearB (.clean 1) l && clearB (.cinv 1) l &&
      yields (n.noPol.cachePlace (own 0)) (fun x => x.1 == .own 0) && clearB (.clean 1) n && clearB (.cinv 1) n &&
      clearB (.cleanP 1) (base.setG 1 0x3FFFFFFFFF) && (base.setG 1 0x3FFFFFFFFF).stave.jobs == [] &&
      after (exec (.cleanP 1) (base.setG 1 0x3FFFFFFFFF)) (fun t => t.me.pc == 0x1004) && clearB (.cleanP 1) (base.setG 1 0x4000000000) &&
      after (exec (.cleanP 1) (base.setG 1 0x4000000000)) (fun t => t.me.ctl.tcause == 4) && clearB (.bpref 2 1 3) (b 0x108 1) &&
      after (exec (.bpref 2 1 3) (b 0x108 1)) (fun t => t.me.ctl.tcause == 3) && clearB (.bpref 2 1 3) (b 0x100 0) &&
      after (exec (.bpref 2 1 3) (b 0x100 0)) (fun t => t.dev.bprefs == []) && clearB (.bpref 2 1 3) (b 0x100 1) &&
      after (exec (.bpref 2 1 3) (b 0x100 1)) (fun t => t.dev.bprefs.length == 1) &&
      after (exec (.bpref 2 1 3) (b 0x100 0x40000000)) (fun t => t.dev.bprefs.length == 1) &&
      after (exec (.bpref 2 1 3) (b 0x100 0x40000001)) (fun t => t.dev.bprefs == [])) = true := by decide +kernel

/-- Everything in a list holds. -/
def allOf (l : List Bool) : Bool := l.all id

theorem wit_FencesAndMwait :
    let f (u : BitVec 16) : State := { base with me := { base.me with ctl := { base.me.ctl with unack := u } } }
    let s := filled (withG base (own 0x100) 5 (own 0x101)) 0x100 8 5
    let z := withG ({ s with dev := s.dev.setStave 0 { Stave.reset with map := [(1, 0x8001)] } }) (0xFFFE000000000000 + 2 ^ 18) 0 0
    allOf [clearB (.fence .core) (f 1), clearB (.fenceSc .system) (f 0), clearB (.fence .cluster) (f 1), (f 1).me.ctl.unack != 0,
      after (exec (.fence .core) (f 1)) (fun t => t.me.pc == 0x1004), after (exec (.fence .cluster) (f 1)) (fun t => t.me.wait == some .unack),
      clearB (.mwait 4 1 2) s, !s.farWindow (s.g 1), yields (s.noPol.place (s.g 1) 8 .read false) (fun q =>
        yields (q.2.readPlace q.1 (s.g 1) 8 false) fun r => r.1 == 5), after (exec (.mwait 4 1 2) s) (fun t => t.me.wait == some (.mwait false)),
      after (exec (.mwait 4 1 0) s) (fun t => t.g 4 == 5), after (exec (.mwait 4 3 2) s) (fun t => t.me.ctl.tcause == 3),
      z.farWindow (z.g 1), after (exec (.mwait 4 1 2) z) (fun t => t.me.ctl.tcause == 4)] = true := by decide +kernel

/-- A core of no instance; a member whose arrival ends the superstep; one that waits; and one that has waited, before and after
the end. -/
theorem wit_BarriersCountSupersteps :
    let one := crewed 1 []
    let two := crewed 2 []
    let w (c : W64) : State := { two with me := { two.me with wait := some (.bar 1 c 3) } }
    allOf [clearB (.bar 3 0 false) base, base.me.member == none, base.me.wait == none, yields base.release (fun _ => true),
      after (exec (.bar 3 0 false) base) (fun t => t.g 3 == 1), clearB (.bar 3 1 false) one, one.me.member == some ⟨0, 0, 0, 0⟩,
      yields one.release (fun u => ((u.arrive u.me.stave ⟨0, 0, 0, 0⟩ u.me.lcore 1 false).tryBarriers u.me.stave 0).superstep 0 ⟨0, 0, 0, 0⟩ 1 == 1),
      after (exec (.bar 3 1 false) one) (fun t => t.g 3 == 1), clearB (.bar 3 1 false) two,
      yields two.release (fun u => ((u.arrive u.me.stave ⟨0, 0, 0, 0⟩ u.me.lcore 1 false).tryBarriers u.me.stave 0).superstep 0 ⟨0, 0, 0, 0⟩ 1 == 0),
      after (exec (.bar 3 1 false) two) (fun t => t.me.wait == some (.bar 1 0 3)), (w 0).superstep 0 ⟨0, 0, 0, 0⟩ 1 == 0,
      after (exec (.bar 3 1 false) (w 0)) (fun t => t.me.wait == some (.bar 1 0 3)), clearB (.bar 3 1 false) (w 7),
      after (exec (.bar 3 1 false) (w 7)) (fun t => t.g 3 == 8 && t.me.wait == none)] = true := by decide +kernel

/-- A stream to stage 0 whose ring is slot 3, capacity 16. -/
def stream : BitVec 256 := BitVec.ofNat 256 (16 * 2 ^ 32 + 3 * 2 ^ 88)

/-- A message under way from the core itself. -/
def sent : NetItem :=
  ⟨.message, 0, 0, 0, 0, 0, none, 0, 0, 3, 0, 64, 9, none, false, false, false, none, 0⟩

/-- A word that names no stream; a send to core 0; one with four items under way; and the queue form. -/
theorem wit_SendsInjectItems :
    let s := withG (crewed 1 [stream]) 0x8000 77 1
    let f : State := { s with dev := { s.dev with net := [sent, sent, sent, sent] } }
    let q := queued s [⟨5, 0⟩]
    allOf [clearB (.send 1 2) s, s.sendFor 1 == none, (s.sendFor (s.g 1)).isSome, yields s.release (fun _ => true), s.inFlight == 0, s.fits 64,
      s.me.pair == none, (s.g 1).getLsbD 15, after (exec (.send 3 2) s) (fun t => t.me.ctl.tcause == 4),
      after (exec (.send 1 2) s) (fun t => (t.dev.net.map fun x => x.data) == [77] && (t.dev.net.map fun x => x.slot) == [3]),
      clearB (.sendEos 1) s, after (exec (.sendEos 1) s) (fun t => (t.dev.net.map fun x => x.kind) == [.eos]), clearB (.sendv 1 56) q,
      yields (q.vsrc 56) (fun x => x.1 == 5), after (exec (.sendv 1 56) q) (fun t => (t.dev.net.map fun x => x.data) == [5]),
      f.inFlight == 4, after (exec (.send 1 2) f) (fun t => t.me.wait == some .inject)] = true := by decide +kernel

/-- A slot unbound; bound with entries; a reserved field of the bind word; a queue slot. -/
theorem wit_StreamSlotsAreManaged :
    let s := withG (crewed 1 [stream]) 5 1 (1 + 2 ^ 9)
    let b : State := { s with me := { s.me with slots := s.me.slots.setIfInBounds 5 ⟨1, 2, 4, 1⟩ } }
    let q := queued (s.setG 1 0) [⟨5, 0⟩, ⟨6, 0⟩]
    allOf [clearB (.stbind 4 1 2) s, (s.g 2).getLsbD 0, badBind s.me 5 1 (s.g 3), !badBind s.me 5 1 (s.g 2),
      after (exec (.stbind 4 1 3) s) (fun t => t.g 4 == 1), after (exec (.stbind 4 1 2) s) (fun t => t.g 4 == 0 && t.me.slot 5 == ⟨1, 0, 0, 0⟩),
      (b.me.slot 5).tail != (b.me.slot 5).head, after (exec (.stbind 4 1 2) b) (fun t => t.g 4 == 2), !(s.g 0).getLsbD 0,
      after (exec (.stbind 4 1 0) s) (fun t => t.g 4 == 0), clearB (.stdrop 4 1 2) s, after (exec (.stdrop 4 1 2) s) (fun t => t.g 4 == 0),
      after (exec (.stdrop 4 1 1) b) (fun t => t.g 4 == 2 && (t.me.slot 5).head == 4), (b.me.slot 5).bind.getLsbD 1 == false,
      after (exec (.stdrop 4 1 2) q) (fun t => t.g 4 == 1 && t.me.queue 0 == [⟨6, 0⟩]), (q.me.slot 0).bind.getLsbD 1,
      clearB (.waiteos 4 1 2) b, after (exec (.waiteos 4 1 2) b) (fun t => t.g 4 == 4), after (exec (.waiteos 4 1 1) b) (fun t => t.me.wait == some .eos)] =
      true := by decide +kernel

/-- A template: 64 bytes from 0x2000 to local memory at 0x400, sync object 0x3000. -/
def template : Nat := 0x2000 + 2 ^ 64 * (own 0x400).toNat + 2 ^ 128 * 64 + 2 ^ 160 + 2 ^ 192 + 2 ^ 384 * 0x3000

/-- A valid template, one that is not and a misaligned one; FESET's ends of local memory, its length 0 and 1536, beyond, and a
misaligned offset; a sync object of count 3, misaligned, and a wait for it. -/
theorem wit_CopyInstructionsPrepareAndWait :
    let s := filled (withG base (own 0x100) 7 (own 0x108)) 0x100 64 template
    let z := withG base (own 0x100) 0 0
    let e (a b : W64) : State := withG base a b 0
    let y := withG (filled base 0x200 16 (3 + 2 ^ 64 * 9 + 2 ^ 96 * 6)) (own 0x200) 9 (own 0x208)
    allOf [clearB (.xtpl 4 1 2) s, yields (s.noPol.load (own 0x100) 64) (fun x => (tmplOf (BitVec.ofNat 512 x.1)).valid),
      after (exec (.xtpl 4 1 2) s) (fun t => t.g 4 == 0 && t.me.templates.toList[7]? == some (some (BitVec.ofNat 512 template))),
      yields (z.noPol.load (own 0x100) 64) (fun x => !(tmplOf (BitVec.ofNat 512 x.1)).valid), after (exec (.xtpl 4 1 2) z) (fun t => t.g 4 == 1),
      after (exec (.xtpl 4 3 2) s) (fun t => t.me.ctl.tcause == 3), clearB (.fesetE 1 2) (e 0 1536), decide (((e 0 1536).g 1).toNat + 128 * ((e 0 1536).g 2).toNat ≤ 0x30000),
      after (exec (.fesetE 1 2) (e 0x2FF80 1)) (fun t => t.me.loc.empty == [1535]), after (exec (.fesetF 1 2) (e 0x2FF80 2)) (fun t => t.me.ctl.tcause == 6),
      after (exec (.fesetF 1 2) (e 0 0)) (fun t => t.me.ctl.tcause == 6), after (exec (.fesetE 1 2) (e 0 1537)) (fun t => t.me.ctl.tcause == 6),
      after (exec (.fesetE 1 2) (e 64 1)) (fun t => t.me.ctl.tcause == 3), clearB (.swinit 4 1 2) y,
      yields (y.noPol.place (own 0x200) 16 .write false) (fun q => yields (q.2.atomicAt q.1 (own 0x200) 16 10 9
        (fun v => some (9 + 2 ^ 64 * (v / 2 ^ 64 % 2 ^ 32)))) fun r => r.1 / 2 ^ 64 % 2 ^ 32 == 9),
      after (exec (.swinit 4 1 2) y) (fun t => t.g 4 == 9 && t.me.loc.bytes.readN 0x200 16 == 9 + 2 ^ 64 * 9), clearB (.swait 4 1 2) y,
      yields (y.noPol.place (own 0x200) 16 .read false) (fun q => yields (q.2.readPlace q.1 (own 0x200) 16 false) fun _ => true),
      after (exec (.swait 4 1 2) y) (fun t => t.me.wait == some .swait), after (exec (.swait 4 1 0) y) (fun t => t.g 4 == 6),
      after (exec (.swait 4 3 2) y) (fun t => t.me.ctl.tcause == 3), after (exec (.swinit 4 3 2) y) (fun t => t.me.ctl.tcause == 3)] = true := by
  decide +kernel

/-- A descriptor: base 0x2000, one key of two 16-byte states, STEP, one reader, horizon 100. -/
def descriptor : Nat := 0x2000 + 2 ^ 64 + 2 ^ 96 * 2 + 2 ^ 112 + 2 ^ 120 + 2 ^ 128 * 100 + 2 ^ 256 * 4096

/-- Region 1 with that descriptor; its key block stands at 0x200000. -/
def region : Region := ⟨1, 0x100, BitVec.ofNat 512 descriptor, 100, [5], [0x200000]⟩

/-- A member in whose job region 1 is bound, the two times of its key given, g1 its handle. -/
def worldly (x y : W64) : State :=
  let s := crewed 1 []
  let s := s.onStave 0 fun t => t.onJob 0 fun j => { j with regions := [region] }
  let s : State := { s with dev := { s.dev with mem := (s.dev.mem.writeN 0x200000 8 x.toNat).writeN 0x200008 8 y.toNat } }
  s.setG 1 (2 ^ 32)

/-- Every row of Table 3 of 14, at the boundary times: an empty key; before the oldest, at a state, between, after the newest up
to the limit, beyond it up to the horizon, and past both. -/
theorem wit_WorldLoadsFollowTheTable :
    let e := (worldly 0x8000000000000000 0x8000000000000000).dev
    let v := (worldly 50 10).dev
    let code (v : Dev) (t : Int) (limit : Nat) : Option Nat :=
      match region.eval v 0 t limit with | .answer a => some a.code.toNat | .blocked => none
    allOf [region.poisonAt v 0 0 128 == none, region.poisonAt e 0 0 128 == none, region.states e 0 == [], code e 0 5 == some 5,
      region.states v 0 == [(10, 1), (50, 0)], code v 9 5 == some 4, code v 10 5 == some 0, code v 49 5 == some 1,
      code v 55 5 == some 2, code v 56 5 == none, code v 101 5 == some 3] =
      true := by decide +kernel

/-- Handles that name no region and no key; WREG outside a job, of a number above 63, of a bad descriptor, of a number that is
bound, of a new one; WST to an empty key, of a time not later, and to a full key that may evict or not; loads of each kind;
horizon and marks at their boundary. -/
theorem wit_WorldInstructionsAnswer :
    let e := worldly 0x8000000000000000 0x8000000000000000
    let f := worldly 50 10
    let at2 (s : State) (x : W64) : State := s.setG 2 x
    let p := paged 0
    let p : State := { p with dev := p.dev.setOwn (.granule, granuleOf 0x200000) .owned 0 }
    let j : State := filled { p with dev := { p.dev with staves := e.dev.staves }, me := { p.me with member := some ⟨0, 0, 0, 0⟩ } } 0x100 64 descriptor
    let k (n : W64) (x : W64) : State := (j.setG 1 n).setG 2 x
    let m : State := (f.onRegion 1 fun r => { r with marks := [50] })
    allOf [clearB (.wst 1 3 2) f, f.worldKey 0 == none, after (exec (.wst 1 3 2) f) (fun t => t.me.ctl.tcause == 4), f.worldKey (2 ^ 32 + 1) == none,
      after (exec (.wld 1 3 2 0) f) (fun t => t.me.ctl.tcause == 4), f.worldRegion 0 == none, after (exec (.whzn 4 3 2) f) (fun t => t.me.ctl.tcause == 4),
      clearB (.wreg 4 1 2) base, base.job? == none, after (exec (.wreg 4 1 2) base) (fun t => t.g 4 == 3),
      clearB (.wreg 4 1 2) (k 64 (own 0x100)), (k 64 (own 0x100)).job?.isSome, after (exec (.wreg 4 1 2) (k 64 (own 0x100))) (fun t => t.g 4 == 3),
      yields (j.noPol.load (own 0x100) 64) (fun x => descValid (BitVec.ofNat 512 x.1) && yields (x.2.regionPages 0x2000 1 (some [])) (fun q => q.1 == some [0x200000])),
      after (exec (.wreg 4 1 2) (k 1 (own 0x100))) (fun t => t.g 4 == 2), after (exec (.wreg 4 1 2) (k 63 (own 0x100))) (fun t => t.g 4 == 0),
      after (exec (.wreg 4 1 2) (k 0 (own 0x200))) (fun t => t.g 4 == 3),
      f.worldKey (f.g 1) == some (region, 0), yields f.irreversible.release (fun t => region.poisonAt t.dev 0 0 128 == none),
      after (exec (.wst 1 1 2) (at2 f 50)) (fun t => t.me.ctl.wstat == 7 + 256 * 2), after (exec (.wst 1 1 2) (at2 f 51)) (fun t => t.me.wait.isSome),
      after (exec (.wst 1 1 2) (at2 m 51)) (fun t => t.me.ctl.wstat == 6 + 256 * 2), after (exec (.wst 1 1 2) (at2 e 0x8000000000000000)) (fun t => t.me.ctl.wstat == 7),
      after (exec (.wst 1 1 2) (at2 e 0x8000000000000001)) (fun t => t.me.ctl.wstat == 6 + 256),
      clearB (.wld 1 1 2 5) f, after (exec (.wld 1 1 2 5) (at2 f 55)) (fun t => t.me.ctl.wstat == 2 + 256 * 2),
      after (exec (.wld 1 1 2 5) (at2 f 101)) (fun t => t.me.ctl.wstat == 3 + 256 * 2), clearB (.wldT 1 1 2 127) f,
      after (exec (.wldT 1 1 2 127) (at2 f 101)) (fun t => t.me.ctl.tcause == 0x0B), clearB (.whzn 4 1 2) f,
      after (exec (.whzn 4 1 2) (at2 f 99)) (fun t => t.g 4 == 1), after (exec (.whzn 4 1 2) (at2 f 100)) (fun t => t.g 4 == 0),
      clearB (.wretain 4 1 2) f, after (exec (.wretain 4 1 2) (at2 f 4)) (fun t => t.g 4 == 1), after (exec (.wretain 4 1 2) (at2 f 5)) (fun t => t.g 4 == 0),
      after (exec (.wretain 4 1 2) ((at2 f 5).setG 1 (2 ^ 32 + 1))) (fun t => t.g 4 == 2), clearB (.wseed 2) f,
      after (exec (.wseed 2) (at2 f 9)) (fun t => t.stave.seeds == [(0, 9)]), clearB (.wstat 4 1) f, after (exec (.wstat 4 1) f) (fun t => t.g 4 == 50),
      after (exec (.wstat 4 1) e) (fun t => t.g 4 == 0x8000000000000000 && t.me.ctl.wstat == 5)] = true := by decide +kernel

/-- Pattern 0 in a state, bound to the stage's domain, its last change given. -/
def withPattern (st : PatState) (last : Option (Nat × W64)) : State :=
  (crewed 1 []).onPat 0 0 0 fun p => { p with st := st, level := 2, last := last }

/-- Outside a job; a reserved selector; level 0; another domain; the same change twice; a change that the table refuses; one that
it allows; and the last selector. -/
theorem wit_PatternsChangeByTheTable :
    let u (s : State) (x : W64) : State := s.setG 1 x
    let o := withPattern .off none
    let r := withPattern .record none
    let g (i : Instr) (s : State) (x : W64) : Bool := clearB i s && after (exec i s) (fun t => t.g 4 == x)
    allOf [base.me.member == none, g (.patrec 4 1) (u base 63) 5, g (.patrec 4 1) (u o 64) 3, g (.patrec 4 1) (u o 0) 3, g (.patrec 4 1) (u o 0x20) 0,
      (o.patOf 0 0 0).st == .off, patNext 1 .off == none, g (.patplay 4 1) (u o 0) 4, (r.patOf 0 0 0).holds ⟨0, 0, 0, 0⟩, g (.patrec 4 1) (u r 0x10) 2,
      g (.patoff 4 1) (u r 0) 0, g (.patdrop 4 1) (u r 0) 0, g (.patplay 4 1) (u (withPattern .recorded (some (1, 0))) 0) 1,
      g (.patplay 4 1) (u (withPattern .recorded (some (1, 5))) 0) 0, g (.patstat 4 1) (u base 0) (-1), g (.patstat 4 1) (u r 64) (-1),
      clearB (.patstat 4 1) (u r 0), after (exec (.patstat 4 1) (u r 0)) (fun t => field (t.g 4) 0 3 == 2 && field (t.g 4) 48 2 == 2)] = true := by
  decide +kernel

theorem wit_ElementwiseResults :
    let s := withV base (lanes 32 [0x3FC00000, 0x3F800000, 0xFFFFFFFF]) (lanes 32 [0x40100000, 0])
    let e : State := (({ s with me := { s.me with ctl := { s.me.ctl with fpctl := 0x2000 } } } : State).setP 1 2)
    let q := queued (s.setV 3 7) [⟨9, 0⟩]
    allOf [(elemRule (.vadd 3 1 2 0 .f32 false)).isSome, (Instr.vadd 3 1 2 0 .f32 false).wf, clearB (.vadd 3 1 2 0 .f32 false) s,
      yields (s.vsrc 1) (fun x => yields (x.2.vsrc 2) fun _ => true), s.me.fpEnabled == 0,
      after (exec (.vadd 3 1 2 0 .f32 false) s) (fun t => elem 32 (t.v 3) 0 == 0x40700000),
      clearB (.vneg 3 1 0 .i32 false) s, after (exec (.vneg 3 1 0 .i32 false) s) (fun t => elem 32 (t.v 3) 2 == 1),
      clearB (.vadd 3 56 1 0 .i32 false) q, yields (q.vsrc 56) (fun x => x.1 == 9), after (exec (.vadd 3 56 1 0 .i32 false) q) (fun t => elem 32 (t.v 3) 0 == 0x3FC00009),
      e.me.fpEnabled != 0, active e 1 1, (fmt32.div .rne 0x3F800000 0).flags &&& e.me.fpEnabled != 0,
      after (exec (.vdiv 3 1 2 1 .f32 false) e) (fun t => t.me.ctl.tcause == 9 && t.v 3 == 0 && t.me.ctl.tval == 2 + 256)] = true := by decide +kernel

/-- Of every clause: floats and integers, a selection, a widening and a narrowing conversion at the ends of its type. -/
theorem wit_ComparesAndConversions :
    let s := withV (base.setP 1 5) (lanes 32 [0x7FC00000, 1, 0x80000000]) (lanes 32 [0, 0, 1])
    allOf [(Instr.vcmp .un 2 1 2 0 .f32 false).wf, clearB (.vcmp .un 2 1 2 0 .f32 false) s,
      (laneCmp .un .f32 0x7FC00000 0).flags &&& s.me.fpEnabled == 0, after (exec (.vcmp .un 2 1 2 0 .f32 false) s) (fun t => t.p 2 == 1),
      after (exec (.vcmp .lt 2 1 2 1 .i32 false) s) (fun t => t.p 2 == 4), after (exec (.vcmp .ne 0 1 2 1 .i32 false) s) (fun t => t.p 0 == -1),
      (Instr.vsel 3 1 2 1 .i32 false).wf, clearB (.vsel 3 1 2 1 .i32 false) s, after (exec (.vsel 3 1 2 1 .i32 false) s) (fun t => elem 32 (t.v 3) 1 == 0),
      (Instr.vcvt 3 1 1 false .i32 0 .i64 false).wf, clearB (.vcvt 3 1 0 false .i32 0 .i64 false) s,
      after (exec (.vcvt 3 1 0 false .i32 0 .i64 false) s) (fun t => elem 64 (t.v 3) 2 == 0xFFFFFFFF80000000),
      (Instr.vcvt 3 1 1 false .i32 0 .i8 false).wf, after (exec (.vcvt 3 1 1 false .i32 0 .i8 false) s) (fun t => elem 8 (t.v 3) 18 == 0x80 && elem 8 (t.v 3) 16 == 0x7F)] =
      true := by decide +kernel

theorem wit_ElementsMove :
    let s := withG (withV (base.setP 1 6) (lanes 32 [10, 20, 30]) (lanes 32 [2, 16, 0])) 77 1 16
    let m := s.setG 2 (-1)
    allOf [clearB (.vbcast 3 1 1 .i32 false) s, after (exec (.vbcast 3 1 1 .i32 false) s) (fun t => t.v 3 == lanes 32 [0, 77, 77]),
      clearB (.vins 3 1 2 0 .i32) s, after (exec (.vins 3 1 2 0 .i32) s) (fun t => t.v 3 == lanes 32 [0, 77]), (Instr.vext 3 1 2 false .i32).wf,
      clearB (.vext 3 1 2 false .i32) s, after (exec (.vext 4 1 2 false .i32) s) (fun t => t.g 4 == 20), after (exec (.vext 4 1 3 true .i32) s) (fun t => t.g 4 == 0),
      yields (s.vsrc 1) (fun x => yields (x.2.vsrc 2) fun _ => true), clearB (.vperm 3 1 2 0 .i32 false) s,
      after (exec (.vperm 3 1 2 1 .i32 false) s) (fun t => t.v 3 == lanes 32 [0, 0, 10]), clearB (.vslide 3 1 2 0 .i32 false) m,
      after (exec (.vslide 3 1 2 0 .i32 false) m) (fun t => t.v 3 == lanes 32 [0, 10, 20, 30]), clearB (.vcompr 3 1 1 .i32 false) s,
      after (exec (.vcompr 3 1 1 .i32 false) s) (fun t => t.v 3 == lanes 32 [20, 30]), clearB (.vexpnd 3 1 1 .i32 false) s,
      after (exec (.vexpnd 3 1 1 .i32 false) s) (fun t => t.v 3 == lanes 32 [0, 10, 20])] = true := by decide +kernel

/-- No element active and some; VCXS with j 0, 3 (no power of two), 16 (not below the number of elements) and 2. -/
theorem wit_ReductionsAndExchanges :
    let s := withG (withV (base.setP 1 6) (lanes 32 [10, 20, 30]) 0) 0 3 16
    let x := s.setG 4 2
    allOf [(Instr.vred 3 1 .add 1 .i32 false).wf, clearB (.vred 3 1 .add 1 .i32 false) s, s.me.fpEnabled == 0,
      after (exec (.vred 3 1 .add 1 .i32 false) s) (fun t => t.v 3 == lanes 32 [50]), ((List.range 16).filter fun k => active s 2 k) == [],
      after (exec (.vred 3 1 .and 2 .i32 false) s) (fun t => t.v 3 == lanes 32 [0xFFFFFFFF]), (Instr.vscan 3 1 .add 1 .i32 false).wf,
      clearB (.vscan 3 1 .add 1 .i32 false) s, after (exec (.vscan 3 1 .add 1 .i32 false) s) (fun t => t.v 3 == lanes 32 [0, 20, 50]),
      (Instr.vcxs 1 4 5 0 .i32 false).wf, clearB (.vcxs 1 4 5 0 .i32 false) x, after (exec (.vcxs 1 1 2 0 .i32 false) s) (fun t => t.v 1 == s.v 1),
      after (exec (.vcxs 1 2 5 0 .i32 false) s) (fun t => t.v 1 == s.v 1), after (exec (.vcxs 1 3 5 0 .i32 false) s) (fun t => t.v 1 == s.v 1),
      after (exec (.vcxs 1 4 5 0 .i32 false) x) (fun t => t.v 1 == lanes 32 [10, 0, 30, 20])] = true := by decide +kernel

theorem wit_TablesAndDotProducts :
    let s := withG (filled (withV base (lanes 32 [1, 3]) (lanes 8 [1, 2, 255, 4])) 0x104 4 0x55) 0x100 0x102 0
    let s := s.setP 1 1
    allOf [(Instr.vlut 3 1 1 1 .i32).wf, clearB (.vlut 3 1 1 1 .i32) s, s.g 1 + 4 == w64 0x104, readableB s 0x104 4,
      after (exec (.vlut 3 1 1 1 .i32) s) (fun t => t.v 3 == lanes 32 [0x55]), after (exec (.vlut 3 1 2 1 .i32) s) (fun t => t.me.ctl.tcause == 3),
      (Instr.vdot 4 2 2 0 .i8 false).wf, clearB (.vdot 4 2 2 0 .i8 false) s, s.me.fpEnabled == 0,
      after (exec (.vdot 4 2 2 0 .i8 false) s) (fun t => t.v 4 == lanes 32 [22])] = true := by decide +kernel

theorem wit_PredicateResults :
    allOf [clearB (.pnot 1 0) base, after (exec (.pnot 1 2) base) (fun t => t.p 1 == -1), clearB (.pset 0 1) base, clearB (.pcnt 1 0) base, clearB (.pfirst 1 2) base,
      after (exec (.pfirst 1 2) base) (fun t => t.g 1 == 64)] = true := by decide +kernel

/-- A version check that fails and one that passes; rows from the last one that PIX can name, and from the first. -/
theorem wit_AccumulatorInstructions :
    let s := filled (filled (withG base (own 0x400) 0 (own 0x800)) 0x7C0 4 9) 0x800 64 (2 ^ 256 * 0x3C00 + 0x3C00)
    let r : State := { s with me := { s.me with ctl := { s.me.ctl with pix := 15 } } }
    let l := filled (filled (withG base (own 0x400) (own 0x800) 0) 0x400 8 (1 + 2 ^ 32)) 0x408 8 (2 ^ 32 * 0x3F800000)
    allOf [versionOf (.zclr 1 3 true) == some (1, 3, true), clearB (.zclr 1 3 true) s, (s.zver 1).setWidth 4 != (3 : BitVec 4),
      after (exec (.zclr 1 3 true) s) (fun t => t.me.wait == some .version), clearB (.zwaitv 1 0) s, (s.zver 1).setWidth 4 == (0 : BitVec 4),
      after (exec (.zwaitv 1 0) s) (fun t => t.me.pc == 0x1004), clearB (.zclr 1 0 true) s, after (exec (.zclr 1 0 true) s) (fun t => t.zElem 1 0 == 0),
      clearB (.zver 1 0 false 5) s, clearB (.zld 1 0 false 1 0) r, readableB r (0x400 + 15 * 64) 64,
      after (exec (.zld 1 0 false 1 0) r) (fun t => t.zElem 1 240 == 9 && t.zver 1 == 1 && t.me.ctl.pix == 0), clearB (.zst 1 0 false 1 0) r, r.me.member == none,
      after (exec (.zst 1 0 false 1 0) r) (fun t => t.me.loc.bytes.readN 0x7C0 4 == 0), clearB (.sclacc 1 0 false 2 3 true) s, (s.g 3).toNat % 64 == 0,
      yields (s.operand (s.g 3)) (fun o => yields (s.opRead o 0 64) fun _ => true), after (exec (.sclacc 1 0 false 2 3 true) s) (fun t => t.zver 1 == 1 && t.zver 2 == 1),
      clearB (.outlacc 1 0 false 1 2 0) l, yields (l.noPol.load (own 0x400) 4) (fun x => x.1 == 1 && yields (x.2.noPol.load (own 0x404) 4) fun y => y.1 == 1 &&
        yields (outlEntries 1 0 (own 0x400) (own 0x800) 1 0 y.2) fun _ => true), after (exec (.outlacc 1 0 false 1 2 0) l) (fun t => t.zver 1 == 1)] = true := by
  decide +kernel

/-- K 32 with one code; a K that is none; headers with unlike K. -/
theorem wit_MatrixProducts :
    let h (k k2 : Nat) : State := filled (filled (withG base (own 0x400) (own 0x800) 0) 0x400 2 k) 0x800 2 k2
    let s := filled (filled (h 32 32) 0x480 1 3) 0x880 1 5
    let s : State := { s with me := { s.me with ctl := { s.me.ctl with pix := 0 } } }
    let i := Instr.mma 1 0 false 1 2 false .q8
    allOf [clearB i s, (s.g 1).toNat % 128 == 0, s.me.member == none, localByte s 0x400 == 32, decide (0x400 + 128 + 16 * 32 ≤ 0x30000), s.me.loc.empty == [],
      s.me.loc.poison == [], yields (s.operand (own 0x400)) (fun a => yields (s.operand (own 0x800)) fun b => yields (mmaRun 1 .q8 false a b s) fun t => t.zElem 1 0 == 15),
      after (exec i (h 33 33)) (fun t => t.me.ctl.tcause == 3 && t.me.ctl.tval == own 0x400),
      after (exec i (h 32 64)) (fun t => t.me.ctl.tcause == 3 && t.me.ctl.tval == own 0x800)] = true := by decide +kernel

theorem wit_QuantizationResults :
    let s := withG (withV (base.setP 1 3) (lanes 32 [0x40400000, 0]) (lanes 8 [5, 8])) (0x3C00 + 2 ^ 16 * 5) 0 0
    let q := s.qparam false 1 .f32
    allOf [(Instr.quant 3 1 false 1 1 .f32).wf, clearB (.quant 3 1 false 1 1 .f32) s, q.code (fmt32.unpack 0x40400000) == some 8, q.code (fmt32.unpack 0) == some 5,
      yields (quantFrom 3 q fmt32 16 (s.me.mask 1 16) (lanesOf 32 (s.v 1)) 16 0 s) (fun _ => true),
      after (exec (.quant 3 1 false 1 1 .f32) s) (fun t => t.v 3 == lanes 8 [8, 5] && t.me.ctl.pix == 0), (Instr.dquant 3 2 false 1 1 .f32).wf,
      clearB (.dquant 3 2 false 1 1 .f32) s, after (exec (.dquant 3 2 false 1 1 .f32) s) (fun t => t.v 3 == lanes 32 [0, 0x40400000])] = true := by decide +kernel

/-- A command for accumulator 1 to be cleared, in a 32-byte block. -/
def clearBlock : Nat := (encode (.zclr 1 0 false)).toNat

/-- Each answer of CAPGRANT at its boundary; a command that is none and one that is; MCMD.t before it has sent, while it waits,
and with either answer. -/
theorem wit_CommandsAreGrantedAndSent :
    let s := filled (withG base (1 + 2 ^ 13) (own 0x100) (2 ^ 13 * 1024 + 2 ^ 24 * 512)) 0x100 32 clearBlock
    let z := withG base 0 (own 0x100) (2 ^ 13 * 1024 + 2 ^ 24 * 513)
    let a (x : Option Bool) : State := { s with me := { s.me with asked := [(0x1000, x)] } }
    allOf [clearB (.capgrant 4 1 0) s, field (s.g 1) 0 13 != s.me.lcore.toNat, after (exec (.capgrant 4 1 0) s) (fun t => t.g 4 == 1),
      decide (1536 < field (z.g 3) 13 11 + field (z.g 3) 24 11), after (exec (.capgrant 4 3 0) z) (fun t => t.g 4 == 2),
      after (exec (.capgrant 4 3 0) s) (fun t => t.g 4 == 0), clearB (.capdrop 1) s, yields (s.commandBlock 2) (fun x => x.1 == some (BitVec.ofNat 256 clearBlock)),
      yields (z.commandBlock 2) (fun x => x.1 == none), clearB (.mcmd 4 1 2) s, after (exec (.mcmd 4 1 2) z) (fun t => t.g 4 == 1),
      after (exec (.mcmd 4 1 2) s) (fun t => t.g 4 == 0 && t.dev.net.length == 1), clearB (.mcmdT 4 1 2) s, s.me.asked == [],
      after (exec (.mcmdT 4 1 2) z) (fun t => t.g 4 == 1), after (exec (.mcmdT 4 1 2) s) (fun t => t.me.wait == some .mcmd && t.dev.net.length == 1),
      after (exec (.mcmdT 4 1 2) (a (some true))) (fun t => t.g 4 == 0 && t.me.asked == []), after (exec (.mcmdT 4 1 2) (a (some false))) (fun t => t.me.ctl.tcause == 0x0C),
      after (exec (.mcmdT 4 1 2) (a none)) (fun t => t.me.wait == some .mcmd && t.dev.net == [])] = true := by decide +kernel

/-- IDLE before it waits, with an interrupt, with its limit passed, and still waiting; DONE outside an instance, with a store
under way, and to its end. -/
theorem wit_SystemInstructions :
    let i (c l : W64) (e : Bool) : State := { base with me := { base.me with wait := some (.idle c l e) } }
    let p : State := { base with me := { base.me with irqs := [.preempt 0] } }
    let m := crewed 1 []
    let u : State := { m with me := { m.me with ctl := { m.me.ctl with unack := 1 } } }
    allOf [clearB (.idle 1) base, base.me.irqs == [], base.me.wait == none, after (exec (.idle 1) base) (fun t => t.me.wait == some (.idle 0 0 false)),
      p.me.irqs != [], after (exec (.idle 1) p) (fun t => t.me.pc == 0x1004), after (exec (.idle 1) (i 0 1 true)) (fun t => t.me.pc == 0x1004),
      after (exec (.idle 1) (i 0 1 false)) (fun t => t.me.pc == 0x1000), clearB .done base, base.me.member == none,
      after (exec .done base) (fun t => t.me.ctl.tcause == 1), clearB .done u, u.me.member == some ⟨0, 0, 0, 0⟩, u.me.hints == .none, u.me.ctl.unack != 0,
      after (exec .done u) (fun t => t.me.wait == some .done), clearB .done m, m.me.ctl.unack == 0, !m.selfRelease.engineBusy 0, m.me.mcmds == [],
      after (exec .done m) (fun _ => true)] = true := by decide +kernel

/-- A state whose granule 0 belongs to stave 0: areas may lie in it. -/
def withAreas (x y : W64) : State :=
  let s : State := { base with dev := base.dev.setOwn (.granule, 0) .owned 0 }
  withG s x y 0

/-- Misaligned and missing addresses, an address outside the granules of the stave, a bond, an area that must not be restored, and one
that may. -/
theorem wit_SystemInstructions_ctxsw :
    let i := Instr.ctxsw 3 1 2
    let s := withAreas 0 0x10000
    let b : State := { s with me := { s.me with bond := .follow } }
    let r : State := { s with dev := { s.dev with mem := s.dev.mem.writeN 0x40100 8 4 } }
    allOf [clearB i s, after (exec i (withAreas 0x8000 0x10000)) (fun t => t.me.ctl.tcause == 3 && t.me.ctl.tval == 0x8000),
      after (exec i (withAreas 0 0)) (fun t => t.me.ctl.tcause == 3 && t.me.ctl.tval == 0),
      after (exec i (withAreas 0 0x18000)) (fun t => t.me.ctl.tcause == 3 && t.me.ctl.tval == 0x18000),
      (withAreas 0 0x4000000).areaBad 0 0x4000000 == some 0x4000000, after (exec i (withAreas 0 0x4000000)) (fun t => t.me.ctl.tcause == 4),
      (withAreas 0 0x3FE0000).areaBad 0 0x3FE0000 == some 0x4000000, (withAreas 0 0x10000).areaBad 0 0x10000 == none,
      after (exec i b) (fun t => t.g 3 == 3), r.areaRefused 0x10000, after (exec i r) (fun t => t.g 3 == 2), !s.areaRefused 0x10000,
      !(s.areaState 0x10000).tagged, Memory.wf s.dev.mem, s.me.bond == .none, s.me.pair == none] = true := by decide +kernel

theorem onStave_mem (s : State) (n : BitVec 6) (f : Stave → Stave) : (s.onStave n f).dev.mem = s.dev.mem := rfl

/-- Tags are read from memory alone. -/
theorem tagsMatch_mem (s t : State) (base : Nat) (h : t.dev.mem = s.dev.mem) : t.tagsMatch base = s.tagsMatch base := by
  unfold State.tagsMatch Dev.peek
  rw [h]

/-- An area whose state word is tagged: one of these two states holds a tag that does not match, whatever the tags are; and the same
where it is the area of a member. -/
theorem wit_SystemInstructions_tags :
    let s := withAreas 0 0x10000
    let u (x : Nat) : State := { s with dev := { s.dev with mem := (s.dev.mem.writeN 0x40100 8 1).writeN 0x50000 8 x } }
    let m (x : Nat) : State := (u x).onStave 0 fun t => { t with saved := [(0x10000, { Core.reset with member := some ⟨0, 0, 0, 0⟩ })] }
    let meets (s : State) (m : Option Member) : Bool := clearB (.ctxsw 3 1 2) s && !s.areaRefused 0x10000 && (s.areaState 0x10000).tagged &&
      s.areaMember 0x10000 == m
    ∃ x, meets (u x) none = true ∧ (u x).tagsMatch 0x10000 = false ∧ meets (m x) (some ⟨0, 0, 0, 0⟩) = true ∧
      (m x).tagsMatch 0x10000 = false := by
  intro s u m meets
  have hm (x : Nat) (h : (u x).tagsMatch 0x10000 = false) : (m x).tagsMatch 0x10000 = false := (tagsMatch_mem (u x) (m x) _ (onStave_mem _ _ _)).trans h
  have h (x y : Nat) (hx : w64 ((u x).dev.peek 0x50000 8) = w64 y)
      (hl : lineTag (u x).dev.mem 0x10000 0 (BitVec.ofNat 32 ((u x).dev.peek (0x10000 + 0x30100 + 8 * 29) 4)) = Config.integrityTag 0 0 0)
      (hn : w64 y ≠ Config.integrityTag 0 0 0) : (u x).tagsMatch 0x10000 = false := by
    unfold State.tagsMatch
    refine List.all_eq_false.mpr ⟨0, List.mem_range.mpr (by decide), ?_⟩
    simp only [beq_iff_eq]
    intro e
    exact hn (hx.symm.trans (e.trans hl))
  have hl (x : Nat) (h1 : (u x).dev.mem.readN 0x10000 128 = 0) (h2 : (u x).dev.peek (0x10000 + 0x30100 + 8 * 29) 4 = 0) :
      lineTag (u x).dev.mem 0x10000 0 (BitVec.ofNat 32 ((u x).dev.peek (0x10000 + 0x30100 + 8 * 29) 4)) = Config.integrityTag 0 0 0 := by
    unfold lineTag
    rw [h2]
    show Config.integrityTag ((u x).dev.mem.readN 0x10000 128) 0 0 = _
    rw [h1]
  by_cases e : w64 0 = Config.integrityTag 0 0 0
  · have ht := h 1 1 (by decide +kernel) (hl 1 (by decide +kernel) (by decide +kernel)) (by rw [← e]; decide)
    exact ⟨1, by decide +kernel, ht, by decide +kernel, hm 1 ht⟩
  · have ht := h 0 0 (by decide +kernel) (hl 0 (by decide +kernel) (by decide +kernel)) e
    exact ⟨0, by decide +kernel, ht, by decide +kernel, hm 0 ht⟩

/-- CPAIR with a bond, without a partner, before the partner comes, with the partner there, and with the partner elsewhere. -/
theorem wit_SystemInstructions_pairs :
    let s := crewed 2 []
    let b : State := { s with me := { s.me with bond := .follow, rank := 0, crew := [0, 1] } }
    let w := encode (.cpair 5)
    let j := joining s 1 0x1000 w
    let e := joining s 1 0x2000 w
    let n := joining s 1 0x1000 (encode (.unpair 5))
    allOf [clearB (.cpair 3) b, after (exec (.cpair 3) b) (fun t => t.g 3 == 0),
      base.partner == none, after (exec (.cpair 3) base) (fun t => t.me.pc == 0x1004), s.partner == some 1, (s.coreAt 1).joinAt == none,
      after (exec (.cpair 3) s) (fun t => t.me.wait == some (.join (encode (.cpair 3)))), (j.coreAt 1).joinAt == some (0x1000, w),
      joinKind w == joinKind (encode (.cpair 3)), joinReg w == 5,
      after (exec (.cpair 3) j) (fun t => t.me.pair == some 1 && (t.coreAt 1).pair == some 0 && t.g 3 == 1 && (t.focus 1).g 5 == 1),
      after (exec (.cpair 3) e) (fun t => t.me.pair == none && t.g 3 == 0 && (t.coreAt 1).wait == none && (t.coreAt 1).pc == 0x2004 &&
        (t.focus 1).g 5 == 0), clearB (.unpair 3) s, joinKind (encode (.unpair 5)) != joinKind w,
      after (exec (.cpair 3) n) (fun t => t.me.pair == none && t.g 3 == 0 && (t.coreAt 1).wait == none),
      after (exec (.unpair 3) n) (fun t => t.me.pair == none && t.g 3 == 1)] = true := by decide +kernel

/-- Every register that software writes takes all ones or all ones but what it must not hold; and the values that are not taken. -/
theorem wit_ControlRegistersKeepTheirBits :
    let w (n : BitVec 12) (x : W64) (p : State → Bool) : Bool := clearB (.cwr 1 n) (base.setG 1 x) && after (exec (.cwr 1 n) (base.setG 1 x)) p
    let sel (n : BitVec 12) : W64 :=
      if n == 0x41 || n == 0x6B then (-1) - 15 else if n == 0x52 then 0x41814 else if n == 0x54 then 0x40000000400 else -1
    allOf [contextRegs.all (fun r => takes r.1 (-1) && w r.1 (-1) (fun t => t.control r.1 == r.2)),
      sharedRegs.all (fun r => takes r.1 (sel r.1) && w r.1 (sel r.1) (fun t => t.control r.1 == sel r.1 &&& r.2)),
      readOnlyRegs.all (fun n => w n (-1) (fun t => t.me.pc == 0x1004)),
      !takes 0x0C 0x100, w 0x0C 0x100 (fun t => t.control 0x0C == 4), !takes 0x41 13, !takes 0x52 0x41809, !takes 0x52 0x40914, !takes 0x52 0x48814, !takes 0x52 0x814,
      !takes 0x54 1, !takes 0x54 1025, !takes 0x55 0, !takes 0x6B 11, w 0x6B 11 (fun t => t.control 0x6B == 0), w 0x05 4 (fun t => t.me.ctl.ie),
      w 0x03 0xFFFF (fun t => t.me.ctl.sid == 0x3FF), w 0x31 9 (fun t => t.me.ctl.retired == 9 || t.me.ctl.retired == 10),
      clearB (.crd 2 0x00) base, clearB (.crd 2 0x6E) base, after (exec (.crd 2 0x6E) base) (fun t => field t.dev.rbsel 3 5 == 1)] = true := by decide +kernel

/-- A job of stave 0 without instances. -/
def withJob : State := base.onStave 0 fun t => { t with jobs := [oneStage 1 []] }

/-- Each answer, at the boundary of its condition. -/
theorem wit_FaultServiceInstructions :
    let v : State := { base with me := { base.me with ctl := { base.me.ctl with mode := .stave } } }
    let g (s : State) (i : Instr) (a b x : W64) : Bool := clearB i (withG s a b 0) && after (exec i (withG s a b 0)) (fun t => t.g 4 == x)
    let e : State := { base with me := { base.me with tlb := [⟨0, 1, 0, 7, 0, []⟩] } }
    let f : State := base.onStave 0 fun t => { t with fqTail := 3, fqHead := 1 }
    allOf [g base (.tlbinv 4 1 2) 0 0x40000 1, g base (.tlbinv 4 1 2) 0 0x30000 1, g v (.tlbinv 4 1 2) 0 0x400 1, g v (.tlbinv 4 1 2) 0 0x3FF 0, g base (.tlbinv 4 1 2) 0 0x2FFFF 0,
      tlbinvHits 0x1000 0 ⟨0, 1, 0, 7, 0, []⟩, after (exec (.tlbinv 4 1 2) (withG e 0x1000 0 0)) (fun t => t.me.tlb == []),
      !tlbinvHits 0x2000 0 ⟨0, 1, 0, 7, 0, []⟩, after (exec (.tlbinv 4 1 2) (withG e 0x2000 0 0)) (fun t => t.me.tlb.length == 1),
      g base (.freplay 4 1 2) 0 0x10000 (-1), g v (.freplay 4 1 2) 0 0x400 (-1), g base (.freplay 4 1 2) 0 0xFFFF 0, g base (.fkill 4 1 2) 0 0x40 2,
      g base (.fkill 4 1 2) 0 0x1000 2, g base (.fkill 4 1 2) 0 0xF3F 1, g withJob (.fkill 4 1 2) 9 0xF00 0, g f (.fqack 4 1) 3 0 0, g f (.fqack 4 1) 4 0 1, g f (.fqack 4 1) 0 0 1] =
      true := by decide +kernel

/-- base in whose device cluster 5 of die 0 belongs to stave 0. -/
def owned (st : OwnState) : State := { base with dev := base.dev.setOwn (.cluster, 5) st 0 }

/-- An instruction that passes the earlier checks and answers in g4. -/
def answers (i : Instr) (s : State) (x : W64) : Bool := clearB i s && after (exec i s) (fun t => t.g 4 == x)

/-- Requests for cluster 5 of die 0: out of range, of a unit that is not free, granted; a unit that is draining and one that leaves. -/
theorem wit_StaveRequestsAreAnswered_units :
    let w : W64 := 40 * 2 ^ 16
    let s := withG (owned .owned) w 0 (w + 64)
    let f := withG base w 0 0
    allOf [clearB (.stvgrow 4 1 2) s, after (exec (.stvgrow 4 1 2) (s.setG 2 8)) (fun t => t.me.ctl.tcause == 3), reqBad (w + 64), answers (.stvgrow 4 3 2) s 5,
      !reqBad w, reqUnits w == [(.cluster, 5)], !s.dev.isFree (.cluster, 5), answers (.stvgrow 4 1 2) s 2, f.dev.isFree (.cluster, 5), answers (.stvgrow 4 1 2) f 0, answers (.stvgrow 4 1 2) { f with dev := { f.dev with boot := .recovery } } 5,
      answers (.stvshrink 4 3 2) s 5, (owned .draining).dev.ownState .cluster 5 0 == some .draining, answers (.stvshrink 4 1 2) (withG (owned .draining) w 0 0) 1,
      (shrinkAct w 0 s).1 == .ok, answers (.stvshrink 4 1 2) s 0, unitBad 0, answers (.quar 4 2 2) s 5, !unitBad 0x10000000,
      (quarAct 0x10000000 0 ({ s with dev := { s.dev with quarantined := [0x10000000] } })).1 == .ok,
      answers (.quar 4 1 2) ({ s with dev := { s.dev with quarantined := [0x10000000] } }.setG 1 0x10000000) 0] = true := by decide +kernel

/-- MIGRATE of an instance on core 0 to core 40, to a core that is not its stave's, and of no instance; STVMAP with a reserved bit, and of
an entry that becomes valid. -/
theorem wit_StaveRequestsAreAnswered_moves :
    let c := crewed 1 []
    let s : State := { c with dev := c.dev.setOwn (.cluster, 5) .owned 0 }
    let w : W64 := 40 * 2 ^ 32
    allOf [clearB (.migrate 4 1 2) (s.setG 1 w), (migrateAct w 0 s).1 == .ok, zeroAt w 6 10, zeroAt w 29 3, zeroAt w 45 19, decide (field w 35 8 < 200),
      (s.stave.ledBy 0).isSome, s.coreFree 0 [] 40, answers (.migrate 4 1 2) (s.setG 1 w) 0, (migrateAct (w + 2 ^ 16) 0 s).1 == .badArg,
      answers (.migrate 4 1 2) (s.setG 1 (w + 2 ^ 16)) (ShopStatus.badArg).code, (migrateAct (48 * 2 ^ 32) 0 s).1 == .noRoom,
      clearB (.stvmap 4 1 2) s, (mapAct 64 0 s).1 == .badArg, answers (.stvmap 4 1 2) (s.setG 1 64) 5, (mapAct (7 * 2 ^ 16) 0x8029 s).1 == .ok,
      answers (.stvmap 4 1 2) ((s.setG 1 (7 * 2 ^ 16)).setG 2 0x8029) 0] = true := by decide +kernel

/-- A state in which stave 0 may change its home map. -/
def changing : State := withG { base with dev := base.dev.setOwn (.cluster, 0) .owned 0 } 0 (own 0x1000) 64

/-- A block of zeros names cluster 0 in every bucket; it may begin. -/
theorem wit_StaveRequestsAreAnswered_begin : (beginAct 0 0 changing).1 = .ok ∧ (beginAct 64 0 changing).1 = .badArg := by
  have hb : badBlock 0 = false := by
    have h (x : BitVec 16) (hx : x ∈ (nextBuckets 0).toList) : x = 0 := by
      simp [nextBuckets] at hx; exact hx.2.symm
    have h' (x : W64) (hx : x ∈ (nextMasks 0).toList) : x = 0 := by
      simp [nextMasks, w64] at hx; exact hx.2.symm
    have e1 : (nextBuckets 0).toList.any (fun e => !zeroAt e 10 6 || decide (200 ≤ field e 0 8)) = false :=
      List.any_eq_false.mpr fun x hx => by rw [h x hx]; decide
    have e2 : (nextMasks 0).toList.any (fun m => !zeroAt m 52 12 || !zeroAt m 0 7) = false :=
      List.any_eq_false.mpr fun x hx => by rw [h' x hx]; decide
    have e3 : (nextSync 0).toNat % 16 = 0 := by
      unfold nextSync
      rw [Nat.zero_div]
      decide
    unfold badBlock
    simp only [e1, e2, e3, bne_self_eq_false, Bool.or_false]
  have ho : (nextBuckets 0).toList.all (fun e => changing.dev.ownedBy .cluster e.toNat 0) = true :=
    List.all_eq_true.mpr fun x hx => by
      have : x = 0 := by simp [nextBuckets] at hx; exact hx.2.symm
      rw [this]; decide +kernel
  have ht : (changing.dev.stave 0).trans = none ∧ (changing.dev.stave 0).shrinks = [] := ⟨rfl, rfl⟩
  have hz : zeroAt (0 : W64) 6 58 = true ∧ zeroAt (64 : W64) 6 58 = false := by decide
  constructor
  · unfold beginAct
    have e : (0 : W64).extractLsb' 0 6 = (0 : BitVec 6) := by decide
    simp only [e, hz.1, hb, ht.1, ht.2, ho, Bool.not_true, Bool.or_false, Option.isSome_none, List.any_nil, Bool.false_eq_true, if_false]
  · unfold beginAct
    simp only [hz.2, Bool.not_false, Bool.true_or, if_true]

/-- A transition begins where cluster 0 is the stave's, and otherwise not; a commit without one, of a stave above 63, before its sweep and
after it. -/
theorem wit_StaveRequestsAreAnswered_transitions :
    let s := changing
    let t (swept : Bool) : State := s.onStave 0 fun v => { v with trans := some ⟨v.smask, v.buckets, 0, noIssuer, [], swept⟩ }
    allOf [clearB (.rhashBegin 4 1 2) s, yields (s.noPol.readBytes 18 (own 0x1000) 2176) (fun x => x.1 == 0 && x.2.me.loc == s.me.loc), !zeroAt (64 : W64) 6 58,
      answers (.rhashCommit 4 1) s 5, answers (.rhashCommit 4 3) (t true) 5, answers (.rhashCommit 4 1) (t false) 6,
      s.cores.all (fun k => (s.coreAt k).wait == none), answers (.rhashCommit 4 1) (t true) 0] = true := by decide +kernel

/-- A launch record with its job id and the place of its object. -/
def launchRecord : Nat := 2 ^ 64 * 7 + 2 ^ 128 * 9 + 2 ^ 192 * (own 0x1000).toNat

/-- An object of a text of 64 bytes and one stage of one core, and its launch record, in local memory. -/
def launchable : State :=
  let s := filled (owned .owned) 0x800 64 launchRecord
  let s := filled s 0x1000 64 (0x58565455 + 2 ^ 32 + 2 ^ 64 * 2 + 2 ^ 128 * 128)
  let s := filled s 0x1080 64 (1 + 2 ^ 64 * 0x200 + 2 ^ 128 * 64 + 2 ^ 256 * (5 + 2 ^ 64 * 0x240 + 2 ^ 128 * 64 + 2 ^ 192))
  let s := filled s 0x1240 64 (2 ^ 192 + 2 ^ 224 + 2 ^ 240)
  withG s (own 0x800) (own 0x840) (own 0x900)

/-- LAUNCH of a misaligned record, a bad one, an id that a job has, with 64 jobs, of a bad object, and of a good one. -/
theorem wit_StaveRequestsAreAnswered_launch :
    let s := launchable
    let r := BitVec.ofNat 1024 launchRecord
    let z := filled s 0x1000 64 0
    let twice := s.onStave 0 fun t => { t with jobs := [{ oneStage 1 [] with record := r }] }
    let full := s.onStave 0 fun t => { t with jobs := List.replicate 64 (oneStage 1 []) }
    allOf [clearB (.launch 4 1) s, after (exec (.launch 4 2) s) (fun t => t.me.ctl.tcause == 3), yields (s.noPol.load (own 0x800) 128) (fun x => BitVec.ofNat 1024 x.1 == r &&
        yields (x.2.readObject (own 0x1000)) fun o => o.1.isSome), !badRecord r, badRecord 0, answers (.launch 4 3) s 2,
      (twice.stave.jobs.any fun j => j.jobid == r.extractLsb' 128 64), answers (.launch 4 1) twice 5, full.stave.jobs.length == 64,
      !(full.stave.jobs.any fun j => j.jobid == r.extractLsb' 128 64), answers (.launch 4 1) full 4, yields (z.readObject (own 0x1000)) (fun o => o.1.isNone),
      answers (.launch 4 1) z 3, answers (.launch 4 1) s 0] = true := by decide +kernel

/-- The device of base, changed. -/
def withDev (f : Dev → Dev) : State := { base with dev := f base.dev }

/-- Two cores hold word 3 of line 5 modified. -/
def rebuildTwo (v : State) : State :=
  { v with
    me := { v.me with l1 := [⟨0, 83, 7, 1, false⟩] }
    dev := v.dev.setDir ⟨5, 0, [⟨0, 15, .m, [1], some 1, 8⟩], [(1, 0xFFFF)]⟩
    others := [(1, { Core.reset with live := true })] }

theorem wit_HomesAndEnginesServe_homes :
    let v : State := withDev fun d => d.setDir ⟨5, 0, [⟨0, 15, .e, [1], some 1, 0⟩], [(1, 0xFFFF)]⟩
    allOf [(base.coreAt 0).live, (base.coreAt 0).ctl.sid == 0, decide ((base.l1Lines 0 (5 % 16)).length < 16), base.dev.dir.all (fun d => d.line != 5),
      after (exec (.readRequest 0 0 5 1) base) (fun t => (t.dev.dirLine 5 0).segs == [⟨0, 15, .e, [0], some 0, 0⟩]),
      after (exec (.writeRequest 0 0 5 1) base) (fun t => (t.dev.dirLine 5 0).segs == [⟨0, 15, .m, [0], some 0, 1⟩]),
      (v.dev.dirLine 5 0).segs == [⟨0, 15, .e, [1], some 1, 0⟩], after (exec (.readRequest 0 0 5 1) v) (fun t => (t.dev.dirLine 5 0).segs == readSegs 0 1 (v.dev.dirLine 5 0).segs),
      after (exec (.nonAllocatingRequest 0 0 5 1 true) v) (fun t => (t.dev.dirLine 5 0).segs == homeSegs 1 (v.dev.dirLine 5 0).segs),
      !(base.coreAt 9).live, after (exec (.readRequest 9 0 5 1) base) (fun t => t.dev.dir == []), after (exec (.readRequest 0 0 5 0) base) (fun t => t.dev.dir == []),
      after (exec (.directoryRebuild 5) v) (fun t => t.dev.dir == []),
      base.me.l1.all (fun w => w.word / 16 != 5), after (exec (.directoryRebuild 5) (rebuildTwo v)) (fun t => t.dev.dir == [] && t.me.l1 == [] && t.dev.poison == [83])] = true := by decide +kernel

/-- A copy by a template from given source and destination addresses, its issuer's PTBASE given, active on channel 0 of core 0. -/
def copying (src dst ptbase : W64) : State :=
  let t : BitVec 512 := BitVec.ofNat 512 (src.toNat + 2 ^ 64 * dst.toNat + 2 ^ 128 * 64 + 2 ^ 160 + 2 ^ 192 + 2 ^ 384 * 0x3000)
  { base with me := { base.me with chans := base.me.chans.setIfInBounds 0 ⟨some ⟨0, 0, t, [], [], 0, { base.issuer with ptbase := ptbase }, 0⟩, []⟩ } }

/-- A line of BPREF that counts, one beyond its end, and one twice; a sector that lands, one that is refused, and one that is parked. -/
theorem wit_HomesAndEnginesServe_engines :
    let b : State := withDev fun d => { d with bprefs := [⟨base.issuer, 0x2000, 256, 0x3000, 0, 0, [0]⟩] }
    let sec (s : State) : Option (SectorData × Bool) :=
      ((s.coreAt 0).chan 0).active.bind fun cp => ((tmplOf cp.tmpl).sectors cp.arg)[0]?.map fun x =>
        let q := (s.focus 0).sectorData cp.who (tmplOf cp.tmpl) cp.arg x
        (q.1, match (q.2.enginePlace cp.who ((tmplOf cp.tmpl).dstOf cp.arg x) .write x.len).1 with | .ok _ => true | _ => false)
    let c := copying (own 0x800) (own 0x400) 0
    let r := copying (own 0x30000) (own 0x400) 0
    let p := copying 0x2000 (own 0x400) 1
    allOf [(b.dev.bprefs.map fun x => x.lines) == [2], after (exec (.bprefLine 0 1) b) (fun t => t.dev.bprefs == []), after (exec (.bprefLine 0 2) b) (fun t => t.dev.bprefs.length == 1),
      after (exec (.bprefLine 0 0) b) (fun t => t.dev.bprefs.length == 1), !c.forkWaits 0 0, (sec c).any (fun x => x.2 && (match x.1 with | .ok _ [] _ => true | _ => false)),
      after (exec (.copySector 0 0 0) c) (fun t => ((t.coreAt 0).chan 0).active == none), (sec r).any (fun x => x.1 == .stop .refused),
      after (exec (.copySector 0 0 0) r) (fun t => ((t.coreAt 0).chan 0).active == none), (sec p).any (fun x => x.1 == .stop (.parked (2, AccKind.read.code))),
      after (exec (.copySector 0 0 0) p) (fun t => ((t.coreAt 0).chan 0).active.any fun x => x.parked == [(0, 2, AccKind.read.code)])] = true := by decide +kernel

/-- A push to a consumer that the pattern's domain holds, and one whose pattern is not bound. -/
theorem wit_HomesAndEnginesServe_pushes :
    let s := crewed 1 []
    let p : State := { s with dev := { s.dev with pushes := [⟨5, 0xFF, 0, 0, false, 0, 0, 0⟩] } }
    let b := p.onPat 0 0 0 fun _ => { Pattern.off with st := .play, level := 3 }
    allOf [b.dev.pushes.all (fun x => b.consumer x == some 0 && p.consumer x == none), !(b.dev.dirLine 5 0).holds 0 0xFF, b.dev.dir == [],
      after (exec (.pushDelivery 0) b) (fun t => t.dev.pushes == [] && t.dev.unread == [⟨5, 0xFF, 0, 0, 0, 0, 0⟩] && (t.dev.dirLine 5 0).holds 0 0xFF),
      after (exec (.pushDelivery 0) p) (fun t => t.dev.pushes == [] && t.dev.dir == [])] = true := by decide +kernel

/-- A host line that the device holds, owned and written back; one that a core waits for, with CXL and without; a line of the device that
the host gives up. -/
theorem wit_HomesAndEnginesServe_host :
    let l := 3 * 2 ^ 44 + 4
    let cxl (d : Dev) : Dev := { d with link := .cxl 16 }
    let h : State := withDev fun d => { cxl d with devHolds := [l], devOwns := [l] }
    let w (l : Nat) (f : Dev → Dev) : State := { base with me := { base.me with wait := some (.host l true) }, dev := f base.dev }
    let y : State := w 6 fun d => d.setDir ⟨3, 0, [⟨0, 15, .s, [hostHolder], none, 0⟩], [(hostHolder, 0xFF)]⟩
    allOf [isHostLine l, !isHostLine 6, after (exec (.hostSnoop l) h) (fun t => t.dev.devHolds == [] && t.dev.devOwns == [] && t.dev.hostSent.map (·.hline) == [l]),
      after (exec (.hostSnoop 5) h) (fun t => t.dev.devHolds == [l]), (w l cxl).awaitsHost l true, (w l cxl).awaitsHost l false, (w l cxl).dev.cxl, !(w l cxl).awaitsHost 7 false,
      after (exec (.hostDataResponse l) (w l cxl)) (fun t => t.dev.devHolds == [l] && t.dev.devOwns == [l]), after (exec (.hostDataResponse 7) (w l cxl)) (fun t => t.dev.devHolds == []),
      !(w l id).dev.cxl, after (exec (.hostDataResponse l) (w l id)) (fun t => t.dev.devHolds == []), y.awaitsHost 6 false,
      after (exec (.hostDataResponse 6) y) (fun t => (t.dev.dirLine 3 0).has hostHolder == 0),
      after (exec (.hostPoisonResponse l) h) (fun t => t.dev.poison == (List.range 8).map fun i => 8 * l + i), after (exec (.hostPoisonResponse l) (w l cxl)) (fun t => t.dev.poison.length == 8),
      after (exec (.hostPoisonResponse 5) h) (fun t => t.dev.poison == [])] = true := by decide +kernel

/-- An HDM access, one outside every range, over PCIe and with the link down. -/
theorem wit_HomesAndEnginesServe_hdm :
    let at' (l : LinkState) : State := withDev fun d => { d.setOwn (.granule, 3) .owned 1 with link := l, hdm := [⟨0x4000000, 1, [some 3]⟩] }
    let m := at' (.cxl 16)
    let w : State := { m with dev := { m.dev with mem := Cells.writeN [] 0xC000040 64 77 } }
    let same (o : Out) : Bool := after o fun t => t.dev.answer == none && t.dev.dir == []
    allOf [decide (0x8000000 < bar0Base 0), m.dev.hdmTarget 0x4000040 == some (0xC000040, 1), m.dev.hdmTarget 0x8000000 == none, m.dev.hdmTarget 0x7FFFFC0 == some (0xFFFFFC0, 1), !m.looseSpan .dir 0xC000040 64,
      after (exec (.hostMemRequest 0x4000047 true 9) m) (fun t => t.dev.peek 0xC000040 64 == 9), after (exec (.hostMemRequest 0x8000000 true 9) m) (fun t => t.dev.mem == []),
      after (exec (.hostMemRequest 0x8000000 false 9) m) (fun t => t.dev.answer.any fun x => x.bad && x.addr == 0x8000000),
      after (exec (.hostMemRequest 0x4000047 false 0) w) (fun t => t.dev.dir.length == 1 && t.dev.answer == some ⟨none, 0x4000047, 77, false⟩),
      same (exec (.hostMemRequest 0x4000040 false 0) (at' .down)), same (exec (.hostMemRequest 0x4000040 false 0) (at' (.pcie 16)))] = true := by decide +kernel

/-- A peer with a grant, one without, with poison, and an address that is not this device's; a load, a store and an addition of 8 bytes. -/
theorem wit_HomesAndEnginesServe_peers :
    let g : State := withDev fun d => { (d.setOwn (.granule, 0) .owned 1).setStave 1 { Stave.reset with peertab := 0x100000 } with
      mem := (d.mem.writeN 0x100000 8 (2 ^ 63 + 2 ^ 62 + 2 ^ 61 + 2 ^ 52 * 7)).writeN 0x2000 8 3 }
    let b : State := { g with dev := { g.dev with poison := [0x400] } }
    allOf [g.dev.paKind 0x2000 == .dram, g.dev.paKind (2 ^ 51) != .dram, peerBytes 0x0C == 8, peerBytes 0x0D == 8, peerBytes 0x2E == 8, peerBytes 0x1E == 8, field (0x2E : BitVec 9) 5 4 == 1,
      peerWrites 0x2E, !peerWrites 0x0C, g.dev.peerPermitted 7 0x2000 true, g.dev.peerPermitted 7 0x2000 false, !g.dev.peerPermitted 8 0x2000 true, !g.looseSpan .dir 0x2000 8, g.dev.pushes == [],
      (firstPoison g.dev.poison 0x2000 8).isNone, (firstPoison b.dev.poison 0x2000 8).isSome, after (exec (.peerAccess 7 0x2000 0x0D 5) g) (fun t => t.dev.peek 0x2000 8 == 5),
      after (exec (.peerAccess 7 0x2000 0x2E 5) g) (fun t => t.dev.peek 0x2000 8 == 8 && t.dev.answer == some ⟨some 7, 0x2000, 3, false⟩),
      after (exec (.peerAccess 7 0x2000 0x0C 5) g) (fun t => t.dev.peek 0x2000 8 == 3 && t.dev.answer == some ⟨some 7, 0x2000, 3, false⟩),
      after (exec (.peerAccess 8 0x2000 0x0D 5) g) (fun t => t.dev.peek 0x2000 8 == 3 && t.dev.answer == none), after (exec (.peerAccess 8 0x2000 0x0C 5) g) (fun t => t.dev.answer.any (·.bad)),
      after (exec (.peerAccess 7 0x2000 0x0C 5) b) (fun t => t.dev.answer.any (·.bad)), after (exec (.peerAccess 7 (2 ^ 51) 0x0D 5) g) (fun t => t.dev.peek 0x2000 8 == 3)] = true := by decide +kernel

/-- Core 0 of a placed instance, with slot 3 bound to stream 0 as given, and one item in the network. -/
def reached (bind : W64) (head tail : BitVec 32) (x : NetItem) : State :=
  let s := crewed 1 [stream]
  { s with dev := { s.dev with net := [x] }, me := { s.me with slots := s.me.slots.setIfInBounds 3 ⟨bind, head, tail, 0⟩ } }

/-- A matrix command of a capability over all of core 0's local memory, which may write accumulators: clear accumulator 1. -/
def cleared : MCmd := ⟨2 ^ 24 * 1536 + 2 ^ 35 * 7, BitVec.ofNat 256 clearBlock, noIssuer, 0, none, 0⟩

/-- A store to a full line and to an empty one; messages into a ring with room and without, into a queue; an end; a command that is
accepted, without room, refused; a report. -/
theorem wit_CoresAreReached_items :
    let st : NetItem := { sent with kind := .store, off := 0x100, size := 8 }
    let s := reached 1 0 0 st
    let e : State := { s with me := { s.me with loc := { s.me.loc with empty := [2] } } }
    let cm : NetItem := { sent with kind := .command, cmd := some cleared }
    let c (caps : List W64) (q : List MCmd) : State :=
      let t := reached 1 0 0 cm
      { t with me := { t.me with caps := Vector.replicate 8 (caps.headD 0), mcmds := q } }
    let r : State := { reached 1 0 0 { sent with kind := .report } with me := { s.me with ctl := { s.me.ctl with unack := 1 } } }
    allOf [!s.mustWait 0 st, s.coreFor 0 0 0 == some 0, after (exec (.remoteStorePerform 0) s) (fun t => t.me.loc.bytes.readN 0x100 8 == 9),
      after (exec (.remoteStorePerform 0) e) (fun t => t.me.loc.bytes == []), ((reached 1 0 15 sent).logAllows 0 3 0 0).1, ((reached 1 0 15 sent).me.slot 3).cap == 16,
      ((reached 1 0 15 sent).me.slot 3).bound, after (exec (.messageArrival 0) (reached 1 0 15 sent)) (fun t => (t.me.slot 3).tail == 16 && t.dev.net == []),
      after (exec (.messageArrival 0) (reached 1 0 16 sent)) (fun t => t.dev.net.length == 1), after (exec (.messageArrival 0) (reached 3 0 0 sent)) (fun t => (t.me.queue 0).length == 1),
      after (exec (.endOfStreamArrival 0) (reached 1 0 0 { sent with kind := .eos })) (fun t => (t.me.slot 3).eos == 1), (reached 1 0 0 { sent with kind := .eos }).eosReady { sent with kind := .eos }, (c [cleared.cap] []).checkCommand 0 cleared == none,
      after (exec (.matrixCommandArrival 0) (c [cleared.cap] [])) (fun t => t.me.mcmds.length == 1), after (exec (.matrixCommandArrival 0) (c [cleared.cap] (List.replicate 32 cleared))) (fun t => t.me.mcmds.length == 32),
      (c [] []).checkCommand 0 cleared == some 0x20, after (exec (.matrixCommandArrival 0) (c [] [])) (fun t => t.me.mcmds == [] && t.dev.net == []),
      after (exec (.remoteStoreAck 0) r) (fun t => t.me.ctl.unack == 0 && t.dev.net == []), (c [cleared.cap] [cleared]).commandReady cleared,
      after (exec (.matrixCommandRun 0) (c [cleared.cap] [cleared])) (fun t => t.me.mcmds == []), cleared.instr == some (.zclr 1 0 false)] = true := by decide +kernel

/-- An item refused at cycle 0 for the context of logical core 5, which is absent. -/
def diverted (cycle : W64) : State :=
  withDev fun d => { d.setStave 0 { Stave.reset with savebase := 0x80000, absent := [(5, { Core.reset with lcore := 5 })] } with
    cycle := cycle, net := [{ sent with dst := 5, refused := some 0 }] }

/-- The inbox before and at 2,048 cycles; a remote access granted; a world access at its limit and past it; an asynchronous trap, an
interrupt, and neither; IDLE's limit. -/
theorem wit_CoresAreReached_waits :
    let rem : State := { (crewed 2 []) with me := { (crewed 2 []).me with wait := some (.remote (0xFFFE000000000000 + 2 ^ 18) []) } }
    let w (cycle : W64) : State := { base with me := { base.me with wait := some (.world ⟨0, 77, none, none⟩) }, dev := { base.dev with cycle := cycle } }
    let limit := field (base.dev.stave 0).wwait 0 32 * 1024
    let a : State := { base with me := { base.me with async := some 9 } }
    let ie (x : Irq) : State := { base with me := { base.me with irqs := [x], ctl := { base.me.ctl with ie := true } } }
    let idle (cycle : W64) : State := { base with me := { base.me with wait := some (.idle 0 100 false) }, dev := { base.dev with cycle := cycle } }
    allOf [(diverted 2048).whereIs 0 5 0 == some (.absent 5), (diverted 2048).areaAt 0 (.absent 5) == 0x80000 * 6,
      after (exec (.inboxDiversion 0) (diverted 2047)) (fun t => t.dev.net.length == 1), after (exec (.inboxDiversion 0) (diverted 2048)) (fun t => t.dev.net == []),
      !(diverted 2048).mustWait 0 { sent with dst := 5, refused := some 0 }, (diverted 2048).inboxCount (0x80000 * 6) == 0, field (0xFFFE000000000000 + 2 ^ 18 : W64) 48 16 == 0xFFFE,
      rem.dev.net == [], (rem.dev.stave 0).coreOf? 1 == some 1, (rem.coreAt 1).live, after (exec (.remoteAccess 0) rem) (fun t => t.me.wait == some (.remote (0xFFFE000000000000 + 2 ^ 18) [0xFFFE000000000000 + 2 ^ 18])),
      limit == 0x1000000, after (exec (.worldStall 0) (w 0x1000000)) (fun t => t.me.ctl.tcause == 0), after (exec (.worldStall 0) (w 0x1000001)) (fun t => t.me.ctl.tcause == 0x0A && t.me.ctl.tval == 77),
      a.me.interruptDue, after (exec (.interrupt 0) a) (fun t => t.me.ctl.tcause == 0x0F && t.me.ctl.tval == 9 && t.me.async == none), (ie (.preempt 8)).me.interruptDue,
      after (exec (.interrupt 0) (ie (.preempt 8))) (fun t => t.me.ctl.tcause == 0x12 && t.me.ctl.tval == 8), after (exec (.interrupt 0) (ie (.moved 8))) (fun t => t.me.ctl.tcause == 0x15 && t.me.ctl.tval == 8),
      !base.me.interruptDue, after (exec (.interrupt 0) base) (fun t => t.me.ctl.tcause == 0), after (exec (.idleTimeout 0) (idle 100)) (fun t => t.me.wait == some (.idle 0 100 true)),
      after (exec (.idleTimeout 0) (idle 99)) (fun t => t.me.wait == some (.idle 0 100 false))] = true := by decide +kernel

/-- A trigger met by a member whose superstep is protected, is not, and of another cause; errors of each kind; an instance that must
leave. -/
theorem wit_CoresAreReached_errors :
    let tr (cause : BitVec 8) (ck : Ckpt) : State :=
      let s := crewed 1 []
      let s := s.onStave 0 fun t => t.onJob 0 fun j => { j with doms := [⟨3, 0, 0, 0, 0, [], ck⟩] }
      { s with me := { s.me with wait := some (.trigger cause 5) } }
    let off : Ckpt := ⟨false, true, 1, false, [], [], []⟩
    let on : Ckpt := ⟨true, false, 0, false, [], [], []⟩
    let s := crewed 1 []
    let leaving := s.onStave 0 fun t => { t with savebase := 0x80000, moves := [⟨0, 0, 0, none, 0, noIssuer⟩] }
    let job (t : State) : Option Job := (t.dev.stave 0).job? 0
    allOf [((job (tr 0x10 on)).bind fun j => j.ckpt? ⟨0, 0, 0, 0⟩).isSome, ((job (tr 0x10 off)).bind fun j => j.ckpt? ⟨0, 0, 0, 0⟩).all (fun d => d.ck.unprot),
      (job (tr 0x10 on)).all (fun j => (j.ckpt? ⟨0, 0, 0, 0⟩).all fun d => (tr 0x10 on).ckPoisoned 0 d (j.counted d) == none),
      after (exec (.rollback 0) (tr 0x10 off)) (fun t => t.me.ctl.tcause == 0x10 && t.me.ctl.tval == 5),
      after (exec (.rollback 0) (tr 0x11 off)) (fun t => (job t).any fun j => j.status == some (BitVec.ofNat 16 (triggerStatus 0x11)) && j.insts == []),
      after (exec (.rollback 0) (tr 0x10 on)) (fun t => (job t).any fun j => j.nrollbacks == 1 && j.rolled),
      after (exec (.errorDetected 7 0 true 0) base) (fun t => t.dev.errors == [(7, 1)]), after (exec (.errorDetected 0x10000000 0 false 0x2FFFF) base) (fun t => t.me.loc.poison == [0x5FFF]),
      after (exec (.errorDetected 0x30000000 0 false 0x3FFFFFFFFF) base) (fun t => t.dev.poison == [0x7FFFFFFFF]), unitCore 0x10000000 == 0, base.me.live,
      after (exec (.errorDetected 0x10000000 1 false 0) base) (fun t => t.me.ctl.tcause == 0x11), after (exec (.errorDetected 0x10000000 1 false 0) s) (fun t => t.me.wait == some (.trigger 0x11 0)),
      field (leaving.dev.stave 0).savebase 19 33 != 0] = true := by decide +kernel

/-- m with k words from address b up. -/
def tagged (m : Cells) (b : Nat) (f : Nat → W64) : Nat → Cells
  | 0 => m
  | k + 1 => (tagged m b f k).writeN (b + 8 * k) 8 (f k).toNat

theorem tagged_wf {m : Cells} (h : m.wf = true) (b : Nat) (f : Nat → W64) : ∀ k, (tagged m b f k).wf = true
  | 0 => h
  | k + 1 => writeN_wf 8 _ _ (tagged_wf h b f k)

theorem tagged_out {m : Cells} (h : m.wf = true) (b : Nat) (f : Nat → W64) (a n : Nat) :
    ∀ k, (a + n ≤ b ∨ b + 8 * k ≤ a) → (tagged m b f k).readN a n = m.readN a n
  | 0, _ => rfl
  | k + 1, ho => by
    rw [tagged, readN_writeN_out 8 n _ _ _ (tagged_wf h b f k) (by omega), tagged_out h b f a n k (by omega)]

theorem tagged_in {m : Cells} (h : m.wf = true) (b : Nat) (f : Nat → W64) (i : Nat) :
    ∀ k, i < k → (tagged m b f k).readN (b + 8 * i) 8 = (f i).toNat
  | k + 1, hi => by
    rw [tagged]
    by_cases e : i = k
    · rw [e, readN_writeN 8 _ _ (tagged_wf h b f k)]
      exact Nat.mod_eq_of_lt (f k).isLt
    · rw [readN_writeN_out 8 8 _ _ _ (tagged_wf h b f k) (by omega), tagged_in h b f i k (by omega)]

/-- m with the integrity tags of its area at base, whatever they are. -/
def withTags (m : Cells) (base : Nat) : Cells :=
  tagged m (base + 0x40000) (fun n => lineTag m base n (BitVec.ofNat 32 (m.readN (base + 0x30100 + 8 * 29) 4))) 2048

theorem withTags_match {m : Cells} (h : m.wf = true) (s : State) (base : Nat) (e : s.dev.mem = withTags m base) :
    s.tagsMatch base = true := by
  refine List.all_eq_true.mpr fun n hn => ?_
  have hn : n < 2048 := List.mem_range.mp hn
  have ht : s.dev.peek (base + 0x30100 + 8 * 29) 4 = m.readN (base + 0x30100 + 8 * 29) 4 := by
    rw [Dev.peek, e]
    exact tagged_out h _ _ _ _ _ (.inl (by omega))
  have hl : s.dev.mem.readN (base + 128 * n) 128 = m.readN (base + 128 * n) 128 := by
    rw [e]
    exact tagged_out h _ _ _ _ _ (.inl (by omega))
  have hv : s.dev.peek (base + 0x40000 + 8 * n) 8 =
      (lineTag m base n (BitVec.ofNat 32 (m.readN (base + 0x30100 + 8 * 29) 4))).toNat := by
    rw [Dev.peek, e]
    exact tagged_in h _ _ n _ hn
  rw [ht, hv]
  unfold lineTag
  rw [hl, w64, BitVec.ofNat_toNat, BitVec.setWidth_eq]
  exact beq_self_eq_true _

/-- A state with another memory. -/
def withMem (s : State) (m : Cells) : State := { s with dev := { s.dev with mem := m } }

theorem withMem_mem (s : State) (m : Cells) : (withMem s m).dev.mem = m := rfl

theorem withMem_stave (s : State) (m : Cells) (n : BitVec 6) : (withMem s m).dev.stave n = s.dev.stave n := rfl

/-- An area that is tagged, with tags that match: CTXSW restores it. -/
theorem wit_SystemInstructions_restores :
    let s := withAreas 0 0x10000
    let u := withMem s (withTags (s.dev.mem.writeN 0x40100 8 1) 0x10000)
    clearB (.ctxsw 3 1 2) u = true ∧ u.tagsMatch 0x10000 = true ∧ (u.areaState 0x10000).tagged = true := by
  intro s u
  have h : (s.dev.mem.writeN 0x40100 8 1).wf = true := writeN_wf 8 _ _ (by decide +kernel)
  refine ⟨by decide +kernel, withTags_match h u 0x10000 (withMem_mem _ _), ?_⟩
  have : u.dev.peek (0x10000 + 0x30100) 8 = 1 := by
    rw [Dev.peek, withMem_mem, withTags]
    exact (tagged_out h _ _ _ _ _ (.inl (by omega))).trans (readN_writeN 8 _ _ (by decide +kernel))
  rw [State.areaState, this]
  decide

/-- A job of stave 0 with a stage of a width, in a state where the stave owns cluster 5 of die 0 and SAVEBASE is set. -/
def placing (w : Nat) (f : Stave → Stave) : State :=
  let s : State := { owned .owned with here := 0 }
  s.onStave 0 fun t => f { t with jobs := [oneStage w []], savebase := 0x80000 }

/-- A request of stage 0 of job 0. -/
def request (inst : Option Nat) (fails : Nat) : Ready := { newReady 0 0 inst 1 1 false 0 with fails := fails }

/-- Instance 0, which is pre-empted. -/
def away (t : Stave) : Stave :=
  { t with jobs := t.jobs.map fun j => { j with insts := [{ oneInst 1 with cores := [] }] } }

/-- A request that is placed on core 40; one that finds no slot; one that has failed before; a resumption that finds a slot, or none. -/
theorem wit_PlacementGoesOn_requests :
    let p (r : Ready) : State := placing 1 fun t => { t with ready := [r] }
    let none_ (s : State) : State := { s with dev := { s.dev with owns := [] } }
    let a : State := placing 1 fun t => away { t with ready := [request (some 0) 0] }
    let g := (oneStage 1 []).stages.headD (newStage 0)
    allOf [((p (request none 0)).dev.stave 0).serves 0 0, ((p (request none 0)).fixRect 0 0 0).slotsFor 0 g [] 1 [] == some [40],
      after (exec (.placementRequest 0 0) (p (request none 0))) (fun t => (t.coreAt 40).live && (t.coreAt 40).pc == 0x10000 && (t.dev.stave 0).ready == []),
      ((none_ (p (request none 0))).fixRect 0 0 0).slotsFor 0 g [] 1 [] == none,
      after (exec (.placementRequest 0 0) (none_ (p (request none 0)))) (fun t => ((t.dev.stave 0).ready.map fun r => r.fails) == [1]),
      after (exec (.backoffExpiry 0 0) (p (request none 1))) (fun t => (t.coreAt 40).live && (t.dev.stave 0).ready == []),
      (a.stageOf 0 0 0).isSome, a.slotFor 0 g [] [] == some 40, (none_ a).slotFor 0 g [] [] == none,
      after (exec (.resumption 0 0) (none_ a)) (fun t => ((t.dev.stave 0).ready.map fun r => r.fails) == [1])] = true := by decide +kernel

/-- A pre-empted instance whose tags match, and one of whose tags one does not. -/
theorem wit_PlacementGoesOn_tags :
    let s : State := placing 1 fun t => away { t with ready := [request (some 0) 0] }
    let m : Cells := Cells.writeN [] 0xB0100 8 1
    let u := withMem s (withTags m 0x80000)
    u.instTags 0 { oneInst 1 with cores := [] } = true ∧
      ∃ x, (withMem s (m.writeN 0xC0000 8 x)).instTags 0 { oneInst 1 with cores := [] } = false := by
  intro s m u
  have hb : (u.dev.stave 0).areaOf 0 = 0x80000 := by decide +kernel
  constructor
  · refine List.all_eq_true.mpr fun l hl => ?_
    have : l = 0 := by simpa [oneInst] using hl
    rw [this, show (0 : BitVec 13).toNat = 0 from rfl, hb]
    exact (Bool.or_eq_true _ _).mpr (.inr (withTags_match (m := m) (by decide +kernel) u 0x80000 (withMem_mem _ _)))
  · have h (x y : Nat) (hx : w64 ((m.writeN 0xC0000 8 x).readN 0xC0000 8) = w64 y)
        (hg : (areaStateOf (w64 ((m.writeN 0xC0000 8 x).readN (0x80000 + 0x30100) 8))).tagged = true)
        (hl : (m.writeN 0xC0000 8 x).readN 0x80000 128 = 0) (ht : (m.writeN 0xC0000 8 x).readN (0x80000 + 0x30100 + 8 * 29) 4 = 0)
        (hn : w64 y ≠ Config.integrityTag 0 0 0) :
        (withMem s (m.writeN 0xC0000 8 x)).instTags 0 { oneInst 1 with cores := [] } = false := by
      refine List.all_eq_false.mpr ⟨0, by simp [oneInst], ?_⟩
      rw [show ((0 : BitVec 13).toNat) = 0 from rfl]
      have e : ((withMem s (m.writeN 0xC0000 8 x)).dev.stave 0).areaOf 0 = 0x80000 := by
        rw [withMem_stave]; decide +kernel
      rw [e]
      simp only [State.areaState, State.tagsMatch, Dev.peek, withMem_mem, hg, ht, Bool.not_eq_true, Bool.not_true, Bool.false_or]
      refine List.all_eq_false.mpr ⟨0, List.mem_range.mpr (by decide), ?_⟩
      unfold lineTag
      simp only [beq_iff_eq]
      rw [show 0x80000 + 128 * 0 = 0x80000 from rfl, hl]
      exact fun c => hn (hx.symm.trans c)
    by_cases e : w64 0 = Config.integrityTag 0 0 0
    · exact ⟨1, h 1 1 (by decide +kernel) (by decide +kernel) (by decide +kernel) (by decide +kernel) (by rw [← e]; decide)⟩
    · exact ⟨0, h 0 0 (by decide +kernel) (by decide +kernel) (by decide +kernel) (by decide +kernel) e⟩

/-- A job that ended and has no instances, before and after; a remote store of a context that is gone; fill at the boundary of a sample
and of a window; aging at its boundary. -/
theorem wit_PlacementGoesOn_jobs :
    let st (x : Option (BitVec 16)) : State := (paged 0).onStave 0 fun t => { t with jobs := [{ oneStage 1 [] with
      status := x, record := BitVec.ofNat 1024 (2 ^ 448 * 0x2000) }] }
    let net (s : State) : State := { s with dev := { s.dev with net := [{ sent with kind := .store, srcTag := 9 }] } }
    let at0 (s : State) (c : W64) : State := { s with dev := { s.dev with cycle := c } }
    let fill : State := (crewed 1 [stream]).onStave 0 fun t => t.onJob 0 fun j => j.onStage 0 fun g => { g with ready := true, samples := [16], nsamples := 1 }
    let age (c : W64) : State := at0 (base.onStave 0 fun t => { t with ready := [newReady 0 0 none 1 6 false 0] }) c
    let job (s : State) : Option Job := (s.dev.stave 0).job? 0
    let prio (t : State) (x : Nat) : Bool := ((t.dev.stave 0).ready.map fun r => r.prio) == [x]
    allOf [(job (st none)).any (fun j => j.status == none), after (exec (.jobCompletion 0 0) (st none)) (fun t => (job t).isSome), !(st (some 0)).dev.shutdown,
      !(st (some 0)).strayStore 0, (job (st (some 0))).any (fun j => ((st (some 0)).bringSpace j.space j.completion 64 true).any fun r => r.1 == 0x200000),
      after (exec (.jobCompletion 0 0) (st (some 0))) (fun t => job t == none && t.dev.msix == [] && t.dev.pendingMsix == [(0, 0)]), (net (st (some 0))).strayStore 0,
      after (exec (.jobCompletion 0 0) (net (st (some 0)))) (fun t => (job t).isSome), boundaryDue 1024 1024 0, !boundaryDue 1023 1024 0, !boundaryDue 2047 1024 1024,
      after (exec (.fillSample 0) (at0 fill 1024)) (fun t => (t.stageOf 0 0 0).any fun g => g.nsamples == 2 && g.samples == [16] && (t.dev.stave 0).lastSample == 1024),
      after (exec (.fillSample 0) (at0 fill 1023)) (fun t => (t.dev.stave 0).lastSample == 0), field (fill.dev.stave 0).pltune 0 5 == 14, field (fill.dev.stave 0).pltune 8 4 == 6,
      (job fill).any (fun j => j.stages.any fun g => j.fillIs 0 g true 6 && fill.mayGrow 0 j 0 g && g.removing == none),
      after (exec (.placementWindowEnd 0) (at0 fill 16384)) (fun t => (t.dev.stave 0).ready.length == 1), after (exec (.placementWindowEnd 0) (at0 fill 16383)) (fun t => (t.dev.stave 0).ready == []),
      after (exec (.aging 0 0) (age 0x100000)) (fun t => prio t 7), after (exec (.aging 0 0) (age 0xFFFFF)) (fun t => prio t 6)] = true := by decide +kernel

/-- Job 0 asks for a whole cluster; job 1 has an instance of one core on the first core of each cluster of the stave. -/
def crowded (prio : Nat) (clusters : List Nat) : State :=
  let s : State := clusters.foldl (fun s c => { s with dev := s.dev.setOwn (.cluster, c) .owned 0 }) base
  s.onStave 0 fun t => { t with
    savebase := 0x80000
    jobs := [oneStage 8 [], { oneStage 1 [] with num := 1, insts := clusters.zipIdx.map fun c => { oneInst 1 with num := c.2, cores := [8 * c.1] } }]
    ready := [{ newReady 0 0 none 1 prio false 0 with compacting := true, fails := 3 }] }

/-- Compaction with a cluster to free, and without; then pre-emption; and neither where the request does not ask for it. -/
theorem wit_PlacementGoesOn_compaction :
    let two := crowded 1 [5, 6]
    let one := crowded 1 [5]
    let quiet := one.onStave 0 fun t => { t with ready := [newReady 0 0 none 1 1 false 0] }
    let cand (s : State) : Option (List Nat) := match s.stageOf 0 0 0, (s.dev.stave 0).ready with
      | some g, r :: _ => (s.candidate 0 0 r g).map (·.1)
      | _, _ => none
    let may (s : State) : Bool := match s.stageOf 0 0 0, (s.dev.stave 0).ready with
      | some g, r :: _ => s.wanting 0 r && (s.slotsOf 0 g).any fun cl => cl.any fun c => s.occupied 0 0 r c &&
          ((s.dev.stave 0).occupants c).all (mayPreempt r s.dev.cycle)
      | _, _ => false
    let kept (t : State) : Bool := (t.dev.stave 0).ready.all fun r => !r.compacting && r.reserved == []
    allOf [(cand two).isSome, after (exec (.compaction 0 0) two) (fun t => (t.dev.stave 0).ready.all fun r => !r.compacting && r.reserved.length == 8), cand one == none,
      after (exec (.compaction 0 0) one) kept, may one, after (exec (.preemptionDecision 0 0) one) (fun t => (t.dev.stave 0).moves.length == 1),
      after (exec (.preemptionDecision 0 0) quiet) (fun t => (t.dev.stave 0).moves == [])] = true := by decide +kernel

/-- An instance that is to be removed: not at a removable point and at one; withdrawn, and then either; a move without SAVEBASE, and
one to a core of the stave. -/
theorem wit_PlacementGoesOn_instances :
    let rm (wait : Option Wait) (withdrawn : Bool) : State :=
      let s := crewed 1 []
      let s := s.onStave 0 fun t => t.onJob 0 fun j =>
        { j.onStage 0 fun g => { g with removing := some 0 } with insts := [{ oneInst 1 with withdrawn := withdrawn }] }
      { s with me := { s.me with wait := wait } }
    let inst (t : State) : Option Inst := ((t.dev.stave 0).job? 0).bind fun j => j.inst? 0 0
    let mv (save : W64) : State :=
      let s := crewed 1 []
      { s with dev := s.dev.setOwn (.cluster, 5) .owned 0 }.onStave 0 fun t => { t with savebase := save, moves := [⟨0, 0, 0, some 40, 0, noIssuer⟩] }
    allOf [(inst (rm none false)).any (fun x => !(rm none false).removable x), after (exec (.instanceRemoval 0 0 0 0) (rm none false)) (fun t => (inst t).any fun x => !x.withdrawn),
      (inst (rm (some .eos) false)).any (fun x => (rm (some .eos) false).removable x), after (exec (.instanceRemoval 0 0 0 0) (rm (some .eos) false)) (fun t => (inst t).any fun x => x.withdrawn),
      (inst (rm (some .eos) true)).any (fun x => (rm (some .eos) true).removable x && !(rm (some .eos) true).onTheWay 0 x),
      after (exec (.instanceRemoval 0 0 0 0) (rm (some .eos) true)) (fun t => (inst t).isNone), (inst (rm none true)).any (fun x => !(rm none true).removable x),
      after (exec (.instanceRemoval 0 0 0 0) (rm none true)) (fun t => (inst t).any fun x => !x.withdrawn), (inst (mv 0)).isSome, ((mv 0).stageOf 0 0 0).isSome,
      after (exec (.migration 0 0) (mv 0)) (fun t => (t.dev.stave 0).moves.length == 1), field ((mv 0x80000).dev.stave 0).savebase 19 33 != 0, (mv 0x80000).destOk 0 [40]] = true := by decide +kernel

/-- A transition that has been swept, one with a line to hand over, and one with none; a cluster that is drained, with jobs left and
without; units that are scrubbed, and a quarantined one; a bandwidth window. -/
theorem wit_PlacementGoesOn_units :
    let tr (swept : Bool) (dir : List DirLine) : State :=
      { base with dev := { base.dev with dir := dir } }.onStave 0 fun t => { t with trans := some ⟨t.smask, t.buckets.setIfInBounds 0 5, 0, noIssuer, [], swept⟩ }
    let dr (jobs : List Job) : State := (owned .draining).onStave 0 fun t => { t with jobs := jobs }
    let sc (k : UnitKind) (id : Nat) (st : OwnState) (q : List (BitVec 32)) : State := withDev fun d => { d.setOwn (k, id) st 1 with quarantined := q }
    let at0 (c : W64) : State := withDev fun d => { d with cycle := c, budget := [(0, 7)] }
    allOf [after (exec (.lineHandover 0 5) (tr true [⟨5, 0, [], []⟩])) (fun t => (t.dev.stave 0).trans.any fun x => x.handed == []), (tr false [⟨5, 0, [], []⟩]).toHand 0 == [5],
      after (exec (.lineHandover 0 5) (tr false [⟨5, 0, [], []⟩])) (fun t => (t.dev.stave 0).trans.any fun x => x.handed == [5]), (tr false []).toHand 0 == [],
      after (exec (.lineHandover 0 5) (tr false [])) (fun t => (t.dev.stave 0).trans.any fun x => x.swept), (slotCores 40 8).all (fun k => !((dr []).dev.stave 0).holdsCore k && !((dr []).coreAt k).live),
      (dr [oneStage 1 []]).dev.clustersHeld 0 == [5], after (exec (.clusterDrained 5) (dr [oneStage 1 []])) (fun t => t.dev.ownState .cluster 5 0 == some .draining),
      after (exec (.clusterDrained 5) (dr [])) (fun t => t.dev.ownState .cluster 5 0 == some .scrub), after (exec (.scrubComplete 1 3) (sc .granule 3 .owned [])) (fun t => t.dev.owns.length == 1),
      unitKind 1 == .granule, after (exec (.scrubComplete 1 3) (sc .granule 3 .scrub [])) (fun t => t.dev.owns == []), unitKind 3 == .headstock,
      after (exec (.scrubComplete 3 5) (sc .headstock 5 .scrub [coreUnit 5])) (fun t => t.dev.owns.length == 1), boundaryDue 1024 1024 0,
      after (exec .bandwidthWindow (at0 1024)) (fun t => t.dev.budget == [] && t.dev.renewed == 1024), after (exec .bandwidthWindow (at0 1023)) (fun t => t.dev.budget.length == 1)] = true := by decide +kernel

/-- A page request that no one made, and one that a core waits for, granted and refused; an invalidation; an entry that is no leaf, and a
translation; FQBASE's first reserved code and its last other one; SAVEBASE, and a VF's reset. -/
theorem wit_OutsideActs_host :
    let s : State := { base with me := { base.me with wait := some (.park 0 0x2000 4) } }.onStave 0 fun t => { t with pri := [⟨0, 2⟩] }
    let t : State := { base with me := { base.me with tlb := [⟨0, 2, 0, 7, 0, []⟩] } }
    allOf [!(base.dev.stave 0).asked 0 2, after (exec (.priResponse 0 2 true) base) (fun t => t.me.wait == none), (s.dev.stave 0).asked 0 2, vpnOf 0x2000 == 2, s.cores.contains 0,
      after (exec (.priResponse 0 2 true) s) (fun t => t.me.wait == none && t.me.ctl.tcause == 0), after (exec (.priResponse 0 2 false) s) (fun t => t.me.ctl.tcause == 5 && t.me.ctl.tval == 0x2000),
      after (exec (.atsInvalidation 0 2 1) t) (fun t => t.me.tlb == [] && t.dev.atsDone == 1), after (exec (.atsInvalidation 0 3 1) t) (fun t => t.me.tlb.length == 1),
      after (exec (.atsTranslationCompletion 0 2 1) s) (fun t => t.me.wait.isSome), !pteMalformed 0x20018F 0,
      after (exec (.atsTranslationCompletion 0 2 0x20018F) s) (fun t => t.me.wait == none && t.me.tlb.length == 1), after (exec (.fqbaseWrite 0 0x8D) base) (fun t => (t.dev.stave 0).fqbase == 0),
      after (exec (.fqbaseWrite 0 0x8C) base) (fun t => (t.dev.stave 0).fqbase == 0x8C && t.dev.peek 0x88 4 == 65536), (base.dev.stave 0).faults == [], Memory.wf base.dev.mem,
      after (exec (.savebaseWrite 0 0x80000) base) (fun t => (t.dev.stave 0).savebase == 0x80000), after (exec (.functionLevelReset 0) withJob) (fun t => (t.dev.stave 0).jobs.all fun j => j.status.isSome)] =
      true := by decide +kernel

/-- RBDATA in shop mode and below; the link, up and after a shutdown; booting once; a report; the power cap's ends; a cluster with a live
core and one without. -/
theorem wit_OutsideActs_board :
    let down : State := withDev fun d => { d with shutdown := true }
    let up : State := withDev fun d => { d with boot := .firmware }
    let rec_ : State := withDev fun d => { d with boot := .recovery }
    allOf [user.me.may .shop == false, after (exec (.rbdataRead 3) user) (fun t => field t.dev.rbsel 3 5 == 0), base.me.may .shop, after (exec (.rbdataRead 3) base) (fun t => field t.dev.rbsel 3 5 == 1),
      down.dev.shutdown, after (exec (.linkTraining 8 true) down) (fun t => t.dev.link == .down), after (exec (.linkTraining 8 true) base) (fun t => t.dev.link == .cxl 8),
      after (exec (.linkTraining 8 false) base) (fun t => t.dev.link == .pcie 8), up.dev.boot != .rom, after (exec .boot up) (fun t => t.dev.boot == .firmware), base.dev.boot == .rom,
      base.dev.bootMask.contains 2048, !base.dev.bootMask.contains 9, after (exec (.getMeasurements 5) rec_) (fun t => t.dev.report == []),
      after (exec (.powerCapSet 800) base) (fun t => t.dev.powerCap == 800), after (exec (.powerCapSet 799) base) (fun t => t.dev.powerCap == 2800), after (exec (.powerCapSet 2800) base) (fun t => t.dev.powerCap == 2800),
      after (exec (.powerCapSet 2801) base) (fun t => t.dev.powerCap == 2800), after (exec (.thermalThrottle 3) base) (fun t => t.dev.throttled.contains 3), after (exec (.thermalShutdown 3) base) (fun t => t.dev.shutdown),
      (slotCores 0 8).any (fun k => (base.coreAt k).live), after (exec (.powerGating 0) base) (fun t => t.dev.gated == []), (slotCores 8 8).all (fun k => !(base.coreAt k).live),
      after (exec (.powerGating 1) base) (fun t => t.dev.gated == [1])] = true := by decide +kernel

/-! ## More clauses of the statements, each met -/

/-- A join ends elsewhere with the value of its own register. -/
theorem wit_JoinsBondAnInstance_ends :
    let s := joining (crewed 2 []) 1 0x1000 (encode (.gang 5))
    allOf [!([1].contains s.here), (s.coreAt 1).joinAt == some (0x1000, encode (.gang 5)), joinReg (encode (.gang 5)) == 5,
      (s.endJoins [1] 7).coreAt 1 == (((s.focus 1).setG 5 7).retire .seq).me, ((s.endJoins [1] 7).focus 1).g 5 == 7] = true := by decide +kernel

/-- A load of a line that a copy has filled writes the core's SELF words through; one of another line does not. -/
theorem wit_LocalMemoryIsReadAndWritten_joins :
    let s := base.setG 1 (own 0x100)
    let s : State := { s with me := { s.me with loc := { s.me.loc with landed := [2] }, l1 := [⟨0, 0x40000, 5, 0xFF, false⟩] } }
    allOf [clearB (.ld 3 1 .d false 0) s, readableB s 0x100 8, after (exec (.ld 3 1 .d false 0) s) (fun t => t.me.l1 == [] && t.dev.mem.readN 0x200000 8 == 5),
      readableB (s.setG 1 (own 0x80)) 0x80 8, after (exec (.ld 3 1 .d false 0) (s.setG 1 (own 0x80))) (fun t => t.me.l1.length == 1)] = true := by decide +kernel

/-- A MEMPOL that does not allocate, and a line that the core holds already, shared and owned. -/
theorem wit_CacheInstructions_policies :
    let d := (paged 0).setG 1 0x2008
    let n : State := { d with me := { d.me with hints := { d.me.hints with mempol := some (0, 1) } } }
    let h : State := { d with dev := d.dev.setDir ⟨0x4000, 0, [⟨0, 15, .e, [0], some 0, 0⟩], [(0, 0xFFFF)]⟩ }
    allOf [clearB (.pref 1) n, n.me.alloc == 1, (n.quietPlace n.issuer 0x2008 false).1 == some (0x200008, 0x200008, .dir),
      yields ((n.quietPlace n.issuer 0x2008 false).2.intoHome 0x4000 1) (fun t => t.dev.dir == []), after (exec (.pref 1) n) (fun t => t.dev.dir == []),
      (h.dev.dirLine 0x4000 0).holds 0 0xFFFF, ownedBy 0 0xFFFF (h.dev.dirLine 0x4000 0).segs, after (exec (.pref 1) h) (fun t => t.dev.dir == h.dev.dir),
      after (exec (.prefX 1) h) (fun t => t.dev.dir == h.dev.dir && t.me.pc == 0x1004)] = true := by decide +kernel

/-- A WST of member 0 of a checked pair, of member 1 before it and after it. -/
theorem wit_WorldInstructionsAnswer_pairs :
    let f := worldly 0x8000000000000000 0x8000000000000000
    let p (m : Nat) (ops : List PairOp) : State :=
      let s : State := { f with me := { f.me with pair := some 1, member := some ⟨0, 0, 0, m⟩ } }
      (s.onCore 1 fun c => { c with pair := some 0, pairOps := ops }).setG 2 5
    let x : PairOp := ⟨0, 2 ^ 32, region.recBytes, 5, 6 + 256⟩
    allOf [clearB (.wst 1 1 2) (p 0 []), (p 0 []).worldKey ((p 0 []).g 1) == some (region, 0), yields (p 0 []).irreversible.release (fun t => !t.shadowed &&
        yields (t.worldStore (2 ^ 32) 5 region 0 0) fun r => r.2.me.pair == some 1), after (exec (.wst 1 1 2) (p 0 [])) (fun t => t.me.pairOps.length == 1 && t.me.ctl.wstat == 6 + 256),
      yields (p 1 [x]).irreversible.release (fun t => t.shadowed && (t.coreAt 1).pairOps == [x]), after (exec (.wst 1 1 2) (p 1 [x])) (fun t => t.me.ctl.wstat == 6 + 256 && t.me.pc == 0x1004),
      yields (p 1 []).irreversible.release (fun t => t.shadowed), after (exec (.wst 1 1 2) (p 1 [])) (fun t => t.me.wait == some .pair)] = true := by decide +kernel

/-- An area with an uncorrectable error: of no member, and of a member. -/
theorem wit_SystemInstructions_areas :
    let s := withAreas 0 0x10000
    let e : State := { s with dev := { s.dev with poison := [0x44000 / 8] } }
    let m := e.onStave 0 fun t => { t with saved := [(0x10000, { Core.reset with member := some ⟨0, 0, 0, 0⟩ })] }
    allOf [clearB (.ctxsw 3 1 2) e, e.areaError 0x10000 == some 0x44000, e.areaMember 0x10000 == none, after (exec (.ctxsw 3 1 2) e) (fun t => t.g 3 == 1),
      m.areaError 0x10000 == some 0x44000, m.areaMember 0x10000 == some ⟨0, 0, 0, 0⟩, after (exec (.ctxsw 3 1 2) m) (fun t => t.me.wait == some (.area 0x44000))] = true := by decide +kernel

/-- TRCFG before the first stave has opened and after it. -/
theorem wit_ControlRegistersKeepTheirBits_number :
    let o : State := { base with dev := { base.dev with opened := true } }
    allOf [clearB (.cwr 1 0x6F) (base.setG 1 7), !base.dev.opened, after (exec (.cwr 1 0x6F) (base.setG 1 7)) (fun t => field t.dev.trcfg 0 9 == 7),
      clearB (.cwr 1 0x6F) ({ user with dev := o.dev }.setG 1 7), after (exec (.cwr 1 0x6F) (o.setG 1 7)) (fun t => t.dev.trcfg == o.dev.trcfg)] = true := by decide +kernel

/-- TLBINV while a store to a peer is under way. -/
theorem wit_FaultServiceInstructions_stores :
    let p : State := { base with dev := { base.dev with net := [{ sent with kind := .store, peer := true }] } }
    allOf [clearB (.tlbinv 4 1 2) p, (p.dev.net.any fun y => y.kind == .store && y.peer && y.stave == 0), after (exec (.tlbinv 4 1 2) p) (fun t => t.me.wait == some .unack)] =
      true := by decide +kernel

/-- A group of cores that share a read of B: core 0 receives its bytes. -/
theorem wit_MatrixProducts_groups :
    let s := filled (filled (withG base (own 0x400) (own 0x800) 0) 0x400 2 32) 0x480 1 3
    let g : SharedB := ⟨0, 0x800, 0, 640, 32 + 256 ^ 128 * 5, [1], []⟩
    let s : State := { s with dev := { s.dev with sharedB := [g] } }
    allOf [clearB (.mma 1 0 false 1 2 true .q8) s, s.openGroup ⟨s.here, 0x800, s.g 2⟩ .q8 == some g, after (exec (.mma 1 0 false 1 2 true .q8) s) (fun t => t.zElem 1 0 == 15)] =
      true := by decide +kernel

/-- Nothing else comes with a request of core 0 at base. -/
theorem wit_Quiet : Quiet base 0 5 0 ∧ Runs base 0 0 :=
  ⟨⟨by decide +kernel, by decide +kernel, by unfold NoPushed; decide +kernel, by decide +kernel, by decide +kernel, fun m h => absurd (show none = some m from h) (by simp)⟩, by unfold Runs; decide +kernel⟩

/-- A read that makes no copy; and a request that recalls the line from another SID. -/
theorem wit_HomesAndEnginesServe_requests :
    let v : State := withDev fun d => d.setDir ⟨5, 1, [⟨0, 15, .e, [1], some 1, 0⟩], [(1, 0xFFFF)]⟩
    allOf [after (exec (.nonAllocatingRequest 0 0 5 1 false) base) (fun t => t.dev.dir == []),
      after (exec (.readRequest 0 0 5 1) v) (fun t => t.dev.dir.length == 1 && t.dev.dir.all fun d => d.sid == 0)] = true := by decide +kernel

/-- An item whose target a core runs again goes to no inbox; a store that comes from an inbox is performed and is gone. -/
theorem wit_CoresAreReached_inboxes :
    let x : NetItem := { sent with refused := some 0 }
    let s := reached 1 0 0 x
    let s : State := { s with dev := { s.dev with cycle := 2048 }, me := { s.me with ctl := { s.me.ctl with regbase := 0xBC000 } } }
    let y : NetItem := { sent with kind := .store, off := 0x100, size := 8, inbox := true }
    allOf [s.coreFor 0 0 0 == some 0, s.whereIs 0 0 0 == some (.core 0), s.areaAt 0 (.core 0) == 0x80000, s.me.inbox == [], s.inboxCount 0x80000 == 0, !s.mustWait 0 x, Memory.wf s.dev.mem,
      after (exec (.inboxDiversion 0) s) (fun t => t.dev.net == [x] && t.me.inbox == []), !(reached 1 0 0 y).mustWait 0 y,
      after (exec (.remoteStorePerform 0) (reached 1 0 0 y)) (fun t => t.dev.net == [] && t.me.loc.bytes.readN 0x100 8 == 9)] = true := by decide +kernel

/-- A move waits for the stores of its instance; a job for what it has forked; a cluster for its cores; a quarantined cluster and
headstock stay. -/
theorem wit_PlacementGoesOn_waits :
    let mv : State :=
      let s := crewed 1 []
      { s with dev := { s.dev.setOwn (.cluster, 5) .owned 0 with net := [{ sent with kind := .store, dst := 9 }] } }.onStave 0 fun t =>
        { t with savebase := 0x80000, moves := [⟨0, 0, 0, some 40, 0, noIssuer⟩] }
    let job : State :=
      let s := (paged 0).onStave 0 fun t => { t with jobs := [{ oneStage 1 [] with status := some 0, record := BitVec.ofNat 1024 (2 ^ 448 * 0x2000) }] }
      { s with dev := { s.dev with bprefs := [⟨{ s.issuer with job := some 0 }, 0x2000, 256, 0x3000, 0, 0, []⟩] } }
    let cl (q : List (BitVec 32)) (u : UnitKind) (id : Nat) : State := withDev fun d => { d.setOwn (u, id) .scrub 1 with quarantined := q }
    allOf [((mv.dev.stave 0).job? 0).any (fun j => (j.inst? 0 0).any fun x => mv.storesOut x), mv.destOk 0 [40],
      after (exec (.migration 0 0) mv) (fun t => (t.dev.stave 0).moves.length == 1 && t.me.held), job.jobBusy 0 0,
      after (exec (.jobCompletion 0 0) job) (fun t => ((t.dev.stave 0).job? 0).isSome), (cl [clusterUnit 2 5] .cluster 5).dev.badCluster 5,
      after (exec (.scrubComplete 0 5) (cl [clusterUnit 2 5] .cluster 5)) (fun t => t.dev.owns.length == 1), (cl [clusterUnit 2 5] .headstock 40).dev.badHeadstock 40,
      after (exec (.scrubComplete 3 40) (cl [clusterUnit 2 5] .headstock 40)) (fun t => t.dev.owns.length == 1)] = true := by decide +kernel

/-- A pre-empted instance whose tags match and whose area has an uncorrectable error. -/
theorem wit_PlacementGoesOn_damage :
    let s : State := placing 1 fun t => away { t with ready := [request (some 0) 0], absent := [(0, { Core.reset with member := some ⟨0, 0, 0, 0⟩ })] }
    let s : State := { s with dev := { s.dev with poison := [0xB4000 / 8] } }
    let m : Cells := Cells.writeN [] 0xB0100 8 1
    let u := withMem s (withTags m 0x80000)
    u.instTags 0 { oneInst 1 with cores := [] } = true ∧ u.instError 0 { oneInst 1 with cores := [] } = some (⟨0, 0, 0, 0⟩, 0xB4000) := by
  intro s s' m u
  have hb : (u.dev.stave 0).areaOf 0 = 0x80000 := by decide +kernel
  refine ⟨List.all_eq_true.mpr fun l hl => ?_, by decide +kernel⟩
  have : l = 0 := by simpa [oneInst] using hl
  rw [this, show (0 : BitVec 13).toNat = 0 from rfl, hb]
  exact (Bool.or_eq_true _ _).mpr (.inr (withTags_match (m := m) (by decide +kernel) u 0x80000 (withMem_mem _ _)))

/-- An invalidation from the host while a store to a peer is under way is not done yet. -/
theorem wit_OutsideActs_stores :
    let p : State := { base with dev := { base.dev with net := [{ sent with kind := .store, peer := true }] } }
    allOf [p.dev.net.any (fun x => x.peer), after (exec (.atsInvalidation 0 2 1) p) (fun t => t.dev.atsDone == 0), base.dev.net.all (fun x => !x.peer),
      after (exec (.atsInvalidation 0 2 1) base) (fun t => t.dev.atsDone == 1)] = true := by decide +kernel

/-! ## Witnesses of what follows a word -/

/-- A block entry of a SIG section, as one number (R64). -/
def sigEntry (start len nsucc flags crc first : Nat) : Nat :=
  start + 2 ^ 32 * len + 2 ^ 48 * nsucc + 2 ^ 56 * flags + 2 ^ 64 * crc + 2 ^ 96 * first

/-- A checked member in user mode: TEXT at 0x1000, where addi g1, g0, 3 stands, the SIG section at 0x2000 with these entries and then
these successor words, and SIGST at a block, an index and a CRC. -/
def watched (blocks succ : List Nat) (blk idx : Nat) (crc : BitVec 32) : State :=
  let s := paged 0
  let m := s.dev.mem.writeN 0x102010 8 0x2001BF
  let m := blocks.zipIdx.foldl (fun (m : Cells) (x : Nat × Nat) => m.writeN (0x200000 + 16 * x.2) 16 x.1) m
  let m := succ.zipIdx.foldl (fun (m : Cells) (x : Nat × Nat) => m.writeN (0x200000 + 16 * blocks.length + 4 * x.2) 4 x.1) m
  let c := s.me.ctl
  let t : State := { s with
    dev := { s.dev with mem := m }
    me := { s.me with
      member := some ⟨0, 0, 0, 0⟩
      ctl := { c with mode := .user, sigctl := 1, sigtab := 0x2000, sigtext := 0x1000, sigst := sigWord blk idx crc } } }
  t.onStave 0 fun v => { v with jobs := [{ oneStage 1 [] with insts := [oneInst 1], sigBlocks := blocks.length }] }

/-- The state after a word's meaning: one instruction more has retired, and the pc is the next. -/
def afterOne (s : State) : State := s.retire .seq

theorem wit_Checked_active :
    let s := watched [sigEntry 0 2 0 0 0 0] [] 0 0 0
    let u := afterOne s
    let i := Instr.addi 1 0 3
    let w := encode i
    allOf [s.me.bond == .none, !s.me.handed, u.me.nretired != s.me.nretired, decide (decode w = .ok i), s.me.hints == .none, s.me.joinAt == none,
      u.here == s.here, u.me.live, s.me.sigActive, s.cores.all (fun k => k == s.here || !(s.coreAt k).sigActive), decide s.cores.Nodup,
      s.cores.contains s.here, s.sigCount == 1, (s.afterWord u w i).me.pass == [w], (s.afterWord u w i).me.sigPend == none,
      (s.afterWord u w i).me.sigParts.2.1 == 1] = true := by decide +kernel

/-- Where nothing retires nothing follows; and where something does, the checkers are fed. -/
theorem wit_LoneWord_fed :
    let s := watched [sigEntry 0 2 0 0 0 0] [] 0 0 0
    let u := afterOne s
    allOf [u.me.bond != .follow, s.me.nretired == (s.setG 1 1).me.nretired,
      (s.afterWord (s.setG 1 1) 0x04080003 (.addi 1 0 3)).me.pass == [], (s.feedAll u 0x04080003).me.pass == [0x04080003]] = true := by decide +kernel

/-- The check value of CRC-32C: that of the nine characters 1 to 9 is 0xE3069283 (R161). -/
theorem test_crc : crcOver 0 [0x31, 0x32, 0x33, 0x34, 0x35, 0x36, 0x37, 0x38, 0x39] = 0xE3069283 := by decide +kernel

/-- Records of words written out from Table 8 of 06: addi g1, g0, 3; mma on accumulator 2 from g5, g6, closing; hint.wide. -/
theorem test_records :
    (sigRecord 0x04080003 0xFFF 0xFFF, sigRecord (encode (.hintWide 0x3FFFFF)) 1 2) =
      ([2, 0, 1, 0, 0, 0xFF, 0xFF, 0xFF], [0x7E, 0, 0, 0, 0, 1, 0x20, 0]) := by decide +kernel

/-- A register that no word of the pass writes, and the last of two words that write it. -/
theorem wit_Records_producers :
    let ws := [encode (.addi 1 0 3), encode (.addi 2 0 3), encode (.addi 1 1 4), encode (.addi 3 1 4)]
    allOf [decide ((RFile.g, 1) ∈ dests (.addi 1 1 4)), producer ws (some (.g, 1)) == 2, producer ws (some (.g, 5)) == 0xFFF,
      producer [encode (.sclacc 1 0 false 2 3 true)] (some (.z, 2)) == 0] = true := by decide +kernel

/-- A word within the block, one past its end, and one of a block that is not checked. -/
theorem wit_Checked_words :
    let s := watched [sigEntry 0 2 0 0 0 0, sigEntry 0 2 0 8 0 0] [] 0 1 5
    let e := watched [sigEntry 0 1 0 0 0 0] [] 0 1 5
    let f := watched [sigEntry 0 2 0 0 0 0, sigEntry 0 2 0 8 0 0] [] 1 1 5
    let w := encode (.addi 2 1 1)
    allOf [s.me.sigPend == none, s.me.sigParts == (0, 1, 5), decide (decode w = .ok (.addi 2 1 1)), field (s.sigBlock 0) 32 16 == 2,
      s.passWords 0x1000 1 == [0x04080003],
      (s.sigWordIn w 0x1004).me.sigParts == (0, 2, crcOver 5 [2, 0, 2, 1, 0, 0, 0xF0, 0xFF]), field (e.sigBlock 0) 32 16 == 1,
      (e.sigWordIn w 0x1004).me.sigPend == some 0x1004, (f.sigBlock 1).getLsbD 59, (f.sigWordIn w 0x1004).me.sigParts == (1, 2, 5)] = true := by
  decide +kernel

/-- Within a block; and at its end: to a successor, to no successor, with another CRC, from a block that allows any return site, from one
that is not checked, and to where no block starts. -/
theorem wit_Checked_blockEnds :
    let bs (crc : Nat) := [sigEntry 0 1 1 0 crc 0, sigEntry 4 1 0 0 0 0, sigEntry 8 1 0 4 5 0, sigEntry 12 1 0 2 0 0, sigEntry 16 1 0 8 0 0]
    let s := watched (bs 5) [1] 0 1 5
    let mid := watched [sigEntry 0 2 0 0 0 0] [] 0 1 5
    let e (s : State) (pc next : W64) := (s.sigBlockEnd pc next).me
    allOf [(e mid 0x1000 0x1004).sigPend == none, (e mid 0x1000 0x1004).sigParts == (0, 1, 5), (e s 0x1000 0x1004).sigPend == none, (e s 0x1000 0x1004).sigParts == (1, 0, 0),
      (e s 0x1000 0x1008).sigPend == some 0x1000, (e (watched (bs 6) [1] 0 1 5) 0x1000 0x1004).sigPend == some 0x1000,
      (e (watched (bs 5) [1] 2 1 5) 0x1008 0x100C).sigParts == (3, 0, 0), (e (watched (bs 5) [1] 2 1 5) 0x1008 0x1010).sigPend == some 0x1008,
      (e (watched (bs 5) [1] 4 1 5) 0x1010 0x1000).sigParts == (0, 0, 0), (e s 0x1000 0x2000).sigPend == some 0x1000,
      (e mid 0x1000 0x1000).sigPend == some 0x1000] = true := by decide +kernel

/-- A repetition of REPV that issues what the first did, and one that issues another word. -/
theorem wit_Checked_repetitions :
    let w := encode (.vadd 3 1 2 0 .i32 false)
    let t := watched [sigEntry 0 4 0 0 0 0] [] 0 2 5
    let s (l : List Word) : State := { t with me := { t.me with seq := l, pass := [encode (.repv 1 0 1 1 0), w] } }
    allOf [decide (1 ≤ (s [w]).me.seq.length), (s [w]).passWords 0x1000 2 == [encode (.repv 1 0 1 1 0), w],
      ((s [w]).sigAgain 0x1000 0 1).me.sigPend == none, ((s [w + 1]).sigAgain 0x1000 0 1).me.sigPend == some 0x1004] = true := by
  decide +kernel

/-- A mismatch that is pending is raised before the next word. -/
theorem wit_Checked_raised :
    let t := watched [sigEntry 0 4 0 0 0 0] [] 0 0 0
    let s : State := { t with me := { t.me with sigPend := some 0x1004 } }
    allOf [s.me.bond != .gang, !s.me.interruptDue, s.me.member == some ⟨0, 0, 0, 0⟩,
      after s.stepWord (fun u => u.me.sigPend == none && u.me.wait == some (.trigger 0x0E 0x1004))] = true := by decide +kernel

/-- Cores 0 and 1 in follow strength, core 0 the leader; core 1 has these words to issue. -/
def followed (xs : List TrailWord) : State :=
  let s := crewed 2 []
  let s := s.onCore 0 fun c => { c with bond := .follow, rank := 0, crew := [0, 1] }
  s.onCore 1 fun c => { c with bond := .follow, rank := 1, crew := [0, 1], trail := xs }

/-- A leader hands its word on; and stalls where its follower would be more than 64 words behind. -/
theorem wit_Followed_leader :
    let s := followed []
    let u := afterOne s
    let i := Instr.addi 1 0 3
    let w := encode i
    let x : TrailWord := ⟨0x1000, w, 0x1004, 0, [], 1⟩
    let p := ((followed (List.replicate 64 x)).withFetchWord 32 w.toNat).onCore 0 fun c => { c with bond := .follow, rank := 0, crew := [0, 1] }
    allOf [s.me.bond == .follow, s.me.rank == 0, s.me.crew == [0, 1], s.follows 1, s.cores.all (fun k => !(s.coreAt k).sigActive),
      u.me.nretired != s.me.nretired, u.here == s.here, s.me.hints == .none, shared i, !s.me.handed, u.me.rank == 0, decide s.me.crew.Nodup,
      ((s.afterWord u w i).coreAt 1).trail == [x], p.me.bond != .gang, !p.me.interruptDue, p.me.sigPend == none,
      yields p.fetchNext (fun y => y.2.me.bond == .follow && y.2.me.rank == 0 && !y.2.me.issued && y.2.follows 1 &&
        decide (64 < (y.2.coreAt 1).behind + handedBy y.2 y.1)), after p.stepWord (fun t => t.me.wait == some .follow)] = true := by
  decide +kernel

/-- A follower keeps with its leader; it is released where its decision or its next pc differs. -/
theorem wit_Followed_follower :
    let i := Instr.addi 1 0 3
    let w := encode i
    let run (x : TrailWord) (i : Instr) : State × State :=
      let s := (followed [x]).focus 1
      (s, s.afterWord (afterOne s) (encode i) i)
    let keep := run ⟨0x1000, w, 0x1004, 0, [], 1⟩ i
    let away := run ⟨0x1000, w, 0x2000, 0, [], 1⟩ i
    let other := run ⟨0x1000, w, 0x1004, 1, [], 1⟩ i
    allOf [keep.1.me.rank != 0, (afterOne keep.1).me.bond == .follow, !(afterOne keep.1).me.orphan, (afterOne keep.1).me.pc == 0x1004,
      decision i keep.1 == 0, keep.2.me.bond == .follow, keep.2.me.trail == [], away.2.me.bond == .none, away.2.me.pc == 0x1004,
      other.2.me.bond == .none, (other.2.coreAt 0).bond == .follow] = true := by decide +kernel

/-- Decisions: a branch, and a LOOP that skips its body. -/
theorem wit_Followed_decisions :
    allOf [branchRule base (.beq 0 0 4) == some (true, 4), decision (.beq 0 0 4) base == 1, branchRule base (.bne 0 0 4) == some (false, 4),
      decision (.bne 0 0 4) base == 0, decision (.loop 1 0 2) base == 1, decision (.loop 1 0 2) (base.setG 1 2) == 0] = true := by
  decide +kernel

/-- What a follower issues: its trail's first word; it waits for one; cut off, it fetches for itself. -/
theorem wit_Followed_fetches :
    let w := encode (.addi 1 0 3)
    let s := (followed [⟨0x1000, w, 0x1004, 0, [], 1⟩]).focus 1
    let e := (followed []).focus 1
    let o : State := (e.withFetchWord 32 w.toNat).onCore 1 fun c => { c with bond := .follow, rank := 1, crew := [0, 1], orphan := true }
    allOf [s.me.bond == .follow, s.me.rank == 1, s.me.hints == .none, yields s.fetchNext (fun x => x.1 == w), e.me.trail == [], !e.me.orphan,
      after (.next (match e.fetchNext with | .error r => r.settle | .ok x => x.2)) (fun t => t.me.wait == some .follow), o.me.orphan,
      yields o.fetchNext (fun x => x.1 == w && x.2.me.bond == .none)] = true := by decide +kernel

/-- A trap of a follower and of its leader. -/
theorem wit_Followed_traps :
    let w := encode (.addi 1 0 3)
    let s := followed [⟨0x1000, w, 0x1004, 0, [], 1⟩]
    let f := (s.focus 1).trapEntry 1 0 0x1000
    let h : State := s.onCore 0 fun c => { c with handed := true }
    allOf [decide (s.focus 1).me.crew.Nodup, (s.focus 1).me.rank != 0, f.me.bond == .none, (f.coreAt 0).bond == .follow, s.me.rank == 0,
      s.follows 1, ((s.trapEntry 1 0 0x1000).coreAt 1).orphan, ((s.trapEntry 1 0 0x1000).coreAt 1).trail.length == 1, h.me.handed,
      ((h.trapEntry 1 0 0x1000).coreAt 1).trail == []] = true := by decide +kernel

/-! ## Further witnesses -/

/-- A join alone, whose instance's other member is done. -/
theorem wit_JoinsBondAnInstance_alone :
    let s := (crewed 2 []).onCore 1 fun c => { c with finished := true }
    allOf [clearB (.gang 3) s, (s.mates.filter fun k => k != s.here) == [], s.width == 2,
      after (exec (.gang 3) s) (fun t => t.me.bond == .gang && t.g 3 == 1)] = true := by decide +kernel

/-- STVOL to a copy-channel aperture, with no volatile remote store of the core under way. -/
theorem wit_StoresPerform_volatile :
    let s := withG base (own 0x100) (-1) (own 0x30000)
    allOf [clearB (.stvol 2 3 .d 0) s, yields (s.place (own 0x30000) 8 .write true) (fun x => x.1 == .aperture 0 &&
      yields (x.2.volReady true) fun v => yields (v.paired .aperture (own 0x30000) 8 (s.g 2).toNat (fun u => u.startCopy 0 (s.g 2))) fun _ => true),
      after (exec (.stvol 2 3 .d 0) s) (fun t => t.me.pc == 0x1004)] = true := by decide +kernel

/-- CAS of memory: it compares g[d], and writes. -/
theorem wit_AtomicsReadModifyWrite_cas :
    let p := (withG (paged 0) 0x2008 2 0).setG 4 0
    let i := Instr.cas 4 1 2 .plain true
    allOf [(amoRule p i).isSome, clearB i p, amoFn i == 9, yields (p.place 0x2008 8 .atomic false) (fun x =>
      yields (x.2.atomicAt x.1 0x2008 8 9 2 (fun x => if x = 0 then some 2 else none)) fun y => y.1 == 0),
      after (exec i p) (fun t => t.g 4 == 0 && t.dev.mem.readN 0x200008 8 == 2)] = true := by decide +kernel

/-- CLEAN.p on a quarantined channel, with the router's budget used up, and where neither holds; BPREF with a MEMPOL. -/
theorem wit_CacheInstructions_cleanP :
    let s := base.setG 1 0x200080
    let q : State := { s with dev := { s.dev with quarantined := [channelUnit 0] } }
    let b : State := ({ s with dev := { s.dev with budget := [(0, 128)] } } : State).onStave 0 fun t => { t with srate := 1 }
    let m : State := ((base.setG 1 0x2000).setG 2 0x100).setG 3 1
    let m : State := { m with me := { m.me with hints := { m.me.hints with mempol := some (1, 2) } } }
    allOf [clearB (.cleanP 1) s, !s.dev.badChannel (granuleOf 0x200080), s.fits 0, Memory.wf s.dev.mem, q.dev.badChannel (granuleOf 0x200080), clearB (.cleanP 1) q,
      after (exec (.cleanP 1) q) (fun t => t.me.ctl.tcause == 4), !b.fits 0, after (exec (.cleanP 1) b) (fun t => t.me.wait == some .budget), clearB (.bpref 2 1 3) m,
      after (exec (.bpref 2 1 3) m) (fun t => t.dev.bprefs.map (fun x => (x.alloc, x.llc)) == [(m.me.alloc, m.me.llcCode)])] = true := by decide +kernel

/-- Two states of a key and a time between them and after them, one state and a time after it; in either mode. -/
theorem wit_WorldLoadsFollowTheTable_data :
    let v := (worldly 50 10).dev
    let one := (worldly 50 0x8000000000000000).dev
    let r : Region := { region with desc := BitVec.ofNat 512 (descriptor - 2 ^ 112) }
    let gives (r : Region) (v : Dev) (t : Int) : Bool := match r.eval v 0 t 5 with | .answer _ => true | .blocked => false
    allOf [region.step, !r.step, r.poisonAt v 0 0 128 == none, r.states v 0 == [(10, 1), (50, 0)], gives r v 20, gives region v 20, gives r v 55, gives region v 55,
      region.states one 0 == [(50, 0)], gives region one 55, gives r one 55] = true := by decide +kernel

/-- The requests to the home of a key fit the budget; a store of member 0 of a checked pair. -/
theorem wit_WorldInstructionsAnswer_requests :
    let f := worldly 50 10
    let e := worldly 0x8000000000000000 0x8000000000000000
    let p : State := { e with me := { e.me with pair := some 1 } }
    let p : State := (p.onCore 1 fun c => { c with pair := some 0 }).setG 2 5
    allOf [yields f.irreversible.release (fun t => yields (t.askKey region.recBytes) fun u => region.poisonAt u.dev 0 0 128 == none), f.fits region.recBytes,
      yields (f.askKey 8) (fun u => region.poisonAt u.dev 0 0 128 == none), yields p.irreversible.release (fun t => !t.shadowed &&
        yields (t.askKey region.recBytes) fun u => yields (u.worldStore (2 ^ 32) 5 region 0 0) fun r => r.2.me.pair == some 1)] = true := by decide +kernel

/-- A fault record of SID 0. -/
def recordOf (vpn : Nat) : FaultRec := ⟨0, vpn, 0, 0, 0, 1, 0, 0, false, false, 0, 0, none, false⟩

/-- FREPLAY with a record of the page and one of another page, without and with an addition that was parked on it. -/
theorem wit_FaultServiceInstructions_replays :
    let f := withG (base.onStave 0 fun t => { t with faults := [recordOf 2, recordOf 3] }) 0x2000 0 0
    let y : SyncAdd := ⟨base.issuer, 0x2000, 0, 0, false, true⟩
    let p : State := { f with dev := { f.dev with syncs := [y] } }
    allOf [clearB (.freplay 4 1 2) f, f.dev.syncs == [], after (exec (.freplay 4 1 2) f) (fun t => t.g 4 == 1 && (t.dev.stave 0).faults.map (·.vpn) == [3]),
      y.parkedOn 0 2, clearB (.freplay 4 1 2) p, after (exec (.freplay 4 1 2) p) (fun t => t.g 4 == 1 && (t.dev.stave 0).faults.all fun r => r.vpn != 2)] = true := by
  decide +kernel

/-- A line of BPREF that its engine can ask for, in a page of the context; and one that the router has no budget for. -/
theorem wit_HomesAndEnginesServe_bpref :
    let p := paged 2
    let b : State := { p with dev := { p.dev with bprefs := [⟨p.issuer, 0x2000, 256, 0x3000, 1, 0, []⟩] } }
    let x : Bpref := ⟨p.issuer, 0x2000, 256, 0x3000, 1, 0, []⟩
    let late : State := ({ b with dev := { b.dev with budget := [(0, 128)] } } : State).onStave 0 fun t => { t with srate := 1 }
    let ready (s : State) : Bool :=
      let q := (s.focus 0).quietPlace x.who 0x2000 false
      q.1.all fun r => match (q.2.engineReady x.who (.phys r.1 r.2.1 r.2.2 none) 128 false (if r.2.2 = .unc then uncAlloc r.2.1 x.alloc else x.alloc)).1 with
        | .ok _ => true
        | _ => false
    allOf [x.lines == 2, x.donel == [], ready b, after (exec (.bprefLine 0 0) b) (fun t => t.dev.bprefs.map (·.donel) == [[0]]), !ready late,
      after (exec (.bprefLine 0 0) late) (fun t => t.dev.bprefs == [x])] = true := by decide +kernel

/-- Sectors whose destination is refused, a page that is not there, and one that the context may not write. -/
theorem wit_HomesAndEnginesServe_goals :
    let go (c : State) : Option (String × Bool) :=
      ((c.coreAt 0).chan 0).active.bind fun cp => ((tmplOf cp.tmpl).sectors cp.arg)[0]?.map fun x =>
        let d := (c.focus 0).sectorData cp.who (tmplOf cp.tmpl) cp.arg x
        ((match (d.2.enginePlace cp.who ((tmplOf cp.tmpl).dstOf cp.arg x) .write x.len c.dev.budget).1 with
          | .refused => "refused" | .parked _ => "parked" | _ => ""), match d.1 with | .ok _ [] _ => true | _ => false)
    let r := copying (own 0x400) (own 0x30000) 0
    let p := copying (own 0x400) 0x2000 1
    let n := copying (own 0x400) 0x2000 0
    let n : State := { n with dev := { n.dev with mem := (paged 0).dev.mem.writeN 0x102010 8 0x200187 } }
    allOf [go r == some ("refused", true), go p == some ("parked", true), go n == some ("refused", true),
      after (exec (.copySector 0 0 0) r) (fun t => ((t.coreAt 0).chan 0).active == none), after (exec (.copySector 0 0 0) n) (fun t => ((t.coreAt 0).chan 0).active == none),
      after (exec (.copySector 0 0 0) p) (fun t => ((t.coreAt 0).chan 0).active.any fun x => x.parked.length == 1)] = true := by decide +kernel

/-- An item for a saved context with an area goes to its inbox, in whose memory it then stands. -/
theorem wit_CoresAreReached_diverted :
    let s := diverted 2048
    allOf [s.coreFor 0 5 0 == none, s.whereIs 0 5 0 == some (.absent 5), decide (s.areaAt 0 (.absent 5) ≠ 0), s.inboxCount (s.areaAt 0 (.absent 5)) == 0, Memory.wf s.dev.mem,
      after (exec (.inboxDiversion 0) s) (fun t => t.inboxCount (t.areaAt 0 (.absent 5)) == 1 && (t.contextAt 0 (.absent 5)).inbox.length == 1)] = true := by decide +kernel

/-- Uncorrectable errors: of a word that an L1 holds, and of a word of a host line that the device holds. -/
theorem wit_CoresAreReached_words :
    let s : State := { base with me := { base.me with l1 := [⟨0, 0x40001, 5, 0xFF, false⟩] } }
    let h : State := withDev fun d => { d with devHolds := [3 * 2 ^ 44] }
    allOf [unitCore 0x10000000 == 0, s.me.l1.any (fun w => w.word == 0x200008 / 8), after (exec (.errorDetected 0x10000000 0 false 0x200008) s) (fun t => t.me.l1.all fun w => w.bad),
      decide (2 ^ 38 ≤ 3 * 2 ^ 50 + 8), h.dev.devHolds.contains ((3 * 2 ^ 50 + 8) / 64),
      after (exec (.errorDetected 0x30000000 0 false (3 * 2 ^ 50 + 8)) h) (fun t => t.dev.poison == [(3 * 2 ^ 50 + 8) / 8])] = true := by decide +kernel

/-- A job's vector that the host has unmasked; a PLTUNE window that takes effect; a request with a candidate, whose compaction has not
looked and has; a router that owes. -/
theorem wit_PlacementGoesOn_clauses :
    let j : State := (paged 0).onStave 0 fun t => { t with jobs := [{ oneStage 1 [] with status := some 0, record := BitVec.ofNat 1024 (2 ^ 448 * 0x2000) }] }
    let j : State := { j with dev := { j.dev with unmasked := [(0, 0)] } }
    let w (c : W64) : State := (withDev fun d => { d with cycle := c }).onStave 0 fun t => { t with pltune := 0x4160C }
    let two := crowded 1 [5, 6]
    let off := (crowded 1 [5]).onStave 0 fun t => { t with ready := t.ready.map fun r => { r with compacting := false } }
    let b : State := (withDev fun d => { d.setOwn (.cluster, 0) .owned 0 with cycle := 1024, budget := [(0, 200)] }).onStave 0 fun t => { t with srate := 1 }
    allOf [!j.strayStore 0, !j.jobBusy 0 0, after (exec (.jobCompletion 0 0) j) (fun t => t.dev.msix == [(0, 0)] && t.dev.pendingMsix == []),
      (base.dev.stave 0).winNow == 14, boundaryDue 4096 4096 0, after (exec (.placementWindowEnd 0) (w 4096)) (fun t => (t.dev.stave 0).winNow == 12),
      after (exec (.placementWindowEnd 0) (w 4095)) (fun t => (t.dev.stave 0).winNow == 14),
      after (exec (.preemptionDecision 0 0) two) (fun t => (t.dev.stave 0).moves == []), (off.dev.stave 0).ready.all (fun r => !r.compacting && r.fails == 3),
      after (exec (.preemptionDecision 0 0) off) (fun t => (t.dev.stave 0).moves.length == 1), owed b (0, 200) == 72,
      after (exec .bandwidthWindow b) (fun t => t.dev.budget == [(0, 72)])] = true := by decide +kernel

/-- Link training with CXL and without; a telemetry page at its boundaries; the header of a queue whose base is above the device's own
addresses; an invalidation that waits for a store to a peer. -/
theorem wit_OutsideActs_clauses :
    let h : State := withDev fun d => { d with devHolds := [3 * 2 ^ 44], devOwns := [3 * 2 ^ 44] }
    let tm (gen : BitVec 32) (c : W64) : State := withDev fun d => { d with telemetry := d.telemetry.set 0 gen, cycle := c }
    let p : State := { base with dev := { base.dev with net := [{ sent with kind := .store, peer := true, order := 4 }] } }
    allOf [after (exec (.linkTraining 8 true) h) (fun t => t.dev.devHolds == [3 * 2 ^ 44]), after (exec (.linkTraining 8 false) h) (fun t => t.dev.devHolds == [] && t.dev.devOwns == []),
      after (exec .telemetryUpdate (tm 2 0xFFFFF)) (fun t => t.dev.telemetry[0] == 2), after (exec .telemetryUpdate (tm 2 0x100000)) (fun t => t.dev.telemetry[0] == 3 && t.dev.telemetryAt == 0x100000),
      after (exec .telemetryUpdate (tm 3 0x100000)) (fun t => t.dev.telemetry[0] == 4 && t.dev.telemetry[8] == 0), boundaryDue 0x100000 0x100000 0, !boundaryDue 0xFFFFF 0x100000 0,
      after (exec (.fqbaseWrite 0 (2 ^ 43 + 0x80)) base) (fun t => t.dev.peek 0x80 8 == 0 && t.dev.peek 0x88 4 == 16),
      after (exec (.atsInvalidation 0 2 1) p) (fun t => t.dev.atsWaits.map (fun w => (w.sid, w.orders)) == [(0, [4])])] = true := by decide +kernel

end Sys2Proof.Tests
end

section
/-! Decoding undoes encoding (R15, R17, R34), and every word that decodes is an encoding (R35, R38). -/

namespace Sys2Proof.Proofs

/-- The fields of an encoding name its instruction again: the cases of Laws/PerInstr, put together over the table's words. -/
theorem cand_encode (i : Instr) (hwf : i.wf = true) (hw : i.hasWord = true) : cand (encode i) = some i := by
  suffices h : Laws.Encoding.Statement i from h hwf hw
  cases i with
  | add => exact Laws.Encoding.add _ _ _
  | sub => exact Laws.Encoding.sub _ _ _
  | and => exact Laws.Encoding.and _ _ _
  | or => exact Laws.Encoding.or _ _ _
  | xor => exact Laws.Encoding.xor _ _ _
  | andn => exact Laws.Encoding.andn _ _ _
  | shl => exact Laws.Encoding.shl _ _ _
  | shr => exact Laws.Encoding.shr _ _ _
  | sar => exact Laws.Encoding.sar _ _ _
  | ror => exact Laws.Encoding.ror _ _ _
  | slt => exact Laws.Encoding.slt _ _ _
  | sltc => exact Laws.Encoding.sltc _ _ _
  | min => exact Laws.Encoding.min _ _ _
  | max => exact Laws.Encoding.max _ _ _
  | minc => exact Laws.Encoding.minc _ _ _
  | maxc => exact Laws.Encoding.maxc _ _ _
  | mul => exact Laws.Encoding.mul _ _ _
  | mulh => exact Laws.Encoding.mulh _ _ _
  | mulhc => exact Laws.Encoding.mulhc _ _ _
  | mulhsc => exact Laws.Encoding.mulhsc _ _ _
  | div => exact Laws.Encoding.div _ _ _
  | divc => exact Laws.Encoding.divc _ _ _
  | rem => exact Laws.Encoding.rem _ _ _
  | remc => exact Laws.Encoding.remc _ _ _
  | addi => exact Laws.Encoding.addi _ _ _
  | andi => exact Laws.Encoding.andi _ _ _
  | ori => exact Laws.Encoding.ori _ _ _
  | xori => exact Laws.Encoding.xori _ _ _
  | slti => exact Laws.Encoding.slti _ _ _
  | sltci => exact Laws.Encoding.sltci _ _ _
  | muli => exact Laws.Encoding.muli _ _ _
  | shli => exact Laws.Encoding.shli _ _ _
  | shri => exact Laws.Encoding.shri _ _ _
  | sari => exact Laws.Encoding.sari _ _ _
  | rori => exact Laws.Encoding.rori _ _ _
  | bext => exact Laws.Encoding.bext _ _ _ _
  | bexts => exact Laws.Encoding.bexts _ _ _ _
  | bins => exact Laws.Encoding.bins _ _ _ _
  | lea => exact Laws.Encoding.lea _ _ _ _
  | laddr => exact Laws.Encoding.laddr _ _ _
  | laddrLen => exact Laws.Encoding.laddrLen _ _
  | clz => exact Laws.Encoding.clz _ _
  | ctz => exact Laws.Encoding.ctz _ _
  | popc => exact Laws.Encoding.popc _ _
  | brev => exact Laws.Encoding.brev _ _
  | bswap => exact Laws.Encoding.bswap _ _
  | sextb => exact Laws.Encoding.sextb _ _
  | sexth => exact Laws.Encoding.sexth _ _
  | sextw => exact Laws.Encoding.sextw _ _
  | zexth => exact Laws.Encoding.zexth _ _
  | zextw => exact Laws.Encoding.zextw _ _
  | sel => exact Laws.Encoding.sel _ _ _ _
  | selz => exact Laws.Encoding.selz _ _ _ _
  | beq => exact Laws.Encoding.beq _ _ _
  | bne => exact Laws.Encoding.bne _ _ _
  | blt => exact Laws.Encoding.blt _ _ _
  | bge => exact Laws.Encoding.bge _ _ _
  | bltc => exact Laws.Encoding.bltc _ _ _
  | bgec => exact Laws.Encoding.bgec _ _ _
  | j => exact Laws.Encoding.j _
  | jal => exact Laws.Encoding.jal _
  | jalr => exact Laws.Encoding.jalr _ _ _
  | jr => exact Laws.Encoding.jr _ _
  | loop => exact Laws.Encoding.loop _ _ _
  | repv => exact Laws.Encoding.repv _ _ _ _ _
  | follow => exact Laws.Encoding.follow _
  | gang => exact Laws.Encoding.gang _
  | unfollow => exact Laws.Encoding.unfollow
  | disband => exact Laws.Encoding.disband
  | brk => exact Laws.Encoding.brk _
  | ld => exact Laws.Encoding.ld _ _ _ _ _
  | ldvol => exact Laws.Encoding.ldvol _ _ _ _ _
  | st => exact Laws.Encoding.st _ _ _ _
  | stvol => exact Laws.Encoding.stvol _ _ _ _
  | ldv => exact Laws.Encoding.ldv _ _ _
  | stv => exact Laws.Encoding.stv _ _ _
  | gath => exact Laws.Encoding.gath _ _ _ _ _
  | scat => exact Laws.Encoding.scat _ _ _ _ _
  | pref => exact Laws.Encoding.pref _
  | prefX => exact Laws.Encoding.prefX _
  | prefL2 => exact Laws.Encoding.prefL2 _
  | bpref => exact Laws.Encoding.bpref _ _ _
  | clean => exact Laws.Encoding.clean _
  | cleanP => exact Laws.Encoding.cleanP _
  | cinv => exact Laws.Encoding.cinv _
  | ldAcq => exact Laws.Encoding.ldAcq _ _ _
  | stRel => exact Laws.Encoding.stRel _ _ _
  | atswap => exact Laws.Encoding.atswap _ _ _ _ _
  | atadd => exact Laws.Encoding.atadd _ _ _ _ _
  | atand => exact Laws.Encoding.atand _ _ _ _ _
  | ator => exact Laws.Encoding.ator _ _ _ _ _
  | atxor => exact Laws.Encoding.atxor _ _ _ _ _
  | atmin => exact Laws.Encoding.atmin _ _ _ _ _
  | atmax => exact Laws.Encoding.atmax _ _ _ _ _
  | atminc => exact Laws.Encoding.atminc _ _ _ _ _
  | atmaxc => exact Laws.Encoding.atmaxc _ _ _ _ _
  | cas => exact Laws.Encoding.cas _ _ _ _ _
  | fence => exact Laws.Encoding.fence _
  | fenceSc => exact Laws.Encoding.fenceSc _
  | mwait => exact Laws.Encoding.mwait _ _ _
  | bar => exact Laws.Encoding.bar _ _ _
  | send => exact Laws.Encoding.send _ _
  | sendv => exact Laws.Encoding.sendv _ _
  | sendEos => exact Laws.Encoding.sendEos _
  | stbind => exact Laws.Encoding.stbind _ _ _
  | stdrop => exact Laws.Encoding.stdrop _ _ _
  | waiteos => exact Laws.Encoding.waiteos _ _ _
  | xtpl => exact Laws.Encoding.xtpl _ _ _
  | swinit => exact Laws.Encoding.swinit _ _ _
  | swait => exact Laws.Encoding.swait _ _ _
  | fesetE => exact Laws.Encoding.fesetE _ _
  | fesetF => exact Laws.Encoding.fesetF _ _
  | wreg => exact Laws.Encoding.wreg _ _ _
  | wst => exact Laws.Encoding.wst _ _ _
  | whzn => exact Laws.Encoding.whzn _ _ _
  | wretain => exact Laws.Encoding.wretain _ _ _
  | wseed => exact Laws.Encoding.wseed _
  | wstat => exact Laws.Encoding.wstat _ _
  | wld => exact Laws.Encoding.wld _ _ _ _
  | wldT => exact Laws.Encoding.wldT _ _ _ _
  | patrec => exact Laws.Encoding.patrec _ _
  | patplay => exact Laws.Encoding.patplay _ _
  | patoff => exact Laws.Encoding.patoff _ _
  | patstat => exact Laws.Encoding.patstat _ _
  | patdrop => exact Laws.Encoding.patdrop _ _
  | quant => exact Laws.Encoding.quant _ _ _ _ _ _
  | dquant => exact Laws.Encoding.dquant _ _ _ _ _ _
  | vadd => exact Laws.Encoding.vadd _ _ _ _ _ _
  | vsub => exact Laws.Encoding.vsub _ _ _ _ _ _
  | vmul => exact Laws.Encoding.vmul _ _ _ _ _ _
  | vfma => exact Laws.Encoding.vfma _ _ _ _ _ _
  | vfnma => exact Laws.Encoding.vfnma _ _ _ _ _ _
  | vdiv => exact Laws.Encoding.vdiv _ _ _ _ _ _
  | vmin => exact Laws.Encoding.vmin _ _ _ _ _ _
  | vmax => exact Laws.Encoding.vmax _ _ _ _ _ _
  | vcpys => exact Laws.Encoding.vcpys _ _ _ _ _ _
  | vabs => exact Laws.Encoding.vabs _ _ _ _ _
  | vneg => exact Laws.Encoding.vneg _ _ _ _ _
  | vnot => exact Laws.Encoding.vnot _ _ _ _ _
  | vsqrt => exact Laws.Encoding.vsqrt _ _ _ _ _
  | vrcp => exact Laws.Encoding.vrcp _ _ _ _ _
  | vrsq => exact Laws.Encoding.vrsq _ _ _ _ _
  | vexp2 => exact Laws.Encoding.vexp2 _ _ _ _ _
  | vlog2 => exact Laws.Encoding.vlog2 _ _ _ _ _
  | vsinpi => exact Laws.Encoding.vsinpi _ _ _ _ _
  | vcospi => exact Laws.Encoding.vcospi _ _ _ _ _
  | vtanh => exact Laws.Encoding.vtanh _ _ _ _ _
  | vand => exact Laws.Encoding.vand _ _ _ _ _ _
  | vor => exact Laws.Encoding.vor _ _ _ _ _ _
  | vxor => exact Laws.Encoding.vxor _ _ _ _ _ _
  | vshl => exact Laws.Encoding.vshl _ _ _ _ _ _
  | vshr => exact Laws.Encoding.vshr _ _ _ _ _ _
  | vsar => exact Laws.Encoding.vsar _ _ _ _ _ _
  | vcmp => exact Laws.Encoding.vcmp _ _ _ _ _ _ _
  | vsel => exact Laws.Encoding.vsel _ _ _ _ _ _
  | vcvt => exact Laws.Encoding.vcvt _ _ _ _ _ _ _ _
  | vbcast => exact Laws.Encoding.vbcast _ _ _ _ _
  | vins => exact Laws.Encoding.vins _ _ _ _ _
  | vext => exact Laws.Encoding.vext _ _ _ _ _
  | vperm => exact Laws.Encoding.vperm _ _ _ _ _ _
  | vslide => exact Laws.Encoding.vslide _ _ _ _ _ _
  | vred => exact Laws.Encoding.vred _ _ _ _ _ _
  | vscan => exact Laws.Encoding.vscan _ _ _ _ _ _
  | vcxs => exact Laws.Encoding.vcxs _ _ _ _ _ _
  | vcompr => exact Laws.Encoding.vcompr _ _ _ _ _
  | vexpnd => exact Laws.Encoding.vexpnd _ _ _ _ _
  | vlut => exact Laws.Encoding.vlut _ _ _ _ _
  | vdot => exact Laws.Encoding.vdot _ _ _ _ _ _
  | pset => exact Laws.Encoding.pset _ _
  | pand => exact Laws.Encoding.pand _ _ _
  | por => exact Laws.Encoding.por _ _ _
  | pxor => exact Laws.Encoding.pxor _ _ _
  | pnot => exact Laws.Encoding.pnot _ _
  | pcnt => exact Laws.Encoding.pcnt _ _
  | pfirst => exact Laws.Encoding.pfirst _ _
  | zclr => exact Laws.Encoding.zclr _ _ _
  | zld => exact Laws.Encoding.zld _ _ _ _ _
  | zst => exact Laws.Encoding.zst _ _ _ _ _
  | zver => exact Laws.Encoding.zver _ _ _ _
  | mma => exact Laws.Encoding.mma _ _ _ _ _ _ _
  | sclacc => exact Laws.Encoding.sclacc _ _ _ _ _ _
  | outlacc => exact Laws.Encoding.outlacc _ _ _ _ _ _
  | mcmd => exact Laws.Encoding.mcmd _ _ _
  | mcmdT => exact Laws.Encoding.mcmdT _ _ _
  | capgrant => exact Laws.Encoding.capgrant _ _ _
  | capdrop => exact Laws.Encoding.capdrop _
  | zwaitv => exact Laws.Encoding.zwaitv _ _
  | trap => exact Laws.Encoding.trap _
  | tret => exact Laws.Encoding.tret
  | idle => exact Laws.Encoding.idle _
  | done => exact Laws.Encoding.done
  | crd => exact Laws.Encoding.crd _ _
  | cwr => exact Laws.Encoding.cwr _ _
  | tlbinv => exact Laws.Encoding.tlbinv _ _ _
  | ctxsw => exact Laws.Encoding.ctxsw _ _ _
  | freplay => exact Laws.Encoding.freplay _ _ _
  | fkill => exact Laws.Encoding.fkill _ _ _
  | fqack => exact Laws.Encoding.fqack _ _
  | cpair => exact Laws.Encoding.cpair _
  | unpair => exact Laws.Encoding.unpair _
  | launch => exact Laws.Encoding.launch _ _
  | stvgrow => exact Laws.Encoding.stvgrow _ _ _
  | stvshrink => exact Laws.Encoding.stvshrink _ _ _
  | stvmap => exact Laws.Encoding.stvmap _ _ _
  | rhashBegin => exact Laws.Encoding.rhashBegin _ _ _
  | rhashCommit => exact Laws.Encoding.rhashCommit _ _
  | migrate => exact Laws.Encoding.migrate _ _ _
  | quar => exact Laws.Encoding.quar _ _ _
  | hintWide => exact Laws.Encoding.hintWide _
  | hintMempol => exact Laws.Encoding.hintMempol _ _
  | hintRound => exact Laws.Encoding.hintRound _
  | hintSched => exact Laws.Encoding.hintSched _ _
  | _ => exact fun _ h => nomatch h

/-- What decodes is what the fields name, where the word is its encoding and it is well-formed. -/
theorem decode_eq_ok_iff (w : Word) (i : Instr) : decode w = .ok i ↔ cand w = some i ∧ encode i = w ∧ i.wf = true := by
  unfold decode
  cases cand w with
  | none => simp
  | some j =>
    by_cases hw : encode j = w <;> by_cases hwf : j.wf = true <;> simp [hw, hwf] <;> grind

/-- Settles O8: the fields of the encoding name the instruction, and the decoder's two checks hold of it. -/
theorem decodingUndoesEncoding : Obligations.DecodingUndoesEncoding := fun i hwf hw =>
  (decode_eq_ok_iff _ i).mpr ⟨cand_encode i hwf hw, rfl, hwf⟩

/-- Settles O9: the decoder answers only where its two checks, the encoding and the well-formedness, hold. -/
theorem decodedWordsAreEncodings : Obligations.DecodedWordsAreEncodings := fun w i h =>
  ((decode_eq_ok_iff w i).mp h).2

/-- Settles O7, by running the decoder. -/
theorem wordsOfTheSpecDecode : Obligations.WordsOfTheSpecDecode := by
  unfold Obligations.WordsOfTheSpecDecode
  decide

end Sys2Proof.Proofs
end

section
/-! What every instruction's meaning is built from: the words issue (R36, R392), the steps of the device complete (R35, R389). -/

namespace Sys2Proof.Proofs
open Machine

/-- A word other than DONE issues, with some effect of its own after the shared checks; a step of the device other than
ILLEGAL_WORD completes. -/
theorem exec_form (i : Instr) (hd : i ≠ .done) (hi : ∀ w, i ≠ .illegalWord w) :
    match i.hasWord with
    | true => ∃ body : Body, ∀ s, exec i s = issueG i body s
    | false => ∃ f : State → State, ∀ s, exec i s = .next (f s) := by
  cases i
  case done => exact absurd rfl hd
  case illegalWord w => exact absurd rfl (hi w)
  all_goals exact Exists.intro _ fun _ => rfl

theorem exec_eq_issueG (i : Instr) (hw : i.hasWord = true) (hd : i ≠ .done) :
    ∃ body : Body, ∀ s, exec i s = issueG i body s := by
  have h := exec_form i hd fun w e => by subst e; cases hw
  rwa [hw] at h

theorem exec_eq_event (i : Instr) (hw : i.hasWord = false) (hi : ∀ w, i ≠ .illegalWord w) :
    ∃ f : State → State, ∀ s, exec i s = .next (f s) := by
  have h := exec_form i (fun e => by subst e; cases hw) hi
  rwa [hw] at h

/-- Issuing answers a next state, or the core has stopped. -/
theorem issueBy_answers (chk : Check) (body : Body) (s : State) (long : Bool) :
    (∃ t, issueBy chk body s long = .next t) ∨ (issueBy chk body s long = .fault .coreStopped ∧ s.me.stopped = true) := by
  cases h : s.me.stopped with
  | false => exact .inl (issueBy_next chk body h)
  | true => exact .inr ⟨issueBy_stopped chk body h, rfl⟩

theorem execDone_answers (s : State) :
    (∃ t, execDone s = .next t) ∨ (execDone s = .fault .coreStopped ∧ s.me.stopped = true) := by
  rcases issueBy_answers (precheck .done) (fun _ => doneBody) s (isLong .done) with ⟨t, ht⟩ | ⟨hf, hs⟩
  · exact .inl ⟨_, by rw [execDone, issue, issueG, ht]⟩
  · exact .inr ⟨by rw [execDone, issue, issueG, hf], hs⟩

/-- Settles O4: a word issues, and issuing answers or finds the core stopped; a step of the device completes. -/
theorem everyInstructionAnswers : Obligations.EveryInstructionAnswers := by
  intro i s
  by_cases hw : i.hasWord = true
  · suffices h : (∃ t, exec i s = .next t) ∨ (exec i s = .fault .coreStopped ∧ s.me.stopped = true) from
      h.imp_right fun ⟨hf, hs⟩ => ⟨hf, hs, .inl hw⟩
    by_cases hd : i = .done
    · subst hd; exact execDone_answers s
    · obtain ⟨body, hb⟩ := exec_eq_issueG i hw hd
      rw [hb]; exact issueBy_answers _ _ _ _
  · by_cases hi : ∃ w, i = .illegalWord w
    · obtain ⟨w, rfl⟩ := hi
      exact (issueBy_answers _ _ s false).imp_right fun ⟨hf, hs⟩ => ⟨hf, hs, .inr ⟨w, rfl⟩⟩
    · obtain ⟨f, hf⟩ := exec_eq_event i (by simpa using hw) fun w h => hi ⟨w, h⟩
      exact .inl ⟨f s, hf s⟩

/-! ## The checks before an instruction's own (R30, R36, R140) -/

/-- ILLEGAL and PRIV are no triggers: they are taken as traps. -/
theorem raise_illegal (s : State) (v a : W64) : s.raise Cause.illegal.code v a = s.trapEntry 0x01 v a := by
  have h : s.isTrigger Cause.illegal.code = false := by simp [State.isTrigger, Cause.code]
  rw [State.raise, h]; rfl

theorem raise_priv (s : State) (v a : W64) : s.raise Cause.priv.code v a = s.trapEntry 0x02 v a := by
  have h : s.isTrigger Cause.priv.code = false := by simp [State.isTrigger, Cause.code]
  rw [State.raise, h]; rfl

/-- A word that its checks stop is raised, whatever its effect would be. -/
theorem exec_of_precheck {i : Instr} {s : State} {c : Cause} {v : W64} (hw : i.hasWord = true) (hd : i ≠ .done)
    (hr : s.me.stopped = false) (hb : s.me.bond ≠ .gang) (hc : precheck i s = some (c, v)) :
    exec i s = .next (s.raise c.code v s.me.trapPc) := by
  obtain ⟨body, h⟩ := exec_eq_issueG i hw hd
  rw [h]; exact issueBy_check _ _ hr hb hc

/-- A word that is no instruction traps; a HINT word among them with its own address, as its chain ends (R27). -/
theorem exec_illegalWord {s : State} (w : Word) (hr : s.me.stopped = false) (hb : s.me.bond ≠ .gang) :
    exec (.illegalWord w) s =
      let t : State := if fOp w = 0x7E then { s with me.hints := .none } else s
      .next (t.trapEntry 0x01 (zext w) t.me.trapPc) := by
  refine (issueBy_alone _ _ hr hb rfl).trans ?_
  have hgive : ∀ t : State, t = s ∨ t = { s with me.hints := .none } →
      (Res.trap .illegal (zext w) t).giveBack s = .trap .illegal (zext w) t := by
    rintro t (rfl | rfl) <;> rfl
  rw [hgive _ (by split <;> simp)]
  exact congrArg _ (raise_illegal _ _ _)

theorem issueWord_error {w : Word} {r : Reject} (s : State) (h : decode w = .error r) :
    s.issueWord w = exec (.illegalWord w) s := by
  simp only [State.issueWord, h, exec]

/-- Settles O16: each check answers its cause before the effect, and a word without a meaning takes the same trap. -/
theorem earlierChecksTrap : Obligations.EarlierChecksTrap := by
  refine ⟨fun i s hw hd hr hb => ⟨fun h1 h2 h3 => ?_, fun h1 h2 h3 => ?_, fun h1 h2 h3 => ?_⟩,
    fun w s hr hb => ⟨fun h => ?_, fun h => ?_, fun r hd => issueWord_error s hd, fun h => ?_⟩⟩
  · rw [exec_of_precheck hw hd hr hb (by simp only [precheck, h1, h2, h3]; rfl), raise_illegal]
  · rw [exec_of_precheck hw hd hr hb (by simp only [precheck, h1, h2, h3]; rfl), raise_illegal]
  · rw [exec_of_precheck hw hd hr hb (by simp only [precheck, h1, h2, h3]; rfl), raise_priv]
  · rw [exec_illegalWord w hr hb, if_neg h]
  · rw [exec_illegalWord w hr hb, if_pos h]; rfl
  · simp [Core.trapPc, h]

end Sys2Proof.Proofs
end

section
/-! HINT chains (R26 to R28, R463). -/

namespace Sys2Proof.Proofs
open Machine

/-- A HINT that joins its chain. -/
theorem hintBody_joins {i : Instr} {present : Bool} {f : Hints → Hints} {s : State} (hp : present = false)
    (he : s.me.endsBody s.me.pc = false) :
    hintBody i present f s =
      .done { s with me.hints := { f s.me.hints with
        start := some ((f s.me.hints).start.getD s.me.pc), words := (f s.me.hints).words ++ [encode i] } } .chain := by
  simp only [hintBody, hp, he, Bool.or_self, Bool.false_eq_true, if_false]

/-- A HINT whose kind stands in its chain, or at the end of an active body. -/
theorem hintBody_illegal {i : Instr} {present : Bool} {f : Hints → Hints} {s : State}
    (h : present = true ∨ s.me.endsBody s.me.pc = true) :
    hintBody i present f s = .trap .illegal (zext (encode i)) { s with me.hints := .none } := by
  have h : (present || s.me.endsBody s.me.pc) = true := by simpa using h
  simp only [hintBody, h, if_true]

/-- What the meaning of a HINT comes to, for each kind alike: `f` is what it adds to the chain. -/
theorem hint_meaning {i : Instr} {s : State} {present : Bool} {f : Hints → Hints} {body : State → Res} (hc : Clear i s)
    (hx : exec i s = issue i body s) (hb : body s = hintBody i present f s)
    (hstart : (f s.me.hints).start = s.me.hints.start) (hwords : (f s.me.hints).words = s.me.hints.words) :
    (present = false → s.me.endsBody s.me.pc = false →
      exec i s = .next { s with me := { s.me with
        hints := { f s.me.hints with start := some s.me.trapPc, words := s.me.hints.words ++ [encode i] }
        pc := s.me.pc + 4, wait := none, handed := false, issued := false, peerWords := [], entering := false } }) ∧
    (present = true ∨ s.me.endsBody s.me.pc = true →
      exec i s = .next (({ s with me.hints := .none } : State).trapEntry 0x01 (zext (encode i)) s.me.pc)) := by
  refine ⟨fun hp he => ?_, fun h => ?_⟩
  · rw [hx, issue_done hc (hb.trans (hintBody_joins hp he)), hwords, hstart]
    simp [Res.settle, State.retire, State.retireTo, Core.goOn, Core.counts1, Core.trapPc, w64]
  · rw [hx, issue_clear hc, hb, hintBody_illegal h]
    exact congrArg _ (raise_illegal _ _ _)

/-- Settles O22: the four kinds of HINT share one meaning, and retirement ends the chain and counts its words. -/
theorem hintsFormAChain : Obligations.HintsFormAChain := by
  refine fun s => ⟨?_, fun t => ⟨rfl, retire_retired t .seq⟩⟩
  rintro i present h (⟨hi, rfl, rfl, rfl⟩ | ⟨llc, alloc, rfl, rfl, rfl⟩ | ⟨m, rfl, rfl, rfl⟩ | ⟨taken, gap, rfl, rfl, rfl⟩) hc
  · exact hint_meaning (f := fun h => { h with wide := some hi }) hc rfl rfl rfl rfl
  · exact hint_meaning (f := fun h => { h with mempol := some (llc, alloc) }) hc rfl rfl rfl rfl
  · exact hint_meaning (f := fun h => { h with round := some m }) hc rfl rfl rfl rfl
  · exact hint_meaning (f := fun h => { h with sched := some (taken, gap) }) hc rfl rfl rfl rfl

end Sys2Proof.Proofs
end

section
/-! A step is the meaning of the word at the pc (R391), or of the event at the head of the agenda. -/

namespace Sys2Proof.Proofs
open Machine Sys2Proof.Claims

/-- Issuing the word of an instruction: its meaning and what follows; TRAP and BRK that end a mismatching block only retire. -/
theorem issueWord_ok {s : State} {w : Word} {i : Instr} (h : decode w = .ok i) :
    s.issueWord w =
      let plain := onNext (fun t => s.afterWord t w i) (issue i State.ok s)
      if trapsAfter i = true ∧ mismatched s.team plain = true then plain
      else onNext (fun t => s.afterWord t w i) (exec i s) := by
  by_cases ha : trapsAfter i = true
  · rw [State.issueWord, h]
    cases i with
    | trap a => simp [trapsAfter, State.retireOrTrap]
    | brk code => simp [trapsAfter, State.retireOrTrap]
    | _ => cases ha
  · simp only [ha, false_and, if_false, Bool.false_eq_true]
    rw [State.issueWord, h]
    split <;> simp_all [trapsAfter]

/-- With nothing due before it, the word that is fetched is issued (R391). -/
theorem stepWord_issues {s t u : State} {w : Word} {addrs : List W64} (hi : s.me.interruptDue = false)
    (hs : s.sigPending = none) (hf : s.fetchNext = .ok (w, t)) (hl : t.lagging (handedBy t w) = false)
    (hb : t.brkAddrs = .ok (addrs, u)) (hk : ∀ k ∈ u.team, (u.brkAt addrs k).1 = none) :
    s.stepWord = (u.passIssue addrs w).issueWord w := by
  have hany : (u.team.any fun k => (u.brkAt addrs k).1.isSome) = false := by
    simpa using hk
  simp [State.stepWord, hi, hs, hf, hl, hb, hany]

theorem step_empty {s : State} (h : s.dev.shutdown = false) (ha : s.agenda = []) (hr : s.canRun s.here = true)
    (hw : s.me.wait = none) : step s = s.stepCore := by
  simp [step, h, ha, State.turn, hr, hw]

theorem step_core {s : State} {k : Nat} {rest : List Turn} (h : s.dev.shutdown = false) (ha : s.agenda = .core k :: rest)
    (hs : (({ s with agenda := rest } : State).focus k).me.stopped = false)
    (hr : (({ s with agenda := rest } : State).focus k).canRun k = true) :
    step s = (({ s with agenda := rest } : State).focus k).stepCore := by
  simp [step, h, ha, hs, hr]

theorem step_part {s : State} {k n : Nat} {rest : List Turn} (h : s.dev.shutdown = false) (ha : s.agenda = .part k n :: rest)
    (hs : (({ s with agenda := rest } : State).focus k).me.stopped = false)
    (hr : (({ s with agenda := rest } : State).focus k).canRun k = true) :
    step s = (({ s with agenda := rest } : State).focus k).stepPart n := by
  simp [step, h, ha, hs, hr]

theorem step_event {s : State} {i : Instr} {rest : List Turn} (h : s.dev.shutdown = false) (ha : s.agenda = .event i :: rest) :
    step s = exec i { s with agenda := rest } := by
  simp [step, h, ha]

/-- Settles O5: each kind of move comes to the step of the core, which issues the word that it fetches. -/
theorem stepRunsTheDecodedInstruction : Obligations.StepRunsTheDecodedInstruction := by
  refine ⟨fun s t u w i addrs hi hs hf hl hb hk hd => ?_, ?_, fun s i rest h ha => step_event h ha⟩
  · have hcore : s.stepCore = onNext State.tick ((u.passIssue addrs w).issueWord w) := by
      rw [State.stepCore, stepWord_issues hi hs hf hl hb hk]
    rw [issueWord_ok hd] at hcore
    refine ⟨fun h ha hr hw => (step_empty h ha hr hw).trans hcore, ?_⟩
    rintro s' k rest h ha rfl hstop hr
    exact (step_core h ha hstop hr).trans hcore
  · rintro s s' k n rest h ha rfl hstop hr
    exact step_part h ha hstop hr

end Sys2Proof.Proofs
end
section
/-! The effective immediate, and what branches and immediate forms make of it (R30, R167 to R171, R176). -/

namespace Sys2Proof.Proofs
open Machine Claims

/-- The effective immediate as a signed number: 13 bits of the word, below 22 of an open HINT.WIDE (R30). -/
theorem toInt_immS (s : State) (imm : BitVec 13) : (s.immS imm).toInt = immRule s imm := by
  unfold State.immS immRule
  split
  · next hi h =>
    rw [h, sext, BitVec.toInt_signExtend_of_le (by decide), BitVec.toInt_append]
    exact congrArg (· + (imm.toNat : Int)) (mul_comm _ _)
  · next h => simp [h, sext, BitVec.toInt_signExtend_of_le]

theorem immS_eq (s : State) (imm : BitVec 13) : s.immS imm = BitVec.ofInt 64 (immRule s imm) := by
  rw [← toInt_immS, BitVec.ofInt_toInt]

/-- The target of a branch (R176). -/
theorem pc_add_offB (s : State) (off : BitVec 13) : s.me.pc + 4 * s.offB off = s.me.pc + BitVec.ofInt 64 (4 * immRule s off) := by
  rw [BitVec.ofInt_mul, ← immS_eq]
  rfl

/-- A branch of a context alone jumps where its condition holds of its own registers, and goes on where it does not. -/
theorem branch_clear {i : Instr} {s : State} {cond : W64 → W64 → Bool} {a b : Reg} {off : BitVec 13} {c : Bool} (h : Clear i s)
    (hc : cond (s.g a) (s.g b) = c) :
    issueG i (branch cond a b off) s =
      .next (s.retire (if c then .jump (s.me.pc + BitVec.ofInt 64 (4 * immRule s off)) else .seq)) := by
  rw [← pc_add_offB, ← hc]
  have hb : branch cond a b off ⟨[s.me], 0⟩ s =
      if cond (s.g a) (s.g b) then .done s (.jump (s.me.pc + 4 * s.offB off)) else s.ok := rfl
  split
  · next hcond => exact issueG_done h (hb.trans (if_pos hcond))
  · next hcond => exact issueG_done h (hb.trans (if_neg hcond))

/-- Settles O12, by the six branches: each condition is the one of Table 10. -/
theorem branchesDecideByTheirCondition : Obligations.BranchesDecideByTheirCondition := by
  unfold Obligations.BranchesDecideByTheirCondition
  intro i s c off hrule h
  refine ⟨?_, rfl⟩
  unfold branchRule at hrule
  split at hrule
  case h_7 => cases hrule
  all_goals
    obtain ⟨rfl, rfl⟩ := Prod.mk.inj (Option.some.inj hrule)
    apply branch_clear h
  · rfl
  · simp [bne, Bool.beq_eq_decide_eq]
  · exact BitVec.slt_eq_decide
  · rw [BitVec.slt_eq_decide, ← decide_not, decide_eq_decide, not_lt]
  · exact BitVec.ult_eq_decide
  · rw [BitVec.ult_eq_decide, ← decide_not, decide_eq_decide, not_lt]

end Sys2Proof.Proofs
end
section
/-! The values of the immediate forms, shifts, bit fields and unary operations, as numbers and as bits (R167 to R171, R174). -/

namespace Sys2Proof.Proofs
open Machine Claims

theorem w1_decide (p : Prop) [Decidable p] : w1 (decide p) = if p then 1 else 0 := by
  simp [w1]

theorem getLsbD_w64 (n i : Nat) : (w64 n).getLsbD i = (decide (i < 64) && n.testBit i) := BitVec.getLsbD_ofNat ..

theorem w64_shiftLeft (a : W64) (n : Nat) : a <<< n = w64 (a.toNat * 2 ^ n) :=
  BitVec.eq_of_toNat_eq (by simp [w64, Nat.shiftLeft_eq])

theorem w64_shiftRight (a : W64) (n : Nat) : a >>> n = w64 (a.toNat / 2 ^ n) :=
  BitVec.eq_of_toNat_eq (by
    rw [BitVec.toNat_ushiftRight, Nat.shiftRight_eq_div_pow, w64, BitVec.toNat_ofNat,
      Nat.mod_eq_of_lt (lt_of_le_of_lt (Nat.div_le_self _ _) a.isLt)])

theorem sshiftRight_eq_div (a : W64) (n : Nat) : a.sshiftRight n = BitVec.ofInt 64 (a.toInt / 2 ^ n) := by
  rw [BitVec.sshiftRight_eq, Int.shiftRight_eq_div_pow]
  norm_cast

theorem ror64_eq (a : W64) {n : Nat} (hn : n < 64) : ror64 a n = a.rotateRight n := by
  refine BitVec.eq_of_getLsbD_eq fun i hi => ?_
  rw [ror64, BitVec.getLsbD_setWidth, BitVec.getLsbD_ushiftRight, BitVec.getLsbD_append, BitVec.getLsbD_rotateRight_of_lt hn]
  by_cases h : n + i < 64
  · simp [hi, h, show i < 64 - n by omega]
  · simp [hi, h, show ¬ i < 64 - n by omega, show n + i - 64 = i - (64 - n) by omega]

/-- The sign of a field of w bits extended (R170). -/
theorem bitExtractS_eq (a : W64) {w : Nat} (o : Nat) (hw : w ≤ 64) :
    bitExtractS a w o =
      if w = 0 then 0
      else
        BitVec.ofInt 64 (if a.toInt / 2 ^ o % 2 ^ w < 2 ^ (w - 1) then a.toInt / 2 ^ o % 2 ^ w
          else a.toInt / 2 ^ o % 2 ^ w - 2 ^ w) := by
  rw [bitExtractS, ← BitVec.ofInt_toInt (x := BitVec.signExtend 64 _), BitVec.toInt_signExtend_of_le hw, BitVec.toInt_ofInt]
  cases w with
  | zero => simp
  | succ k =>
    have hhalf : ((2 ^ (k + 1) : Nat) + 1 : Int) / 2 = 2 ^ k := by
      push_cast
      omega
    simp only [Int.bmod, hhalf, Nat.succ_ne_zero, if_false, Nat.add_sub_cancel]
    norm_cast

theorem bexts_eq (a : W64) (width : BitVec 5) (o : Nat) : bitExtractS a width.toNat o =
    if width = 0 then 0
    else
      let y := a.toInt / 2 ^ o % 2 ^ width.toNat
      BitVec.ofInt 64 (if y < 2 ^ (width.toNat - 1) then y else y - 2 ^ width.toNat) := by
  have hzero : width = 0 ↔ width.toNat = 0 := BitVec.toNat_inj.symm
  have hlt : width.toNat < 2 ^ 5 := width.isLt
  simp only [hzero]
  exact bitExtractS_eq a o (by omega)

/-- A field of w bits at o in place of a number's own (R170). -/
theorem bitInsert_eq (d a : W64) (w o : Nat) :
    bitInsert d a w o = w64 (d.toNat % 2 ^ o + a.toNat % 2 ^ w * 2 ^ o + d.toNat / 2 ^ (o + w) * 2 ^ (o + w)) := by
  have hsum : d.toNat % 2 ^ o + a.toNat % 2 ^ w * 2 ^ o + d.toNat / 2 ^ (o + w) * 2 ^ (o + w) =
      2 ^ o * (2 ^ w * (d.toNat / 2 ^ (o + w)) + a.toNat % 2 ^ w) + d.toNat % 2 ^ o := by
    ring
  refine BitVec.eq_of_getLsbD_eq fun i hi => ?_
  rw [hsum, getLsbD_w64, Nat.testBit_two_pow_mul_add _ (Nat.mod_lt _ (Nat.two_pow_pos _)),
    Nat.testBit_two_pow_mul_add _ (Nat.mod_lt _ (Nat.two_pow_pos _))]
  simp only [bitInsert, BitVec.getLsbD_or, BitVec.getLsbD_and, BitVec.getLsbD_not, BitVec.getLsbD_shiftLeft, getLsbD_w64,
    Nat.testBit_mul_two_pow, Nat.testBit_two_pow_sub_one, Nat.testBit_mod_two_pow, Nat.testBit_div_two_pow, hi, decide_true, Bool.true_and]
  by_cases hlow : i < o
  · simp [hlow, BitVec.getLsbD, show ¬ o ≤ i by omega]
  · by_cases hmid : i - o < w
    · simp [hlow, hmid, BitVec.getLsbD, show o ≤ i by omega]
    · simp [hlow, hmid, BitVec.getLsbD, show i - o - w + (o + w) = i by omega]

/-- Zeros above the highest one bit (R174). -/
theorem leadingZeros_eq : ∀ {n x : Nat}, x < 2 ^ n → leadingZeros n x = if x = 0 then n else n - 1 - x.log2
  | 0, x, h => by simp [leadingZeros]
  | n + 1, x, h => by
    unfold leadingZeros
    by_cases hb : x < 2 ^ n
    · have hlog : x ≠ 0 → x.log2 < n := fun hx => (Nat.log2_lt hx).2 hb
      rw [if_neg (by simp [Nat.testBit_lt_two_pow hb]), leadingZeros_eq hb]
      split
      · omega
      · next hx => have := hlog hx; omega
    · have hlog : x.log2 = n := by
        rw [Nat.log2_eq_iff (by have := Nat.two_pow_pos n; omega)]
        omega
      have hbit : x.testBit n = true := by
        rw [← hlog]; exact Nat.testBit_log2 (by have := Nat.two_pow_pos n; omega)
      rw [if_pos hbit, if_neg (by have := Nat.two_pow_pos n; omega), hlog]
      omega

/-- Zeros below the lowest one bit (R174). -/
theorem trailingZeros_eq : ∀ (n x : Nat), trailingZeros n x = ((List.range n).find? fun k => x.testBit k).getD n
  | 0, _ => rfl
  | n + 1, x => by
    rw [trailingZeros, List.range_succ_eq_map, List.find?_cons, Nat.testBit_zero]
    by_cases h : x % 2 = 1
    · simp [h]
    · rw [if_neg h, decide_eq_false h, trailingZeros_eq n (x / 2), List.find?_map]
      simp only [Function.comp_def, Nat.testBit_succ]
      cases (List.range n).find? fun k => (x / 2).testBit k with
      | none => simp [Nat.add_comm]
      | some k => simp [Nat.add_comm]

/-- The number of one bits (R174). -/
theorem popCount_eq : ∀ (n x : Nat), popCount n x = ((List.range n).filter fun k => x.testBit k).length
  | 0, _ => rfl
  | n + 1, x => by
    have htail : (((List.range n).map Nat.succ).filter fun k => x.testBit k).length = popCount n (x / 2) := by
      rw [List.filter_map, List.length_map, popCount_eq n (x / 2)]
      simp only [Function.comp_def, Nat.testBit_succ]
    rw [popCount, List.range_succ_eq_map, List.filter_cons, Nat.testBit_zero]
    rcases Nat.mod_two_eq_zero_or_one x with h | h
    · simp [h, htail]
    · simp [h, htail, Nat.add_comm]

/-- Bits pushed in from below, the last one lowest. -/
theorem testBit_pushBits (f : Nat → Bool) : ∀ (n j : Nat),
    ((List.range n).foldl (fun x i => 2 * x + bit (f i)) 0).testBit j = (decide (j < n) && f (n - 1 - j))
  | 0, j => by simp
  | n + 1, j => by
    rw [List.range_succ, List.foldl_append, List.foldl_cons, List.foldl_nil]
    cases j with
    | zero => cases hf : f n <;> simp [bit, hf, Nat.testBit_zero]
    | succ j =>
      rw [Nat.testBit_succ, show ∀ x b, (2 * x + bit b) / 2 = x from fun x b => by cases b <;> simp [bit]; omega, testBit_pushBits f n j]
      simp [show n - 1 - j = n - (j + 1) by omega]

theorem swapBits_eq (a : W64) : swapBits a = a.reverse := by
  refine BitVec.eq_of_getLsbD_eq fun i hi => ?_
  rw [swapBits, getLsbD_w64, testBit_pushBits, BitVec.getLsbD_reverse, BitVec.getMsbD]
  simp [hi]

/-- The number of bytes with one more above them. -/
theorem toNat_append_byte {n : Nat} (x : BitVec n) (b : Byte) : (x ++ b).toNat = b.toNat + 256 * x.toNat := by
  rw [BitVec.toNat_append, ← Nat.shiftLeft_add_eq_or_of_lt b.isLt, Nat.shiftLeft_eq]
  omega

theorem leBytes_eight (a : W64) : leBytes 8 a.toNat = [a.extractLsb' 0 8, a.extractLsb' 8 8, a.extractLsb' 16 8, a.extractLsb' 24 8,
    a.extractLsb' 32 8, a.extractLsb' 40 8, a.extractLsb' 48 8, a.extractLsb' 56 8] := by
  have hbyte (k : Nat) : BitVec.ofNat 8 (a.toNat / 2 ^ k) = a.extractLsb' k 8 := by
    rw [← Nat.shiftRight_eq_div_pow]
    rfl
  simp only [leBytes, Nat.div_div_eq_div_mul, ← hbyte]
  norm_num

theorem swapBytes_eq (a : W64) : swapBytes a =
    a.extractLsb' 0 8 ++ a.extractLsb' 8 8 ++ a.extractLsb' 16 8 ++ a.extractLsb' 24 8 ++ a.extractLsb' 32 8 ++ a.extractLsb' 40 8 ++
      a.extractLsb' 48 8 ++ a.extractLsb' 56 8 := by
  rw [swapBytes, leBytes_eight]
  refine (congrArg w64 ?_).trans ((BitVec.ofNat_toNat 64 _).trans (BitVec.setWidth_eq _))
  simp [toNat_append_byte, ofLeBytes]

theorem sext_eq {n : Nat} (x : BitVec n) (hn : n ≤ 64) : sext x = BitVec.ofInt 64 x.toInt := by
  rw [sext, ← BitVec.ofInt_toInt (x := BitVec.signExtend 64 x), BitVec.toInt_signExtend_of_le hn]

theorem zext_setWidth (a : W64) (n : Nat) : zext (a.setWidth n) = w64 (a.toNat % 2 ^ n) :=
  BitVec.eq_of_toNat_eq (by
    rw [zext, BitVec.toNat_setWidth, BitVec.toNat_setWidth]
    rfl)

theorem add_shiftLeft_eq (a b : W64) (n : Nat) : a + b <<< n = w64 (a.toNat + b.toNat * 2 ^ n) := by
  rw [w64_shiftLeft, w64, w64, BitVec.ofNat_add, BitVec.ofNat_toNat, BitVec.setWidth_eq]

theorem clz_eq (a : W64) : w64 (leadingZeros 64 a.toNat) = if a = 0 then 64 else w64 (63 - a.toNat.log2) := by
  have hzero : a = 0 ↔ a.toNat = 0 := BitVec.toNat_inj.symm
  rw [leadingZeros_eq a.isLt, apply_ite w64]
  simp only [hzero]
  rfl

end Sys2Proof.Proofs
end

section
/-! Immediate forms, shifts, bit fields, LEA, UNARY and SEL (R167 to R175). -/

namespace Sys2Proof.Proofs
open Machine Claims

/-- The immediate forms, shifts, bit fields and LEA write what R167 to R171 give. -/
theorem immediate_gives {i : Instr} {s : State} {d : Reg} {x : W64} (hrule : immediateRule s i = some (d, x)) (h : Clear i s) :
    Gives i s (s.setG d x) := by
  unfold immediateRule at hrule
  split at hrule
  case h_16 => cases hrule
  all_goals
    obtain ⟨rfl, rfl⟩ := Prod.mk.inj (Option.some.inj hrule)
    refine issue_put h (congrArg (put _ · s) ?_)
  · rw [BitVec.ofInt_add, BitVec.ofInt_toInt, immS_eq]
  · rw [immS_eq]
  · rw [immS_eq]
  · rw [immS_eq]
  · rw [BitVec.slt_eq_decide, w1_decide, toInt_immS]
  · rw [BitVec.ult_eq_decide, w1_decide, immS_eq]
  · rw [BitVec.ofInt_mul, BitVec.ofInt_toInt, immS_eq]
  · exact w64_shiftLeft _ _
  · exact w64_shiftRight _ _
  · exact sshiftRight_eq_div _ _
  · next n => exact ror64_eq _ n.isLt
  · rfl
  · next width off => exact bexts_eq _ _ _
  · exact bitInsert_eq _ _ _ _
  · exact add_shiftLeft_eq _ _ _

/-- UNARY and SEL write what Table 8 of 07 and R175 give. -/
theorem unary_gives {i : Instr} {s : State} {d : Reg} {x : W64} (hrule : unaryRule s i = some (d, x)) (h : Clear i s) :
    Gives i s (s.setG d x) := by
  unfold unaryRule at hrule
  split at hrule
  case h_13 => cases hrule
  all_goals
    obtain ⟨rfl, rfl⟩ := Prod.mk.inj (Option.some.inj hrule)
    refine issue_put h (congrArg (put _ · s) ?_)
  · exact clz_eq _
  · rw [trailingZeros_eq]; rfl
  · rw [popCount_eq]; rfl
  · exact swapBits_eq _
  · exact swapBytes_eq _
  · exact sext_eq _ (by decide)
  · exact sext_eq _ (by decide)
  · exact sext_eq _ (by decide)
  · exact zext_setWidth _ _
  · exact zext_setWidth _ _
  · rfl
  · rfl

/-- Settles O11, by the value of each form. -/
theorem immediateAndUnaryResults : Obligations.ImmediateAndUnaryResults :=
  ⟨fun _ _ _ _ => immediate_gives, fun _ _ _ _ => unary_gives⟩

end Sys2Proof.Proofs
end

section
/-! What the homes do with a request leaves memory as it stands: directory, slices, LLC and patterns change (R273 to R279, R376),
and only a SELF word that is written through, and a host line that is fetched for it, change bytes. -/

namespace Sys2Proof.Proofs
open Machine

@[simp] theorem charge_mem (d : Dev) (t : Stave) (cluster : Nat) (chan : Bool) (n : Nat) :
    (d.charge t cluster chan n).mem = d.mem := by
  unfold Dev.charge; split <;> rfl

@[simp] theorem onStave_mem (s : State) (n : BitVec 6) (f : Stave → Stave) : (s.onStave n f).dev.mem = s.dev.mem := rfl

@[simp] theorem dropNotes_dev (s : State) (n job : BitVec 6) (i : Nat) : (s.dropNotes n job i).dev = s.dev :=
  foldl_leaves State.dev _ (fun s k => onCore_dev s k _) _ s

@[simp] theorem tearOut_mem (s : State) (n job : BitVec 6) (i : Nat) : (s.tearOut n job i).dev.mem = s.dev.mem := by
  unfold State.tearOut
  split
  · rfl
  · split
    · rfl
    · split
      · rfl
      · simp [State.onPat]

@[simp] theorem tearUnread_mem (s : State) (line : Nat) (m : BitVec 16) (p : Nat → Bool) :
    (s.tearUnread line m p).dev.mem = s.dev.mem :=
  foldl_leaves (fun s => s.dev.mem) (fun s (u : Unread) => s.tearOut u.stave u.job u.pat.toNat) (fun _ _ => tearOut_mem ..) _ _

@[simp] theorem noteHome_mem (s : State) (sid : BitVec 16) (line : Nat) : (s.noteHome sid line).dev.mem = s.dev.mem := by
  unfold State.noteHome
  simp only
  split
  · rfl
  · split <;> rfl

@[simp] theorem channel_mem (s : State) (sid : BitVec 16) (line n : Nat) (dirty : BitVec 16) (code : Nat) :
    (s.channel sid line n dirty code).dev.mem = s.dev.mem := by
  unfold State.channel
  simp only
  repeat' split
  all_goals simp

@[simp] theorem pushedOut_mem (s : State) (slice line : Nat) : (s.pushedOut slice line).dev.mem = s.dev.mem := by
  unfold State.pushedOut
  split
  · rfl
  · simp [Dev.setDir]

@[simp] theorem sliceOut_mem (s : State) (v : L2Line) : (s.sliceOut v).dev.mem = s.dev.mem := by
  unfold State.sliceOut
  rw [pushedOut_mem]
  split <;> simp

@[simp] theorem sliceRoom_mem (s : State) (h line : Nat) : (s.sliceRoom h line).dev.mem = s.dev.mem := by
  unfold State.sliceRoom
  split <;> simp

@[simp] theorem atHome_mem (s : State) (sid : BitVec 16) (line : Nat) (m : BitVec 16) (write : Bool) (alloc llc : Nat) :
    (s.atHome sid line m write alloc llc).dev.mem = s.dev.mem := by
  unfold State.atHome
  simp only
  repeat' split
  all_goals simp

@[simp] theorem imageStore_dev (s : State) (key n x : Nat) : (s.imageStore key n x).dev = s.dev := by
  unfold State.imageStore
  simp only
  split
  · rfl
  · split
    · rfl
    · rw [foldl_leaves State.dev]
      · rfl
      · exact fun _ _ => rfl

/-- A write under a mask leaves every byte outside its range. -/
theorem read_writeMask_out : ∀ (n : Nat) {m : Cells} (a x mask : Nat) {a' : Nat}, m.wf = true → (a' < a ∨ a + n ≤ a') →
    (m.writeMask a n x mask).read a' = m.read a'
  | 0, _, _, _, _, _, _, _ => rfl
  | n + 1, m, a, x, mask, a', h, ho => by
    unfold Cells.writeMask
    split
    · rw [read_writeMask_out n _ _ _ (write_wf h a _) (by omega), read_write_ne _ (by omega) h]
    · exact read_writeMask_out n _ _ _ h (by omega)

/-- A write of some bytes of a word leaves the bytes of every other word. -/
theorem read_putWord_out {m : Cells} (hm : m.wf = true) (poison : List Nat) (word : Nat) (x : W64) (mask : BitVec 8) {a : Nat}
    (ha : a / 8 ≠ word) : (putWord m poison word x mask).1.read a = m.read a := by
  unfold putWord
  split
  · exact read_writeN_out 8 _ _ hm (by omega)
  · split
    · rfl
    · exact read_writeMask_out 8 _ _ _ hm (by omega)

/-- A store of an aligned 8-byte word leaves the bytes of every other word, in every class of memory. -/
theorem putMem_read_out {s : State} (hs : s.canonical) (cls : MemCls) (word x : Nat) {a : Nat} (ha : a / 8 ≠ word) :
    (s.putMem cls (8 * word) 8 x).dev.mem.read a = s.dev.mem.read a := by
  have hw : wordsOf (8 * word) 8 = [word] := by
    rw [wordsOf, show (8 * word + 8 - 1) / 8 + 1 - 8 * word / 8 = 1 by omega, show 8 * word / 8 = word by omega]
    rfl
  unfold State.putMem
  split
  · simp only [State.putLoose, hw, List.zipIdx_cons, List.zipIdx_nil, List.foldl_cons, List.foldl_nil]
    have hn (u : State) (hu : u.dev.mem = s.dev.mem) : (putWord u.dev.mem u.dev.poison word (wordPart (8 * word) x 0)
        (wordMask (8 * word) 8 word)).1.read a = s.dev.mem.read a := by
      rw [read_putWord_out (by rw [hu]; exact hs) _ _ _ _ ha, hu]
    split
    · split
      · split
        · rfl
        · exact hn _ rfl
      · exact hn _ rfl
    · split
      · split
        · rfl
        · exact hn _ rfl
      · exact hn _ rfl
  · exact read_writeN_out 8 _ _ hs (by omega)

/-- Writing a SELF word through keeps memory canonical. -/
theorem selfBack_wf {s : State} (w : L1Word) (hc : ((s.ckGlobal (8 * w.word) true).bring (8 * w.word) 8 true).canonical) :
    (s.selfBack w).canonical := by
  simp only [State.canonical, State.selfBack, atHome_mem, noteHome_mem, charge_mem]
  exact putWord_wf hc _ _ _ _

/-- The dirty bytes of a SELF word go into its home, after the host line under it has been brought in (R276, R444). -/
theorem selfBack_read_out {s : State} (w : L1Word) {a : Nat} (ha : a / 8 ≠ w.word)
    (hc : ((s.ckGlobal (8 * w.word) true).bring (8 * w.word) 8 true).canonical) :
    (s.selfBack w).dev.mem.read a = ((s.ckGlobal (8 * w.word) true).bring (8 * w.word) 8 true).dev.mem.read a := by
  simp only [State.selfBack, atHome_mem, noteHome_mem, charge_mem]
  exact read_putWord_out hc _ _ _ _ ha

end Sys2Proof.Proofs
end

section
/-! A store to physical memory can change bytes outside the 52-bit physical space: an L1 that holds a dirty SELF word past it, under
another SID, has a host line fetched for the write-back there. -/

namespace Sys2Proof.Proofs
open Machine Claims

theorem ckGlobal_of_no_stave {s : State} (h : s.dev.staves = []) (key : Nat) (w : Bool) : s.ckGlobal key w = s := by
  simp [State.ckGlobal, State.ckOutside, State.stave, Dev.stave, h, assocGet, Stave.reset]

/-- A host line that the device does not hold is fetched as its ownership comes (R444). -/
theorem hostBring_mem {s : State} {h : Nat} (hc : s.dev.cxl = true) (hh : s.dev.devHolds = []) (ho : s.dev.devOwns = []) :
    (s.hostBring h true).dev.mem = s.dev.mem.writeN (64 * h) 64 (Config.outside 2 (s.fresh + 1) % 2 ^ 512) := by
  simp only [State.hostBring, hc, ho, State.drawBool, State.hostArrive, hh, State.hostFetch, if_true, List.contains_nil, Bool.not_true,
    Bool.or_self, Bool.false_eq_true, if_false]

/-- The first word past the 52-bit physical space whose bits 51:50 name the host. -/
def pastWord : Nat := 7 * 2 ^ 47

/-- What the host line of that word holds, byte by byte, when it is fetched as the second free value. -/
def hostByte (i : Nat) : Byte := byteOf (Config.outside 2 1 % 2 ^ 512) i

/-- A core whose L1 holds the word dirty under SID 1, while its context has SID 0, and memory with one byte in the same host line. -/
def holdsPast (b : Byte) : State :=
  { State.reset with
    others := []
    me := { Core.booting with l1 := [⟨1, pastWord, 5, 0xFF, false⟩] }
    dev := { Dev.reset with link := .cxl 0, mem := Cells.write [] (8 * pastWord + 8) b } }

theorem holdsPast_askHome (b : Byte) (m : BitVec 16) (n : Nat) (w : Bool) :
    (holdsPast b).askHome (pastWord / 16) m n w 2 = .ok (holdsPast b) := by
  have hstave : ∀ i, (holdsPast b).dev.stave i = Stave.reset := fun i => rfl
  have hfits : (holdsPast b).fits n = true := by simp [State.fits, Dev.fits, State.stave, hstave, Stave.limit, Stave.reset, field]
  have hleft : (holdsPast b).hostLeft (pastWord / 16) m false = .ok (holdsPast b) := rfl
  have hnote : (holdsPast b).noteHome (holdsPast b).me.ctl.sid (pastWord / 16) = holdsPast b := rfl
  have hready : (holdsPast b).sliceReady (holdsPast b).me.ctl.sid (pastWord / 16) m w 2 = .ok (holdsPast b) := rfl
  have hcharge : (holdsPast b).charge n = holdsPast b := by
    simp [State.charge, Dev.charge, State.stave, hstave, Stave.limit, Stave.reset, field]
  simp only [State.askHome, hfits, hleft, bind, Except.bind, hnote, hready, hcharge]
  rfl

/-- The L1 word of that core. -/
def pastCopy : L1Word := ⟨1, pastWord, 5, 0xFF, false⟩

/-- No core of that state holds another word. -/
theorem holdsPast_l1 {b : Byte} {k : Nat} {w : L1Word} (hw : w ∈ ((holdsPast b).coreAt k).l1) : w = pastCopy := by
  unfold State.coreAt at hw
  split at hw
  · exact List.mem_singleton.mp hw
  · exact absurd hw List.not_mem_nil

/-- Its staves' journals lie at the reset value of CKBASE, in the first 2^20 bytes. -/
theorem holdsPast_journal (b : Byte) {a : Nat} (ha : 2 ^ 20 ≤ a) : ¬ Journal (holdsPast b) a := by
  rintro ⟨n, i, -, hi, hlt⟩
  rw [show (holdsPast b).dev.stave n = Stave.reset from rfl] at hi hlt
  have hsize : field Stave.reset.ckbase 0 4 = 0 := by decide
  have hbase : Stave.reset.journalAt 0 = 0 := by decide
  rw [hsize] at hi
  rw [hbase] at hlt
  omega

/-- Memory of that state after the store's request: the word written through over the host line that was fetched for it. -/
theorem holdsPast_request_read (b : Byte) (m : BitVec 16) (write : Bool) (alloc llc : Nat) :
    ((holdsPast b).request 0 (pastWord / 16) m write alloc llc).canonical ∧
      ((holdsPast b).request 0 (pastWord / 16) m write alloc llc).dev.mem.read (8 * pastWord + 8) = hostByte 8 := by
  have hm : ((holdsPast b).request 0 (pastWord / 16) m write alloc llc).dev.mem = ((holdsPast b).selfBack pastCopy).dev.mem := by
    have hdir : (holdsPast b).dev.dir = [] := rfl
    have hcores : (holdsPast b).cores = [0] := rfl
    have hcore : (holdsPast b).coreAt 0 = (holdsPast b).me := rfl
    have hl1 : (holdsPast b).me.l1 = [pastCopy] := rfl
    have hfocus : (holdsPast b).focus 0 = holdsPast b := rfl
    have hother : (pastCopy.word / 16 == pastWord / 16 && pastCopy.sid != 0) = true := by decide
    have hdirty : (pastCopy.dirty != 0) = true := by decide
    rw [State.request, atHome_mem, noteHome_mem]
    simp only [State.recall, hdir, List.any_nil, Bool.false_eq_true, if_false, hcores, List.foldl_cons, List.foldl_nil, hcore, hl1,
      List.any_cons, hother, Bool.true_or, if_true, State.at, hfocus, focus_dev, State.selfRecall, List.filter_cons, List.filter_nil,
      hdirty, Bool.and_true]
  have hbring : (holdsPast b).bring (8 * pastWord) 8 true = (holdsPast b).hostBring (pastWord / 8) true := by
    have hk : (holdsPast b).dev.paKind (8 * pastWord) = .host := by
      simp [Dev.paKind, pastWord]
    have hl : hostLines (8 * pastWord) 8 = [pastWord / 8] := by decide
    simp [State.bring, hk, hl]
  have hb : ((holdsPast b).bring (8 * pastWord) 8 true).dev.mem =
      (holdsPast b).dev.mem.writeN (64 * (pastWord / 8)) 64 (Config.outside 2 1 % 2 ^ 512) := by
    rw [hbring, hostBring_mem (by rfl) (by rfl) (by rfl)]
    rfl
  have hwf : (holdsPast b).canonical := write_wf rfl _ _
  have hck : (holdsPast b).ckGlobal (8 * pastWord) true = holdsPast b := ckGlobal_of_no_stave rfl _ _
  have hfetched : ((holdsPast b).bring (8 * pastWord) 8 true).canonical := by
    rw [State.canonical, Memory.wf, hb]
    exact writeN_wf 64 _ _ hwf
  constructor
  · rw [State.canonical, hm]
    exact selfBack_wf pastCopy (by rwa [show pastCopy.word = pastWord from rfl, hck])
  · rw [hm, selfBack_read_out pastCopy (by decide) (by rwa [show pastCopy.word = pastWord from rfl, hck]),
      show pastCopy.word = pastWord from rfl, hck, hb]
    exact read_writeN_in 64 _ _ 8 hwf (by decide)

/-- A byte that is not 0 and not the one that the host's line holds at offset 8. -/
def otherByte : Byte := if hostByte 8 = 1 then 2 else 1

theorem otherByte_ne : otherByte ≠ unlistedByte ∧ otherByte ≠ hostByte 8 := by
  unfold otherByte
  split
  · next h => exact ⟨by decide, by rw [h]; decide⟩
  · next h => exact ⟨by decide, fun e => h e.symm⟩

/-- The state after an UNC store of 8 bytes to the word. -/
def storedPast (b : Byte) : State :=
  (((holdsPast b).request 0 (pastWord / 16) (spanOf (8 * pastWord) 8) true 2 0).putMem .unc (8 * pastWord) 8 3).imageStore
    (8 * pastWord) 8 3

theorem holdsPast_store (b : Byte) :
    (holdsPast b).storeAt (.phys 0 (8 * pastWord) .unc none) 0 8 3 false true = .ok (storedPast b) := by
  have hpair : (holdsPast b).me.pair.isNone = true := rfl
  have hck : (holdsPast b).ckGlobal (8 * pastWord) true = holdsPast b := ckGlobal_of_no_stave rfl _ _
  have hkind : (holdsPast b).dev.paKind 0 = .dram := rfl
  have hhost : (PaKind.dram == PaKind.host) = false := rfl
  have halloc : uncAlloc (8 * pastWord) (holdsPast b).me.alloc = 2 := rfl
  have hline : 8 * pastWord / 128 = pastWord / 16 := by decide
  simp only [State.storeAt, State.paired, hpair, if_true, State.writePlace, State.volReady, Bool.false_and, Bool.false_eq_true, if_false,
    bind, Except.bind, hck, hkind, hhost, Bool.or_self, halloc, hline, holdsPast_askHome]
  rfl

theorem storedPast_read (b : Byte) : (storedPast b).dev.mem.read (8 * pastWord + 8) = hostByte 8 := by
  obtain ⟨hwf, hread⟩ := holdsPast_request_read b (spanOf (8 * pastWord) 8) true 2 0
  rw [storedPast, imageStore_dev, putMem_read_out hwf .unc pastWord 3 (by decide), hread]

/-- Refutes O31: an UNC store to a word past the 52-bit physical space, which the L1 holds dirty under another SID, makes the host line
around that word be fetched, and a byte of the line that is not stored changes. -/
theorem not_storesLeaveOtherMemory : ¬ Obligations.StoresLeaveOtherMemory := by
  unfold Obligations.StoresLeaveOtherMemory
  intro h
  obtain ⟨hzero, hne⟩ := otherByte_ne
  obtain ⟨hframe, -⟩ := h (holdsPast otherByte) (storedPast otherByte) 0 (8 * pastWord) 8 3 .unc none 0 false true
    (write_wf rfl _ _) (by decide) (by decide) (holdsPast_store _)
  have hout := holdsPast_journal otherByte (a := 8 * pastWord + 8) (by decide)
  have hfetched : ¬ Fetched (holdsPast otherByte) (8 * pastWord + 8) := fun ⟨_, hlt, _⟩ => absurd hlt (by decide)
  rcases hframe (8 * pastWord + 8) (fun ⟨_, _, hlt⟩ => by omega) hout (fun ⟨_, hk, _⟩ => by cases hk) hfetched with hsame | hthrough
  · rw [storedPast_read] at hsame
    exact hne (hsame.trans (read_write_same _ _ (show Cells.wf [] = true from rfl))).symm
  · obtain ⟨k, w, hw, hword, -⟩ := hthrough
    have hcopy := holdsPast_l1 hw
    rw [hcopy] at hword
    exact absurd hword (by decide)

end Sys2Proof.Proofs
end
section
/-! A release leaves every core but its SELF words, its notes and its TLB: the homes change no more of it (R276). -/

namespace Sys2Proof.Proofs
open Machine

theorem assocGet_assocSet_same {α : Type} (d x : α) (k : Nat) : ∀ l : List (Nat × α), assocGet d k (assocSet k x l) = x
  | [] => by simp [assocSet, assocGet]
  | (j, y) :: l => by
    unfold assocSet
    split
    · simp [assocGet]
    · split
      · simp [assocGet]
      · next hj _ => rw [assocGet, if_neg hj, assocGet_assocSet_same d x k l]

theorem assocGet_assocSet_ne {α : Type} (d x : α) {k i : Nat} (h : i ≠ k) :
    ∀ l : List (Nat × α), assocGet d i (assocSet k x l) = assocGet d i l
  | [] => by simp [assocSet, assocGet, h.symm]
  | (j, y) :: l => by
    unfold assocSet
    split
    · next hj => simp [assocGet, h.symm, hj]
    · split
      · simp [assocGet, h.symm]
      · simp only [assocGet, assocGet_assocSet_ne d x h l]

theorem assocGet_assocErase_ne {α : Type} (d : α) {k i : Nat} (h : i ≠ k) :
    ∀ l : List (Nat × α), assocGet d i (assocErase k l) = assocGet d i l
  | [] => rfl
  | (j, y) :: l => by
    unfold assocErase
    split
    · next hj => rw [assocGet_assocErase_ne d h l, assocGet, if_neg (by omega)]
    · simp only [assocGet, assocGet_assocErase_ne d h l]

/-- A change of focus changes what no core holds. -/
theorem coreAt_focus (s : State) (k i : Nat) : (s.focus k).coreAt i = s.coreAt i := by
  unfold State.focus
  split
  · rfl
  · next hk =>
    by_cases hik : i = k
    · simp [State.coreAt, hik, hk]
    · by_cases hih : i = s.here
      · simp [State.coreAt, hih, assocGet_assocErase_ne _ (Ne.symm hk), assocGet_assocSet_same, Ne.symm hk]
      · simp [State.coreAt, hik, hih, assocGet_assocErase_ne _ hik, assocGet_assocSet_ne _ _ hih]

/-- A core without what the homes and translation may change of it: its SELF words, its notes, its TLB. -/
def archOf (c : Core) : Core := { c with l1 := [], notes := [], tlb := [] }

/-- The same core is in focus, and every core is as before but for its SELF words, notes and TLB. -/
def SameArch (s t : State) : Prop := t.here = s.here ∧ ∀ k, archOf (t.coreAt k) = archOf (s.coreAt k)

theorem SameArch.refl (s : State) : SameArch s s := ⟨rfl, fun _ => rfl⟩

theorem SameArch.trans {s t u : State} (h : SameArch s t) (h' : SameArch t u) : SameArch s u :=
  ⟨h'.1.trans h.1, fun k => (h'.2 k).trans (h.2 k)⟩

theorem SameArch.me {s t : State} (h : SameArch s t) : archOf t.me = archOf s.me := by
  obtain ⟨hhere, harch⟩ := h
  have hk := harch s.here
  rwa [State.coreAt, if_pos hhere.symm, State.coreAt, if_pos rfl] at hk

theorem SameArch.regs {s t : State} (h : SameArch s t) : t.me.regs = s.me.regs := (congrArg Core.regs h.me :)

theorem SameArch.ctl {s t : State} (h : SameArch s t) : t.me.ctl = s.me.ctl := (congrArg Core.ctl h.me :)

theorem SameArch.hints {s t : State} (h : SameArch s t) : t.me.hints = s.me.hints := (congrArg Core.hints h.me :)

/-- A change of the core in focus alone that `archOf` does not see. -/
theorem SameArch.of_me {s t : State} (hh : t.here = s.here) (ho : t.others = s.others) (hm : archOf t.me = archOf s.me) :
    SameArch s t := by
  refine ⟨hh, fun k => ?_⟩
  simp only [State.coreAt, hh, ho]
  split
  · exact hm
  · rfl

theorem setDev_sameArch (s : State) (d : Dev) : SameArch s { s with dev := d } := ⟨rfl, fun _ => rfl⟩

theorem onStave_sameArch (s : State) (n : BitVec 6) (f : Stave → Stave) : SameArch s (s.onStave n f) := setDev_sameArch s _

theorem SameArch.ite {c : Prop} [Decidable c] {s t u : State} (ht : SameArch s t) (hu : SameArch s u) :
    SameArch s (if c then t else u) := by
  split
  · exact ht
  · exact hu

theorem SameArch.foldl {α : Type} {f : State → α → State} (hf : ∀ s x, SameArch s (f s x)) :
    ∀ (l : List α) (s : State), SameArch s (l.foldl f s)
  | [], s => SameArch.refl s
  | x :: l, s => (hf s x).trans (SameArch.foldl hf l (f s x))

theorem onCore_sameArch (s : State) (k : Nat) {f : Core → Core} (hf : ∀ c, archOf (f c) = archOf c) : SameArch s (s.onCore k f) := by
  unfold State.onCore State.setCore
  split
  · next hk => exact SameArch.of_me rfl rfl (by simp [hf, State.coreAt, hk])
  · next hk =>
    refine ⟨rfl, fun i => ?_⟩
    by_cases hi : i = s.here
    · simp [State.coreAt, hi]
    · by_cases hik : i = k
      · subst hik; simp [State.coreAt, hi, assocGet_assocSet_same, hf]
      · simp [State.coreAt, hi, assocGet_assocSet_ne _ _ hik]

/-- An operation with another core in focus. -/
theorem at_sameArch (s : State) (k : Nat) {f : State → State} (hf : ∀ u, SameArch u (f u)) : SameArch s (s.at k f) :=
  ⟨focus_here .., fun i => by rw [State.at, coreAt_focus, (hf _).2 i, coreAt_focus]⟩

theorem dropNotes_sameArch (s : State) (n job : BitVec 6) (i : Nat) : SameArch s (s.dropNotes n job i) :=
  SameArch.foldl (fun s k => onCore_sameArch s k fun c => by split <;> rfl) _ _

theorem tearOut_sameArch (s : State) (n job : BitVec 6) (i : Nat) : SameArch s (s.tearOut n job i) := by
  unfold State.tearOut
  split
  · exact .refl s
  · split
    · exact .refl s
    · split
      · exact .refl s
      · exact dropNotes_sameArch _ n job i

theorem tearUnread_sameArch (s : State) (line : Nat) (m : BitVec 16) (p : Nat → Bool) : SameArch s (s.tearUnread line m p) :=
  SameArch.foldl (f := fun s (u : Unread) => s.tearOut u.stave u.job u.pat.toNat) (fun _ _ => tearOut_sameArch ..) _ _

theorem noteHome_sameArch (s : State) (sid : BitVec 16) (line : Nat) : SameArch s (s.noteHome sid line) := by
  unfold State.noteHome
  simp only
  split
  · exact .refl s
  · split <;> exact .refl s

theorem channel_sameArch (s : State) (sid : BitVec 16) (line n : Nat) (dirty : BitVec 16) (code : Nat) :
    SameArch s (s.channel sid line n dirty code) := by
  unfold State.channel
  simp only
  repeat' split
  all_goals exact .refl s

theorem pushedOut_sameArch (s : State) (slice line : Nat) : SameArch s (s.pushedOut slice line) := by
  unfold State.pushedOut
  split
  · exact .refl s
  · exact tearUnread_sameArch ..

theorem sliceOut_sameArch (s : State) (v : L2Line) : SameArch s (s.sliceOut v) := by
  unfold State.sliceOut
  refine SameArch.trans ?_ (pushedOut_sameArch _ _ _)
  split
  · exact .refl s
  · exact channel_sameArch ..

theorem sliceRoom_sameArch (s : State) (h line : Nat) : SameArch s (s.sliceRoom h line) := by
  unfold State.sliceRoom
  split
  · exact sliceOut_sameArch ..
  · exact .refl s

theorem atHome_sameArch (s : State) (sid : BitVec 16) (line : Nat) (m : BitVec 16) (write : Bool) (alloc llc : Nat) :
    SameArch s (s.atHome sid line m write alloc llc) := by
  unfold State.atHome
  simp only
  split
  · split
    · exact .refl s
    · split
      · exact channel_sameArch ..
      · exact .refl s
  · split
    · exact channel_sameArch ..
    · exact (sliceRoom_sameArch s _ _).trans (channel_sameArch ..)

theorem journalLine_sameArch (s : State) (n job : BitVec 6) (d : Dom) (key : Nat) : SameArch s (s.journalLine n job d key) := by
  unfold State.journalLine
  simp only
  split
  · exact .refl s
  · split
    · exact onStave_sameArch ..
    · exact (setDev_sameArch s _).trans (onStave_sameArch _ n _)

theorem ckTouch_sameArch (s : State) (n : BitVec 6) (j : Job) (d : Dom) (inside write : Bool) (key : Nat) :
    SameArch s (s.ckTouch n j d inside write key) := by
  unfold State.ckTouch
  split
  · exact .refl s
  · split
    · split
      · exact journalLine_sameArch ..
      · exact .refl s
    · split <;> exact .refl s

theorem ckOutside_sameArch (s : State) (p : BitVec 6 → Bool) (key : Nat) : SameArch s (s.ckOutside p key) :=
  SameArch.foldl (fun s t => by
    split
    · exact .refl s
    · exact SameArch.foldl (fun s j => SameArch.foldl (fun s d => ckTouch_sameArch ..) _ _) _ _) _ _

theorem ckGlobal_sameArch (s : State) (key : Nat) (write : Bool) : SameArch s (s.ckGlobal key write) :=
  (SameArch.foldl (fun _ _ => SameArch.foldl (fun _ _ => ckTouch_sameArch ..) _ _) _ _).trans (ckOutside_sameArch ..)

theorem hostFetch_sameArch (s : State) (h : Nat) (bad : Bool) : SameArch s (s.hostFetch h bad) := by
  unfold State.hostFetch
  generalize s.dev.mem.writeN _ _ _ = mem
  exact .of_me rfl rfl rfl

theorem drawBool_sameArch (s : State) : SameArch s s.drawBool.2 := ⟨rfl, fun _ => rfl⟩

theorem hostArrive_sameArch (s : State) (h : Nat) (own bad : Bool) : SameArch s (s.hostArrive h own bad) :=
  (SameArch.ite (.refl s) (hostFetch_sameArch s h bad)).trans (setDev_sameArch _ _)

theorem hostBring_sameArch (s : State) (h : Nat) (own : Bool) : SameArch s (s.hostBring h own) :=
  .ite (.refl s) ((drawBool_sameArch s).trans (hostArrive_sameArch _ h own _))

theorem bring_sameArch (s : State) (pa n : Nat) (own : Bool) : SameArch s (s.bring pa n own) := by
  unfold State.bring
  split
  · exact SameArch.foldl (fun s h => hostBring_sameArch s h own) _ _
  · exact .refl s
  · exact .refl s

theorem selfBack_sameArch (s : State) (w : L1Word) : SameArch s (s.selfBack w) := by
  unfold State.selfBack
  refine .trans ?_ (atHome_sameArch ..)
  refine .trans ?_ (noteHome_sameArch ..)
  exact ((ckGlobal_sameArch s _ _).trans (bring_sameArch _ _ _ _)).trans (setDev_sameArch _ _)

theorem selfRecall_sameArch (s : State) (p : L1Word → Bool) : SameArch s (s.selfRecall p) :=
  (SameArch.foldl selfBack_sameArch _ s).trans (.of_me rfl rfl rfl)

theorem recall_sameArch (s : State) (sid : BitVec 16) (line : Nat) : SameArch s (s.recall sid line) := by
  have htear : SameArch s (if s.dev.dir.any fun x => x.line == line && x.sid != sid then
      let s := s.tearUnread line 0xFFFF fun _ => true
      { s with dev := { s.dev with dir := s.dev.dir.filter fun x => x.line != line } }
    else s) := by
    split
    · exact tearUnread_sameArch ..
    · exact .refl s
  refine htear.trans (SameArch.foldl (fun s k => ?_) _ _)
  split
  · exact at_sameArch s k fun u => selfRecall_sameArch u _
  · exact .refl s

theorem selfPut_sameArch (s : State) (p : L1Word → Bool) : SameArch s (s.selfPut p) :=
  (SameArch.foldl (fun s (w : L1Word) => recall_sameArch s w.sid _) _ s).trans (SameArch.foldl selfBack_sameArch _ _)

theorem selfRelease_sameArch (s : State) : SameArch s s.selfRelease := (selfPut_sameArch s _).trans (.of_me rfl rfl rfl)

theorem release_sameArch {s t : State} (h : s.release = .ok t) : SameArch s t := by
  simp only [State.release] at h
  split at h
  · cases h
  · cases h; exact selfRelease_sameArch s

end Sys2Proof.Proofs
end

section
/-! The checks of an access leave every core but its TLB. -/

namespace Sys2Proof.Proofs
open Machine

theorem walkFill_sameArch (s : State) (sp : Space) (va : Nat) : SameArch s (s.walkFill sp va).state := by
  unfold State.walkFill
  split
  · exact .refl s
  · exact .of_me rfl rfl rfl

theorem pick_sameArch (s : State) (t : TlbEntry) (va : Nat) : SameArch s (s.pick t va).state := by
  unfold State.pick
  simp only
  split
  · exact .refl s
  · split
    · exact .refl s
    · split <;> exact .refl s

theorem translate_sameArch (s : State) (sp : Space) (va : Nat) (store : Bool) : SameArch s (s.translate sp va store).state := by
  have hwalk := walkFill_sameArch s sp va
  unfold State.translate
  cases hw : s.walkFill sp va with
  | hit t u =>
    rw [hw] at hwalk
    have hpick := hwalk.trans (pick_sameArch u t va)
    simp only
    split
    · split
      · exact hpick
      · exact pick_sameArch ..
    · split
      · exact .refl s
      · exact hpick
  | miss l b u =>
    rw [hw] at hwalk
    simp only
    split
    · split
      · exact hwalk
      · exact pick_sameArch ..
    · split
      · exact .refl s
      · exact hwalk

theorem physCheck_sameArch {s t : State} {va : W64} {kind : AccKind} {pl : Place} (h : s.physCheck va kind = .ok (pl, t)) :
    SameArch s t := by
  have htr := translate_sameArch s s.me.space va.toNat kind.writes
  unfold State.physCheck at h
  split at h
  · cases h
  · next hx =>
    rw [hx] at htr
    simp only [trapHere] at h
    repeat' split at h
    all_goals cases h
    all_goals exact htr

theorem hostPass_sameArch (s : State) (h : Nat) : SameArch s (s.hostPass h) :=
  .ite (.refl s) ((drawBool_sameArch s).trans (hostFetch_sameArch _ h _))

theorem hostReady_sameArch {s t : State} {pa n : Nat} {cls : MemCls} {own : Bool} (h : s.hostReady pa n cls own = .ok t) :
    SameArch s t := by
  unfold State.hostReady at h
  split at h
  · cases h; exact .refl s
  · cases h; exact .refl s
  · simp only at h
    split at h
    · cases h; exact .refl s
    · split at h
      · cases h; exact SameArch.foldl hostPass_sameArch _ _
      · cases h

theorem physPlace_sameArch {s t : State} {va : W64} {n : Nat} {kind : AccKind} {pl : Place} (h : s.physPlace va n kind = .ok (pl, t)) :
    SameArch s t := by
  unfold State.physPlace at h
  cases hc : s.physCheck va kind with
  | error r => rw [hc] at h; cases h
  | ok x =>
    obtain ⟨pl', u⟩ := x
    have hu := physCheck_sameArch hc
    rw [hc] at h
    cases pl' with
    | phys pa key cls leaf =>
      simp only [bind, Except.bind] at h
      split at h
      · cases h
      · next hr => cases h; exact hu.trans (hostReady_sameArch hr)
    | _ => cases h; exact hu

theorem place_sameArch {s t : State} {va : W64} {n : Nat} {kind : AccKind} {apertures : Bool} {pl : Place}
    (h : s.place va n kind apertures = .ok (pl, t)) : SameArch s t := by
  have hown {off : Nat} (h : s.ownPlace va off n kind apertures = .ok (pl, t)) : SameArch s t := by
    simp only [State.ownPlace, trapHere] at h
    repeat' split at h
    all_goals cases h
    all_goals exact .refl s
  have hfar {l off : Nat} (h : s.farPlace va l off n = .ok (pl, t)) : SameArch s t := by
    simp only [State.farPlace, trapHere] at h
    repeat' split at h
    all_goals cases h
    exact .refl s
  simp only [State.place, State.placeSpan, trapHere] at h
  split at h
  · cases h
  · split at h
    · exact physPlace_sameArch h
    · split at h
      · split at h
        · exact hown h
        · cases h
      · split at h
        · split at h
          · cases h
          · split at h
            · exact hown h
            · exact hfar h
        · cases h

theorem SameArch.g {s t : State} (h : SameArch s t) (r : Reg) : t.g r = s.g r := by
  simp only [State.g, h.regs]

end Sys2Proof.Proofs
end
section
/-! What stores store (R283 to R285, R294). -/

namespace Sys2Proof.Proofs
open Machine Claims

/-- A store of a general register at its place, or the start of a copy at an aperture. -/
theorem storeReg_of_place {s s1 s2 : State} {x va : W64} {n : Nat} {vol : Bool} {pl : Place}
    (hp : s.place va n .write true = .ok (pl, s1))
    (h : ((∀ c, pl ≠ .aperture c) ∧ s1.storeAt pl va n (x.toNat % 256 ^ n) vol true = .ok s2) ∨
      (∃ c u, pl = .aperture c ∧ s1.volReady vol = .ok u ∧ u.paired .aperture va n x.toNat (fun u => u.startCopy c x) = .ok s2)) :
    storeReg x va n vol s = .ok s2 := by
  simp only [storeReg, hp, bind, Except.bind]
  rcases h with ⟨hne, hst⟩ | ⟨c, u, rfl, hready, hcopy⟩
  · cases pl with
    | aperture c => exact absurd rfl (hne c)
    | _ => exact hst
  · simp only [hready, hcopy]

theorem stBody_of_storeReg {s t : State} {src : Reg} {va : W64} {n : Nat} {vol : Bool} (h : storeReg (s.g src) va n vol s = .ok t) :
    stBody src va n vol s = t.ok := by
  simp only [stBody, h, bind, Except.bind]
  rfl

/-- A vector store. -/
theorem stvBody_of_place {s s1 s2 s3 : State} {src : Reg} {va : W64} {x : V512} {pl : Place} (hv : s.vsrc src = .ok (x, s1))
    (hp : s1.place va 64 .write false = .ok (pl, s2)) (hst : s2.storeAt pl va 64 x.toNat false true = .ok s3) :
    stvBody src va s = s3.ok := by
  simp only [stvBody, State.storeTo, hv, hp, hst, bind, Except.bind]
  rfl

/-- A store with `.rel`: its source is as before the release, which writes no register. -/
theorem stRelBody_of_place {s s1 s2 s3 s4 : State} {a b : Reg} {n : Nat} {pl pl' : Place}
    (hp : s.place (s.g a) n .write true = .ok (pl, s1)) (hr : s1.release = .ok s2)
    (hp' : s2.place (s.g a) n .write true = .ok (pl', s3)) (hne : ∀ c, pl' ≠ .aperture c)
    (hst : s3.storeAt pl' (s.g a) n ((s.g b).toNat % 256 ^ n) false true = .ok s4) :
    stRelBody a b n s = s4.selfRelease.ok := by
  have hsource : s2.g b = s.g b := ((place_sameArch hp).trans (release_sameArch hr)).g b
  have hreg : storeReg (s2.g b) (s.g a) n false s2 = .ok s4 := storeReg_of_place hp' (.inl ⟨hne, by rwa [hsource]⟩)
  simp only [stRelBody, hp, hr, hreg, bind, Except.bind]
  rfl

/-- A word whose body goes on retires in the body's state. -/
theorem gives_of_ok {i : Instr} {body : State → Res} {s t : State} (hx : exec i s = issue i body s) (h : Clear i s)
    (hb : body s = t.ok) : Gives i s t := by
  rw [Gives, hx, issue_done h hb]
  rfl

/-- Settles O28, by the body of each store. -/
theorem storesPerform : Obligations.StoresPerform := by
  unfold Obligations.StoresPerform
  refine ⟨?_, ?_, ?_⟩
  · intro s s1 s2 src a size off vol pl n va x hp hst
    have hreg : storeReg (s.g src) va n vol s = .ok s2 := storeReg_of_place hp hst
    constructor
    · rintro rfl h
      exact gives_of_ok rfl h (stBody_of_storeReg hreg)
    · rintro rfl h
      exact gives_of_ok rfl h (stBody_of_storeReg hreg)
  · intro s s1 s2 s3 src a off x pl h hv hp hst
    exact gives_of_ok rfl h (stvBody_of_place hv hp hst)
  · intro s s1 s2 s3 s4 a b dw pl pl' h n hp hr hp' hne hst
    exact gives_of_ok rfl h (stRelBody_of_place hp hr hp' hne hst)

end Sys2Proof.Proofs
end
section
/-! Lanes: the elements of a register as a list, the results of the active ones, their exceptions, and the register that they form
(R19, R190, R203, R206). -/

namespace Sys2Proof.Proofs
open Machine Claims

/-! ## Elements of a register -/

theorem field_elem (n : Nat) (x : V512) (k : Nat) : field x (n * k) n = elem n x k := by
  rw [field, BitVec.extractLsb'_toNat, Nat.shiftRight_eq_div_pow, elem]

theorem elem_lt (n : Nat) (x : V512) (k : Nat) : elem n x k < 2 ^ n := Nat.mod_lt _ (Nat.two_pow_pos n)

theorem lanesOf_eq (n : Nat) (x : V512) : lanesOf n x = (List.range (512 / n)).map (elem n x) :=
  List.map_congr_left fun k _ => field_elem n x k

theorem packNat_lt (n : Nat) : ∀ l : List Nat, packNat n l < 2 ^ (n * l.length)
  | [] => by simp [packNat]
  | x :: l => by
    have hx := Nat.mod_lt x (Nat.two_pow_pos n)
    have hl := packNat_lt n l
    rw [packNat, List.length_cons, show n * (l.length + 1) = n + n * l.length by ring, pow_add]
    calc x % 2 ^ n + 2 ^ n * packNat n l < 2 ^ n * 1 + 2 ^ n * packNat n l := by omega
      _ = 2 ^ n * (packNat n l + 1) := by ring
      _ ≤ 2 ^ n * 2 ^ (n * l.length) := Nat.mul_le_mul_left _ hl

theorem packNat_elem (n : Nat) : ∀ (l : List Nat) (k : Nat), packNat n l / 2 ^ (n * k) % 2 ^ n = l.getD k 0 % 2 ^ n
  | [], k => by simp [packNat]
  | x :: l, 0 => by simp [packNat, Nat.add_mod]
  | x :: l, k + 1 => by
    have hx := Nat.mod_lt x (Nat.two_pow_pos n)
    rw [packNat, show n * (k + 1) = n + n * k by ring, pow_add, ← Nat.div_div_eq_div_mul, Nat.add_mul_div_left _ _ (Nat.two_pow_pos n),
      Nat.div_eq_of_lt hx, zero_add, packNat_elem n l k, List.getD_cons_succ]

theorem toNat_ofNat_of_lt {w x : Nat} (h : x < 2 ^ w) : (BitVec.ofNat w x).toNat = x := by
  rw [BitVec.toNat_ofNat, Nat.mod_eq_of_lt h]

/-- An element of the register that a list of elements forms. -/
theorem elem_packLanes {n L : Nat} (hL : n * L = 512) (f : Nat → Nat) {k : Nat} (hk : k < L) :
    elem n (packLanes n ((List.range L).map f)) k = f k % 2 ^ n := by
  have hlt := packNat_lt n ((List.range L).map f)
  rw [List.length_map, List.length_range, hL] at hlt
  rw [elem, packLanes, toNat_ofNat_of_lt hlt, packNat_elem]
  simp [hk]

theorem mergeLanes_map (f : Nat → Nat) (g : Nat → Option Nat) : ∀ l : List Nat,
    mergeLanes (l.map f) (l.map g) = l.map fun k => (g k).getD (f k)
  | [] => rfl
  | k :: l => by simp only [List.map_cons, mergeLanes, mergeLanes_map f g l]

/-! ## Results and their exceptions -/

/-- The results of the active ones of L elements. -/
def laneResults (L : Nat) (hit : Nat → Bool) (r : Nat → FpRes) : List (Option FpRes) :=
  (List.range L).map fun k => if hit k then some (r k) else none

theorem activeRes_map (hit : Nat → Bool) (r : Nat → FpRes) : ∀ l : List Nat,
    activeRes (l.map hit) (l.map r) = l.map fun k => if hit k then some (r k) else none
  | [] => rfl
  | k :: l => by simp only [List.map_cons, activeRes, activeRes_map hit r l]

theorem laneResults_congr {L : Nat} {hit : Nat → Bool} {r r' : Nat → FpRes} (h : ∀ k, k < L → r k = r' k) :
    laneResults L hit r = laneResults L hit r' :=
  List.map_congr_left fun k hk => by rw [h k (List.mem_range.mp hk)]

theorem foldl_flagsFrom : ∀ (l : List (Option FpRes)) (i z : Nat),
    (flagsFrom i l).foldl (fun z f => z ||| f.2) z = l.foldl (fun z o => o.elim z fun r => z ||| r.flags) z
  | [], _, _ => rfl
  | none :: l, i, z => foldl_flagsFrom l (i + 1) z
  | some r :: l, i, z => foldl_flagsFrom l (i + 1) (z ||| r.flags)

/-- The exceptions of the active elements together. -/
theorem allFlags_laneResults (L : Nat) (hit : Nat → Bool) (r : Nat → FpRes) :
    allFlags (flagsFrom 0 (laneResults L hit r)) =
      (List.range L).foldl (fun z e => if hit e then z ||| (r e).flags else z) 0 := by
  rw [allFlags, foldl_flagsFrom, laneResults, List.foldl_map]
  congr 1
  funext z e
  cases hit e <;> rfl

theorem testBit_foldl_or (hit : Nat → Bool) (f : Nat → Nat) (j : Nat) : ∀ (l : List Nat) (z : Nat),
    (l.foldl (fun z e => if hit e then z ||| f e else z) z).testBit j = (z.testBit j || l.any fun e => hit e && (f e).testBit j)
  | [], z => by simp
  | e :: l, z => by
    rw [List.foldl_cons, testBit_foldl_or hit f j l, List.any_cons]
    cases hit e <;> simp [Bool.or_assoc]

/-- The exceptions that a list of results gives are those of its elements, under their indices. -/
theorem mem_flagsFrom {j fl : Nat} : ∀ {l : List (Option FpRes)} {i : Nat},
    (j, fl) ∈ flagsFrom i l ↔ ∃ k r, l[k]? = some (some r) ∧ j = i + k ∧ fl = r.flags
  | [], i => by simp [flagsFrom]
  | none :: l, i => by
    rw [flagsFrom, mem_flagsFrom]
    constructor
    · rintro ⟨k, r, hk, hj, hfl⟩
      exact ⟨k + 1, r, hk, by omega, hfl⟩
    · rintro ⟨_ | k, r, hk, hj, hfl⟩
      · simp at hk
      · exact ⟨k, r, hk, by omega, hfl⟩
  | some r0 :: l, i => by
    rw [flagsFrom, List.mem_cons, mem_flagsFrom]
    constructor
    · rintro (h | ⟨k, r, hk, hj, hfl⟩)
      · exact ⟨0, r0, rfl, congrArg Prod.fst h, congrArg Prod.snd h⟩
      · exact ⟨k + 1, r, hk, by omega, hfl⟩
    · rintro ⟨_ | k, r, hk, hj, hfl⟩
      · simp only [List.getElem?_cons_zero, Option.some.injEq] at hk
        exact .inl (by rw [hj, hfl, hk, Nat.add_zero])
      · exact .inr ⟨k, r, hk, by omega, hfl⟩

theorem mem_flags_laneResults {L : Nat} {hit : Nat → Bool} {r : Nat → FpRes} {j fl : Nat} :
    (j, fl) ∈ flagsFrom 0 (laneResults L hit r) ↔ j < L ∧ hit j = true ∧ fl = (r j).flags := by
  rw [mem_flagsFrom]
  constructor
  · rintro ⟨k, x, hk, rfl, rfl⟩
    rw [laneResults, List.getElem?_map, Option.map_eq_some_iff] at hk
    obtain ⟨e, he, hx⟩ := hk
    obtain ⟨hlt, rfl⟩ := List.getElem?_eq_some_iff.mp he
    rw [List.length_range] at hlt
    simp only [List.getElem_range] at hx
    split at hx
    · next hh => cases hx; exact ⟨by omega, by simpa using hh, by simp⟩
    · cases hx
  · rintro ⟨hlt, hh, rfl⟩
    exact ⟨j, r j, by simp [laneResults, hlt, hh], by omega, rfl⟩

theorem lowestEnabled_eq_none {en : Nat} : ∀ {l : List (Nat × Nat)}, lowestEnabled en l = none ↔ ∀ f ∈ l, f.2 &&& en = 0
  | [] => by simp [lowestEnabled]
  | (i, fl) :: l => by
    rw [lowestEnabled, List.forall_mem_cons, ← lowestEnabled_eq_none (l := l)]
    cases lowestEnabled en l with
    | none => simp
    | some k => simp only [reduceCtorEq, and_false, iff_false]; split <;> simp

/-- The element that FPEXC names raised an enabled exception, and none below it did. -/
theorem lowestEnabled_spec {en k : Nat} : ∀ {l : List (Nat × Nat)}, lowestEnabled en l = some k →
    (∃ fl, (k, fl) ∈ l ∧ fl &&& en ≠ 0) ∧ ∀ f ∈ l, f.2 &&& en ≠ 0 → k ≤ f.1
  | [], h => by simp [lowestEnabled] at h
  | (i, fl) :: l, h => by
    rw [lowestEnabled] at h
    cases hl : lowestEnabled en l with
    | none =>
      have hnone := lowestEnabled_eq_none.mp hl
      simp only [hl] at h
      split at h
      · next hfl =>
        cases h
        refine ⟨⟨fl, by simp, hfl⟩, ?_⟩
        rintro f hf hne
        rcases List.mem_cons.mp hf with rfl | hf
        · exact le_rfl
        · exact absurd (hnone f hf) hne
      · cases h
    | some m =>
      obtain ⟨⟨fl', hmem, hne'⟩, hmin⟩ := lowestEnabled_spec hl
      simp only [hl] at h
      split at h
      · next hlt =>
        cases h
        refine ⟨⟨fl, by simp, hlt.1⟩, ?_⟩
        rintro f hf hne
        rcases List.mem_cons.mp hf with rfl | hf
        · exact le_rfl
        · have := hmin f hf hne; omega
      · next hge =>
        cases h
        refine ⟨⟨fl', List.mem_cons_of_mem _ hmem, hne'⟩, ?_⟩
        rintro f hf hne
        rcases List.mem_cons.mp hf with rfl | hf
        · exact Nat.le_of_not_lt fun hlt => hge ⟨hne, hlt⟩
        · exact hmin f hf hne

end Sys2Proof.Proofs
end
section
/-! Elementwise instructions: what their sources, their results and their exceptions come to (R190, R203 to R214). -/

namespace Sys2Proof.Proofs
open Machine Claims

/-! ## Sources -/

theorem acquire_sameArch (s : State) : SameArch s s.acquire := (selfPut_sameArch s _).trans (.of_me rfl rfl rfl)

theorem irreversible_sameArch (s : State) : SameArch s s.irreversible := by
  unfold State.irreversible
  split
  · exact .refl s
  · exact onStave_sameArch ..

/-- The registers, the control registers and the open chain are as before. -/
def SameFiles (s t : State) : Prop := t.me.regs = s.me.regs ∧ t.me.ctl = s.me.ctl ∧ t.me.hints = s.me.hints

theorem SameFiles.trans {s t u : State} (h : SameFiles s t) (h' : SameFiles t u) : SameFiles s u :=
  ⟨h'.1.trans h.1, h'.2.1.trans h.2.1, h'.2.2.trans h.2.2⟩

theorem SameArch.files {s t : State} (h : SameArch s t) : SameFiles s t := ⟨h.regs, h.ctl, h.hints⟩

theorem SameFiles.v {s t : State} (h : SameFiles s t) (k : Nat) : t.v k = s.v k := by
  simp only [State.v, Core.v, h.1]

theorem SameFiles.rounding {s t : State} (h : SameFiles s t) : t.me.rounding = s.me.rounding := by
  simp only [Core.rounding, Core.rm, h.2.1, h.2.2]

theorem SameFiles.fpEnabled {s t : State} (h : SameFiles s t) : t.me.fpEnabled = s.me.fpEnabled := by
  simp only [Core.fpEnabled, h.2.1]

theorem SameFiles.mask {s t : State} (h : SameFiles s t) (p : PReg) (L : Nat) : t.me.mask p L = s.me.mask p L := by
  simp only [Core.mask, h.1]

theorem setQueue_files (s : State) (q i : Nat) (l : List QEntry) (f : Slot → Slot) :
    SameFiles s { s with me := (s.me.setQueue q l).onSlot i f } := by
  unfold Core.onSlot Core.setQueue SameFiles
  split <;> split <;> exact ⟨rfl, rfl, rfl⟩

/-- A source that is a register changes nothing; one that is a queue leaves every register (R20). -/
theorem vsrc_files {s t : State} {r : Reg} {x : V512} (h : s.vsrc r = .ok (x, t)) : SameFiles s t := by
  unfold State.vsrc at h
  split at h
  · cases h; exact ⟨rfl, rfl, rfl⟩
  · unfold State.takeQueue at h
    split at h
    · cases h
    · split at h
      · cases h
      · split at h
        · cases h
        · cases h
          exact ((acquire_sameArch s).trans (irreversible_sameArch _)).files.trans (setQueue_files ..)

/-! ## Results -/

theorem width_mul_lanes (ty : ElemTy) : ElemTy.width ty * (512 / ElemTy.width ty) = 512 := by
  cases ty <;> rfl

theorem lanes_le (ty : ElemTy) : 512 / ElemTy.width ty ≤ 64 := by
  cases ty <;> decide

/-- The bits of a predicate name the active elements (R19). -/
theorem mask_eq (s : State) (p : PReg) {L : Nat} (hL : L ≤ 64) : s.me.mask p L = (List.range L).map (active s p) := by
  refine List.map_congr_left fun k hk => ?_
  have hk64 : k < 64 := lt_of_lt_of_le (List.mem_range.mp hk) hL
  by_cases hp : p = 0
  · rw [if_pos hp, show active s p k = true by simp [active, hp], show (-1 : W64) = BitVec.allOnes 64 from rfl,
      BitVec.getLsbD_allOnes, decide_eq_true hk64]
  · rw [if_neg hp, active, beq_eq_false_iff_ne.mpr hp, Bool.false_or, State.p, if_neg hp]

/-- The results of an instruction on active elements, written and reported. -/
def elementwise (ty : ElemTy) (d : Reg) (p : PReg) (r : Nat → FpRes) (s s2 : State) : Res := settle do
  let t ← s2.finishLanes d (ElemTy.width ty) (laneResults (512 / ElemTy.width ty) (active s p) r)
  return t.ok

theorem lanes2_eq {s s1 s2 : State} {ty : ElemTy} {d a b : Reg} {p : PReg} {x y : V512} (f : RMode → Nat → Nat → Nat → FpRes)
    (ha : s.vsrc a = .ok (x, s1)) (hb : s1.vsrc b = .ok (y, s2)) :
    lanes2 ty d a b p f s =
      elementwise ty d p (fun k => f s.me.rounding (elem (ElemTy.width ty) x k) (elem (ElemTy.width ty) y k)
        (elem (ElemTy.width ty) (s.v d.toNat) k)) s s2 := by
  have hfiles := (vsrc_files ha).trans (vsrc_files hb)
  simp only [lanes2, ha, hb, bind, Except.bind, hfiles.rounding, hfiles.v, hfiles.mask, Machine.ElemTy.lanes, mask_eq s p (lanes_le ty),
    lanesOf_eq, List.zip_map', List.map_map, activeRes_map]
  rfl

theorem lanes1_eq {s s1 : State} {ty : ElemTy} {d a : Reg} {p : PReg} {x : V512} (f : RMode → Nat → FpRes)
    (ha : s.vsrc a = .ok (x, s1)) :
    lanes1 ty d a p f s = elementwise ty d p (fun k => f s.me.rounding (elem (ElemTy.width ty) x k)) s s1 := by
  have hfiles := vsrc_files ha
  simp only [lanes1, ha, bind, Except.bind, hfiles.rounding, hfiles.mask, Machine.ElemTy.lanes, mask_eq s p (lanes_le ty),
    lanesOf_eq, List.map_map, activeRes_map]
  rfl

/-- No active element raises an exception that is enabled. -/
def Quiet (s : State) (L : Nat) (p : PReg) (r : Nat → FpRes) : Prop :=
  ∀ k, k < L → active s p k = true → (r k).flags &&& s.me.fpEnabled = 0

theorem lowest_of_quiet {s s2 : State} (hf : SameFiles s s2) {L : Nat} {p : PReg} {r : Nat → FpRes} (h : Quiet s L p r) :
    lowestEnabled s2.me.fpEnabled (flagsFrom 0 (laneResults L (active s p) r)) = none := by
  rw [hf.fpEnabled, lowestEnabled_eq_none]
  rintro ⟨k, fl⟩ hk
  obtain ⟨hlt, hact, rfl⟩ := mem_flags_laneResults.mp hk
  exact h k hlt hact

/-- The state after the results of active elements are written. -/
def written (ty : ElemTy) (d : Reg) (p : PReg) (r : Nat → FpRes) (s s2 : State) : State :=
  let rs := laneResults (512 / ElemTy.width ty) (active s p) r
  State.writeLanes { s2 with me := s2.me.raiseFlags (allFlags (flagsFrom 0 rs)) } d (ElemTy.width ty) (rs.map fun r => r.map (·.bits))

theorem elementwise_quiet {s s2 : State} (hf : SameFiles s s2) {ty : ElemTy} (d : Reg) {p : PReg} {r : Nat → FpRes}
    (h : Quiet s (512 / ElemTy.width ty) p r) : elementwise ty d p r s s2 = (written ty d p r s s2).ok := by
  simp only [elementwise, State.finishLanes, State.report, lowest_of_quiet hf h, bind, Except.bind]
  rfl

theorem raiseFlags_v (s : State) (fl k : Nat) : ({ s with me := s.me.raiseFlags fl } : State).v k = s.v k := rfl

theorem written_elem {s s2 : State} (hf : SameFiles s s2) {ty : ElemTy} {d : Reg} (hd : d.toNat < 56) (p : PReg) (r : Nat → FpRes)
    {k : Nat} (hk : k < 512 / ElemTy.width ty) :
    elem (ElemTy.width ty) ((written ty d p r s s2).v d.toNat) k =
      if active s p k then (r k).bits % 2 ^ ElemTy.width ty else elem (ElemTy.width ty) (s.v d.toNat) k := by
  simp only [written, State.writeLanes, v_setV_same hd, raiseFlags_v, hf.v, lanesOf_eq, laneResults, List.map_map, mergeLanes_map]
  rw [elem_packLanes (width_mul_lanes ty) _ hk]
  cases hact : active s p k with
  | true => simp [hact]
  | false => simp [hact, Nat.mod_eq_of_lt (elem_lt ..)]

theorem written_flags {s s2 : State} (hf : SameFiles s s2) (ty : ElemTy) (d : Reg) (p : PReg) (r : Nat → FpRes) :
    FlagsAfter s ((written ty d p r s s2).retire .seq) (512 / ElemTy.width ty) (active s p) fun k => (r k).flags := by
  intro j
  simp only [written, State.writeLanes, retire_ctl_fpctl, setV_me_ctl, Core.raiseFlags, hf.2.1, BitVec.getLsbD_or,
    allFlags_laneResults, getLsbD_w64]
  congr 1
  rw [show (16 : Nat) = 2 ^ 4 from rfl, show (32 : Nat) = 2 ^ 5 from rfl, Nat.testBit_mul_two_pow, Nat.testBit_mod_two_pow,
    testBit_foldl_or, Nat.zero_testBit, Bool.false_or]
  by_cases h4 : 4 ≤ j
  · by_cases h9 : j < 9
    · simp [h4, h9, show j < 64 by omega, show j - 4 < 5 by omega]
    · simp [h9, show ¬ j - 4 < 5 by omega]
  · simp [h4]

theorem written_only {s s2 : State} (ty : ElemTy) (d : Reg) (p : PReg) (r : Nat → FpRes) :
    OnlyVector s2 ((written ty d p r s s2).retire .seq) [d.toNat] := by
  refine ⟨⟨fun k hk => ?_, fun k => ?_, fun k => ?_, fun z => ?_, ?_⟩, ?_⟩
  · rw [v_retire, written, State.writeLanes, v_setV_ne (by simpa using hk)]
    rfl
  · simp only [written, State.writeLanes, g_retire, g_setV]
    rfl
  · simp only [written, State.writeLanes, p_retire, p_setV]
    rfl
  · simp only [written, State.writeLanes, z_retire, z_setV, zver_retire, zver_setV]
    exact ⟨rfl, rfl⟩
  · simp only [written, State.writeLanes, retire_me_loc, setV_me_loc]
    rfl
  · simp only [written, State.writeLanes, retire_dev, setV_dev]

/-! ## Enabled exceptions -/

/-- What FPEXC leaves of a state in which the sources have been taken. -/
theorem fpexc_state {s s2 t : State} (hf : SameFiles s s2) {v : W64} (ht : t = ((Res.trap .fpexc v s2).giveBack s).settle) :
    t.me.ctl.tcause = 0x09 ∧ t.me.ctl.tval = v ∧ t.me.regs = s.me.regs ∧ t.me.ctl.fpctl = s.me.ctl.fpctl ∧
      t.me.queues = s.me.queues ∧ t.me.slots = s.me.slots := by
  have htrig (u : State) : u.isTrigger Cause.fpexc.code = false := by simp [State.isTrigger, Cause.code]
  have hme : t.me = ((State.trapEntry { s2 with me := { s2.me with queues := s.me.queues, slots := s.me.slots } } Cause.fpexc.code v
      s2.me.trapPc).me) := by
    rw [ht]
    simp only [Res.giveBack, Res.settle, State.raise, htrig]
    rfl
  rw [hme, trapEntry_me]
  obtain ⟨hregs, hctl, -⟩ := hf
  refine ⟨rfl, rfl, ?_, ?_, ?_, ?_⟩
  · simp only; split <;> exact hregs
  · exact (congrArg Ctl.fpctl hctl :)
  · simp only; split <;> rfl
  · simp only; split <;> rfl

/-- With an enabled exception, FPEXC names the lowest element that raised one. -/
theorem elementwise_trap {s s2 : State} (hf : SameFiles s s2) {ty : ElemTy} (d : Reg) {p : PReg} {r : Nat → FpRes}
    (h : ∃ k, k < 512 / ElemTy.width ty ∧ active s p k = true ∧ (r k).flags &&& s.me.fpEnabled ≠ 0) :
    ∃ i, i < 512 / ElemTy.width ty ∧ active s p i = true ∧ (r i).flags &&& s.me.fpEnabled ≠ 0 ∧
      (∀ k, k < 512 / ElemTy.width ty → active s p k = true → (r k).flags &&& s.me.fpEnabled ≠ 0 → i ≤ k) ∧
      elementwise ty d p r s s2 = .trap .fpexc (w64 ((List.range (512 / ElemTy.width ty)).foldl
        (fun z e => if active s p e then z ||| (r e).flags else z) 0 + 256 * i)) s2 := by
  obtain ⟨k, hk, hact, hne⟩ := h
  cases hl : lowestEnabled s2.me.fpEnabled (flagsFrom 0 (laneResults (512 / ElemTy.width ty) (active s p) r)) with
  | none =>
    rw [hf.fpEnabled, lowestEnabled_eq_none] at hl
    exact absurd (hl (k, _) (mem_flags_laneResults.mpr ⟨hk, hact, rfl⟩)) hne
  | some i =>
    obtain ⟨⟨fl, hmem, hfl⟩, hmin⟩ := lowestEnabled_spec hl
    rw [hf.fpEnabled] at hfl hmin
    obtain ⟨hi, hiact, rfl⟩ := mem_flags_laneResults.mp hmem
    refine ⟨i, hi, hiact, hfl, fun j hj hjact hjne => hmin (j, _) (mem_flags_laneResults.mpr ⟨hj, hjact, rfl⟩) hjne, ?_⟩
    simp only [elementwise, State.finishLanes, State.report, hl, bind, Except.bind, trapHere, fpexcVal, allFlags_laneResults,
      Nat.mod_eq_of_lt hi, Nat.div_eq_of_lt hi, Nat.mul_zero, Nat.add_zero]
    rfl

end Sys2Proof.Proofs
end
section
/-! The results of each elementwise instruction (R209 to R214). -/

namespace Sys2Proof.Proofs
open Machine Claims

/-- What an instruction whose element k comes to r k makes of the registers, and what it raises. -/
def ElementResults (i : Instr) (ty : ElemTy) (d : Reg) (p : PReg) (s s2 : State) (r : Nat → FpRes) : Prop :=
  let n := ElemTy.width ty
  let L := 512 / n
  (Quiet s L p r → ∃ t : State, exec i s = .next t ∧
    (∀ k, k < L → elem n (t.v d.toNat) k = if active s p k then (r k).bits % 2 ^ n else elem n (s.v d.toNat) k) ∧
    FlagsAfter s t L (active s p) (fun k => (r k).flags) ∧ OnlyVector s2 t [d.toNat]) ∧
  ((∃ k, k < L ∧ active s p k = true ∧ (r k).flags &&& s.me.fpEnabled ≠ 0) → ∃ t : State, exec i s = .next t ∧
    t.me.ctl.tcause = 0x09 ∧ t.me.regs = s.me.regs ∧ t.me.ctl.fpctl = s.me.ctl.fpctl ∧ t.me.queues = s.me.queues ∧
    t.me.slots = s.me.slots ∧
    (∀ k, k < L → active s p k = true → (r k).flags &&& s.me.fpEnabled ≠ 0 →
      (∀ k', k' < k → active s p k' = true → (r k').flags &&& s.me.fpEnabled = 0) →
      t.me.ctl.tval = w64 ((List.range L).foldl (fun z e => if active s p e then z ||| (r e).flags else z) 0 + 256 * k)))

theorem elementwise_results {i : Instr} {body : State → Res} {ty : ElemTy} {d : Reg} {p : PReg} {s s2 : State} {r : Nat → FpRes}
    (hx : exec i s = issue i body s) (h : Clear i s) (hd : isVec d = true) (hf : SameFiles s s2)
    (hb : body s = elementwise ty d p r s s2) : ElementResults i ty d p s s2 r := by
  constructor
  · intro hquiet
    exact ⟨_, gives_of_ok hx h (hb.trans (elementwise_quiet hf d hquiet)),
      fun k hk => by rw [v_retire, written_elem hf (of_decide_eq_true hd) p r hk], written_flags hf ty d p r, written_only ty d p r⟩
  · intro hraised
    obtain ⟨j, hj, hact, hne, hmin, htrap⟩ := elementwise_trap hf d hraised
    obtain ⟨hcause, hval, hregs, hfpctl, hqueues, hslots⟩ := fpexc_state hf rfl
    refine ⟨_, by rw [hx, issue_clear h, hb, htrap], hcause, hregs, hfpctl, hqueues, hslots, ?_⟩
    intro k hk hkact hkne hbelow
    have hjk : j = k := by
      refine le_antisymm (hmin k hk hkact hkne) (Nat.le_of_not_lt fun hlt => ?_)
      exact hne (hbelow j hlt hact)
    rw [hval, hjk]

theorem elementwise_congr {ty : ElemTy} {d : Reg} {p : PReg} {s s2 : State} {r r' : Nat → FpRes} (h : ∀ k, r k = r' k) :
    elementwise ty d p r s s2 = elementwise ty d p r' s s2 := by
  rw [funext h]

/-- An instruction issues the two-source shape, on an operation that agrees with a rule on elements of its type. -/
def TwoSources (i : Instr) (ty : ElemTy) (d a b : Reg) (p : PReg) (f : RMode → Nat → Nat → Nat → FpRes) : Prop :=
  ∃ body g, (∀ s, exec i s = issue i body s) ∧ (∀ s, body s = lanes2 ty d a b p g s) ∧
    ∀ m u v w, u < 2 ^ ElemTy.width ty → v < 2 ^ ElemTy.width ty → g m u v w = f m u v w

/-- An instruction issues the one-source shape. -/
def OneSource (i : Instr) (ty : ElemTy) (d a : Reg) (p : PReg) (f : RMode → Nat → Nat → Nat → FpRes) : Prop :=
  ∃ body g, (∀ s, exec i s = issue i body s) ∧ (∀ s, body s = lanes1 ty d a p g s) ∧ ∀ m u v w, g m u = f m u v w

theorem TwoSources.results {i : Instr} {ty : ElemTy} {d a b : Reg} {p : PReg} {f : RMode → Nat → Nat → Nat → FpRes} {s s1 s2 : State}
    {x y : V512} (hi : TwoSources i ty d a b p f) (h : Clear i s) (hd : isVec d = true) (ha : s.vsrc a = .ok (x, s1))
    (hb : s1.vsrc b = .ok (y, s2)) :
    ElementResults i ty d p s s2 fun k => f s.me.rounding (elem (ElemTy.width ty) x k) (elem (ElemTy.width ty) y k)
      (elem (ElemTy.width ty) (s.v d.toNat) k) := by
  obtain ⟨body, g, hx, hbody, hg⟩ := hi
  exact elementwise_results (hx s) h hd ((vsrc_files ha).trans (vsrc_files hb))
    (((hbody s).trans (lanes2_eq g ha hb)).trans (elementwise_congr fun _ => hg _ _ _ _ (elem_lt ..) (elem_lt ..)))

theorem OneSource.results {i : Instr} {ty : ElemTy} {d a : Reg} {p : PReg} {f : RMode → Nat → Nat → Nat → FpRes} {s s1 : State}
    {x : V512} (hi : OneSource i ty d a p f) (h : Clear i s) (hd : isVec d = true) (ha : s.vsrc a = .ok (x, s1)) (y : V512) :
    ElementResults i ty d p s s1 fun k => f s.me.rounding (elem (ElemTy.width ty) x k) (elem (ElemTy.width ty) y k)
      (elem (ElemTy.width ty) (s.v d.toNat) k) := by
  obtain ⟨body, g, hx, hbody, hg⟩ := hi
  exact elementwise_results (hx s) h hd (vsrc_files ha)
    (((hbody s).trans (lanes1_eq g ha)).trans (elementwise_congr fun _ => hg _ _ _ _))

/-! ## One element -/

theorem arith_eq (ty : ElemTy) (fp : FpFmt → FpRes) (int : Int) : arith ty fp int = byType ty fp int := by
  cases ty <;> rfl

theorem floatOnly_eq (ty : ElemTy) (fp : FpFmt → FpRes) : floatOnly ty fp = byType ty fp 0 := by
  cases ty <;> rfl

theorem signedOf_eq (n x : Nat) : signedOf n x = twos n x := rfl

/-- Division by 2^n leaves the sign of a number of n bits. -/
theorem twos_div_width {n x : Nat} (hx : x < 2 ^ n) : twos n x / 2 ^ n = if twos n x < 0 then -1 else 0 := by
  have hpow : (0 : Int) < 2 ^ n := by positivity
  have hxi : (x : Int) < 2 ^ n := by exact_mod_cast hx
  have hlow : -2 ^ n ≤ twos n x := by unfold twos; split <;> omega
  have hhigh : twos n x < 2 ^ n := by unfold twos; split <;> omega
  split
  · next hneg => exact (Int.ediv_eq_iff_of_pos hpow).mpr ⟨by omega, by omega⟩
  · next hpos => exact Int.ediv_eq_zero_of_lt (by omega) hhigh

theorem lowBits_neg_one (n : Nat) : lowBits n (-1) = 2 ^ n - 1 := by
  have hpow : (0 : Int) < 2 ^ n := by positivity
  have hmod : (-1 : Int) % 2 ^ n = 2 ^ n - 1 := by
    rw [← Int.add_mul_emod_self_left (-1) (2 ^ n) 1, Int.emod_eq_of_lt (by omega) (by omega)]
    omega
  have hcast : ((2 ^ n : Nat) : Int) = 2 ^ n := by push_cast; rfl
  rw [lowBits, hmod]
  omega

/-- An arithmetic shift by the width or more leaves the sign (R214). -/
theorem laneSar_eq {n x : Nat} (hx : x < 2 ^ n) (y : Nat) : laneSar n x y =
    if y < n then (twos n x / 2 ^ y % 2 ^ n).toNat else if twos n x < 0 then 2 ^ n - 1 else 0 := by
  rw [laneSar, signedOf_eq]
  split
  · rfl
  · rw [twos_div_width hx, apply_ite (lowBits n), lowBits_neg_one]
    simp [lowBits]

theorem laneNeg_eq (ty : ElemTy) (x : Nat) : laneNeg ty x =
    if (ElemTy.fmt? ty).isSome then x ^^^ 2 ^ (ElemTy.width ty - 1)
    else (-twos (ElemTy.width ty) x % 2 ^ ElemTy.width ty).toNat := rfl

theorem laneAbs_eq (ty : ElemTy) (x : Nat) : laneAbs ty x =
    if (ElemTy.fmt? ty).isSome then x % 2 ^ (ElemTy.width ty - 1)
    else (twos (ElemTy.width ty) x).natAbs % 2 ^ ElemTy.width ty := by
  rw [laneAbs, signBit, lowBits, ElemTy.int, signedOf_eq]
  split
  · rfl
  · norm_cast

theorem elemRule_isVec {i : Instr} {ty : ElemTy} {d a : Reg} {b : Option Reg} {p : PReg} {f : RMode → Nat → Nat → Nat → FpRes}
    (hrule : elemRule i = some (ty, d, a, b, p, f)) (hwf : i.wf = true) : isVec d = true := by
  unfold elemRule at hrule
  split at hrule
  case h_27 => cases hrule
  all_goals
    cases hrule
    simp only [Instr.wf, Bool.and_eq_true] at hwf
    simp only [hwf]

/-- The elementwise instructions have two shapes. -/
theorem elemRule_shape {i : Instr} {ty : ElemTy} {d a : Reg} {b : Option Reg} {p : PReg} {f : RMode → Nat → Nat → Nat → FpRes}
    (hrule : elemRule i = some (ty, d, a, b, p, f)) :
    (∃ c, b = some c ∧ TwoSources i ty d a c p f) ∨ (b = none ∧ OneSource i ty d a p f) := by
  unfold elemRule at hrule
  split at hrule
  case h_27 => cases hrule
  all_goals cases hrule
  case h_1 | h_2 | h_3 | h_4 | h_5 => exact .inl ⟨_, rfl, _, _, fun _ => rfl, fun _ => rfl, fun _ _ _ _ _ _ => arith_eq ..⟩
  case h_6 => exact .inl ⟨_, rfl, _, _, fun _ => rfl, fun _ => rfl, fun _ _ _ _ _ _ => floatOnly_eq ..⟩
  case h_7 | h_8 => exact .inl ⟨_, rfl, _, _, fun _ => rfl, fun _ => rfl, fun _ _ _ _ _ _ => by cases ty <;> rfl⟩
  case h_9 | h_10 | h_11 | h_12 | h_13 | h_14 =>
    exact .inl ⟨_, rfl, _, _, fun _ => rfl, fun _ => rfl, fun _ _ _ _ _ _ => rfl⟩
  case h_15 =>
    exact .inl ⟨_, rfl, _, _, fun _ => rfl, fun _ => rfl, fun _ _ v _ hu _ => congrArg Machine.plain (laneSar_eq hu v)⟩
  case h_16 => exact .inr ⟨rfl, _, _, fun _ => rfl, fun _ => rfl, fun _ u _ _ => congrArg Machine.plain (laneAbs_eq _ u)⟩
  case h_17 => exact .inr ⟨rfl, _, _, fun _ => rfl, fun _ => rfl, fun _ u _ _ => congrArg Machine.plain (laneNeg_eq _ u)⟩
  case h_18 => exact .inr ⟨rfl, _, _, fun _ => rfl, fun _ => rfl, fun _ _ _ _ => rfl⟩
  all_goals exact .inr ⟨rfl, _, _, fun _ => rfl, fun _ => rfl, fun _ _ _ _ => floatOnly_eq ..⟩

/-- Settles O43, by the two shapes that the instructions have. -/
theorem elementwiseResults : Obligations.ElementwiseResults := by
  unfold Obligations.ElementwiseResults
  intro i s s1 s2 ty d a b p f x y hrule hwf h ha hnone hsome
  have hd := elemRule_isVec hrule hwf
  rcases elemRule_shape hrule with ⟨c, hb, htwo⟩ | ⟨hb, hone⟩
  · exact htwo.results h hd ha (hsome c hb)
  · obtain ⟨rfl, -⟩ := hnone hb
    exact hone.results h hd ha y

end Sys2Proof.Proofs
end
section
/-! The cores that the boot mask names boot, and the staves are at their reset values (R454). -/

namespace Sys2Proof.Proofs
open Machine

theorem mem_insertNat {x k : Nat} : ∀ {l : List Nat}, k ∈ insertNat x l ↔ k = x ∨ k ∈ l
  | [] => by simp [insertNat]
  | y :: l => by
    unfold insertNat
    split
    · next hxy => simp [hxy]
    · split
      · simp
      · simp [mem_insertNat, or_left_comm]

/-- A map that gives one value to every key of a list. -/
theorem assocGet_map_const {α : Type} (d x : α) {k : Nat} :
    ∀ {l : List Nat}, k ∈ l → assocGet d k (l.map fun j => (j, x)) = x
  | j :: l, h => by
    rw [List.map_cons, assocGet]
    split
    · rfl
    · next hj => exact assocGet_map_const d x (List.mem_of_ne_of_mem (Ne.symm hj) h)

/-- The cores that the machine lists after reset run the boot ROM, the one in focus and the others alike (R454). -/
theorem reset_coreAt {k : Nat} (hk : k ∈ State.reset.cores) : State.reset.coreAt k = Core.booting := by
  unfold State.coreAt
  split
  · rfl
  · next hne =>
    have hothers : k ∈ State.reset.others.map (·.1) := (mem_insertNat.mp hk).resolve_left hne
    have hboot : k ∈ bootCores.drop 1 := by simpa [State.reset, Function.comp_def] using hothers
    exact assocGet_map_const Core.reset Core.booting hboot

/-- The device lists no stave after reset, so each reads as Stave.reset. -/
theorem reset_stave (n : BitVec 6) : State.reset.dev.stave n = Stave.reset := rfl

theorem reset_brka {b : W64} (hb : b ∈ Ctl.reset.brka.toList) : b = 0 :=
  List.eq_of_mem_replicate (Vector.toList_replicate ▸ hb)

/-- Settles O1: every listed core is a booting one, every stave a reset one, and these hold the tables' values. -/
theorem resetLeavesTheStatedValues : Obligations.ResetLeavesTheStatedValues := by
  unfold Obligations.ResetLeavesTheStatedValues
  refine ⟨fun k hk => ?cores, fun n => ?staves, ?device⟩
  case cores =>
    rw [reset_coreAt hk]
    exact ⟨rfl, rfl, rfl, rfl, rfl, rfl, rfl, rfl, rfl, rfl, rfl, rfl, rfl, rfl, rfl, rfl, rfl, rfl, rfl, rfl, rfl,
      fun _ hb => reset_brka hb⟩
  case staves =>
    rw [reset_stave]
    exact ⟨rfl, rfl, rfl, rfl, rfl, rfl, rfl⟩
  case device => exact ⟨rfl, rfl, rfl, rfl⟩

end Sys2Proof.Proofs
end
section
/-! An operation of a context that has ended leaves no core behind, whatever is listed under its stand-in (R84, R462). -/

namespace Sys2Proof.Proofs
open Machine

theorem assocGet_assocErase_same {α : Type} (d : α) (k : Nat) : ∀ l : List (Nat × α), assocGet d k (assocErase k l) = d
  | [] => rfl
  | (j, y) :: l => by
    unfold assocErase
    split
    · exact assocGet_assocErase_same d k l
    · next hj => rw [assocGet, if_neg hj, assocGet_assocErase_same d k l]

theorem asIssuer_dead_coreAt {s : State} {who : Issuer} (hw : who.core = deadCore) (hh : s.here ≠ deadCore) (f : State → State) :
    (s.asIssuer who f).coreAt deadCore = Core.reset := by
  have hback : (s.at who.core f).here = s.here := focus_here _ _
  simp only [State.asIssuer, if_pos hw, State.coreAt, hback, if_neg (Ne.symm hh), assocGet_assocErase_same]

/-- The sync object of an operation whose context has ended is written with the stand-in in focus, which then is as after reset. -/
theorem completeOp_dead_coreAt {s : State} {who : Issuer} {addr : W64} (status : Nat) (hw : who.core = deadCore)
    (hh : s.here ≠ deadCore) (ha : addr ≠ 0) : (s.completeOp who addr status).coreAt deadCore = Core.reset := by
  have habsent : ¬ (16384 ≤ who.core ∧ who.core ≠ deadCore) := fun h => h.2 hw
  simp only [State.completeOp, if_neg ha, State.syncWrite, State.syncPut, if_neg habsent]
  exact asIssuer_dead_coreAt hw hh _

end Sys2Proof.Proofs
end

section
/-! What a migration does while a store of its instance is on its way (R355): the instance's cores are held, and the shrinks of its stave
that have completed are settled (R121, R133). Where the instance lists the number that stands for contexts that have ended, the sync object
of such a shrink undoes the hold. -/

namespace Sys2Proof.Proofs
open Machine

/-- A move whose destination can be taken holds its instance while a store is out. -/
theorem runMove_of_storesOut {s : State} {n : BitVec 6} {i c : Nat} {m : Move} {g : Stage} {x : Inst}
    (hm : (s.dev.stave n).moves[i]? = some m) (hd : m.dest = some c) (hg : s.stageOf n m.job m.stage = some g)
    (hx : ((s.dev.stave n).job? m.job).bind (fun j => j.inst? m.stage m.inst) = some x)
    (hb : field (s.dev.stave n).savebase 19 33 ≠ 0) (hok : s.destOk n (slotCores c g.width) = true) (ho : s.storesOut x = true) :
    s.runMove n i = x.cores.foldl (fun s k => s.onCore k fun c => { c with held := true }) s := by
  simp only [State.runMove, hm, hd, hg, hx, if_neg hb, hok, if_true, ho]

theorem coreAt_onCore (s : State) (k i : Nat) (f : Core → Core) :
    (s.onCore k f).coreAt i = if i = k then f (s.coreAt i) else s.coreAt i := by
  unfold State.onCore State.setCore
  by_cases hi : i = k
  · subst hi
    by_cases hk : i = s.here
    · simp [State.coreAt, hk]
    · simp [State.coreAt, hk, assocGet_assocSet_same]
  · rw [if_neg hi]
    split
    · next hk => simp [State.coreAt, ← hk, hi]
    · simp [State.coreAt, assocGet_assocSet_ne _ _ hi]

/-- STAVE_MOVED holds and releases no core. -/
theorem staveMoved_held (s : State) (n : BitVec 6) (word : W64) (k : Nat) :
    ((s.staveMoved n word).coreAt k).held = (s.coreAt k).held := by
  refine foldl_leaves (fun s => (s.coreAt k).held) _ (fun s j => ?_) _ s
  rw [coreAt_onCore]
  split
  · split <;> rfl
  · rfl

/-- A stave whose only completed shrink is one of a context that has ended is settled: what stood for the context is as after reset. -/
theorem settleShrinks_dead_held {s : State} {n : BitVec 6} {x : Shrink}
    (hx : (s.dev.stave n).shrinks.filter (fun y => s.shrunk n y) = [x]) (hw : x.who.core = deadCore) (ha : x.sync ≠ 0)
    (hh : s.here ≠ deadCore) : ((s.settleShrinks n).coreAt deadCore).held = false := by
  simp only [State.settleShrinks, hx, List.foldl_cons, List.foldl_nil, staveMoved_held]
  exact congrArg Core.held (completeOp_dead_coreAt _ hw (by exact hh) ha)

/-- An instance on that number alone, with one member. -/
def standInInst : Inst :=
  { stage := 0, num := 0, lcores := [0], cores := [deadCore], held := false, done := [], withdrawn := false, placedAt := 0,
    moving := true }

/-- A stage of width 1. -/
def narrowStage : Stage := newStage (BitVec.ofNat 512 (2 ^ 192))

/-- A job with that stage and that instance. -/
def standInJob : Job :=
  { newJob 0 0 Core.reset ⟨0, 0, 0, false, 0, 0, [], []⟩ 0 with stages := [narrowStage], insts := [standInInst] }

/-- Its move to core 8. -/
def standInMove : Move := ⟨0, 0, 0, some 8, 0, noIssuer⟩

/-- A shrink of cluster 2 by a context that has ended since; its sync object lies at an address that no translation serves. -/
def endedShrink : Shrink := ⟨w64 (16 * 2 ^ 16), w64 (2 ^ 57), ⟨deadCore, 0, .user, 0, none⟩, false, false⟩

/-- A stave with them, and with save areas. -/
def standInStave : Stave :=
  { Stave.reset with savebase := w64 (2 ^ 19), jobs := [standInJob], moves := [standInMove], shrinks := [endedShrink] }

/-- A store of logical core 0 of stave 0 on its way. -/
def storeOut : NetItem :=
  { kind := .store, stave := 0, src := 0, srcTag := 0, dst := 0, tag := 0, stage := none, job := 0, stream := 0, slot := 0, off := 0,
    size := 8, data := 0, cmd := none, peer := false, vol := false, inbox := false, refused := none, order := 0 }

/-- The machine with that stave, which owns cluster 1; cluster 2 is FREE. -/
def standIn : State :=
  { State.reset with
    others := []
    dev := { Dev.reset with staves := [(0, standInStave)], owns := [⟨.cluster, 1, .owned, 0⟩], net := [storeOut] } }

theorem standIn_savebase : field (standIn.dev.stave 0).savebase 19 33 ≠ 0 := by decide +kernel

theorem standIn_destOk : standIn.destOk 0 (slotCores 8 narrowStage.width) = true := by decide +kernel

theorem standIn_storesOut : standIn.storesOut standInInst = true := by decide +kernel

theorem standIn_shrunk : (standIn.dev.stave 0).shrinks.filter (fun x => standIn.shrunk 0 x) = [endedShrink] := by decide +kernel

/-- The move waits for the store and holds the core. -/
theorem standIn_runMove : standIn.runMove 0 0 = standIn.onCore deadCore fun c => { c with held := true } :=
  runMove_of_storesOut (m := standInMove) (g := narrowStage) (x := standInInst) rfl rfl rfl rfl standIn_savebase standIn_destOk
    standIn_storesOut

/-- Then the shrink is settled: the core that stands for its context is as after reset. -/
theorem standIn_released : (((standIn.runMove 0 0).settleShrinks 0).coreAt deadCore).held = false := by
  have hshrunk : ((standIn.runMove 0 0).dev.stave 0).shrinks.filter (fun x => (standIn.runMove 0 0).shrunk 0 x) = [endedShrink] := by
    rw [standIn_runMove, ← standIn_shrunk]
    simp only [onCore_dev, State.shrunk]
  have hhere : (standIn.runMove 0 0).here ≠ deadCore := by
    rw [standIn_runMove, onCore_here]
    decide +kernel
  exact settleShrinks_dead_held hshrunk rfl (by decide +kernel) hhere

/-- Refutes O59: a core that the migration has held is held no more once a completed shrink of a context that has ended is settled. The
instance lists the number that stands for such contexts, which the statement does not shut out. -/
theorem not_placementGoesOn : ¬ Obligations.PlacementGoesOn := by
  unfold Obligations.PlacementGoesOn
  intro h
  obtain ⟨-, -, -, -, -, -, -, hmove, -⟩ := h standIn 0
  obtain ⟨-, hholds, -⟩ := hmove 0 standInMove 8 narrowStage standInJob standInInst rfl rfl rfl rfl rfl
  obtain ⟨t, ht, -, hheld⟩ := hholds standIn_savebase standIn_destOk standIn_storesOut
  have hnext : exec (.migration 0 0) standIn = .next ((standIn.runMove 0 0).settleShrinks 0) := rfl
  have hcore := hheld deadCore (List.mem_singleton.mpr rfl)
  rw [← Host.Outcome.next.inj (hnext.symm.trans ht), standIn_released] at hcore
  cases hcore

end Sys2Proof.Proofs
end

section
/-! What the memory system changes is memory: the homes, the checks and the engines' accesses leave the owners of the units (R116), the
quarantined units (R134) and the accepted moves of the staves (R132). First what a release comes to (R276). -/

namespace Sys2Proof.Proofs
open Machine

/-- The owners of the units, the quarantined units, and the accepted moves of each stave. -/
def assets (d : Dev) : List Own × List (BitVec 32) × (BitVec 6 → List Move) :=
  (d.owns, d.quarantined, fun n => (d.stave n).moves)

/-- Other parts of the device do not matter. -/
theorem assets_eq {d d' : Dev} (ho : d'.owns = d.owns) (hq : d'.quarantined = d.quarantined) (hs : d'.staves = d.staves) :
    assets d' = assets d := by
  simp only [assets, Dev.stave, ho, hq, hs]

theorem stave_setStave (d : Dev) (n m : BitVec 6) (t : Stave) : (d.setStave n t).stave m = if m = n then t else d.stave m := by
  unfold Dev.stave Dev.setStave
  split
  · next h => rw [h, assocGet_assocSet_same]
  · next h => exact assocGet_assocSet_ne _ _ (fun e => h (BitVec.eq_of_toNat_eq e)) _

theorem setStave_assets (d : Dev) (n : BitVec 6) {t : Stave} (h : t.moves = (d.stave n).moves) :
    assets (d.setStave n t) = assets d := by
  have hmoves : (fun m => ((d.setStave n t).stave m).moves) = fun m => (d.stave m).moves := by
    funext m
    rw [stave_setStave]
    split
    · next hm => rw [hm, h]
    · rfl
  simp only [assets, hmoves]
  rfl

theorem onStave_assets (s : State) (n : BitVec 6) {f : Stave → Stave} (h : ∀ t, (f t).moves = t.moves) :
    assets (s.onStave n f).dev = assets s.dev := setStave_assets s.dev n (h _)

/-- The same of a change of a job. -/
theorem onJob_assets (s : State) (n job : BitVec 6) (f : Job → Job) :
    assets (s.onStave n fun t => t.onJob job f).dev = assets s.dev := onStave_assets s n fun _ => rfl

theorem ite_assets {c : Prop} [Decidable c] {s t : State} {x} (hs : assets s.dev = x) (ht : assets t.dev = x) :
    assets (if c then s else t).dev = x := by
  split
  · exact hs
  · exact ht

/-- A fold of steps that leave them leaves them. -/
theorem foldl_assets {α : Type} {f : State → α → State} (h : ∀ s x, assets (f s x).dev = assets s.dev) (l : List α) (s : State) :
    assets (l.foldl f s).dev = assets s.dev := foldl_leaves (fun s => assets s.dev) f h l s

/-- An operation with another core in focus. -/
theorem at_assets (s : State) (k : Nat) {f : State → State} (h : ∀ u, assets (f u).dev = assets u.dev) :
    assets (s.at k f).dev = assets s.dev := by
  rw [State.at, focus_dev, h, focus_dev]

theorem charge_assets (d : Dev) (t : Stave) (cluster : Nat) (chan : Bool) (n : Nat) :
    assets (d.charge t cluster chan n) = assets d := by
  unfold Dev.charge
  split
  · rfl
  · exact assets_eq rfl rfl rfl

theorem poke_assets (d : Dev) (key n x : Nat) : assets (d.poke key n x) = assets d := assets_eq rfl rfl rfl

theorem onPat_assets (s : State) (n job : BitVec 6) (i : Nat) (f : Pattern → Pattern) :
    assets (s.onPat n job i f).dev = assets s.dev := onJob_assets ..

theorem tearOut_assets (s : State) (n job : BitVec 6) (i : Nat) : assets (s.tearOut n job i).dev = assets s.dev := by
  unfold State.tearOut
  split
  · rfl
  · split
    · rfl
    · split
      · exact onPat_assets ..
      · rw [dropNotes_dev]
        exact (onJob_assets ..).trans (onPat_assets ..)

theorem tearUnread_assets (s : State) (line : Nat) (m : BitVec 16) (p : Nat → Bool) :
    assets (s.tearUnread line m p).dev = assets s.dev :=
  (foldl_assets (f := fun s (u : Unread) => s.tearOut u.stave u.job u.pat.toNat) (fun _ _ => tearOut_assets ..) _ _).trans
    (assets_eq rfl rfl rfl)

theorem noteHome_assets (s : State) (sid : BitVec 16) (line : Nat) : assets (s.noteHome sid line).dev = assets s.dev := by
  unfold State.noteHome
  simp only
  split
  · rfl
  · split
    · rfl
    · exact setStave_assets _ _ rfl

theorem channel_assets (s : State) (sid : BitVec 16) (line n : Nat) (dirty : BitVec 16) (code : Nat) :
    assets (s.channel sid line n dirty code).dev = assets s.dev := by
  have hcharge := charge_assets s.dev (s.dev.stave (sid.extractLsb' 10 6)) (s.dev.homeOf (sid.extractLsb' 10 6) line) true n
  unfold State.channel
  simp only
  split
  · rfl
  · repeat' split
    all_goals exact hcharge

theorem pushedOut_assets (s : State) (slice line : Nat) : assets (s.pushedOut slice line).dev = assets s.dev := by
  unfold State.pushedOut
  split
  · rfl
  · exact (assets_eq rfl rfl rfl).trans (tearUnread_assets ..)

theorem sliceOut_assets (s : State) (v : L2Line) : assets (s.sliceOut v).dev = assets s.dev := by
  unfold State.sliceOut
  refine (pushedOut_assets ..).trans ?_
  split
  · exact assets_eq rfl rfl rfl
  · exact (channel_assets ..).trans (assets_eq rfl rfl rfl)

theorem sliceRoom_assets (s : State) (h line : Nat) : assets (s.sliceRoom h line).dev = assets s.dev := by
  unfold State.sliceRoom
  split
  · exact sliceOut_assets ..
  · rfl

theorem atHome_assets (s : State) (sid : BitVec 16) (line : Nat) (m : BitVec 16) (write : Bool) (alloc llc : Nat) :
    assets (s.atHome sid line m write alloc llc).dev = assets s.dev := by
  unfold State.atHome
  simp only
  split
  · split
    · rfl
    · exact ite_assets ((channel_assets ..).trans (assets_eq rfl rfl rfl)) (assets_eq rfl rfl rfl)
  · split
    · exact channel_assets ..
    · exact ((assets_eq rfl rfl rfl).trans (channel_assets ..)).trans (sliceRoom_assets ..)

theorem unprotect_assets (s : State) (n job : BitVec 6) (p : Dom → Bool) (reason : BitVec 4) :
    assets (s.unprotect n job p reason).dev = assets s.dev := onJob_assets ..

theorem journalLine_assets (s : State) (n job : BitVec 6) (d : Dom) (key : Nat) :
    assets (s.journalLine n job d key).dev = assets s.dev := by
  unfold State.journalLine
  simp only
  split
  · rfl
  · split
    · exact unprotect_assets ..
    · exact (onJob_assets ..).trans ((poke_assets ..).trans (poke_assets ..))

theorem ckTouch_assets (s : State) (n : BitVec 6) (j : Job) (d : Dom) (inside write : Bool) (key : Nat) :
    assets (s.ckTouch n j d inside write key).dev = assets s.dev := by
  unfold State.ckTouch
  split
  · rfl
  · split
    · exact ite_assets (journalLine_assets ..) rfl
    · exact ite_assets (unprotect_assets ..) rfl

theorem ckOutside_assets (s : State) (p : BitVec 6 → Bool) (key : Nat) : assets (s.ckOutside p key).dev = assets s.dev :=
  foldl_assets (fun _ _ => ite_assets rfl (foldl_assets (fun _ _ => foldl_assets (fun _ _ => ckTouch_assets ..) _ _) _ _)) _ _

theorem ckGlobal_assets (s : State) (key : Nat) (write : Bool) : assets (s.ckGlobal key write).dev = assets s.dev :=
  (ckOutside_assets ..).trans (foldl_assets (fun _ _ => foldl_assets (fun _ _ => ckTouch_assets ..) _ _) _ _)

theorem hostFetch_assets (s : State) (h : Nat) (bad : Bool) : assets (s.hostFetch h bad).dev = assets s.dev := by
  unfold State.hostFetch
  generalize s.dev.mem.writeN _ _ _ = mem
  exact assets_eq rfl rfl rfl

theorem hostArrive_assets (s : State) (h : Nat) (own bad : Bool) : assets (s.hostArrive h own bad).dev = assets s.dev :=
  (assets_eq rfl rfl rfl).trans (ite_assets rfl (hostFetch_assets s h bad))

theorem hostBring_assets (s : State) (h : Nat) (own : Bool) : assets (s.hostBring h own).dev = assets s.dev :=
  ite_assets rfl (hostArrive_assets _ h own _)

theorem bring_assets (s : State) (pa n : Nat) (own : Bool) : assets (s.bring pa n own).dev = assets s.dev := by
  unfold State.bring
  split
  · exact foldl_assets (fun s h => hostBring_assets s h own) _ _
  · rfl
  · rfl

theorem selfBack_assets (s : State) (w : L1Word) : assets (s.selfBack w).dev = assets s.dev := by
  unfold State.selfBack
  refine (atHome_assets ..).trans ((noteHome_assets ..).trans ((charge_assets ..).trans ?_))
  exact (assets_eq rfl rfl rfl).trans ((bring_assets ..).trans (ckGlobal_assets ..))

theorem selfRecall_assets (s : State) (p : L1Word → Bool) : assets (s.selfRecall p).dev = assets s.dev :=
  foldl_assets selfBack_assets _ s

theorem recall_assets (s : State) (sid : BitVec 16) (line : Nat) : assets (s.recall sid line).dev = assets s.dev := by
  unfold State.recall
  refine (assets_eq rfl rfl rfl).trans ((foldl_assets (fun s k => ite_assets (at_assets s k fun u => selfRecall_assets u _) rfl)
    _ _).trans ?_)
  exact ite_assets ((assets_eq rfl rfl rfl).trans (tearUnread_assets ..)) rfl

theorem selfPut_assets (s : State) (p : L1Word → Bool) : assets (s.selfPut p).dev = assets s.dev :=
  (foldl_assets selfBack_assets _ _).trans (foldl_assets (fun s (w : L1Word) => recall_assets s w.sid _) _ s)

theorem selfRelease_assets (s : State) : assets s.selfRelease.dev = assets s.dev := selfPut_assets s _

theorem selfOut_assets (s : State) (p : L1Word → Bool) : assets (s.selfOut p).dev = assets s.dev := selfPut_assets s p

theorem acquire_assets (s : State) : assets s.acquire.dev = assets s.dev := selfOut_assets s _

theorem selfOutAll_assets (s : State) (p : L1Word → Bool) : assets (s.selfOutAll p).dev = assets s.dev :=
  foldl_assets (fun s k => ite_assets (at_assets s k fun u => selfOut_assets u p) rfl) _ s

end Sys2Proof.Proofs
end

section
/-! The same of requests at the homes (R278, R279), of pushes (R375), and of what comes into or leaves an L1 (R386). -/

namespace Sys2Proof.Proofs
open Machine

theorem putDir_assets (s : State) (x : DirLine) : assets (s.putDir x).dev = assets s.dev := by
  unfold State.putDir
  exact ite_assets (assets_eq rfl rfl rfl) ((atHome_assets ..).trans (assets_eq rfl rfl rfl))

theorem request_assets (s : State) (sid : BitVec 16) (line : Nat) (m : BitVec 16) (write : Bool) (alloc llc : Nat) :
    assets (s.request sid line m write alloc llc).dev = assets s.dev :=
  (atHome_assets ..).trans ((noteHome_assets ..).trans (recall_assets ..))

theorem evictLine_assets (s : State) (k line : Nat) : assets (s.evictLine k line).dev = assets s.dev := by
  have htear := tearUnread_assets s line 0xFFFF fun h => h == k
  unfold State.evictLine
  refine (at_assets _ k fun u => selfOut_assets u _).trans ?_
  simp only
  split
  · refine (putDir_assets ..).trans ?_
    split
    · exact htear
    · exact (charge_assets ..).trans htear
  · exact htear

theorem l1Room_assets (s : State) (k line : Nat) : assets (s.l1Room k line).dev = assets s.dev :=
  ite_assets rfl (evictLine_assets ..)

theorem sliceTake_assets (s : State) (h line : Nat) (sid : BitVec 16) : assets (s.sliceTake h line sid).dev = assets s.dev :=
  ite_assets rfl ((assets_eq rfl rfl rfl).trans (sliceRoom_assets ..))

theorem applyPush_assets (s : State) (x : Push) : assets (s.applyPush x).dev = assets s.dev := by
  unfold State.applyPush
  split
  · rfl
  · refine ite_assets rfl ((assets_eq rfl rfl rfl).trans ((putDir_assets ..).trans ?_))
    exact ite_assets (sliceTake_assets ..) (l1Room_assets ..)

theorem pushesFirst_assets (s : State) (line : Nat) (m : BitVec 16) : assets (s.pushesFirst line m).dev = assets s.dev :=
  (foldl_assets applyPush_assets _ _).trans (assets_eq rfl rfl rfl)

theorem serveHome_assets (s : State) (sid : BitVec 16) (line : Nat) (m : BitVec 16) (alloc llc : Nat) :
    assets (s.serveHome sid line m alloc llc).dev = assets s.dev :=
  (putDir_assets ..).trans ((tearUnread_assets ..).trans ((request_assets ..).trans (pushesFirst_assets ..)))

theorem barLine_assets (s : State) (n : BitVec 6) (line : Nat) : assets (s.barLine n line).dev = assets s.dev :=
  ite_assets rfl (onStave_assets _ _ fun _ => rfl)

theorem putLoose_assets (s : State) (cls : MemCls) (key n x : Nat) : assets (s.putLoose cls key n x).dev = assets s.dev := by
  unfold State.putLoose
  refine foldl_assets (fun s w => ?_) _ s
  simp only
  repeat' split
  all_goals exact assets_eq rfl rfl rfl

theorem markDirty_assets (s : State) (leaf : Option Nat) : assets (s.markDirty leaf).dev = assets s.dev := by
  unfold State.markDirty
  split
  · rfl
  · exact assets_eq rfl rfl rfl

end Sys2Proof.Proofs
end
section
/-! The engines' accesses leave the units: translation, faults, and reads and writes at a home or in a local memory. -/

namespace Sys2Proof.Proofs
open Machine

/-- Two states in which the same units have the same owners (R116) and the same units are quarantined (R134). -/
@[simp] abbrev SameUnits (s t : State) : Prop := t.dev.owns = s.dev.owns ∧ t.dev.quarantined = s.dev.quarantined

theorem SameUnits.trans {s t u : State} (h : SameUnits s t) (h' : SameUnits t u) : SameUnits s u :=
  ⟨h'.1.trans h.1, h'.2.trans h.2⟩

theorem units_of_assets {s t : State} (h : assets t.dev = assets s.dev) : SameUnits s t :=
  ⟨congrArg Prod.fst h, congrArg (·.2.1) h⟩

@[simp] theorem ite_owns {c : Prop} [Decidable c] (s t : State) :
    (if c then s else t).dev.owns = if c then s.dev.owns else t.dev.owns := apply_ite (fun s : State => s.dev.owns) c s t

@[simp] theorem ite_quarantined {c : Prop} [Decidable c] (s t : State) :
    (if c then s else t).dev.quarantined = if c then s.dev.quarantined else t.dev.quarantined :=
  apply_ite (fun s : State => s.dev.quarantined) c s t

/-- A fold of steps that leave the units leaves them. -/
@[simp] theorem foldl_units {α : Type} {f : State → α → State} (h : ∀ s x, SameUnits s (f s x)) (l : List α) (s : State) :
    SameUnits s (l.foldl f s) :=
  ⟨foldl_leaves (fun s => s.dev.owns) f (fun s x => (h s x).1) l s,
    foldl_leaves (fun s => s.dev.quarantined) f (fun s x => (h s x).2) l s⟩

/-- So does an operation with another core in focus. -/
@[simp] theorem at_units {f : State → State} (h : ∀ u, SameUnits u (f u)) (s : State) (k : Nat) : SameUnits s (s.at k f) := by
  obtain ⟨ho, hq⟩ := h (s.focus k)
  rw [focus_dev] at ho hq
  exact ⟨by rw [State.at, focus_dev, ho], by rw [State.at, focus_dev, hq]⟩

@[simp] theorem onStave_units (s : State) (n : BitVec 6) (f : Stave → Stave) : SameUnits s (s.onStave n f) := ⟨rfl, rfl⟩

@[simp] theorem onCore_units (s : State) (k : Nat) (f : Core → Core) : SameUnits s (s.onCore k f) := by rw [SameUnits, onCore_dev]; simp

@[simp] theorem ckGlobal_units (s : State) (key : Nat) (write : Bool) : SameUnits s (s.ckGlobal key write) :=
  units_of_assets (ckGlobal_assets ..)

@[simp] theorem hostFetch_units (s : State) (h : Nat) (bad : Bool) : SameUnits s (s.hostFetch h bad) :=
  units_of_assets (hostFetch_assets ..)

@[simp] theorem bring_units (s : State) (pa n : Nat) (own : Bool) : SameUnits s (s.bring pa n own) := units_of_assets (bring_assets ..)

@[simp] theorem noteHome_units (s : State) (sid : BitVec 16) (line : Nat) : SameUnits s (s.noteHome sid line) :=
  units_of_assets (noteHome_assets ..)

@[simp] theorem sliceOut_units (s : State) (v : L2Line) : SameUnits s (s.sliceOut v) := units_of_assets (sliceOut_assets ..)

@[simp] theorem request_units (s : State) (sid : BitVec 16) (line : Nat) (m : BitVec 16) (write : Bool) (alloc llc : Nat) :
    SameUnits s (s.request sid line m write alloc llc) := units_of_assets (request_assets ..)

@[simp] theorem serveHome_units (s : State) (sid : BitVec 16) (line : Nat) (m : BitVec 16) (alloc llc : Nat) :
    SameUnits s (s.serveHome sid line m alloc llc) := units_of_assets (serveHome_assets ..)

@[simp] theorem barLine_units (s : State) (n : BitVec 6) (line : Nat) : SameUnits s (s.barLine n line) :=
  units_of_assets (barLine_assets ..)

@[simp] theorem selfOutAll_units (s : State) (p : L1Word → Bool) : SameUnits s (s.selfOutAll p) :=
  units_of_assets (selfOutAll_assets ..)

@[simp] theorem putLoose_units (s : State) (cls : MemCls) (key n x : Nat) : SameUnits s (s.putLoose cls key n x) :=
  units_of_assets (putLoose_assets ..)

@[simp] theorem markDirty_units (s : State) (leaf : Option Nat) : SameUnits s (s.markDirty leaf) := units_of_assets (markDirty_assets ..)

@[simp] theorem unprotect_units (s : State) (n job : BitVec 6) (p : Dom → Bool) (reason : BitVec 4) :
    SameUnits s (s.unprotect n job p reason) := ⟨rfl, rfl⟩

/-! ## Translation -/

theorem markUsed_units (d : Dev) (path : List Nat) :
    (d.markUsed path).owns = d.owns ∧ (d.markUsed path).quarantined = d.quarantined := by
  unfold Dev.markUsed
  induction path generalizing d with
  | nil => exact ⟨rfl, rfl⟩
  | cons k t ih => exact ih { d with mem := d.mem.writeN k 8 (d.peek k 8 ||| 0x80) }

theorem walkFill_units (s : State) (sp : Space) (va : Nat) : SameUnits s (s.walkFill sp va).state := by
  unfold State.walkFill
  split
  · exact markUsed_units ..
  · exact markUsed_units ..

theorem pick_units (s : State) (t : TlbEntry) (va : Nat) : SameUnits s (s.pick t va).state := by
  unfold State.pick
  simp only
  split
  · exact ⟨rfl, rfl⟩
  · split
    · exact ⟨rfl, rfl⟩
    · split
      · exact ⟨rfl, rfl⟩
      · exact ⟨rfl, rfl⟩

theorem translate_units (s : State) (sp : Space) (va : Nat) (store : Bool) : SameUnits s (s.translate sp va store).state := by
  have hwalk := walkFill_units s sp va
  unfold State.translate
  cases hw : s.walkFill sp va with
  | hit t u =>
    rw [hw] at hwalk
    have hpick := hwalk.trans (pick_units u t va)
    simp only
    split
    · split
      · exact hpick
      · exact pick_units ..
    · split
      · exact ⟨rfl, rfl⟩
      · exact hpick
  | miss l b u =>
    rw [hw] at hwalk
    simp only
    split
    · split
      · exact hwalk
      · exact pick_units ..
    · split
      · exact ⟨rfl, rfl⟩
      · exact hwalk

theorem translate_hit_units {s u : State} {sp : Space} {va : Nat} {store : Bool} {t : TlbEntry} (h : s.translate sp va store = .hit t u) :
    SameUnits s u := by simpa only [h, Xlate.state] using translate_units s sp va store

theorem translate_miss_units {s u : State} {sp : Space} {va lv : Nat} {store bad : Bool} (h : s.translate sp va store = .miss lv bad u) :
    SameUnits s u := by simpa only [h, Xlate.state] using translate_units s sp va store

/-! ## Faults -/

@[simp] theorem poke_units (d : Dev) (key n x : Nat) :
    (d.poke key n x).owns = d.owns ∧ (d.poke key n x).quarantined = d.quarantined := ⟨rfl, rfl⟩

@[simp] theorem setStave_units (d : Dev) (n : BitVec 6) (t : Stave) :
    (d.setStave n t).owns = d.owns ∧ (d.setStave n t).quarantined = d.quarantined := ⟨rfl, rfl⟩

@[simp] theorem appendFault_units (s : State) (n : BitVec 6) (r : FaultRec) : SameUnits s (s.appendFault n r).1 := by
  simp only [State.appendFault, SameUnits, setStave_units, poke_units, and_self]

theorem enterFault_units {s t : State} {n : BitVec 6} {r : FaultRec} {job : Option (BitVec 6)} (h : s.enterFault n r job = some t) :
    SameUnits s t := by
  unfold State.enterFault at h
  simp only at h
  split at h
  · split at h
    · split at h
      · cases h; simp
      · cases h; simp
    · cases h; simp
  · split at h
    · cases h
    · cases h
      split <;> split <;> simp

theorem engineFault_units (s : State) (who : Issuer) (va : W64) (kind : AccKind) (lv : Nat) (bad : Bool) :
    SameUnits s (s.engineFault who va kind lv bad).2 := by
  unfold State.engineFault
  simp only
  split
  · split
    · exact ⟨rfl, rfl⟩
    · split <;> simp
  · split
    · exact ⟨rfl, rfl⟩
    · split
      · next h => exact enterFault_units h
      · exact ⟨rfl, rfl⟩

end Sys2Proof.Proofs
end
section
/-! The accesses of the engines go on: places, reads with what a replay log keeps, writes, and the updates of sync objects (R121).
-/

namespace Sys2Proof.Proofs
open Machine

/-- A fold of steps on a value that holds a state, each of which leaves the units. -/
theorem foldl_part_units {α β : Type} (p : β → State) {f : β → α → β} (h : ∀ r x, SameUnits (p r) (p (f r x))) (l : List α) (r : β) :
    SameUnits (p r) (p (l.foldl f r)) := by
  induction l generalizing r with
  | nil => exact ⟨rfl, rfl⟩
  | cons x t ih => exact (h r x).trans (ih _)

@[simp] theorem drawBool_units (s : State) : SameUnits s s.drawBool.2 := ⟨rfl, rfl⟩

@[simp] theorem hostPass_units (s : State) (h : Nat) : SameUnits s (s.hostPass h) := by simp [State.hostPass]

theorem sliceReady_units {s t : State} {sid : BitVec 16} {line : Nat} {m : BitVec 16} {write : Bool} {alloc : Nat}
    (h : s.sliceReady sid line m write alloc = .ok t ∨ s.sliceReady sid line m write alloc = .error t) : SameUnits s t := by
  unfold State.sliceReady at h
  simp only at h
  repeat' split at h
  all_goals simp only [Except.ok.injEq, Except.error.injEq, reduceCtorEq, false_or, or_false] at h
  all_goals simp [← h]

theorem engineReady_units (s : State) (who : Issuer) (pl : Place) (n : Nat) (write : Bool) (alloc : Nat) (begun : Bool) :
    SameUnits s (s.engineReady who pl n write alloc begun).2 := by
  unfold State.engineReady
  simp only
  split
  · exact ⟨rfl, rfl⟩
  · split
    · split
      · split
        · exact ⟨rfl, rfl⟩
        · exact ⟨rfl, rfl⟩
      · split
        · next h => exact (noteHome_units ..).trans (sliceReady_units (.inl h))
        · next h => exact (noteHome_units ..).trans (sliceReady_units (.inr h))
      · split
        · next h => exact (noteHome_units ..).trans (sliceReady_units (.inl h))
        · next h => exact (noteHome_units ..).trans (sliceReady_units (.inr h))
    · exact ⟨rfl, rfl⟩
    · exact ⟨rfl, rfl⟩
    · exact ⟨rfl, rfl⟩
    · exact ⟨rfl, rfl⟩

theorem enginePlace_units (s : State) (who : Issuer) (va : W64) (kind : AccKind) (n : Nat) (before : List (Nat × Nat)) :
    SameUnits s (s.enginePlace who va kind n before).2 := by
  unfold State.enginePlace
  simp only
  split
  · split
    · next h => exact (translate_miss_units h).trans (engineFault_units ..)
    · next h =>
      have htr := translate_hit_units h
      split
      · exact htr
      · split
        · exact htr.trans (engineReady_units ..)
        · refine htr.trans (SameUnits.trans ?_ (engineReady_units ..))
          simp
        · exact htr.trans (engineReady_units ..)
  · split
    · exact ⟨rfl, rfl⟩
    · split
      · split
        · exact ⟨rfl, rfl⟩
        · split
          · exact ⟨rfl, rfl⟩
          · split
            · exact engineReady_units ..
            · exact ⟨rfl, rfl⟩
      · exact ⟨rfl, rfl⟩

/-! ## Reads and writes -/

@[simp] theorem charge_units (d : Dev) (t : Stave) (cluster : Nat) (chan : Bool) (n : Nat) :
    (d.charge t cluster chan n).owns = d.owns ∧ (d.charge t cluster chan n).quarantined = d.quarantined :=
  ⟨congrArg Prod.fst (charge_assets ..), congrArg (·.2.1) (charge_assets ..)⟩

@[simp] theorem journalLocal_units (s : State) (n job : BitVec 6) (d : Dom) (k line : Nat) :
    SameUnits s (s.journalLocal n job d k line) := by
  unfold State.journalLocal
  simp only
  split
  · exact ⟨rfl, rfl⟩
  · split
    · simp
    · simp

@[simp] theorem ckLocalBy_units (s : State) (who : Option Member) (k line : Nat) (write : Bool) :
    SameUnits s (s.ckLocalBy who k line write) := by
  unfold State.ckLocalBy
  split
  · exact ⟨rfl, rfl⟩
  · simp only
    split
    · exact ⟨rfl, rfl⟩
    · split
      · exact ⟨rfl, rfl⟩
      · simp

@[simp] theorem ckLocal_units (s : State) (k line : Nat) (write : Bool) : SameUnits s (s.ckLocal k line write) := ckLocalBy_units ..

theorem looseRead_units (s : State) (cls : MemCls) (key n x : Nat) : SameUnits s (s.looseRead cls key n x).2 := by
  unfold State.looseRead
  split
  · exact ⟨rfl, rfl⟩
  · refine foldl_part_units Prod.snd (fun r w => ?_) _ (x, s)
    simp only
    split
    · exact ⟨rfl, rfl⟩
    · exact ⟨rfl, rfl⟩

theorem bringSpace_units {s t : State} {sp : Space} {va : W64} {n k : Nat} {own : Bool} (h : s.bringSpace sp va n own = some (k, t)) :
    SameUnits s t := by
  unfold State.bringSpace at h
  split at h
  · next htr =>
    cases h
    exact (translate_hit_units htr).trans ((bring_units ..).trans (markDirty_units ..))
  · cases h

@[simp] theorem writeSpace_units (s : State) (sp : Space) (va : W64) (n x : Nat) : SameUnits s (s.writeSpace sp va n x) := by
  unfold State.writeSpace
  split
  · exact ⟨rfl, rfl⟩
  · next h => exact (bringSpace_units h).trans (poke_units ..)

@[simp] theorem logHeader_units (s : State) (j : Job) : SameUnits s (s.logHeader j) := by simp [State.logHeader]

@[simp] theorem capture_units (s : State) (n job : BitVec 6) (r : LogRec) : SameUnits s (s.capture n job r) := by
  unfold State.capture
  split
  · exact ⟨rfl, rfl⟩
  · split
    · exact ⟨rfl, rfl⟩
    · simp

theorem logRecs_units (s : State) (j : Job) (n : Nat) : SameUnits s (s.logRecs j n).2 := by
  induction n with
  | zero => exact ⟨rfl, rfl⟩
  | succ n ih =>
    simp only [State.logRecs]
    split
    · next h => exact ih.trans (bringSpace_units h)
    · exact ih

theorem logFind_units (s : State) (j : Job) (p : LogRec → Bool) (n : Nat) : SameUnits s (s.logFind j p n).2 := by
  simp only [State.logFind, State.logRead]
  split
  · next h => exact (bringSpace_units h).trans (logRecs_units ..)
  · exact ⟨rfl, rfl⟩

theorem hostRead_units {s t : State} {n job : BitVec 6} {l pa size x y : Nat}
    (h : s.hostRead n job l pa size x = .ok (y, t) ∨ s.hostRead n job l pa size x = .error t) : SameUnits s t := by
  unfold State.hostRead at h
  split at h
  · obtain h | h := h <;> cases h
    exact ⟨rfl, rfl⟩
  · next j _ =>
    simp only at h
    have hfind := logFind_units s j (fun r => r.kind == 3 && r.lcore == l) (j.logCountOf (8192 + l))
    split at h
    · split at h
      · obtain h | h := h <;> cases h
        exact hfind.trans ⟨rfl, rfl⟩
      · split at h <;> obtain h | h := h <;> cases h
        · exact hfind.trans ⟨rfl, rfl⟩
        · exact hfind.trans ⟨rfl, rfl⟩
    · obtain h | h := h <;> cases h
      exact capture_units ..

theorem hostReads_units {n job : BitVec 6} {l : Nat} : ∀ {k : Nat} {s t : State} {pa size x y : Nat},
    (s.hostReads n job l k pa size x = .ok (y, t) ∨ s.hostReads n job l k pa size x = .error t) → SameUnits s t
  | 0, s, t, pa, size, x, y, h => by
    obtain h | h := h <;> cases h
    exact ⟨rfl, rfl⟩
  | k + 1, s, t, pa, size, x, y, h => by
    simp only [State.hostReads] at h
    split at h
    · obtain h | h := h <;> cases h
      exact ⟨rfl, rfl⟩
    · split at h
      · next hr =>
        obtain h | h := h <;> cases h
        exact hostRead_units (y := 0) (.inr hr)
      · next hr =>
        have hread := hostRead_units (.inl hr)
        split at h
        · next hrest =>
          obtain h | h := h <;> cases h
          exact hread.trans (hostReads_units (y := 0) (.inr hrest))
        · next hrest =>
          obtain h | h := h <;> cases h
          exact hread.trans (hostReads_units (.inl hrest))

@[simp] theorem engineCharge_units (s : State) (who : Issuer) (pl : Place) (n : Nat) : SameUnits s (s.engineCharge who pl n) := by
  cases pl with
  | own off => exact ⟨rfl, rfl⟩
  | _ => exact charge_units ..

theorem engineRead_units (s : State) (who : Issuer) (pl : Place) (n : Nat) : SameUnits s (s.engineRead who pl n).2.2 := by
  have hcharge := engineCharge_units s who pl n
  unfold State.engineRead
  simp only
  split
  · exact hcharge.trans (ckLocal_units ..)
  · have hck (key : Nat) := hcharge.trans (ckGlobal_units _ key false)
    split
    · exact hck _
    · exact (hck _).trans ((request_units ..).trans (looseRead_units ..))
    · have hread (key alloc n x : Nat) (cls : MemCls) (sid m) := (hck key).trans ((request_units _ sid (key / 128) m false alloc 0).trans
        (looseRead_units _ cls key n x))
      split
      · exact hread ..
      · split
        · next h => exact (hread ..).trans (hostReads_units (.inl h))
        · next h => exact (hread ..).trans (hostReads_units (y := 0) (.inr h))
  · exact hcharge
  · exact hcharge
  · exact hcharge
  · exact hcharge

theorem engineWrite_units (s : State) (who : Issuer) (pl : Place) (n x : Nat) : SameUnits s (s.engineWrite who pl n x) := by
  unfold State.engineWrite
  simp only
  split
  · simp
  · simp

@[simp] theorem asIssuer_units {f : State → State} (h : ∀ u, SameUnits u (f u)) (s : State) (who : Issuer) :
    SameUnits s (s.asIssuer who f) := by
  have hat := at_units h s who.core
  unfold State.asIssuer
  simp only
  split
  · exact hat
  · exact hat

@[simp] theorem syncPut_units (s : State) (x : SyncAdd) : SameUnits s (s.syncPut x) := by
  unfold State.syncPut
  simp only
  split
  · exact ⟨rfl, rfl⟩
  · refine asIssuer_units (fun u => ?_) s x.who
    have hplace := enginePlace_units u x.who x.addr .atomic 16 u.dev.budget
    split
    · next v hv =>
      rw [hv] at hplace
      split
      · exact hplace
      · split
        · exact hplace.trans ((engineRead_units ..).trans (engineWrite_units ..))
        · exact hplace.trans (engineRead_units ..)
    · next hv => rw [hv] at hplace; exact hplace
    · next hv => rw [hv] at hplace; exact hplace
    · next hv => rw [hv] at hplace; exact hplace
    · next hv => rw [hv] at hplace; exact hplace

@[simp] theorem syncWrite_units (s : State) (who : Issuer) (addr : W64) (bytes status : Nat) (set : Bool) :
    SameUnits s (s.syncWrite who addr bytes status set) := syncPut_units ..

@[simp] theorem syncAdd_units (s : State) (who : Issuer) (addr : W64) (bytes status : Nat) :
    SameUnits s (s.syncAdd who addr bytes status) := syncPut_units ..

@[simp] theorem completeOp_units (s : State) (who : Issuer) (addr : W64) (status : Nat) : SameUnits s (s.completeOp who addr status) := by
  simp [State.completeOp]

@[simp] theorem retrySyncs_units (s : State) (p : SyncAdd → Bool) : SameUnits s (s.retrySyncs p) := by simp [State.retrySyncs]

end Sys2Proof.Proofs
end
section
/-! What happens to cores and jobs leaves the units: contexts that are freed, discarded or ended, and jobs that end (R79, R126). -/

namespace Sys2Proof.Proofs
open Machine

@[simp] theorem setCore_units (s : State) (k : Nat) (c : Core) : SameUnits s (s.setCore k c) := by rw [SameUnits, setCore_dev]; simp

@[simp] theorem putDir_units (s : State) (x : DirLine) : SameUnits s (s.putDir x) := units_of_assets (putDir_assets ..)

@[simp] theorem acquire_units (s : State) : SameUnits s s.acquire := units_of_assets (acquire_assets ..)

@[simp] theorem staveMoved_units (s : State) (n : BitVec 6) (word : W64) : SameUnits s (s.staveMoved n word) := by
  simp [State.staveMoved]

@[simp] theorem occupancy_units (s : State) (n : BitVec 6) : SameUnits s (s.occupancy n) := onStave_units ..

@[simp] theorem slotFreed_units (s : State) (n : BitVec 6) : SameUnits s (s.slotFreed n) := by simp [State.slotFreed]

@[simp] theorem numberCore_units (s : State) (n : BitVec 6) (k : Nat) : SameUnits s (s.numberCore n k) := by simp [State.numberCore]

@[simp] theorem killParkedAccess_units (s : State) (k : Nat) : SameUnits s (s.killParkedAccess k) := by
  unfold State.killParkedAccess
  split
  · exact at_units (fun u => by simp [trapEntry_dev]) s k
  · exact ⟨rfl, rfl⟩

@[simp] theorem dropL1_units (s : State) (k : Nat) : SameUnits s (s.dropL1 k) := by simp [State.dropL1]

@[simp] theorem quietCore_units (s : State) (k : Nat) : SameUnits s (s.quietCore k) := by
  simp [State.quietCore]

@[simp] theorem countRetired_units (s : State) (c : Core) : SameUnits s (s.countRetired c) := by
  unfold State.countRetired
  split
  · exact onStave_units ..
  · exact ⟨rfl, rfl⟩

@[simp] theorem mapIssuers_units (s : State) (f : Issuer → Issuer) : SameUnits s (s.mapIssuers f) := by simp [State.mapIssuers]

@[simp] theorem moveIssuers_units (s : State) (n : BitVec 6) (a b : Nat) : SameUnits s (s.moveIssuers n a b) := mapIssuers_units ..

@[simp] theorem answer_units (s : State) (m : MCmd) (good : Bool) : SameUnits s (s.answer m good) := by
  unfold State.answer State.onIssuer
  split
  · exact ⟨rfl, rfl⟩
  · simp

@[simp] theorem dropHeld_units (s : State) (c : Core) : SameUnits s (s.dropHeld c) := by simp [State.dropHeld]

@[simp] theorem freeCore_units (s : State) (k : Nat) : SameUnits s (s.freeCore k) := by simp [State.freeCore]

@[simp] theorem freeAbsent_units (s : State) (n : BitVec 6) (l : Nat) : SameUnits s (s.freeAbsent n l) := by simp [State.freeAbsent]

@[simp] theorem freeSaved_units (s : State) (n : BitVec 6) (base : Nat) : SameUnits s (s.freeSaved n base) := by
  simp [State.freeSaved]

@[simp] theorem countSector_units (s : State) (cp : Copy) (i status : Nat) : SameUnits s (s.countSector cp i status) := by
  simp [State.countSector]

@[simp] theorem killSector_units (s : State) (k ch i : Nat) : SameUnits s (s.killSector k ch i) := by
  unfold State.killSector
  split
  · exact ⟨rfl, rfl⟩
  · simp [State.sectorDone]

@[simp] theorem killSectors_units (s : State) (k : Nat) : SameUnits s (s.killSectors k) := by simp [State.killSectors]

@[simp] theorem killParked_units (s : State) (c : Core) : SameUnits s (s.killParked c) := by
  unfold State.killParked
  exact foldl_units (fun s (cp : Copy) => foldl_part_units Prod.fst (fun _ _ => countSector_units ..) cp.parked (s, cp)) _ s

@[simp] theorem freeEntries_units (s : State) (n : BitVec 6) (l : List Nat) : SameUnits s (s.freeEntries n l) := by
  simp [State.freeEntries]

@[simp] theorem clearBitmaps_units (s : State) (n : BitVec 6) (ls : List (BitVec 13)) : SameUnits s (s.clearBitmaps n ls) := by
  simp [State.clearBitmaps]

@[simp] theorem dropCk_units (s : State) (n : BitVec 6) (d : Dom) (members : List (BitVec 13)) : SameUnits s (s.dropCk n d members) := by
  simp [State.dropCk]

@[simp] theorem endMoves_units (s : State) (n : BitVec 6) (p : Move → Bool) : SameUnits s (s.endMoves n p) := by
  simp [State.endMoves]

@[simp] theorem stopJob_units (s : State) (n job : BitVec 6) : SameUnits s (s.stopJob n job) := by
  unfold State.stopJob
  split
  · exact ⟨rfl, rfl⟩
  · simp

@[simp] theorem endJob_units (s : State) (n job : BitVec 6) (status : Nat) (reason : W64) :
    SameUnits s (s.endJob n job status reason) := (onStave_units ..).trans (stopJob_units ..)

@[simp] theorem failReady_units (s : State) (n : BitVec 6) (i : Nat) : SameUnits s (s.failReady n i) := onStave_units ..

@[simp] theorem loseReserved_units (s : State) (n : BitVec 6) (id : Nat) : SameUnits s (s.loseReserved n id) := by
  simp [State.loseReserved]

@[simp] theorem addMove_units (s : State) (n : BitVec 6) (m : Move) : SameUnits s (s.addMove n m) := onStave_units ..

@[simp] theorem evict_units (s : State) (n : BitVec 6) (id : Nat) : SameUnits s (s.evict n id).1 := by
  refine foldl_part_units (β := State × Bool) Prod.fst (fun r x => ?_) _ (s, false)
  split
  · exact ⟨rfl, rfl⟩
  · exact addMove_units ..

@[simp] theorem dropLines_units (s : State) (p : Nat → Bool) : SameUnits s (s.dropLines p) := by simp [State.dropLines]

@[simp] theorem discard_units (s : State) (k : Nat) : SameUnits s (s.discard k) := by simp [State.discard]

end Sys2Proof.Proofs
end
section
/-! What placement does by itself leaves the units: instances that are placed, restored, rolled back or resumed (R90, R402, R403, R434). -/

namespace Sys2Proof.Proofs
open Machine

@[simp] theorem fixRect_units (s : State) (n job : BitVec 6) (stage : Nat) : SameUnits s (s.fixRect n job stage) := by
  unfold State.fixRect
  split
  · exact ⟨rfl, rfl⟩
  · simp only
    split
    · exact ⟨rfl, rfl⟩
    · split
      · exact ⟨rfl, rfl⟩
      · split
        · exact ⟨rfl, rfl⟩
        · exact onStave_units ..

@[simp] theorem dropReady_units (s : State) (n : BitVec 6) (i : Nat) : SameUnits s (s.dropReady n i) := onStave_units ..

@[simp] theorem takeReady_units (s : State) (n : BitVec 6) (i : Nat) (r : Ready) : SameUnits s (s.takeReady n i r) := by
  simp [State.takeReady]

theorem peekSpace_units {s t : State} {sp : Space} {va : W64} {n x : Nat} (h : s.peekSpace sp va n = some (x, t)) : SameUnits s t := by
  simp only [State.peekSpace, Option.bind_eq_some_iff] at h
  obtain ⟨⟨k, u⟩, hfirst, h⟩ := h
  have hu := bringSpace_units hfirst
  split at h
  · cases h
    exact hu
  · obtain ⟨⟨k', v⟩, hrest, h⟩ := Option.map_eq_some_iff.mp h
    cases h
    exact hu.trans (bringSpace_units hrest)

theorem stageTemplates_units (s : State) (j : Job) (t : Stage) : SameUnits s (s.stageTemplates j t).2 := by
  refine foldl_part_units (β := Vector (Option V512) 64 × State) Prod.snd (fun r i => ?_) _ (.replicate 64 none, s)
  split
  · next h => exact peekSpace_units h
  · exact ⟨rfl, rfl⟩

@[simp] theorem commitInst_units (s : State) (n job : BitVec 6) (stage c : Nat) (growth : Bool) :
    SameUnits s (s.commitInst n job stage c growth) := by
  unfold State.commitInst
  split
  · exact ⟨rfl, rfl⟩
  · split
    · exact ⟨rfl, rfl⟩
    · refine SameUnits.trans ?_ (occupancy_units ..)
      refine SameUnits.trans ?_ (foldl_units (fun s k => ?_) _ _)
      · exact (onStave_units ..).trans (stageTemplates_units ..)
      · exact SameUnits.trans ⟨rfl, rfl⟩ (setCore_units ..)

@[simp] theorem placeNew_units (s : State) (n : BitVec 6) (i : Nat) (r : Ready) : SameUnits s (s.placeNew n i r) := by
  have hrect := fixRect_units s n r.job r.stage
  unfold State.placeNew
  simp only
  split
  · exact hrect.trans (dropReady_units ..)
  · split
    · exact hrect.trans (failReady_units ..)
    · exact hrect.trans ((takeReady_units ..).trans (foldl_units (fun _ _ => commitInst_units ..) _ _))

/-! ## Contexts in their areas -/

@[simp] theorem onWhere_units (s : State) (n : BitVec 6) (w : Whereabouts) (f : Core → Core) : SameUnits s (s.onWhere n w f) := by
  cases w with
  | core k => exact onCore_units ..
  | absent l => exact onStave_units ..
  | saved base => exact onStave_units ..

@[simp] theorem saveArea_units (s : State) (base : Nat) (c : Core) (a : AreaState) (tpc : W64) (g0 : Option Reg) :
    SameUnits s (s.saveArea base c a tpc g0) := by simp [State.saveArea]

@[simp] theorem putMember_units (s : State) (n : BitVec 6) (w : Whereabouts) (c : Core) : SameUnits s (s.putMember n w c) := by
  cases w with
  | core k => exact setCore_units ..
  | absent l => exact (saveArea_units ..).trans (onWhere_units ..)
  | saved base => exact (saveArea_units ..).trans (onWhere_units ..)

@[simp] theorem abandon_units (s : State) (n : BitVec 6) (w : Whereabouts) : SameUnits s (s.abandon n w) := by
  simp [State.abandon]

@[simp] theorem undoEntry_units (s : State) (n : BitVec 6) (i : Nat) : SameUnits s (s.undoEntry n i) := by
  simp [State.undoEntry]

@[simp] theorem undoMember_units (s : State) (n : BitVec 6) (j : Job) (d : Dom) (l : BitVec 13) : SameUnits s (s.undoMember n j d l) := by
  unfold State.undoMember
  split
  · exact ⟨rfl, rfl⟩
  · simp

@[simp] theorem onPat_units (s : State) (n job : BitVec 6) (i : Nat) (f : Pattern → Pattern) : SameUnits s (s.onPat n job i f) :=
  ⟨rfl, rfl⟩

@[simp] theorem armEntry_units (s : State) (n job : BitVec 6) (i : Nat) (e : PatEntry) : SameUnits s (s.armEntry n job i e) := by
  unfold State.armEntry
  simp only
  split
  · exact onPat_units ..
  · simp

@[simp] theorem dropNotes_units (s : State) (n job : BitVec 6) (i : Nat) : SameUnits s (s.dropNotes n job i) := by
  rw [SameUnits, dropNotes_dev]
  exact ⟨rfl, rfl⟩

@[simp] theorem undoPattern_units (s : State) (n job : BitVec 6) (d : Dom) (i : Nat) (p : Pattern) :
    SameUnits s (s.undoPattern n job d i p) := by simp [State.undoPattern]

@[simp] theorem blame_units (s : State) (n job : BitVec 6) (unit : BitVec 32) : SameUnits s (s.blame n job unit) := onStave_units ..

@[simp] theorem rollBack_units (s : State) (n : BitVec 6) (j : Job) (d : Dom) : SameUnits s (s.rollBack n j d) := by
  unfold State.rollBack
  simp only
  split
  · simp
  · simp

@[simp] theorem restoreError_units (s : State) (n : BitVec 6) (m : Member) (u : BitVec 32) (addr : Nat) :
    SameUnits s (s.restoreError n m u addr) := by
  unfold State.restoreError
  split
  · exact ⟨rfl, rfl⟩
  · simp only
    split
    · simp
    · simp

/-! ## Inboxes -/

theorem acceptStore_units {s t : State} {k off n x : Nat} {who : Option Member} (h : s.acceptStore k who off n x = some t) :
    SameUnits s t := by
  unfold State.acceptStore at h
  split at h
  · cases h
  · cases h
    simp

theorem logAllows_units (s : State) (k slot : Nat) (src : BitVec 13) (stream : BitVec 12) :
    SameUnits s (s.logAllows k slot src stream).2 := by
  unfold State.logAllows
  simp only
  split
  · exact ⟨rfl, rfl⟩
  · next j _ =>
    split
    · exact ⟨rfl, rfl⟩
    · exact logFind_units s j (fun r => r.kind == 4 && r.lcore == (s.coreAt k).lcore.toNat && r.slot == slot)
        (j.logCountOf (16384 + 16 * (s.coreAt k).lcore.toNat + slot))

@[simp] theorem accepted_units (s : State) (k slot : Nat) (src : BitVec 13) (stream : BitVec 12) (data : V512) :
    SameUnits s (s.accepted k slot src stream data) := by
  unfold State.accepted
  simp only
  split
  · simp
  · simp

theorem acceptMessage_units {s t : State} {k : Nat} {x : NetItem} (h : s.acceptMessage k x = some t) : SameUnits s t := by
  unfold State.acceptMessage at h
  simp only at h
  split at h
  · cases h
    exact ⟨rfl, rfl⟩
  · split at h
    · cases h
    · have hlog := logAllows_units s k x.slot.toNat x.src x.stream
      split at h
      · cases h
        exact hlog.trans ((onCore_units ..).trans (accepted_units ..))
      · cases h

theorem acceptEos_units {s t : State} {k : Nat} {x : NetItem} (h : s.acceptEos k x = some t) : SameUnits s t := by
  unfold State.acceptEos at h
  simp only at h
  split at h
  · cases h
    exact ⟨rfl, rfl⟩
  · split at h
    · cases h
    · cases h
      exact onCore_units ..

theorem acceptCommand_units {s t : State} {k : Nat} {m : MCmd} (h : s.acceptCommand k m = some t) : SameUnits s t := by
  unfold State.acceptCommand at h
  split at h
  · cases h
    exact (answer_units ..).trans (completeOp_units ..)
  · split at h
    · cases h
    · cases h
      simp

theorem acceptItem_units {s t : State} {k : Nat} {x : NetItem} (h : s.acceptItem k x = some t) : SameUnits s t := by
  unfold State.acceptItem at h
  split at h
  · exact acceptStore_units h
  · exact acceptMessage_units h
  · exact acceptEos_units h
  · split at h
    · exact acceptCommand_units h
    · cases h
      exact ⟨rfl, rfl⟩
  · cases h
    exact ⟨rfl, rfl⟩

@[simp] theorem applyInbox_units (s : State) (base k : Nat) : SameUnits s (s.applyInbox base k) := by
  unfold State.applyInbox
  refine (onCore_units s k fun c => { c with inbox := [] }).trans ?_
  refine foldl_part_units (β := State × List NetItem) Prod.fst (fun r x => ?_) _ (s.onCore k fun c => { c with inbox := [] }, [])
  split
  · next h =>
    split at h
    · cases h
    · exact acceptItem_units h
  · exact ⟨rfl, rfl⟩

/-! ## Instances that come back, and the requests that are tried again -/

@[simp] theorem bringBack_units (s : State) (n : BitVec 6) (l k : Nat) (cores : List Nat) : SameUnits s (s.bringBack n l k cores) := by
  unfold State.bringBack
  simp only
  generalize hu : s.onStave n _ = u
  have h : SameUnits s u := hu ▸ onStave_units ..
  split
  · simpa using h
  · simpa [State.newTag] using h

@[simp] theorem restoreInst_units (s : State) (n job : BitVec 6) (stage num c : Nat) (placed : Bool) :
    SameUnits s (s.restoreInst n job stage num c placed) := by
  unfold State.restoreInst
  split
  · exact ⟨rfl, rfl⟩
  · simp

@[simp] theorem resume_units (s : State) (n : BitVec 6) (i : Nat) (r : Ready) (num : Nat) : SameUnits s (s.resume n i r num) := by
  unfold State.resume
  split
  · split
    · exact failReady_units ..
    · split
      · exact endJob_units ..
      · split
        · exact restoreError_units ..
        · simp
  · exact dropReady_units ..

@[simp] theorem serveReady_units (s : State) (n : BitVec 6) (i : Nat) (p : Ready → Bool) : SameUnits s (s.serveReady n i p) := by
  unfold State.serveReady
  simp only
  split
  · exact ⟨rfl, rfl⟩
  · split
    · exact ⟨rfl, rfl⟩
    · split
      · exact placeNew_units ..
      · exact resume_units ..

@[simp] theorem retryReady_units (n : BitVec 6) : ∀ (k : Nat) (s : State), SameUnits s (s.retryReady n k)
  | 0, s => ⟨rfl, rfl⟩
  | k + 1, s => by
    have ih := retryReady_units n k s
    simp only [State.retryReady]
    split
    · exact ih.trans (serveReady_units ..)
    · exact ih

@[simp] theorem settleShrinks_units (s : State) (n : BitVec 6) : SameUnits s (s.settleShrinks n) := by simp [State.settleShrinks]

end Sys2Proof.Proofs
end
section
/-! Owners (R116), and what STVGROW and STVSHRINK make of them (R124, R125). -/

namespace Sys2Proof.Proofs
open Machine Claims

theorem own_of_owns {d d' : Dev} (h : d'.owns = d.owns) (k : UnitKind) (id : Nat) : d'.own k id = d.own k id := by
  rw [Dev.own, Dev.own, h]

theorem own_setOwn (d : Dev) (u : UnitKind × Nat) (st : OwnState) (n : BitVec 6) (k : UnitKind) (id : Nat) :
    (d.setOwn u st n).own k id = if (k, id) = u then some ⟨k, id, st, n⟩ else d.own k id := by
  unfold Dev.own Dev.setOwn
  rw [List.find?_append]
  split
  · next h =>
    subst h
    have hnone : (d.owns.filter fun o => !(o.kind == k && o.id == id)).find? (fun o => o.kind == k && o.id == id) = none := by
      simp only [List.find?_eq_none, List.mem_filter]
      intro o ho hk
      simp [hk] at ho
    rw [hnone]
    simp
  · next h =>
    have hne : ¬ (u.1 = k ∧ u.2 = id) := fun hu => h (Prod.ext hu.1.symm hu.2.symm)
    have hsame : (d.owns.filter fun o => !(o.kind == u.1 && o.id == u.2)).find? (fun o => o.kind == k && o.id == id) =
        d.owns.find? fun o => o.kind == k && o.id == id := by
      rw [List.find?_filter]
      congr 1
      funext o
      grind
    have hlast : ([⟨u.1, u.2, st, n⟩] : List Own).find? (fun o => o.kind == k && o.id == id) = none := by simpa using hne
    rw [hsame, hlast, Option.or_none]

/-- A fold that sets the owners of units, the state of each by its kind, sets exactly theirs. -/
theorem own_foldl_setOwn {β : Type} (p : β → State) {f : β → UnitKind × Nat → β} {st : UnitKind × Nat → OwnState} {n : BitVec 6}
    (h : ∀ r u, (p (f r u)).dev.owns = ((p r).dev.setOwn u (st u) n).owns) (us : List (UnitKind × Nat)) (r : β) (k : UnitKind)
    (id : Nat) : (p (us.foldl f r)).dev.own k id = if (k, id) ∈ us then some ⟨k, id, st (k, id), n⟩ else (p r).dev.own k id := by
  induction us generalizing r with
  | nil => simp
  | cons u us ih =>
    rw [List.foldl_cons, ih, own_of_owns (h r u), own_setOwn]
    by_cases hmem : (k, id) ∈ us
    · simp [hmem]
    · by_cases hu : (k, id) = u
      · simp [hu]
      · simp [hmem, hu]

/-! ## STVGROW -/

theorem joinCluster_quarantined (s : State) (n : BitVec 6) (id : Nat) :
    (s.joinCluster n id).dev.quarantined = s.dev.quarantined := by
  simp [State.joinCluster, Dev.setOwn]

theorem joinUnit_owns (n : BitVec 6) (s : State) (u : UnitKind × Nat) :
    (s.joinUnit n u).dev.owns = (s.dev.setOwn u .owned n).owns := by
  obtain ⟨k, id⟩ := u
  cases k with
  | cluster => simp [State.joinUnit, State.joinCluster]
  | granule => rfl
  | way => rfl
  | headstock => rfl

theorem growAct_bad {w sync : W64} {s : State} (h : reqBad w = true ∨ (s.dev.boot = .recovery ∧ reqKind w = 0)) :
    growAct w sync s = (.badArg, s) := by
  have hc : (reqBad w || (s.dev.boot == .recovery && reqKind w == 0)) = true := by simpa using h
  rw [growAct, if_pos hc]

/-- A request word that names units which can be granted in the present mode. -/
theorem growAct_cond {w : W64} {s : State} (hw : reqBad w = false) (hb : s.dev.boot = .recovery → reqKind w ≠ 0) :
    ¬ (reqBad w || (s.dev.boot == .recovery && reqKind w == 0)) = true := by simpa [hw] using hb

theorem growAct_notFree {w sync : W64} {s : State} (hw : reqBad w = false) (hb : s.dev.boot = .recovery → reqKind w ≠ 0)
    (h : ∃ u ∈ reqUnits w, s.dev.isFree u = false) : growAct w sync s = (.notFree, s) := by
  have hall : (!(reqUnits w).all s.dev.isFree) = true := by simpa using h
  rw [growAct, if_neg (growAct_cond hw hb), if_pos hall]

/-- A granted STVGROW gives the stave the units that its word names, and changes no other owner. -/
theorem growAct_ok {w sync : W64} {s : State} (hw : reqBad w = false) (hb : s.dev.boot = .recovery → reqKind w ≠ 0)
    (h : ∀ u ∈ reqUnits w, s.dev.isFree u = true) : ∃ t : State, growAct w sync s = (.ok, t) ∧
      ∀ k id, t.dev.own k id = if (k, id) ∈ reqUnits w then some ⟨k, id, .owned, reqStave w⟩ else s.dev.own k id := by
  have hall : ¬ (!(reqUnits w).all s.dev.isFree) = true := by simpa using h
  rw [growAct, if_neg (growAct_cond hw hb), if_neg hall]
  refine ⟨_, rfl, fun k id => ?_⟩
  rw [own_of_owns (d := ((reqUnits w).foldl (fun s u => s.joinUnit (reqStave w) u) s).dev) (by simp)]
  exact own_foldl_setOwn (β := State) (fun s => s) (st := fun _ => .owned) (joinUnit_owns (reqStave w)) (reqUnits w) s k id

/-! ## STVSHRINK -/

/-- In which state a unit leaves. -/
def leavingState (u : UnitKind × Nat) : OwnState := if u.1 = .cluster then .draining else .scrub

theorem leaveUnit_owns (n : BitVec 6) (s : State) (u : UnitKind × Nat) :
    (s.leaveUnit n u).1.dev.owns = (s.dev.setOwn u (leavingState u) n).owns := by
  obtain ⟨k, id⟩ := u
  cases k with
  | cluster =>
    simp only [State.leaveUnit, State.drainCluster]
    split
    · exact foldl_leaves (fun s => s.dev.owns) _ (fun _ _ => (endJob_units ..).1) _ _
    · exact ((loseReserved_units ..).trans (evict_units ..)).1
  | granule => exact (dropLines_units ..).1
  | way => rfl
  | headstock => exact (discard_units ..).1

theorem shrinkAct_bad {w sync : W64} {s : State} (h : reqBad w = true) : shrinkAct w sync s = (.badArg, s) := by
  simp only [shrinkAct, if_pos h]

/-- A unit that is leaving already makes STVSHRINK busy. -/
theorem shrinkAct_busy {w sync : W64} {s : State} (hw : reqBad w = false)
    (h : ∃ u ∈ reqUnits w, s.dev.ownState u.1 u.2 (reqStave w) = some .draining) : shrinkAct w sync s = (.busy, s) := by
  have hany : ((reqUnits w).any fun u => s.dev.ownState u.1 u.2 (reqStave w) == some .draining) = true := by simpa using h
  simp [shrinkAct, hw, hany]

theorem stave_onStave (s : State) (n m : BitVec 6) (f : Stave → Stave) :
    (s.onStave n f).dev.stave m = if m = n then f (s.dev.stave n) else s.dev.stave m := stave_setStave ..

theorem addShrink_last (s : State) (n : BitVec 6) (x : Shrink) :
    ((s.onStave n fun t => { t with shrinks := t.shrinks ++ [x] }).dev.stave n).shrinks.getLast? = some x := by
  rw [stave_onStave, if_pos rfl, List.getLast?_concat]

/-- An accepted STVSHRINK stands last among those of its stave, and its units are leaving. -/
theorem shrinkAct_ok {w sync : W64} {s : State} (hok : (shrinkAct w sync s).1 = .ok) : ∃ t : State, shrinkAct w sync s = (.ok, t) ∧
    (∃ x, (t.dev.stave (reqStave w)).shrinks.getLast? = some x ∧ x.word = w ∧ x.sync = sync) ∧
    ∀ k id, t.dev.own k id = if (k, id) ∈ reqUnits w then some ⟨k, id, leavingState (k, id), reqStave w⟩ else s.dev.own k id := by
  simp only [shrinkAct] at hok ⊢
  split at hok
  · cases hok
  · next hbad =>
    split at hok
    · cases hok
    · next hbusy =>
      split at hok
      · cases hok
      · next howned =>
        split at hok
        · cases hok
        · next huse =>
          rw [if_neg hbad, if_neg hbusy, if_neg howned, if_neg huse]
          refine ⟨_, rfl, ⟨_, addShrink_last .., rfl, rfl⟩, fun k id => ?_⟩
          rw [own_of_owns (onStave_units ..).1]
          refine own_foldl_setOwn (β := State × Bool) (st := leavingState) Prod.fst ?_ (reqUnits w) (s, false) k id
          exact fun r u => leaveUnit_owns (reqStave w) r.1 u

theorem ownState_of_own {d : Dev} {k : UnitKind} {id : Nat} {st : OwnState} {n : BitVec 6} (h : d.own k id = some ⟨k, id, st, n⟩) :
    d.ownState k id n = some st := by
  simp [Dev.ownState, h]

end Sys2Proof.Proofs
end

section
/-! What the other requests of the group accept: moves, quarantine, map entries and transitions (R127, R128, R131, R132, R134). -/

namespace Sys2Proof.Proofs
open Machine Claims

/-! ## MIGRATE -/

/-- A MIGRATE that is not accepted does nothing. -/
theorem migrateAct_refused {w sync : W64} {s : State} (h : (migrateAct w sync s).1 ≠ .ok) : (migrateAct w sync s).2 = s := by
  simp only [migrateAct] at h ⊢
  split
  · rfl
  · next h1 =>
    rw [if_neg h1] at h
    split
    · rfl
    · next j i hled =>
      simp only [hled] at h
      split
      · rfl
      · next h2 =>
        rw [if_neg h2] at h
        split
        · rfl
        · next h3 =>
          rw [if_neg h3] at h
          split
          · rfl
          · next h4 =>
            rw [if_neg h4] at h
            split
            · rfl
            · next h5 =>
              rw [if_neg h5] at h
              exact absurd rfl h

/-- A MIGRATE of an instance that is led by the logical core of its word, to a slot that is free. -/
theorem migrateAct_ok {w sync : W64} {s : State} {j : Job} {i : Inst} (h6 : zeroAt w 6 10 = true) (h29 : zeroAt w 29 3 = true)
    (h45 : zeroAt w 45 19 = true) (hc : field w 35 8 < 200) (hled : (s.dev.stave (reqStave w)).ledBy (w.extractLsb' 16 13) = some (j, i))
    (hw : field w 32 13 % i.lcores.length = 0) (hmov : i.moving = false) (hmine : s.me.ctl.mode = .stave → reqStave w = s.me.stave)
    (hfree : ∀ k ∈ slotCores (field w 32 13) i.lcores.length, s.coreFree (reqStave w) [] k = true) :
    migrateAct w sync s = (.ok, s.selfRelease.addMove (reqStave w) ⟨j.num, i.stage, i.num, some (field w 32 13), sync, s.issuer⟩) := by
  have hown : ¬ (s.me.ctl.mode = .stave ∧ reqStave w ≠ s.me.stave) := fun h => h.2 (hmine h.1)
  have hslot : (slotCores (field w 32 13) i.lcores.length).all (s.coreFree (reqStave w) []) = true := List.all_eq_true.mpr hfree
  simp only [reqStave] at hled hown hslot
  simp [migrateAct, h6, h29, h45, hc, hled, hw, hmov, hown, hslot, reqStave]

theorem addMove_moves (s : State) (n : BitVec 6) (m : Move) :
    ((s.addMove n m).dev.stave n).moves = (s.dev.stave n).moves ++ [m] := by
  rw [State.addMove, stave_onStave, if_pos rfl]
  rfl

theorem selfRelease_moves (s : State) (n : BitVec 6) : (s.selfRelease.dev.stave n).moves = (s.dev.stave n).moves :=
  congrFun (congrArg (·.2.2) (selfRelease_assets s)) n

/-! ## QUAR -/

theorem quarAct_bad {w sync : W64} {s : State} (h : unitBad w = true) : quarAct w sync s = (.badArg, s) := by
  simp only [quarAct, if_pos h]

theorem requeue_units (s : State) (n : BitVec 6) (k : Nat) : SameUnits s (s.requeue n k) := by simp [State.requeue]

theorem quarChannel_units (s : State) (ch : Nat) : SameUnits s (s.quarChannel ch) := by
  simp [State.quarChannel]

theorem takeOver_quarantined (s : State) (id spare : Nat) : (s.takeOver id spare).1.dev.quarantined = s.dev.quarantined := by
  unfold State.takeOver
  simp only
  split
  · rfl
  · split
    · simp [State.swapSlice, joinCluster_quarantined, Dev.setOwn]
    · simp [State.swapSlice, joinCluster_quarantined]

theorem mark_contains (s : State) (u : BitVec 32) : (s.mark u).dev.quarantined.contains u = true := by
  unfold State.mark
  split
  · assumption
  · simp

/-- What leaves service with a unit is no more quarantined than the unit. -/
theorem quarantine_quarantined (s : State) (u : BitVec 32) : (s.quarantine u).1.dev.quarantined = (s.mark u).dev.quarantined := by
  unfold State.quarantine
  simp only
  split
  · split
    · rfl
    · rw [(requeue_units ..).2, ite_quarantined]
      exact ite_self _
  · split
    · rfl
    · exact takeOver_quarantined ..
  · split
    · rfl
    · exact takeOver_quarantined ..
  · exact (quarChannel_units ..).2
  · exact foldl_leaves (fun s => s.dev.quarantined)
      (fun (s : State) (w : Nat × BitVec 6) => { s with dev := s.dev.setOwn (.way, w.1) .scrub w.2 }) (fun _ _ => rfl) _ _
  · rfl

/-- A QUAR of a unit that there is, and for which a spare stands in where one must, quarantines it. -/
theorem quarAct_ok {w sync : W64} {s : State} (hw : unitBad w = false) (h : (quarAct w sync s).1 ≠ .noSpare) :
    ∃ t : State, quarAct w sync s = (.ok, t) ∧ t.dev.quarantined.contains (w.setWidth 32) = true := by
  have hunit : (s.quarantine (w.setWidth 32)).1.dev.quarantined.contains (w.setWidth 32) = true := by
    rw [quarantine_quarantined]
    exact mark_contains ..
  simp only [quarAct, hw, Bool.false_eq_true, if_false] at h ⊢
  split
  · next hin => exact ⟨_, rfl, by rw [(completeOp_units ..).2]; exact hin⟩
  · next hin =>
    rw [if_neg hin] at h
    split at h
    · exact absurd rfl h
    · next hspare =>
      rw [if_neg hspare]
      split
      · next t hq =>
        rw [hq] at hunit
        exact ⟨_, rfl, by rw [(completeOp_units ..).2]; exact hunit⟩
      · next t n susp hq =>
        rw [hq] at hunit
        exact ⟨_, rfl, by rw [(settleShrinks_units ..).2]; exact hunit⟩

/-! ## STVMAP -/

theorem mapAct_refused {x y : W64} {s : State} (h : (mapAct x y s).1 ≠ .ok) : (mapAct x y s).2 = s := by
  simp only [mapAct] at h ⊢
  split
  · rfl
  · next h1 =>
    rw [if_neg h1] at h
    split
    · rfl
    · next h2 =>
      rw [if_neg h2] at h
      split
      · rfl
      · next h3 =>
        rw [if_neg h3] at h
        exact absurd rfl h

/-- What STVMAP does to a stave's map: 0 is no entry. -/
def setEntry (l : Nat) (e : BitVec 16) (t : Stave) : Stave :=
  { t with map := if e = 0 then assocErase l t.map else assocSet l e t.map }

theorem entry_setEntry (t : Stave) (l m : Nat) (e : BitVec 16) : (setEntry l e t).entry m = if m = l then e else t.entry m := by
  unfold Stave.entry setEntry
  by_cases hm : m = l
  · subst hm
    by_cases he : e = 0
    · simp only [he, if_true, assocGet_assocErase_same]
    · simp only [he, if_true, if_false, assocGet_assocSet_same]
  · by_cases he : e = 0
    · simp only [if_pos he, if_neg hm, assocGet_assocErase_ne _ hm]
    · simp only [if_neg he, if_neg hm, assocGet_assocSet_ne _ _ hm]

/-- An accepted STVMAP sets its entry of the stave's map, and else changes only which numbers cores have. -/
theorem mapAct_dev {x y : W64} {s : State} (h : (mapAct x y s).1 = .ok) :
    (mapAct x y s).2.dev = (s.onStave (reqStave x) (setEntry (field x 16 13) (y.setWidth 16))).dev := by
  simp only [mapAct] at h ⊢
  split at h
  · cases h
  · next h1 =>
    split at h
    · cases h
    · next h2 =>
      split at h
      · cases h
      · next h3 =>
        rw [if_neg h1, if_neg h2, if_neg h3]
        simp only [apply_ite State.dev, onCore_dev, ite_self]
        unfold State.onStave
        split
        · simp only [onCore_dev]
          rfl
        · rfl

theorem mapAct_entry {x y : W64} {s : State} (h : (mapAct x y s).1 = .ok) (l : Nat) :
    ((mapAct x y s).2.dev.stave (reqStave x)).entry l =
      if l = field x 16 13 then y.setWidth 16 else (s.dev.stave (reqStave x)).entry l := by
  rw [mapAct_dev h, stave_onStave, if_pos rfl]
  exact entry_setEntry ..

/-! ## RHASH -/

theorem beginAct_refused {w : W64} {x : Nat} {s : State} (h : (beginAct w x s).1 ≠ .ok) : (beginAct w x s).2 = s := by
  simp only [beginAct] at h ⊢
  split
  · rfl
  · next h1 =>
    rw [if_neg h1] at h
    split
    · rfl
    · next h2 =>
      rw [if_neg h2] at h
      split
      · rfl
      · next h3 =>
        rw [if_neg h3] at h
        exact absurd rfl h

/-- An accepted RHASH.BEGIN starts a transition to the table of its block. -/
theorem beginAct_ok {w : W64} {x : Nat} {s : State} (h : (beginAct w x s).1 = .ok) :
    ∃ y, ((beginAct w x s).2.dev.stave (reqStave w)).trans = some y ∧ y.swept = false ∧ y.handed = [] ∧
      y.buckets = nextBuckets x ∧ y.masks = nextMasks x := by
  simp only [beginAct] at h ⊢
  split at h
  · cases h
  · next h1 =>
    split at h
    · cases h
    · next h2 =>
      split at h
      · cases h
      · next h3 =>
        rw [if_neg h1, if_neg h2, if_neg h3]
        refine ⟨⟨nextMasks x, nextBuckets x, nextSync x, s.issuer, [], false⟩, ?_, rfl, rfl, rfl, rfl⟩
        simp only [reqStave, stave_onStave, if_true]

end Sys2Proof.Proofs
end
section
/-! The answers of LAUNCH and of the STAVE/SHOP requests (Table 9 of 05, Table 4 of 03). -/

namespace Sys2Proof.Proofs
open Machine Claims

theorem raise_misalign (s : State) (v a : W64) : s.raise Cause.misalign.code v a = s.trapEntry 0x03 v a := by
  have h : s.isTrigger Cause.misalign.code = false := by simp [State.isTrigger, Cause.code]
  rw [State.raise, h]
  rfl

/-- A misaligned operand traps before anything has happened. -/
theorem exec_of_misalign {i : Instr} {body : State → Res} {s : State} {v : W64} (hx : exec i s = issue i body s) (h : Clear i s)
    (hb : body s = .trap .misalign v s) : exec i s = .next (s.trapEntry 0x03 v s.me.trapPc) := by
  rw [hx, issue_clear h, hb]
  exact congrArg Host.Outcome.next (raise_misalign s v s.me.trapPc)

/-! ## The shared frame of STVGROW, STVSHRINK, MIGRATE and QUAR -/

theorem shopBody_misaligned {s : State} {d b : Reg} {act : W64 → ShopAct} (h : (s.g b).toNat % 16 ≠ 0) :
    shopBody d b act s = .trap .misalign (s.g b) s := by
  simp only [shopBody, if_pos h]

theorem shopBody_aligned {s t : State} {d b : Reg} {act : W64 → ShopAct} {x : ShopStatus} (h : (s.g b).toNat % 16 = 0)
    (hact : act (s.g b) s = (x, t)) : shopBody d b act s = (t.setG d x.code).ok := by
  simp only [shopBody, h, ne_eq, not_true, if_false, hact]
  rfl

theorem stvgrow_answers {s : State} {d a b : Reg} (ha : (s.g b).toNat % 16 = 0) (h : Clear (.stvgrow d a b) s) :
    let w := s.g a
    ((reqBad w = true ∨ (s.dev.boot = .recovery ∧ reqKind w = 0)) → Gives (.stvgrow d a b) s (s.setG d 5)) ∧
    (reqBad w = false → (s.dev.boot = .recovery → reqKind w ≠ 0) → (∃ u ∈ reqUnits w, s.dev.isFree u = false) →
      Gives (.stvgrow d a b) s (s.setG d 2)) ∧
    (reqBad w = false → (s.dev.boot = .recovery → reqKind w ≠ 0) → (∀ u ∈ reqUnits w, s.dev.isFree u = true) →
      ∃ t : State, Gives (.stvgrow d a b) s (t.setG d 0) ∧
        (∀ u ∈ reqUnits w, t.dev.ownState u.1 u.2 (reqStave w) = some .owned) ∧
        (∀ k id, (k, id) ∉ reqUnits w → t.dev.own k id = s.dev.own k id)) := by
  refine ⟨fun hbad => ?_, fun hw hb hfree => ?_, fun hw hb hfree => ?_⟩
  · exact gives_of_ok rfl h (shopBody_aligned ha (growAct_bad hbad))
  · exact gives_of_ok rfl h (shopBody_aligned ha (growAct_notFree hw hb hfree))
  · obtain ⟨t, ht, hown⟩ := growAct_ok (sync := s.g b) hw hb hfree
    refine ⟨t, gives_of_ok rfl h (shopBody_aligned ha ht), fun u hu => ?_, fun k id hk => ?_⟩
    · exact ownState_of_own ((hown u.1 u.2).trans (if_pos hu))
    · exact (hown k id).trans (if_neg hk)

theorem stvshrink_answers {s : State} {d a b : Reg} (ha : (s.g b).toNat % 16 = 0) (h : Clear (.stvshrink d a b) s) :
    let w := s.g a
    let n := reqStave w
    (reqBad w = true → Gives (.stvshrink d a b) s (s.setG d 5)) ∧
    (reqBad w = false → (∃ u ∈ reqUnits w, s.dev.ownState u.1 u.2 n = some .draining) → Gives (.stvshrink d a b) s (s.setG d 1)) ∧
    (reqBad w = false → (shrinkAct w (s.g b) s).1 = .ok → ∃ t : State, Gives (.stvshrink d a b) s (t.setG d 0) ∧
      (∃ x, (t.dev.stave n).shrinks.getLast? = some x ∧ x.word = w ∧ x.sync = s.g b) ∧
      (∀ u ∈ reqUnits w, t.dev.ownState u.1 u.2 n = some (if u.1 = .cluster then .draining else .scrub))) := by
  refine ⟨fun hbad => ?_, fun hw hbusy => ?_, fun _ hok => ?_⟩
  · exact gives_of_ok rfl h (shopBody_aligned ha (shrinkAct_bad hbad))
  · exact gives_of_ok rfl h (shopBody_aligned ha (shrinkAct_busy hw hbusy))
  · obtain ⟨t, ht, hlast, hown⟩ := shrinkAct_ok hok
    refine ⟨t, gives_of_ok rfl h (shopBody_aligned ha ht), hlast, fun u hu => ?_⟩
    exact ownState_of_own ((hown u.1 u.2).trans (if_pos hu))

theorem migrate_answers {s : State} {d a b : Reg} (ha : (s.g b).toNat % 16 = 0) (h : Clear (.migrate d a b) s) :
    let w := s.g a
    let n := reqStave w
    ((migrateAct w (s.g b) s).1 ≠ .ok → Gives (.migrate d a b) s (s.setG d (migrateAct w (s.g b) s).1.code)) ∧
    (∀ j i, zeroAt w 6 10 = true → zeroAt w 29 3 = true → zeroAt w 45 19 = true → field w 35 8 < 200 →
      (s.dev.stave n).ledBy (w.extractLsb' 16 13) = some (j, i) → field w 32 13 % i.lcores.length = 0 → i.moving = false →
      (s.me.ctl.mode = .stave → n = s.me.stave) →
      (∀ k ∈ slotCores (field w 32 13) i.lcores.length, s.coreFree n [] k = true) →
      ∃ t : State, Gives (.migrate d a b) s (t.setG d 0) ∧ ∃ m, (t.dev.stave n).moves = (s.dev.stave n).moves ++ [m] ∧
        m.job = j.num ∧ m.stage = i.stage ∧ m.inst = i.num ∧ m.dest = some (field w 32 13) ∧ m.sync = s.g b) := by
  refine ⟨fun hno => ?_, fun j i h6 h29 h45 hc hled hw hmov hmine hfree => ?_⟩
  · exact gives_of_ok rfl h (shopBody_aligned ha (Prod.ext rfl (migrateAct_refused hno)))
  · have hact := migrateAct_ok (sync := s.g b) h6 h29 h45 hc hled hw hmov hmine hfree
    refine ⟨_, gives_of_ok rfl h (shopBody_aligned ha hact), ⟨j.num, i.stage, i.num, some (field (s.g a) 32 13), s.g b, s.issuer⟩, ?_,
      rfl, rfl, rfl, rfl, rfl⟩
    rw [addMove_moves, selfRelease_moves]

theorem quar_answers {s : State} {d a b : Reg} (ha : (s.g b).toNat % 16 = 0) (h : Clear (.quar d a b) s) :
    let w := s.g a
    (unitBad w = true → Gives (.quar d a b) s (s.setG d 5)) ∧
    (unitBad w = false → (quarAct w (s.g b) s).1 ≠ .noSpare → ∃ t : State, Gives (.quar d a b) s (t.setG d 0) ∧
      t.dev.quarantined.contains (w.setWidth 32) = true) := by
  refine ⟨fun hbad => ?_, fun hw hspare => ?_⟩
  · exact gives_of_ok rfl h (shopBody_aligned ha (quarAct_bad hbad))
  · obtain ⟨t, ht, hin⟩ := quarAct_ok hw hspare
    exact ⟨t, gives_of_ok rfl h (shopBody_aligned ha ht), hin⟩

/-! ## STVMAP -/

theorem stvmap_answers {s : State} {d a b : Reg} (h : Clear (.stvmap d a b) s) :
    let w := s.g a
    let n := reqStave w
    let r := mapAct w (s.g b) s
    (r.1 ≠ .ok → Gives (.stvmap d a b) s (s.setG d r.1.code)) ∧
    (r.1 = .ok → ∃ t : State, Gives (.stvmap d a b) s (t.setG d 0) ∧ (t.dev.stave n).entry (field w 16 13) = (s.g b).setWidth 16 ∧
      (∀ l, l ≠ field w 16 13 → (t.dev.stave n).entry l = (s.dev.stave n).entry l) ∧ t.dev.mem = s.dev.mem) := by
  have hgives : Gives (.stvmap d a b) s ((mapAct (s.g a) (s.g b) s).2.setG d (mapAct (s.g a) (s.g b) s).1.code) :=
    gives_of_ok (body := fun s => put d (mapAct (s.g a) (s.g b) s).1.code (mapAct (s.g a) (s.g b) s).2) rfl h rfl
  refine ⟨fun hno => ?_, fun hok => ?_⟩
  · rwa [mapAct_refused hno] at hgives
  · rw [hok] at hgives
    have hentry := mapAct_entry hok
    refine ⟨_, hgives, (hentry _).trans (if_pos rfl), fun l hl => (hentry l).trans (if_neg hl), ?_⟩
    rw [mapAct_dev hok]
    rfl

/-! ## RHASH.BEGIN and RHASH.COMMIT -/

theorem rhashBeginBody_of_read {s s1 : State} {d a b : Reg} {x : Nat} (ha : (s.g b).toNat % 128 = 0)
    (hr : s.noPol.readBytes 18 (s.g b) 2176 = .ok (x, s1)) :
    rhashBeginBody d a b s = ((beginAct (s1.g a) x s1).2.setG d (beginAct (s1.g a) x s1).1.code).ok := by
  simp only [rhashBeginBody, aligned, ha, ne_eq, not_true, if_false, hr, bind, Except.bind]
  rfl

theorem rhashBegin_answers {s s1 : State} {d a b : Reg} {x : Nat} (ha : (s.g b).toNat % 128 = 0)
    (hr : s.noPol.readBytes 18 (s.g b) 2176 = .ok (x, s1)) (h : Clear (.rhashBegin d a b) s) :
    let r := beginAct (s1.g a) x s1
    (r.1 ≠ .ok → Gives (.rhashBegin d a b) s (s1.setG d r.1.code)) ∧
    (r.1 = .ok → ∃ t : State, Gives (.rhashBegin d a b) s (t.setG d 0) ∧
      ∃ y, (t.dev.stave (reqStave (s1.g a))).trans = some y ∧ y.swept = false ∧ y.handed = [] ∧
        (∀ k (h : k < 1024), y.buckets[k].toNat = x / 2 ^ (16 * k) % 2 ^ 16) ∧
        (∀ k (h : k < 10), y.masks[k].toNat = x / 2 ^ (8 * 0x800 + 64 * k) % 2 ^ 64)) := by
  have hgives : Gives (.rhashBegin d a b) s ((beginAct (s1.g a) x s1).2.setG d (beginAct (s1.g a) x s1).1.code) :=
    gives_of_ok rfl h (rhashBeginBody_of_read ha hr)
  refine ⟨fun hno => ?_, fun hok => ?_⟩
  · rwa [beginAct_refused hno] at hgives
  · obtain ⟨y, hy, hswept, hhanded, hbuckets, hmasks⟩ := beginAct_ok hok
    rw [hok] at hgives
    refine ⟨_, hgives, y, hy, hswept, hhanded, fun k hk => ?_, fun k hk => ?_⟩
    · simp [hbuckets, nextBuckets]
    · simp [hmasks, nextMasks, w64]

/-- The reserved bits of RHASH.COMMIT's word are those above its stave. -/
theorem zeroAt_above_stave (w : W64) : zeroAt w 6 58 = decide (w.toNat < 64) := by
  have hlt := w.isLt
  rw [Bool.eq_iff_iff, zeroAt, field, BitVec.extractLsb'_toNat, Nat.shiftRight_eq_div_pow, beq_iff_eq, decide_eq_true_iff]
  omega

/-- RHASH.COMMIT of a swept transition, while no request of it is at its home. -/
theorem rhashCommitBody_swept {s : State} {d a : Reg} {y : Transition} (hy : (s.dev.stave (reqStave (s.g a))).trans = some y)
    (hw : (s.g a).toNat < 64) (hs : y.swept = true) (hwait : ∀ k ∈ s.cores, ∀ l o, (s.coreAt k).wait ≠ some (.host l o)) :
    rhashCommitBody d a s =
      put d 0 (s.onStave (reqStave (s.g a)) fun t => { t with smask := y.masks, buckets := y.buckets, trans := none }) := by
  simp only [rhashCommitBody]
  simp only [reqStave] at hy
  rw [hy]
  simp only [zeroAt_above_stave, hw, hs, decide_true, Bool.not_true, Bool.false_eq_true, if_false]
  rw [if_neg]
  · rfl
  · simp only [List.any_eq_true, Bool.and_eq_true, not_exists, not_and]
    intro k hk _
    split
    · next l o h => exact absurd h (hwait k hk l o)
    · simp

theorem rhashCommit_answers {s : State} {d a : Reg} (h : Clear (.rhashCommit d a) s) :
    let w := s.g a
    let n := reqStave w
    ((s.dev.stave n).trans = none → Gives (.rhashCommit d a) s (s.setG d 5)) ∧
    (∀ y, (s.dev.stave n).trans = some y →
      (64 ≤ w.toNat → Gives (.rhashCommit d a) s (s.setG d 5)) ∧
      (w.toNat < 64 → y.swept = false → Gives (.rhashCommit d a) s (s.setG d 6)) ∧
      (w.toNat < 64 → y.swept = true → (∀ k ∈ s.cores, ∀ l o, (s.coreAt k).wait ≠ some (.host l o)) →
        ∃ t : State, Gives (.rhashCommit d a) s (t.setG d 0) ∧ (t.dev.stave n).trans = none ∧
          (t.dev.stave n).buckets = y.buckets ∧ (t.dev.stave n).smask = y.masks ∧ t.dev.mem = s.dev.mem)) := by
  refine ⟨fun hnone => ?_, fun y hy => ⟨fun hw => ?_, fun hw hs => ?_, fun hw hs hwait => ?_⟩⟩
  · refine gives_of_ok rfl h ?_
    simp only [reqStave] at hnone
    simp only [rhashCommitBody, hnone]
    rfl
  · refine gives_of_ok rfl h ?_
    simp only [reqStave] at hy
    simp only [rhashCommitBody, hy, zeroAt_above_stave, not_lt.mpr hw, decide_false, Bool.not_false, if_true]
    rfl
  · refine gives_of_ok rfl h ?_
    simp only [reqStave] at hy
    simp only [rhashCommitBody, hy, zeroAt_above_stave, hw, hs, decide_true, Bool.not_true, Bool.not_false, Bool.false_eq_true, if_false,
      if_true]
    rfl
  · refine ⟨_, gives_of_ok rfl h (rhashCommitBody_swept hy hw hs hwait), ?_⟩
    simp only [stave_onStave, if_true, true_and]
    rfl

/-! ## LAUNCH -/

theorem launchBody_misaligned {s : State} {d a : Reg} (ha : (s.g a).toNat % 128 ≠ 0) :
    launchBody d a s = .trap .misalign (s.g a) s := by
  simp only [launchBody, aligned, if_pos ha, trapHere, bind, Except.bind]
  rfl

/-- What LAUNCH does with a record that it has read; `o` is what reading its program would give. -/
def launchOf (d : Reg) (r : BitVec 1024) (s : State) (o : Except Res (Option Loaded × State)) : Res :=
  if badRecord r then put d 2 (s.refuseLaunch r 2)
  else if s.stave.jobs.any fun j => j.jobid == r.extractLsb' 128 64 then put d 5 (s.refuseLaunch r 5)
  else if 64 ≤ s.stave.jobs.length then put d 4 (s.refuseLaunch r 4)
  else
    match o with
    | .error e => e
    | .ok (none, s) => put d 3 (s.refuseLaunch r 3)
    | .ok (some l, s) => put d 0 (s.irreversible.acceptJob r l)

theorem launchBody_of_load {s s1 : State} {d a : Reg} {x : Nat} (ha : (s.g a).toNat % 128 = 0)
    (hl : s.noPol.load (s.g a) 128 = .ok (x, s1)) :
    launchBody d a s = launchOf d (BitVec.ofNat 1024 x) s1 (s1.readObject ((BitVec.ofNat 1024 x).extractLsb' 192 64)) := by
  simp only [launchBody, aligned, ha, ne_eq, not_true, if_false, hl, bind, Except.bind, launchOf]
  split
  · rfl
  · split
    · rfl
    · split
      · rfl
      · rcases s1.readObject ((BitVec.ofNat 1024 x).extractLsb' 192 64) with e | ⟨_ | l, t⟩
        · rfl
        · rfl
        · rfl

theorem launch_answers {s s1 : State} {d a : Reg} {x : Nat} (ha : (s.g a).toNat % 128 = 0)
    (hl : s.noPol.load (s.g a) 128 = .ok (x, s1)) (h : Clear (.launch d a) s) :
    let r := BitVec.ofNat 1024 x
    let twice := s1.stave.jobs.any fun j => j.jobid == r.extractLsb' 128 64
    (badRecord r = true → Gives (.launch d a) s ((s1.refuseLaunch r 2).setG d 2)) ∧
    (badRecord r = false → twice = true → Gives (.launch d a) s ((s1.refuseLaunch r 5).setG d 5)) ∧
    (badRecord r = false → twice = false → 64 ≤ s1.stave.jobs.length → Gives (.launch d a) s ((s1.refuseLaunch r 4).setG d 4)) ∧
    (∀ o s2, badRecord r = false → twice = false → s1.stave.jobs.length < 64 →
      s1.readObject (r.extractLsb' 192 64) = .ok (o, s2) →
      (o = none → Gives (.launch d a) s ((s2.refuseLaunch r 3).setG d 3)) ∧
      (∀ l, o = some l → Gives (.launch d a) s ((s2.irreversible.acceptJob r l).setG d 0))) := by
  have hgives {t : State} (ht : launchOf d (BitVec.ofNat 1024 x) s1 (s1.readObject ((BitVec.ofNat 1024 x).extractLsb' 192 64)) = t.ok) :
      Gives (.launch d a) s t := gives_of_ok rfl h ((launchBody_of_load ha hl).trans ht)
  refine ⟨fun hbad => hgives ?_, fun hbad htwice => hgives ?_, fun hbad htwice hfull => hgives ?_, fun o s2 hbad htwice hroom ho =>
    ⟨fun hnone => hgives ?_, fun l hsome => hgives ?_⟩⟩
  · simp only [launchOf, hbad, if_true, put]
  · simp only [launchOf, hbad, htwice, Bool.false_eq_true, if_false, if_true, put]
  · simp only [launchOf, hbad, htwice, hfull, Bool.false_eq_true, if_false, if_true, put]
  · simp only [launchOf, hbad, htwice, not_le.mpr hroom, ho, hnone, Bool.false_eq_true, if_false, put]
  · simp only [launchOf, hbad, htwice, not_le.mpr hroom, ho, hsome, Bool.false_eq_true, if_false, put]

/-! ## The statement -/

/-- A misaligned sync object traps each request of the shared frame. -/
theorem shopRequests_misaligned {s : State} {d a b : Reg} {i : Instr}
    (hi : i ∈ [Instr.stvgrow d a b, .stvshrink d a b, .migrate d a b, .quar d a b]) (h : Clear i s) (hb : (s.g b).toNat % 16 ≠ 0) :
    exec i s = .next (s.trapEntry 0x03 (s.g b) s.me.trapPc) := by
  simp only [List.mem_cons, List.not_mem_nil, or_false] at hi
  obtain rfl | rfl | rfl | rfl := hi
  · exact exec_of_misalign rfl h (shopBody_misaligned hb)
  · exact exec_of_misalign rfl h (shopBody_misaligned hb)
  · exact exec_of_misalign rfl h (shopBody_misaligned hb)
  · exact exec_of_misalign rfl h (shopBody_misaligned hb)

/-- Settles O56, request by request: what each answers, and what has happened with 0. -/
theorem staveRequestsAreAnswered : Obligations.StaveRequestsAreAnswered := by
  unfold Obligations.StaveRequestsAreAnswered
  intro s d a b
  refine ⟨fun i hi h hb => shopRequests_misaligned hi h hb, fun hb => ⟨?_, ?_, ?_, ?_⟩, ?_, fun x s1 hb hr h => ?_, ?_, fun h =>
    ⟨fun ha => ?_, fun x s1 ha hl => launch_answers ha hl h⟩⟩
  · exact fun h => stvgrow_answers hb h
  · exact fun h => stvshrink_answers hb h
  · exact fun h => migrate_answers hb h
  · exact fun h => quar_answers hb h
  · exact fun h => stvmap_answers h
  · exact rhashBegin_answers hb hr h
  · exact fun h => rhashCommit_answers h
  · exact exec_of_misalign rfl h (launchBody_misaligned ha)

end Sys2Proof.Proofs
end
section
/-! Taking an exception: TSTAT's fields, what trap entry leaves, and the traps that come after retirement (R158, R389, R390, R408). -/

namespace Sys2Proof.Proofs
open Machine

/-- A field of a number below 2^64. -/
theorem field_w64 {n : Nat} (lo k : Nat) (h : n < 2 ^ 64) : field (w64 n) lo k = n / 2 ^ lo % 2 ^ k := by
  rw [field, BitVec.extractLsb'_toNat, w64, BitVec.toNat_ofNat, Nat.mod_eq_of_lt h, Nat.shiftRight_eq_div_pow]

/-- The code of a bond in TSTAT (Table 1 of 19). -/
def bondCode : Bond → Nat
  | .none => 0 | .follow => 1 | .gang => 2

/-- The number of TSTAT's word, its parts from the lowest up. -/
theorem tstatWord_eq (c : Core) : c.tstatWord = w64 ((Mode.code c.ctl.mode).toNat + 4 * bit c.ctl.ie + 8 * bondCode c.bond +
    32 * bit c.pair.isSome + 64 * ((c.member.map (·.member)).getD 0 % 8)) := by
  unfold Core.tstatWord
  cases c.bond <;> rfl

theorem modeCode_lt (m : Mode) : (Mode.code m).toNat < 3 := by cases m <;> decide

theorem bondCode_lt (b : Bond) : bondCode b < 3 := by cases b <;> decide

theorem bit_lt (b : Bool) : bit b < 2 := by cases b <;> decide

/-- TSTAT's fields: mode, ie, bond, pair and member (Table 1 of 19); the bits above them are 0. -/
theorem tstatWord_fields (c : Core) :
    field c.tstatWord 0 2 = (Mode.code c.ctl.mode).toNat ∧ field c.tstatWord 2 1 = bit c.ctl.ie ∧ field c.tstatWord 3 2 = bondCode c.bond ∧
      field c.tstatWord 5 1 = bit c.pair.isSome ∧ field c.tstatWord 6 3 = (c.member.map (·.member)).getD 0 % 8 ∧
      field c.tstatWord 9 55 = 0 := by
  have hm := modeCode_lt c.ctl.mode
  have hi := bit_lt c.ctl.ie
  have hb := bondCode_lt c.bond
  have hp := bit_lt c.pair.isSome
  have hk : (c.member.map (·.member)).getD 0 % 8 < 8 := Nat.mod_lt _ (by decide)
  rw [tstatWord_eq]
  generalize (Mode.code c.ctl.mode).toNat = m, bit c.ctl.ie = i, bondCode c.bond = b, bit c.pair.isSome = p,
    (c.member.map (·.member)).getD 0 % 8 = k at *
  have hn : m + 4 * i + 8 * b + 32 * p + 64 * k < 2 ^ 64 := by omega
  simp only [field_w64 _ _ hn]
  refine ⟨?_, ?_, ?_, ?_, ?_, ?_⟩ <;> omega

theorem getLsbD_of_field {n : Nat} {x : BitVec n} {k : Nat} {b : Bool} (h : field x k 1 = bit b) : x.getLsbD k = b := by
  have hx : (x.extractLsb' k 1).getLsbD 0 = b := by
    rw [BitVec.getLsbD, show (x.extractLsb' k 1).toNat = bit b from h]
    cases b <;> rfl
  simpa using hx

/-- Settles O17: trap entry writes the trap registers and leaves the rest; TSTAT's parts are read back from its word. -/
theorem trapEntrySavesAndVectors : Obligations.TrapEntrySavesAndVectors := by
  unfold Obligations.TrapEntrySavesAndVectors
  intro s c v a
  obtain ⟨hmode, hie, hbond, hpair, hmember, hzero⟩ := tstatWord_fields s.me
  simp only [trapEntry_me, trapEntry_dev]
  refine ⟨rfl, BitVec.eq_of_toNat_eq hmode, getLsbD_of_field hie, ?_, getLsbD_of_field hpair, ?_, hzero, trivial, ?_, trivial, trivial,
    ?_, ?_, trivial⟩
  · rw [hbond]; cases s.me.bond <;> rfl
  · rw [hmember]; cases s.me.member <;> rfl
  · split
    · assumption
    · rfl
  · split <;> rfl
  · split <;> rfl

/-- BRK and TRAP are no triggers: both are taken after retirement, whose address they resume at. -/
theorem settle_trapAfter (s : State) (c : BitVec 8) (v : W64) :
    (Res.done s (.trapAfter c v)).settle = (s.retire .seq).trapEntry c v (s.retire .seq).me.pc := rfl

/-- Settles O18: both complete with the trap that comes after their retirement. -/
theorem trapAndBrkTrapAfterRetiring : Obligations.TrapAndBrkTrapAfterRetiring := by
  unfold Obligations.TrapAndBrkTrapAfterRetiring
  exact fun s => ⟨fun a h => (issue_done h rfl).trans (congrArg _ (settle_trapAfter s _ _)),
    fun code h => (issue_done h rfl).trans (congrArg _ (settle_trapAfter s _ _))⟩

end Sys2Proof.Proofs
end
section
/-! What the ALU and the predicate reads give, and what register instructions leave alone (R139, R165, R166, R230). -/

namespace Sys2Proof.Proofs
open Machine Claims

theorem w64_toNat (a : W64) : w64 a.toNat = a := by rw [w64, BitVec.ofNat_toNat, BitVec.setWidth_eq]

theorem w64_add (a b : W64) : a + b = w64 (a.toNat + b.toNat) := by
  rw [w64, BitVec.ofNat_add, BitVec.ofNat_toNat, BitVec.ofNat_toNat, BitVec.setWidth_eq, BitVec.setWidth_eq]

theorem w64_mul (a b : W64) : a * b = w64 (a.toNat * b.toNat) := by
  rw [w64, BitVec.ofNat_mul, BitVec.ofNat_toNat, BitVec.ofNat_toNat, BitVec.setWidth_eq, BitVec.setWidth_eq]

/-- The shift amount is the operand modulo 64 (R165). -/
theorem shAmt_eq (b : W64) : shAmt b = b.toNat % 64 := by
  rw [shAmt, field, BitVec.extractLsb'_toNat]; rfl

/-- The high half of a product of two numbers of 64 bits, read from their extensions to 128. -/
theorem highHalf_eq {x y : BitVec 128} {m n : Int} (hx : BitVec.ofInt 128 m = x) (hy : BitVec.ofInt 128 n = y) :
    highHalf x y = BitVec.ofInt 64 (m * n / 2 ^ 64) := by
  rw [highHalf, ← hx, ← hy, ← BitVec.ofInt_mul]
  refine BitVec.eq_of_toNat_eq ?_
  rw [BitVec.extractLsb'_toNat, BitVec.toNat_ofInt, BitVec.toNat_ofInt, Nat.shiftRight_eq_div_pow]
  omega

/-- The effect that a rule of register results describes: it writes what the rule gives. -/
def ruled (rule : State → Instr → Option (Reg × W64)) (i : Instr) (s : State) : Res :=
  match rule s i with
  | some (d, x) => put d x s
  | none => s.ok

theorem ruled_some {rule : State → Instr → Option (Reg × W64)} {i : Instr} {s : State} {d : Reg} {x : W64} (h : rule s i = some (d, x)) :
    ruled rule i s = put d x s := by
  rw [ruled, h]

/-- The quotient's corners (R166). -/
theorem divS_eq (a b : W64) : divS a b =
    if b = 0 then w64 (2 ^ 64 - 1) else if a.toInt = -2 ^ 63 ∧ b.toInt = -1 then a else BitVec.ofInt 64 (a.toInt.tdiv b.toInt) := by
  have ha : a.toInt = -2 ^ 63 ↔ a = 0x8000000000000000 := BitVec.toInt_inj (y := 0x8000000000000000#64)
  have hb : b.toInt = -1 ↔ b = -1 := BitVec.toInt_inj (y := -1#64)
  simp only [divS, ha, hb]
  split
  · rfl
  · split
    · next h => exact h.1.symm
    · rfl

/-- The remainder's corners, and that it is what the quotient leaves (R166). -/
theorem remS_eq (a b : W64) : remS a b =
    if b = 0 then a else if a.toInt = -2 ^ 63 ∧ b.toInt = -1 then 0
    else BitVec.ofInt 64 (a.toInt - a.toInt.tdiv b.toInt * b.toInt) := by
  have ha : a.toInt = -2 ^ 63 ↔ a = 0x8000000000000000 := BitVec.toInt_inj (y := 0x8000000000000000#64)
  have hb : b.toInt = -1 ↔ b = -1 := BitVec.toInt_inj (y := -1#64)
  simp only [remS, ha, hb, Int.tmod_def, mul_comm]

theorem remU_eq (a b : W64) : remU a b = if b = 0 then a else w64 (a.toNat - a.toNat / b.toNat * b.toNat) := by
  rw [remU, Nat.mod_def, mul_comm]

/-- The greater of two words, whichever is named where they are equal. -/
theorem max_of_lt {β : Type} [LinearOrder β] {f : W64 → β} (hf : ∀ {a b : W64}, f a = f b → a = b) (a b : W64) :
    (if f a < f b then b else a) = if f a ≤ f b then b else a := by
  rcases lt_trichotomy (f a) (f b) with h | h | h
  · rw [if_pos h, if_pos h.le]
  · rw [if_neg h.not_lt, if_pos h.le, hf h]
  · rw [if_neg h.not_gt, if_neg h.not_ge]

/-- A word's zero extension, from its number. -/
theorem ofInt_toNat (a : W64) : BitVec.ofInt 128 (a.toNat : Int) = a.setWidth 128 := by
  rw [BitVec.ofInt_natCast, BitVec.ofNat_toNat]

/-- What an instruction of the ALU issues is what Table 1 of 07 and R166 give (R165). -/
theorem exec_alu {i : Instr} {s0 : State} {p : Reg × W64} (h : aluRule s0 i = some p) (s : State) :
    exec i s = issue i (ruled aluRule i) s := by
  unfold aluRule at h
  split at h
  case h_25 => cases h
  all_goals
    refine congrArg (issue _ · s) (funext fun t => congrArg (put _ · t) ?_)
  · exact w64_add _ _
  · exact BitVec.eq_of_toInt_eq (by rw [BitVec.toInt_sub, BitVec.toInt_ofInt])
  · rfl
  · rfl
  · rfl
  · rfl
  · rw [w64_shiftLeft, shAmt_eq]
  · rw [w64_shiftRight, shAmt_eq]
  · rw [sshiftRight_eq_div, shAmt_eq]
  · rw [shAmt_eq]; exact ror64_eq _ (Nat.mod_lt _ (by decide))
  · rw [BitVec.slt_eq_decide, w1_decide]
  · rw [BitVec.ult_eq_decide, w1_decide]
  · simp only [BitVec.slt_eq_decide, decide_eq_true_eq, ← not_le, ite_not]
  · simp only [BitVec.slt_eq_decide, decide_eq_true_eq]
    exact max_of_lt BitVec.eq_of_toInt_eq _ _
  · simp only [BitVec.ult_eq_decide, decide_eq_true_eq, ← not_le, ite_not]
  · simp only [BitVec.ult_eq_decide, decide_eq_true_eq]
    exact max_of_lt BitVec.eq_of_toNat_eq _ _
  · exact w64_mul _ _
  · exact highHalf_eq rfl rfl
  · rw [highHalf_eq (ofInt_toNat _) (ofInt_toNat _), w64, ← BitVec.ofInt_natCast]
    norm_cast
  · exact highHalf_eq rfl (ofInt_toNat _)
  · exact divS_eq _ _
  · rfl
  · exact remS_eq _ _
  · exact remU_eq _ _

/-- An instruction of the ALU writes its result and goes on. -/
theorem alu_gives {i : Instr} {s : State} {d : Reg} {x : W64} (hrule : aluRule s i = some (d, x)) (h : Clear i s) :
    Gives i s (s.setG d x) :=
  (exec_alu hrule s).trans (issue_put h (ruled_some hrule))

/-- Of the control registers, retirement writes RETIRED and LLEN. -/
theorem retire_ctl (s : State) (n : Next) : (s.retire n).me.ctl =
    { s.me.ctl with retired := (s.retire n).me.ctl.retired, llen := (s.retire n).me.ctl.llen } := by
  simp only [State.retire, State.retireTo]
  rw [goOn_frame]

/-- Settles O15: each of these instructions writes one general register and retires. -/
theorem registerInstructionsLeaveTheRest : Obligations.RegisterInstructionsLeaveTheRest := by
  unfold Obligations.RegisterInstructionsLeaveTheRest
  intro i s t d x hi h ht
  obtain ⟨y, hy⟩ : ∃ y, exec i s = .next ((s.setG d y).retire .seq) := by
    rcases hi with hr | hr | hr | ⟨a, rfl | rfl⟩
    · exact ⟨x, alu_gives hr h⟩
    · exact ⟨x, immediate_gives hr h⟩
    · exact ⟨x, unary_gives hr h⟩
    · exact ⟨_, issue_put h rfl⟩
    · exact ⟨_, issue_put h rfl⟩
  obtain rfl : (s.setG d y).retire .seq = t := Host.Outcome.next.inj (hy.symm.trans ht)
  refine ⟨fun r hr => ?_, fun r => ?_, fun n => ?_, fun z => ⟨?_, ?_⟩, ?_, ?_, fun a => ?_, ?_, ?_⟩
  · rw [g_retire, g_setG_ne hr]
  · rw [p_retire, p_setG]
  · rw [v_retire, v_setG]
  · rw [z_retire, z_setG]
  · rw [zver_retire, zver_setG]
  · rw [retire_ctl, setG_me_ctl]
  · rw [retire_me_loc, setG_me_loc]
  · rw [retire_dev, setG_dev]
  · rw [retire_dev, setG_dev]
  · rw [retire_others, setG_others]

end Sys2Proof.Proofs
end
section
/-! Fields of a word after one of them has been replaced. -/

namespace Sys2Proof.Proofs
open Machine

/-- A bit of a word whose field has been replaced: the new field's inside, the old word's outside. -/
theorem getLsbD_withField {w : Nat} (x : BitVec w) (lo n y i : Nat) (hi : i < w) : (withField x lo n y).getLsbD i =
    if lo ≤ i ∧ i < lo + n then y.testBit (i - lo) else x.getLsbD i := by
  simp only [withField, BitVec.getLsbD_or, BitVec.getLsbD_and, BitVec.getLsbD_not, BitVec.getLsbD_ofNat, Nat.testBit_mul_two_pow,
    Nat.testBit_two_pow_sub_one, Nat.testBit_mod_two_pow, hi, decide_true, Bool.true_and]
  by_cases h1 : lo ≤ i
  · by_cases h2 : i < lo + n
    · simp [h1, h2, show i - lo < n by omega]
    · simp [h1, h2, show ¬ i - lo < n by omega]
  · simp [h1]

/-- The bits outside a field stay. -/
theorem getLsbD_withField_out {w : Nat} (x : BitVec w) {lo n i : Nat} (y : Nat) (h : i < lo ∨ lo + n ≤ i) :
    (withField x lo n y).getLsbD i = x.getLsbD i := by
  by_cases hi : i < w
  · rw [getLsbD_withField x lo n y i hi, if_neg (by omega)]
  · rw [BitVec.getLsbD_of_ge _ _ (by omega), BitVec.getLsbD_of_ge _ _ (by omega)]

/-- A field apart from the one replaced stays. -/
theorem field_withField_out {w : Nat} (x : BitVec w) {lo n lo' n' : Nat} (y : Nat) (h : lo' + n' ≤ lo ∨ lo + n ≤ lo') :
    field (withField x lo n y) lo' n' = field x lo' n' := by
  refine congrArg BitVec.toNat (BitVec.eq_of_getLsbD_eq fun i hi => ?_)
  rw [BitVec.getLsbD_extractLsb', BitVec.getLsbD_extractLsb', getLsbD_withField_out x y (by omega)]

/-- The field that has been replaced. -/
theorem field_withField_same {w : Nat} (x : BitVec w) {lo n y : Nat} (hw : lo + n ≤ w) (hy : y < 2 ^ n) :
    field (withField x lo n y) lo n = y := by
  have h : (withField x lo n y).extractLsb' lo n = BitVec.ofNat n y := by
    refine BitVec.eq_of_getLsbD_eq fun i hi => ?_
    rw [BitVec.getLsbD_extractLsb', getLsbD_withField x lo n y _ (by omega), if_pos (by omega), BitVec.getLsbD_ofNat, Nat.add_sub_cancel_left]
  rw [field, h, BitVec.toNat_ofNat, Nat.mod_eq_of_lt hy]

end Sys2Proof.Proofs
end

section
/-! The loops of a core: what writing a counter and ending a loop leave, and the order in which loops end at a word (R139). -/

namespace Sys2Proof.Proofs
open Machine

/-! ## A loop's counter -/

@[simp] theorem setLc_pc (c : Core) (n : Nat) (x : W64) : (c.setLc n x).pc = c.pc := by rw [setLc_frame]

@[simp] theorem setLc_ctl (c : Core) (n : Nat) (x : W64) : (c.setLc n x).ctl = c.ctl := by rw [setLc_frame]

@[simp] theorem loopAct_setLc (c : Core) (n k : Nat) (x : W64) : (c.setLc n x).loopAct k = c.loopAct k := by
  simp only [Core.loopAct, setLc_ctl]

@[simp] theorem loopLen_setLc (c : Core) (n k : Nat) (x : W64) : (c.setLc n x).loopLen k = c.loopLen k := by
  simp only [Core.loopLen, setLc_ctl]

@[simp] theorem loopStart_setLc (c : Core) (n k : Nat) (x : W64) : (c.setLc n x).loopStart k = c.loopStart k := by
  simp only [Core.loopStart, setLc_ctl]

theorem lc_setLc_same (c : Core) {n : Nat} (hn : n < 3) (x : W64) : (c.setLc n x).lc n = x := by
  simp [Core.lc, Core.setLc, hn]

theorem lc_setLc_ne (c : Core) {n k : Nat} (h : k ≠ n) (x : W64) : (c.setLc n x).lc k = c.lc k := by
  unfold Core.lc Core.setLc
  by_cases hn : n < 3
  · by_cases hk : k < 3
    · simp [hn, hk, Vector.getElem_set_ne, h.symm]
    · simp [hk]
  · simp [hn]

/-! ## The end of a loop -/

@[simp] theorem lc_loopOff (c : Core) (n k : Nat) : (c.loopOff n).lc k = c.lc k := rfl

@[simp] theorem loopStart_loopOff (c : Core) (n k : Nat) : (c.loopOff n).loopStart k = c.loopStart k := rfl

@[simp] theorem loopLen_loopOff (c : Core) (n k : Nat) : (c.loopOff n).loopLen k = c.loopLen k :=
  field_withField_out _ _ (by omega)

@[simp] theorem loopEnd_loopOff (c : Core) (n k : Nat) : (c.loopOff n).loopEnd k = c.loopEnd k := by
  simp only [Core.loopEnd, loopStart_loopOff, loopLen_loopOff]

theorem loopAct_loopOff_same (c : Core) {n : Nat} (hn : n < 3) : (c.loopOff n).loopAct n = false := by
  rw [Core.loopAct, Core.loopOff, getLsbD_withField _ _ _ _ _ (by omega), if_pos (by omega), Nat.zero_testBit]

theorem loopAct_loopOff_ne (c : Core) {n k : Nat} (h : k ≠ n) : (c.loopOff n).loopAct k = c.loopAct k :=
  getLsbD_withField_out _ _ (by omega)

/-! ## Loops in the order in which they end -/

/-- Of two loops the one whose body starts later ends first. -/
def Inner (c : Core) (n k : Nat) : Prop := (c.loopStart k).toNat ≤ (c.loopStart n).toNat

theorem insertLoop_perm (c : Core) (n : Nat) : ∀ l : List Nat, (c.insertLoop n l).Perm (n :: l)
  | [] => .refl _
  | k :: t => by
    unfold Core.insertLoop
    split
    · exact .refl _
    · exact ((insertLoop_perm c n t).cons k).trans (.swap n k t)

theorem insertLoop_sorted (c : Core) (n : Nat) : ∀ {l : List Nat}, l.Pairwise (Inner c) → (c.insertLoop n l).Pairwise (Inner c)
  | [], _ => List.pairwise_singleton _ _
  | k :: t, h => by
    obtain ⟨hk, ht⟩ := List.pairwise_cons.mp h
    unfold Core.insertLoop
    split
    · next hle => exact .cons (fun j hj => by
        rcases List.mem_cons.mp hj with rfl | hj
        · exact hle
        · exact (hk j hj).trans hle) h
    · next hle => exact .cons (fun j hj => by
        rcases List.mem_cons.mp ((insertLoop_perm c n t).subset hj) with rfl | hj
        · exact (not_le.mp hle).le
        · exact hk j hj) (insertLoop_sorted c n ht)

/-- Loops sorted, the innermost first. -/
def sortLoops (c : Core) (l : List Nat) : List Nat := l.foldr c.insertLoop []

theorem sortLoops_perm (c : Core) : ∀ l : List Nat, (sortLoops c l).Perm l
  | [] => .refl _
  | n :: t => (insertLoop_perm c n _).trans ((sortLoops_perm c t).cons n)

theorem sortLoops_sorted (c : Core) : ∀ l : List Nat, (sortLoops c l).Pairwise (Inner c)
  | [] => .nil
  | n :: t => insertLoop_sorted c n (sortLoops_sorted c t)

theorem insertLoop_front (c : Core) (n : Nat) : ∀ {l : List Nat}, (∀ j ∈ l, Inner c n j) → c.insertLoop n l = n :: l
  | [], _ => rfl
  | k :: _, h => by
    unfold Core.insertLoop
    exact if_pos (h k (by simp))

/-- Loops that are left out are left out before the sorting or after it. -/
theorem filter_insertLoop (c : Core) (p : Nat → Bool) (n : Nat) : ∀ {l : List Nat}, l.Pairwise (Inner c) →
    (c.insertLoop n l).filter p = if p n then c.insertLoop n (l.filter p) else l.filter p
  | [], _ => by cases h : p n <;> simp [Core.insertLoop, h]
  | k :: t, hs => by
    obtain ⟨hk, ht⟩ := List.pairwise_cons.mp hs
    have ih := filter_insertLoop c p n ht
    by_cases hle : (c.loopStart k).toNat ≤ (c.loopStart n).toNat
    · have hfront : ∀ j ∈ k :: t, Inner c n j := fun j hj => by
        rcases List.mem_cons.mp hj with rfl | hj
        · exact hle
        · exact (hk j hj).trans hle
      rw [insertLoop_front c n hfront, insertLoop_front c n fun j hj => hfront j (List.mem_filter.mp hj).1, List.filter_cons]
    · have hlater : ∀ l, c.insertLoop n (k :: l) = k :: c.insertLoop n l := fun l => by
        rw [Core.insertLoop, if_neg hle]
      rw [hlater, List.filter_cons, List.filter_cons, ih]
      cases hpk : p k
      · simp
      · simp only [if_true, hlater]
        split <;> rfl

theorem sortLoops_filter (c : Core) (p : Nat → Bool) : ∀ l : List Nat, sortLoops c (l.filter p) = (sortLoops c l).filter p
  | [] => rfl
  | n :: t => by
    have ih := sortLoops_filter c p t
    have hins : (sortLoops c (n :: t)).filter p = if p n then c.insertLoop n (sortLoops c (t.filter p)) else sortLoops c (t.filter p) := by
      rw [ih]; exact filter_insertLoop c p n (sortLoops_sorted c t)
    rw [hins, List.filter_cons]
    cases p n <;> rfl

/-- The order depends on where the bodies start. -/
theorem sortLoops_congr {c e : Core} (h : ∀ k, e.loopStart k = c.loopStart k) (l : List Nat) : sortLoops e l = sortLoops c l := by
  have hins : ∀ n l, e.insertLoop n l = c.insertLoop n l := fun n l => by
    induction l with
    | nil => rfl
    | cons k t ih => rw [Core.insertLoop, Core.insertLoop, h, h, ih]
  induction l with
  | nil => rfl
  | cons n t ih =>
    rw [sortLoops, List.foldr_cons, hins]
    exact congrArg _ ih

/-! ## The loops that end at a word (R139) -/

theorem loopsEnding_eq (c : Core) (a : W64) :
    c.loopsEnding a = sortLoops c ([0, 1, 2].filter fun n => c.loopAct n && c.loopEnd n == a) := rfl

theorem mem_loopsEnding {c : Core} {a : W64} {n : Nat} : n ∈ c.loopsEnding a ↔ n < 3 ∧ c.loopAct n = true ∧ c.loopEnd n = a := by
  have hthree : n ∈ [0, 1, 2] ↔ n < 3 := by simp; omega
  rw [loopsEnding_eq, (sortLoops_perm c _).mem_iff, List.mem_filter, hthree, Bool.and_eq_true, beq_iff_eq]

theorem loopsEnding_nodup (c : Core) (a : W64) : (c.loopsEnding a).Nodup :=
  (sortLoops_perm c _).nodup_iff.mpr (List.Nodup.filter _ (by decide))

theorem loopsEnding_sorted (c : Core) (a : W64) : (c.loopsEnding a).Pairwise (Inner c) := sortLoops_sorted c _

/-- Two cores have the same loops: LBODY and LLEN agree. -/
def SameLoops (c e : Core) : Prop := e.ctl.lbody = c.ctl.lbody ∧ e.ctl.llen = c.ctl.llen

theorem sameLoops_of_ctl {c e : Core} (h : e.ctl = c.ctl) : SameLoops c e := by
  rw [SameLoops, h]
  exact ⟨rfl, rfl⟩

theorem SameLoops.start {c e : Core} (h : SameLoops c e) (k : Nat) : e.loopStart k = c.loopStart k := by
  simp only [Core.loopStart, h.1]

theorem loopsEnding_congr {c e : Core} (h : SameLoops c e) (a : W64) : e.loopsEnding a = c.loopsEnding a := by
  simp only [loopsEnding_eq, sortLoops_congr h.start, Core.loopAct, Core.loopEnd, Core.loopLen, h.start, h.2]

/-- A loop that has ended is left out; the others keep their order. -/
theorem loopsEnding_loopOff (c : Core) {n : Nat} (hn : n < 3) (a : W64) :
    (c.loopOff n).loopsEnding a = (c.loopsEnding a).filter fun k => k != n := by
  rw [loopsEnding_eq, loopsEnding_eq, ← sortLoops_filter, sortLoops_congr fun k => loopStart_loopOff c n k, List.filter_filter]
  refine congrArg (sortLoops c) (List.filter_congr fun k _ => ?_)
  rw [loopEnd_loopOff]
  by_cases hk : k = n
  · subst hk; simp [loopAct_loopOff_same c hn]
  · simp [loopAct_loopOff_ne c hk, hk]

/-! ## Going on (R138, R139) -/

theorem goOn_seq (c : Core) : c.goOn .seq =
    { (c.endSteps (c.pc + 4) (c.loopsEnding c.pc)).1 with pc := (c.endSteps (c.pc + 4) (c.loopsEnding c.pc)).2 } := rfl

/-- No end step reads the pc. -/
theorem endSteps_pc (a next : W64) : ∀ (l : List Nat) (c : Core), ({ c with pc := a } : Core).endSteps next l =
    ({ (c.endSteps next l).1 with pc := a }, (c.endSteps next l).2)
  | [], _ => rfl
  | n :: t, c => by
    have hlc : ({ c with pc := a } : Core).setLc n (c.lc n - 1) = { c.setLc n (c.lc n - 1) with pc := a } := by
      unfold Core.setLc; split <;> rfl
    have hrest := endSteps_pc a next t ((c.setLc n (c.lc n - 1)).loopOff n)
    unfold Core.endSteps
    simp only [show ({ c with pc := a } : Core).lc n = c.lc n from rfl, hlc]
    split
    · rfl
    · exact hrest

/-- The core after a word at an address has gone on, wherever the pc stands. -/
def goOnFrom (c : Core) (last : W64) : Core :=
  { (c.endSteps (last + 4) (c.loopsEnding last)).1 with pc := (c.endSteps (last + 4) (c.loopsEnding last)).2 }

theorem goOnFrom_pc (c : Core) (a last : W64) : goOnFrom { c with pc := a } last = goOnFrom c last := by
  rw [goOnFrom, loopsEnding_congr (c := c) (e := { c with pc := a }) ⟨rfl, rfl⟩, endSteps_pc]
  rfl

/-- A skipped body's last word counts as the one that has retired (R138). -/
theorem goOn_skip (c : Core) (k : Nat) : c.goOn (.skip k) = ({ c with pc := c.pc + w64 (4 * k) } : Core).goOn .seq :=
  (goOnFrom_pc c (c.pc + w64 (4 * k)) (c.pc + w64 (4 * k))).symm

/-- The innermost loop that ends here starts its body again while its count is not used up. -/
theorem goOn_seq_repeats {c : Core} {n : Nat} {rest : List Nat} (h : c.loopsEnding c.pc = n :: rest) (hlc : c.lc n ≠ 1) :
    c.goOn .seq = { c.setLc n (c.lc n - 1) with pc := c.loopStart n } := by
  have hne : c.lc n - 1 ≠ 0 := fun e => hlc (sub_eq_zero.mp e)
  rw [goOn_seq, h]
  simp only [Core.endSteps, if_pos hne, loopStart_setLc]

/-- Otherwise it ends, and the others that end here go on alike. -/
theorem goOn_seq_ends {c : Core} {n : Nat} {rest : List Nat} (h : c.loopsEnding c.pc = n :: rest) (hlc : c.lc n = 1) :
    let e := (c.setLc n 0).loopOff n
    e.lc n = 0 ∧ e.loopAct n = false ∧ e.loopsEnding e.pc = rest ∧ c.goOn .seq = e.goOn .seq := by
  obtain ⟨hn, -, -⟩ := mem_loopsEnding.mp (h ▸ List.mem_cons_self : n ∈ c.loopsEnding c.pc)
  have hnodup := List.nodup_cons.mp (h ▸ loopsEnding_nodup c c.pc)
  have hpc : ((c.setLc n 0).loopOff n).pc = c.pc := setLc_pc c n 0
  have hrest : ((c.setLc n 0).loopOff n).loopsEnding c.pc = rest := by
    rw [loopsEnding_loopOff _ hn, loopsEnding_congr (sameLoops_of_ctl (setLc_ctl c n 0)), h, List.filter_cons, if_neg (by simp)]
    exact List.filter_eq_self.mpr fun k hk => bne_iff_ne.mpr fun e => hnodup.1 (by rwa [e] at hk)
  refine ⟨lc_setLc_same c hn 0, loopAct_loopOff_same _ hn, by rw [hpc, hrest], ?_⟩
  rw [goOn_seq, goOn_seq, hpc, hrest, h]
  simp only [Core.endSteps, hlc, sub_self, ne_eq, not_true_eq_false, if_false]

/-- Settles O20. -/
theorem loopBodiesRepeat : Obligations.LoopBodiesRepeat := by
  unfold Obligations.LoopBodiesRepeat
  refine ⟨fun c => ⟨fun a => ⟨fun n => mem_loopsEnding, loopsEnding_nodup c a, loopsEnding_sorted c a⟩, fun n => rfl, fun h => ?_,
    fun n rest => goOn_seq_repeats, fun n rest => goOn_seq_ends, goOn_skip c⟩, fun s x => ⟨rfl, rfl, ?_, rfl⟩⟩
  · rw [goOn_seq, h]; rfl
  · rfl

end Sys2Proof.Proofs
end
section
/-! LOOP activates its loop, skips its body, or traps (R138). -/

namespace Sys2Proof.Proofs
open Machine Claims

/-- An effect that raises ILLEGAL with its word is taken as a trap. -/
theorem issueG_illegal {i : Instr} {body : Body} {s : State} {v : W64} (h : Clear i s) (hb : body ⟨[s.me], 0⟩ s = .trap .illegal v s) :
    issueG i body s = .next (s.trapEntry 0x01 v s.me.trapPc) :=
  (issueG_trap h hb).trans (congrArg _ (raise_illegal s v s.me.trapPc))

/-- The body would cross the end of an active loop that holds the LOOP (R138). -/
def crossesHolder (c : Core) (len : Nat) : Bool :=
  [0, 1, 2].any fun k => c.loopAct k && c.inLoop k c.pc && decide ((c.loopEnd k).toNat < (c.pc + w64 (4 * len)).toNat)

/-- The core on which LOOP has activated its loop with a count. -/
def activated (c : Core) (n : Nat) (h : n < 3) (count : W64) (len : Nat) : Core :=
  let e := c.setLc n count
  { e with
    ctl.lbody := e.ctl.lbody.set n (c.pc + 4) h
    ctl.llen := withField (withField e.ctl.llen (10 * n) 9 len) (10 * n + 9) 1 1
    loopBuf := e.loopWords }

section
variable (c : Core) {n k : Nat} (h : n < 3) (count : W64) (len : Nat)

theorem activated_llen : (activated c n h count len).ctl.llen = withField (withField c.ctl.llen (10 * n) 9 len) (10 * n + 9) 1 1 := by
  simp only [activated, setLc_ctl]

theorem activated_lc_same : (activated c n h count len).lc n = count := lc_setLc_same c h count

theorem activated_lc_ne (hk : k ≠ n) : (activated c n h count len).lc k = c.lc k := lc_setLc_ne c hk count

theorem activated_loopStart_same : (activated c n h count len).loopStart n = c.pc + 4 := by
  simp [Core.loopStart, activated, h]

theorem activated_loopStart_ne (hk : k ≠ n) : (activated c n h count len).loopStart k = c.loopStart k := by
  unfold Core.loopStart
  split
  · simp [activated, Vector.getElem_set_ne, hk.symm]
  · rfl

theorem activated_loopLen_same (hlen : len < 2 ^ 9) : (activated c n h count len).loopLen n = len := by
  rw [Core.loopLen, activated_llen, field_withField_out _ _ (by omega), field_withField_same _ (by omega) hlen]

theorem activated_loopLen_ne (hk : k ≠ n) : (activated c n h count len).loopLen k = c.loopLen k := by
  rw [Core.loopLen, activated_llen, field_withField_out _ _ (by omega), field_withField_out _ _ (by omega)]
  rfl

theorem activated_loopAct_same : (activated c n h count len).loopAct n = true := by
  rw [Core.loopAct, activated_llen, getLsbD_withField _ _ _ _ _ (by omega), if_pos (by omega), Nat.sub_self]
  rfl

theorem activated_loopAct_ne (hk : k ≠ n) : (activated c n h count len).loopAct k = c.loopAct k := by
  rw [Core.loopAct, activated_llen, getLsbD_withField_out _ _ (by omega), getLsbD_withField_out _ _ (by omega)]
  rfl

/-- Activation writes the counter, LBODY, LLEN and the loop buffer. -/
theorem activated_frame : activated c n h count len = { c with
    regs.lc := (activated c n h count len).regs.lc, ctl.lbody := (activated c n h count len).ctl.lbody,
    ctl.llen := (activated c n h count len).ctl.llen, loopBuf := (activated c n h count len).loopBuf } := by
  unfold activated
  rw [setLc_frame]

end

/-- Which of the three LOOP does on a core of its own. -/
theorem loopBody_alone (i : Instr) (a : Reg) (lc : BitVec 2) (len : Nat) (s : State) (h : lc.toNat < 3) :
    loopBody i a lc len ⟨[s.me], 0⟩ s =
      if s.me.loopAct lc.toNat = true ∨ crossesHolder s.me len = true then .trap .illegal (zext (encode i)) s
      else if s.g a = 0 then .done { s with me := s.me.setLc lc.toNat 0 } (.skip len)
      else .done { s with me := activated s.me lc.toNat h (s.g a) len } .seq := by
  unfold loopBody
  refine ite_congr (by rw [← Bool.or_eq_true]; rfl) (fun _ => rfl) fun _ => ?_
  by_cases hg : s.g a = 0
  · rw [if_pos hg]
    exact (if_pos hg).trans (by rw [← hg]; rfl)
  · rw [if_neg hg]
    exact (if_neg hg).trans (dif_pos h)

/-- Settles O21, by the three branches of LOOP's effect. -/
theorem loopActivatesOrSkips : Obligations.LoopActivatesOrSkips := by
  unfold Obligations.LoopActivatesOrSkips
  intro s a lc len hwf hc
  have hlc : lc.toNat < 3 := by
    have hne : lc.toNat ≠ 3 := fun e => by
      obtain rfl : lc = 3 := BitVec.eq_of_toNat_eq e
      simp [Instr.wf] at hwf
    have := lc.isLt
    omega
  have hbody := loopBody_alone (.loop a lc len) a lc len.toNat s hlc
  have hgood (hact : s.me.loopAct lc.toNat = false) (hcross : crossesHolder s.me len.toNat = false) :=
    hbody.trans (if_neg (by simp [hact, hcross]))
  refine ⟨fun hbad => ?_, fun hact hcross hzero => ?_, fun hact hcross hcount => ?_⟩
  · exact issueG_illegal hc (hbody.trans (if_pos hbad))
  · exact issueG_done hc ((hgood hact hcross).trans (if_pos hzero))
  · refine ⟨{ s with me := activated s.me lc.toNat hlc (s.g a) len.toNat },
      issueG_done hc ((hgood hact hcross).trans (if_neg hcount)), activated_lc_same .., activated_loopStart_same ..,
      activated_loopLen_same _ _ _ _ len.isLt, activated_loopAct_same .., fun k hk => ⟨activated_lc_ne _ _ _ _ hk,
      activated_loopStart_ne _ _ _ _ hk, activated_loopLen_ne _ _ _ _ hk, activated_loopAct_ne _ _ _ _ hk⟩, ?_⟩
    exact congrArg (fun c => ({ s with me := c } : State)) (activated_frame ..)

end Sys2Proof.Proofs
end
section
/-! The members of a crew act one after another, each on what it holds: what every core holds afterwards (R150). -/

namespace Sys2Proof.Proofs
open Machine

theorem focus_me (s : State) (k : Nat) : (s.focus k).me = s.coreAt k := by
  unfold State.focus
  split
  · next h => rw [State.coreAt, if_pos h]
  · rfl

theorem coreAt_here (s : State) : s.coreAt s.here = s.me := if_pos rfl

/-- A core acts: it comes into focus and what it holds is changed. -/
def actOn (f : Nat → Core → Core) (s : State) (k : Nat) : State := { s.focus k with me := f k (s.coreAt k) }

theorem actOn_dev (f : Nat → Core → Core) (s : State) (k : Nat) : (actOn f s k).dev = s.dev := focus_dev s k

theorem coreAt_setMe (s : State) (c : Core) (i : Nat) : ({ s with me := c } : State).coreAt i = if i = s.here then c else s.coreAt i := by
  unfold State.coreAt
  split <;> rfl

theorem actOn_coreAt (f : Nat → Core → Core) (s : State) (k i : Nat) :
    (actOn f s k).coreAt i = if i = k then f k (s.coreAt k) else s.coreAt i := by
  rw [actOn, coreAt_setMe, focus_here, coreAt_focus]

theorem foldl_actOn_dev (f : Nat → Core → Core) (l : List Nat) (s : State) : (l.foldl (actOn f) s).dev = s.dev :=
  foldl_leaves State.dev _ (actOn_dev f) l s

/-- Each core of a list has acted once, on what it held; the others are as they were. -/
theorem foldl_actOn_coreAt (f : Nat → Core → Core) (i : Nat) : ∀ {l : List Nat} (s : State), l.Nodup →
    (l.foldl (actOn f) s).coreAt i = if i ∈ l then f i (s.coreAt i) else s.coreAt i
  | [], _, _ => rfl
  | k :: t, s, h => by
    obtain ⟨hk, ht⟩ := List.nodup_cons.mp h
    rw [List.foldl_cons, foldl_actOn_coreAt f i _ ht, actOn_coreAt]
    by_cases hik : i = k
    · subst hik; simp [hk]
    · simp [hik]

/-! ## Going on as member 0 does (R150) -/

/-- One loop of a member steps or ends where it does at member 0, which goes on from lead to r. -/
def loopWith (lead r : Core) (c : Core) (k : Nat) : Core :=
  let c := if r.lc k ≠ lead.lc k then c.setLc k (c.lc k - 1) else c
  if lead.loopAct k && !r.loopAct k then c.loopOff k else c

theorem loopWith_frame (lead r c : Core) (k : Nat) : loopWith lead r c k =
    { c with regs.lc := (loopWith lead r c k).regs.lc, ctl.llen := (loopWith lead r c k).ctl.llen } := by
  have hlc : ∃ l, (if r.lc k ≠ lead.lc k then c.setLc k (c.lc k - 1) else c) = { c with regs.lc := l } := by
    split
    · exact ⟨_, setLc_frame ..⟩
    · exact ⟨_, rfl⟩
  obtain ⟨l, hl⟩ := hlc
  unfold loopWith
  simp only [hl]
  split <;> rfl

/-- A member that goes on writes its pc, its loop counters and LLEN, and nothing else. -/
theorem goOnWith_frame (c lead : Core) (n : Next) : c.goOnWith lead n =
    { c with pc := (lead.goOn n).pc, regs.lc := (c.goOnWith lead n).regs.lc, ctl.llen := (c.goOnWith lead n).ctl.llen } := by
  have h : c.goOnWith lead n = { [0, 1, 2].foldl (loopWith lead (lead.goOn n)) c with pc := (lead.goOn n).pc } := rfl
  rw [h]
  simp only [List.foldl_cons, List.foldl_nil]
  rw [loopWith_frame, loopWith_frame (c := loopWith _ _ _ _), loopWith_frame (c := c)]

/-- Where the end steps come to depends on the loop counters and the loops. -/
theorem endSteps_next_congr (next : W64) : ∀ (l : List Nat) {c e : Core}, e.regs.lc = c.regs.lc → SameLoops c e →
    (e.endSteps next l).2 = (c.endSteps next l).2
  | [], _, _, _, _ => rfl
  | n :: t, c, e, hlc, hloops => by
    have hn : e.lc n = c.lc n := by simp only [Core.lc, hlc]
    have hset : (e.setLc n (c.lc n - 1)).regs.lc = (c.setLc n (c.lc n - 1)).regs.lc := by
      unfold Core.setLc
      split <;> simp only [hlc]
    have hoff : SameLoops ((c.setLc n (c.lc n - 1)).loopOff n) ((e.setLc n (c.lc n - 1)).loopOff n) := by
      simp only [SameLoops, Core.loopOff, setLc_ctl, hloops.1, hloops.2, and_self]
    have hrest := endSteps_next_congr next t (e := (e.setLc n (c.lc n - 1)).loopOff n) (c := (c.setLc n (c.lc n - 1)).loopOff n) hset hoff
    unfold Core.endSteps
    simp only [hn]
    split
    · rw [loopStart_setLc, loopStart_setLc, hloops.start]
    · exact hrest

/-- Where a word in sequence goes on to depends on the pc, the loop counters and the loops. -/
theorem goOn_seq_pc_congr {c e : Core} (hpc : e.pc = c.pc) (hlc : e.regs.lc = c.regs.lc) (hloops : SameLoops c e) :
    (e.goOn .seq).pc = (c.goOn .seq).pc := by
  rw [goOn_seq, goOn_seq]
  simp only [hpc, loopsEnding_congr hloops]
  exact endSteps_next_congr _ _ hlc hloops

theorem goOn_skip_pc_congr {c e : Core} (n : Nat) (hpc : e.pc = c.pc) (hlc : e.regs.lc = c.regs.lc) (hloops : SameLoops c e) :
    (e.goOn (.skip n)).pc = (c.goOn (.skip n)).pc := by
  rw [goOn_skip, goOn_skip]
  exact goOn_seq_pc_congr (congrArg (· + w64 (4 * n)) hpc) hlc hloops

end Sys2Proof.Proofs
end
section
/-! A word in every member of a locked gang, where each member completes it by a change of what it holds (R150). -/

namespace Sys2Proof.Proofs
open Machine Claims

/-- The effect completes in every member of a gang and goes on to the next word: member k holds e k after it, whatever the others
have done before. -/
def CrewDoes (chk : Check) (body : Body) (s : State) (e : Nat → Core) : Prop :=
  ∀ k ∈ s.me.crew, ∀ (w : Crew) (t : State), t.me = s.coreAt k → t.dev = s.dev →
    chk t = none ∧ body w t = .done { t with me := e k } .seq

/-- An outcome that completes and goes on to the next word. -/
def GoesOn (r : Nat × Res) : Prop := ∃ t, r.2 = .done t .seq

/-- The results of members that have not acted yet: each completes, and the last state is the one in which each has acted. -/
theorem crewResults_goOn {chk : Check} {body : Body} {s : State} {e : Nat → Core} (he : CrewDoes chk body s e) (cores : List Core) :
    ∀ (l : List Nat) (n : Nat) (t : State), l.Nodup → (∀ k ∈ l, k ∈ s.me.crew ∧ t.coreAt k = s.coreAt k) → t.dev = s.dev →
      let rs := crewResults chk body cores l n t
      rs.map (·.1) = l ∧ (∀ r ∈ rs, GoesOn r) ∧ lastState t rs = l.foldl (actOn fun k _ => e k) t
  | [], _, _, _, _, _ => ⟨rfl, by simp [crewResults], rfl⟩
  | k :: l, n, t, hn, hl, hd => by
    obtain ⟨hk, hn⟩ := List.nodup_cons.mp hn
    obtain ⟨hcrew, hme⟩ := hl k (by simp)
    obtain ⟨hchk, hbody⟩ := he k hcrew ⟨cores, n⟩ (t.focus k) ((focus_me t k).trans hme) ((focus_dev t k).trans hd)
    have hrun : runOne chk body ⟨cores, n⟩ (t.focus k) = .done (actOn (fun k _ => e k) t k) .seq := by
      rw [runOne, hchk]
      simp only [hbody]
      rfl
    have hrest : ∀ j ∈ l, j ∈ s.me.crew ∧ (actOn (fun k _ => e k) t k).coreAt j = s.coreAt j := fun j hj => by
      obtain ⟨hjc, hjt⟩ := hl j (by simp [hj])
      refine ⟨hjc, ?_⟩
      rw [actOn_coreAt, if_neg (fun h => hk (by rwa [h] at hj)), hjt]
    obtain ⟨hkeys, hdone, hlast⟩ := crewResults_goOn he cores l (n + 1) _ hn hrest ((actOn_dev _ t k).trans hd)
    unfold crewResults
    simp only [hrun]
    refine ⟨by rw [List.map_cons, hkeys], fun r hr => ?_, hlast⟩
    rcases List.mem_cons.mp hr with rfl | hr
    · exact ⟨_, rfl⟩
    · exact hdone r hr

/-- What a member holds once it has retired and gone on as member 0 does. -/
def retiredWith (lead c : Core) : Core :=
  let d := c.goOnWith lead .seq
  { d with ctl.retired := d.ctl.retired + w64 (c.counts1 .seq), nretired := d.nretired + c.counts1 .seq, hints := .none,
           wait := none, handed := false, issued := false, peerWords := [], entering := false }

theorem retiredWith_pc (lead c : Core) : (retiredWith lead c).pc = (lead.goOn .seq).pc := by
  rw [retiredWith, goOnWith_frame]

theorem retiredWith_g (lead c : Core) : (retiredWith lead c).regs.g = c.regs.g := by
  rw [retiredWith, goOnWith_frame]

theorem retiredWith_bond (lead c : Core) : (retiredWith lead c).bond = c.bond := by
  rw [retiredWith, goOnWith_frame]

theorem retiredWith_crew (lead c : Core) : (retiredWith lead c).crew = c.crew := by
  rw [retiredWith, goOnWith_frame]

theorem retiredWith_loc (lead c : Core) : (retiredWith lead c).loc = c.loc := by
  rw [retiredWith, goOnWith_frame]

theorem retireTo_with (lead : Core) (t : State) (k : Nat) :
    (t.focus k).retireTo ((t.focus k).me.goOnWith lead .seq) .seq = actOn (fun _ c => retiredWith lead c) t k := by
  rw [actOn, ← focus_me]
  rfl

/-- Where every member completes, none takes a trap after it. -/
theorem foldl_noTrapAfter (pc : W64) : ∀ {rs : List (Nat × Res)} (t : State), (∀ r ∈ rs, GoesOn r) →
    rs.foldl (fun s r => match r.2 with
      | .done _ (.trapAfter c v) => (s.focus r.1).trapEntry c v pc
      | _ => s) t = t
  | [], _, _ => rfl
  | r :: rs, t, h => by
    obtain ⟨u, hu⟩ := h r (by simp)
    rw [List.foldl_cons, hu]
    exact foldl_noTrapAfter pc t fun x hx => h x (by simp [hx])

/-- Members that all complete retire one after another. -/
theorem retireCrew_goOn {k : Nat} {l : List Nat} {rs : List (Nat × Res)} (t : State) (hkeys : rs.map (·.1) = k :: l)
    (hdone : ∀ r ∈ rs, GoesOn r) : retireCrew rs t = (k :: l).foldl (actOn fun _ c => retiredWith (t.coreAt k) c) t := by
  match rs, hkeys with
  | (j, r) :: rs, hkeys =>
    obtain ⟨u, rfl⟩ := hdone (j, r) (by simp)
    obtain rfl : j = k := (List.cons.inj hkeys).1
    rw [← hkeys, List.foldl_map]
    refine (foldl_noTrapAfter _ _ hdone).trans ?_
    simp only [leadNext, retireTo_with]

/-- A word that every member of a locked gang completes: each retires with what its effect has given, and goes on as member 0. -/
theorem runCrew_goOn {long : Bool} {chk : Check} {body : Body} {s : State} {e : Nat → Core} (he : CrewDoes chk body s e)
    (hn : s.me.crew.Nodup) (hh : s.here ∈ s.me.crew) :
    let t := runCrew long chk body s
    t.here = s.here ∧ t.dev = s.dev ∧
      ∀ k ∈ s.me.crew, t.coreAt k = retiredWith (e (s.me.crew.headD s.here)) (e k) := by
  obtain ⟨hkeys, hdone, hlast⟩ := crewResults_goOn he (s.me.crew.map s.coreAt) s.me.crew 0 s hn (fun k hk => ⟨hk, rfl⟩) rfl
  generalize hrs : crewResults chk body (s.me.crew.map s.coreAt) s.me.crew 0 s = rs at hkeys hdone hlast
  have hnone : ∀ p : Nat × Res → Bool, (∀ k t, p (k, .done t .seq) = false) → rs.any p = false := fun p hp =>
    List.any_eq_false.mpr fun r hr => by
      obtain ⟨t, ht⟩ := hdone r hr
      rw [Bool.not_eq_true, ← hp r.1 t, ← ht]
  have hrun : runCrew long chk body s = (retireCrew rs (lastState s rs)).focus s.here := by
    unfold runCrew
    simp only [hrs]
    rw [hnone _ fun _ _ => rfl, hnone _ fun _ _ => rfl]
    rfl
  obtain ⟨k0, l, hcrew⟩ : ∃ k0 l, s.me.crew = k0 :: l := List.exists_cons_of_ne_nil (List.ne_nil_of_mem hh)
  rw [hcrew] at hkeys
  simp only [hrun, retireCrew_goOn _ hkeys hdone, hlast, ← hcrew]
  refine ⟨focus_here .., by rw [focus_dev, foldl_actOn_dev, foldl_actOn_dev], fun k hk => ?_⟩
  have heach : ∀ j ∈ s.me.crew, (s.me.crew.foldl (actOn fun k _ => e k) s).coreAt j = e j := fun j hj => by
    rw [foldl_actOn_coreAt _ _ _ hn, if_pos hj]
  rw [coreAt_focus, foldl_actOn_coreAt _ _ _ hn, if_pos hk, heach k hk, heach k0 (hcrew ▸ List.mem_cons_self), hcrew, List.headD_cons]

/-! ## What the checks and the ALU read -/

/-- The checks before an instruction's own read the core in focus and the device. -/
theorem precheck_congr (i : Instr) {s t : State} (hm : t.me = s.me) (hd : t.dev = s.dev) : precheck i t = precheck i s := by
  have hn : t.needs i = s.needs i := by unfold State.needs; rw [hd]
  unfold precheck
  rw [hm, hn]

theorem g_congr {s t : State} (hm : t.me.regs.g = s.me.regs.g) (r : Reg) : t.g r = s.g r := by
  unfold State.g
  rw [hm]

/-- The ALU reads the general registers. -/
theorem aluRule_congr (i : Instr) {s t : State} (hm : t.me.regs.g = s.me.regs.g) : aluRule t i = aluRule s i := by
  unfold aluRule
  simp only [g_congr hm]

/-- A write of a register changes the core in focus. -/
theorem setG_congr {s t : State} (hm : t.me = s.me) (d : Reg) (x : W64) : t.setG d x = { t with me := (s.setG d x).me } := by
  unfold State.setG
  split
  · rw [← hm]
  · rw [hm]

theorem issueBy_gang {chk : Check} {body : Body} {s : State} {long : Bool} (hr : s.me.stopped = false) (hb : s.me.bond = .gang) :
    issueBy chk body s long = .next (runCrew long chk body s) := by
  simp [issueBy, hr, hb]

theorem issue_gang {i : Instr} {body : State → Res} {s : State} (hr : s.me.stopped = false) (hb : s.me.bond = .gang) :
    issue i body s = .next (runCrew (isLong i) (precheck i) (fun _ => body) s) := issueBy_gang hr hb

/-- Settles O24: in each member the ALU writes its own result, and member 0 decides where all go on. -/
theorem gangsIssueInEveryMember : Obligations.GangsIssueInEveryMember := by
  unfold Obligations.GangsIssueInEveryMember
  intro i s d hr hb hn hd hh hcrew
  choose! x hx using fun k hk => (hcrew k hk).2
  have he : CrewDoes (precheck i) (fun _ => ruled aluRule i) s fun k => ((s.focus k).setG d (x k)).me := fun k hk w t hm hdev => by
    have hm : t.me = (s.focus k).me := hm.trans (focus_me s k).symm
    refine ⟨(precheck_congr i hm (hdev.trans (focus_dev s k).symm)).trans (hcrew k hk).1, ?_⟩
    have hrule : aluRule t i = some (d, x k) := (aluRule_congr i (congrArg (fun c => c.regs.g) hm)).trans (hx k hk)
    exact (ruled_some hrule).trans (congrArg State.ok (setG_congr hm d (x k)))
  obtain ⟨hhere, hdev, hcore⟩ := runCrew_goOn (long := isLong i) he hn hh
  refine ⟨_, (exec_alu (hx _ hh) s).trans (issue_gang hr hb), hhere, hdev, fun k hk => ?_⟩
  have hg : ∀ r, (State.focus _ k).g r = ((s.focus k).setG d (x k)).g r := g_congr (by rw [focus_me, hcore k hk, retiredWith_g])
  refine ⟨⟨x k, hx k hk, by rw [hg, g_setG_same hd]⟩, fun r hr => by rw [hg, g_setG_ne hr], ?_⟩
  rw [hcore k hk, retiredWith_pc, ← focus_me s]
  exact goOn_seq_pc_congr (setG_me_pc ..) (setG_regs_lc ..) (sameLoops_of_ctl (setG_me_ctl ..))

end Sys2Proof.Proofs
end
section
/-! Cores other than the one that takes a trap, and the members of a gang that halt together (R151, R389, R416). -/

namespace Sys2Proof.Proofs
open Machine

/-- A core without what the end of a checked pair may change of it. -/
def unpaired (c : Core) : Core := { c with pair := none, pairOps := [] }

theorem leavePair_coreAt_ne (s : State) {i : Nat} (hi : i ≠ s.here) : unpaired (s.leavePair.coreAt i) = unpaired (s.coreAt i) := by
  unfold State.leavePair
  split
  · rfl
  · refine (congrArg unpaired ((coreAt_setMe _ _ i).trans (if_neg (by rwa [onCore_here])))).trans ?_
    rw [coreAt_onCore]
    split <;> rfl

/-- A trap leaves the other cores to the ends of the bond and the pair. -/
theorem trapEntry_coreAt_ne (s : State) (c : BitVec 8) (v a : W64) {i : Nat} (hi : i ≠ s.here) :
    unpaired ((s.trapEntry c v a).coreAt i) = unpaired (s.leaveBond.coreAt i) := by
  have h : (s.trapEntry c v a).coreAt i = s.leaveBond.leavePair.coreAt i :=
    (coreAt_setMe _ _ i).trans (if_neg (by rwa [leavePair_here, leaveBond_here]))
  rw [h, leavePair_coreAt_ne _ (by rwa [leaveBond_here])]

theorem leaveBond_gang {s : State} (h : s.me.bond = .gang) : s.leaveBond = { s with me := s.me.unbond } := by
  simp only [State.leaveBond, h]

/-- Whether a cause is a trigger depends on the member, its stave and the device. -/
theorem isTrigger_congr {s t : State} (hm : t.me.member = s.me.member) (hs : t.me.ctl.sid = s.me.ctl.sid) (hd : t.dev = s.dev)
    (c : BitVec 8) : t.isTrigger c = s.isTrigger c := by
  have hj : t.job? = s.job? := by simp only [State.job?, State.stave, Core.stave, hm, hs, hd]
  simp only [State.isTrigger, State.protectedFirst, hm, hj]

theorem raise_trap {s : State} {c : BitVec 8} (h : s.isTrigger c = false) (v a : W64) : s.raise c v a = s.trapEntry c v a := by
  rw [State.raise, h]; rfl

theorem gangHalt_isTrigger (s : State) : s.isTrigger Cause.gangHalt.code = false := by simp [State.isTrigger, Cause.code]

/-- What a member of a gang that halts holds, from what it held before the word: it has left the bond and taken its own cause, or
GANG_HALT with a member index, at a resume address. -/
structure Halted (r : Res) (member : Nat) (tpc : W64) (c0 c : Core) : Prop where
  bond : c.bond = .none
  regs : c.regs = c0.regs
  loc : c.loc = c0.loc
  pc : c.pc = c0.ctl.tvec
  tpc : c.ctl.tpc = tpc
  own : ∀ cause v u, r = .trap cause v u → c.ctl.tcause = zext cause.code ∧ c.ctl.tval = v
  halt : (∀ cause v u, r ≠ .trap cause v u) → c.ctl.tcause = 0x0D ∧ c.ctl.tval = w64 member

/-- The end of a pair changes nothing of it. -/
theorem Halted.congr {r : Res} {m : Nat} {a : W64} {c0 d0 c d : Core} (h : Halted r m a c0 c) (h0 : unpaired d0 = unpaired c0)
    (hc : unpaired d = unpaired c) : Halted r m a d0 d := by
  obtain ⟨hbond, hregs, hloc, hpc, htpc, hown, hhalt⟩ := h
  have hctl : d.ctl = c.ctl := (congrArg Core.ctl hc :)
  have h0ctl : d0.ctl = c0.ctl := (congrArg Core.ctl h0 :)
  exact ⟨(congrArg Core.bond hc :).trans hbond, (congrArg Core.regs hc :).trans (hregs.trans (congrArg Core.regs h0 :).symm),
    (congrArg Core.loc hc :).trans (hloc.trans (congrArg Core.loc h0 :).symm),
    (congrArg Core.pc hc :).trans (hpc.trans (by rw [h0ctl])), by rw [hctl, htpc], hctl ▸ hown, hctl ▸ hhalt⟩

/-- The cause and the value that a member which halts takes: its own, or GANG_HALT with a member index. -/
def haltCause : Res → BitVec 8
  | .trap c _ _ => c.code
  | .done _ _ | .wait _ _ => Cause.gangHalt.code

def haltVal (member : Nat) : Res → W64
  | .trap _ v _ => v
  | .done _ _ | .wait _ _ => w64 member

/-- The state in which a member takes it: before the word, but for its WSTAT. -/
def haltFrom (s : State) (r : Nat × Res) : State :=
  match r.2 with
  | .trap _ _ u => { s.focus r.1 with me.ctl.wstat := u.me.ctl.wstat }
  | .done _ _ | .wait _ _ => s.focus r.1

theorem haltFrom_eq (s : State) (r : Nat × Res) : ∃ w, haltFrom s r = { s.focus r.1 with me := { s.coreAt r.1 with ctl.wstat := w } } := by
  rw [← focus_me]
  unfold haltFrom
  split
  · exact ⟨_, rfl⟩
  · exact ⟨_, rfl⟩
  · exact ⟨_, rfl⟩

/-- One member halts. -/
def haltOne (member : Nat) (tpc : W64) (s : State) (r : Nat × Res) : State :=
  (haltFrom s r).raise (haltCause r.2) (haltVal member r.2) tpc

theorem haltOne_dev (member : Nat) (tpc : W64) (s : State) (r : Nat × Res) : (haltOne member tpc s r).dev = s.dev := by
  obtain ⟨w, hw⟩ := haltFrom_eq s r
  rw [haltOne, raise_dev, hw]
  exact focus_dev s r.1

/-- Where no member's cause is a trigger, the members halt one after another (R151). -/
theorem haltCrew_eq {rs : List (Nat × Res)} {s : State} {n : Nat} {tpc : W64} (hf : firstTrap rs 0 = some (n, tpc))
    (ht : crewTrigger rs s = false) :
    haltCrew rs s = rs.foldl (haltOne (((s.coreAt (listGet 0 (rs.map (·.1)) n)).member.map (·.member)).getD n) tpc) s := by
  unfold haltCrew
  simp only [hf, ht, Option.getD_some, Bool.false_eq_true, if_false]
  congr 1
  funext s r
  rcases r with ⟨k, _ | _ | _⟩ <;> rfl

/-- A member that halts, and what the others hold then. -/
theorem haltOne_coreAt {member : Nat} {tpc : W64} {s : State} {r : Nat × Res} (hb : (s.coreAt r.1).bond = .gang)
    (ht : (s.focus r.1).isTrigger (haltCause r.2) = false) :
    Halted r.2 member tpc (s.coreAt r.1) ((haltOne member tpc s r).coreAt r.1) ∧
      ∀ i, i ≠ r.1 → unpaired ((haltOne member tpc s r).coreAt i) = unpaired (s.coreAt i) := by
  obtain ⟨w, hw⟩ := haltFrom_eq s r
  have htrap : haltOne member tpc s r = (haltFrom s r).trapEntry (haltCause r.2) (haltVal member r.2) tpc := by
    refine raise_trap ((isTrigger_congr (s := s.focus r.1) ?_ ?_ ?_ _).trans ht) _ _
    · rw [hw, focus_me]
    · rw [hw, focus_me]
    · rw [hw]
  have hhere : (haltFrom s r).here = r.1 := by rw [hw]; exact focus_here s r.1
  have hbond : (haltFrom s r).me.bond = .gang := by rw [hw]; exact hb
  refine ⟨?_, fun i hi => ?_⟩
  · have hcore : (haltOne member tpc s r).coreAt r.1 = (haltOne member tpc s r).me := by
      rw [htrap]
      exact if_pos (hhere.symm.trans (trapEntry_here ..).symm)
    rw [hcore, htrap, trapEntry_me, if_neg (by rw [hbond]; decide), hw]
    refine ⟨rfl, rfl, rfl, rfl, rfl, fun cause v u h => ?_, fun h => ?_⟩
    · rw [h]; exact ⟨rfl, rfl⟩
    · match r, h with
      | (_, .done _ _), _ => exact ⟨rfl, rfl⟩
      | (_, .trap c v u), h => exact absurd rfl (h c v u)
      | (_, .wait _ _), _ => exact ⟨rfl, rfl⟩
  · rw [htrap, trapEntry_coreAt_ne _ _ _ _ (by rwa [hhere]), leaveBond_gang hbond, coreAt_setMe, hhere, if_neg hi, hw, coreAt_setMe,
      focus_here, if_neg hi, coreAt_focus]

/-- The members of a crew that halt one after another: each takes its cause from what it held before. -/
theorem foldl_haltOne {member : Nat} {tpc : W64} {s : State} : ∀ {rs : List (Nat × Res)} (t : State), (rs.map (·.1)).Nodup → t.dev = s.dev →
    (∀ r ∈ rs, unpaired (t.coreAt r.1) = unpaired (s.coreAt r.1) ∧ (s.coreAt r.1).bond = .gang ∧
      (s.focus r.1).isTrigger (haltCause r.2) = false) →
    let u := rs.foldl (haltOne member tpc) t
    (∀ i, i ∉ rs.map (·.1) → unpaired (u.coreAt i) = unpaired (t.coreAt i)) ∧
      ∀ r ∈ rs, Halted r.2 member tpc (s.coreAt r.1) (u.coreAt r.1)
  | [], t, _, _, _ => ⟨fun _ _ => rfl, fun _ h => absurd h List.not_mem_nil⟩
  | r :: rs, t, hn, hd, h => by
    obtain ⟨hr, hn⟩ := List.nodup_cons.mp hn
    obtain ⟨hsame, hbond, htrig⟩ := h r (by simp)
    have ht : (t.focus r.1).isTrigger (haltCause r.2) = false :=
      (isTrigger_congr (by rw [focus_me, focus_me]; exact (congrArg Core.member hsame :))
        (by rw [focus_me, focus_me]; exact (congrArg (fun c => c.ctl.sid) hsame :)) (by rw [focus_dev, focus_dev, hd]) _).trans htrig
    obtain ⟨hown, hothers⟩ := haltOne_coreAt (member := member) (tpc := tpc) (((congrArg Core.bond hsame :) : (t.coreAt r.1).bond = _).trans hbond) ht
    obtain ⟨hout, hin⟩ := foldl_haltOne (member := member) (tpc := tpc) (haltOne member tpc t r) hn ((haltOne_dev ..).trans hd)
      fun x hx => ⟨(hothers x.1 fun e => hr (List.mem_map.mpr ⟨x, hx, e⟩)).trans (h x (by simp [hx])).1, (h x (by simp [hx])).2⟩
    refine ⟨fun i hi => ?_, fun x hx => ?_⟩
    · obtain ⟨hir, hi⟩ := not_or.mp (fun e => hi (List.mem_cons.mpr e))
      exact (hout i hi).trans (hothers i hir)
    · rcases List.mem_cons.mp hx with rfl | hx
      · exact hown.congr hsame.symm (hout x.1 hr)
      · exact hin x hx

/-- A member that traps halts the crew. -/
theorem runCrew_traps {long : Bool} {chk : Check} {body : Body} {s : State} {rs : List (Nat × Res)}
    (hrs : crewResults chk body (s.me.crew.map s.coreAt) s.me.crew 0 s = rs) (h : ∃ k c v u, (k, Res.trap c v u) ∈ rs) :
    runCrew long chk body s = (haltCrew rs s).focus s.here := by
  subst hrs
  obtain ⟨k, c, v, u, hmem⟩ := h
  exact congrArg (State.focus · s.here) (if_pos (List.any_eq_true.mpr ⟨_, hmem, rfl⟩))

/-- Settles O25: the crew halts before its retirement, and each member by itself, on what it held before the word. -/
theorem gangsHaltTogether : Obligations.GangsHaltTogether := by
  unfold Obligations.GangsHaltTogether
  refine ⟨fun chk body s long hr hb hrs => ?_, fun rs s n tpc hn hf ht hb => ⟨haltCrew_dev rs s, fun x hx => ?_⟩⟩
  · exact (issueBy_gang hr hb).trans (congrArg _ (runCrew_traps rfl hrs))
  · have hall : ∀ r ∈ rs, unpaired (s.coreAt r.1) = unpaired (s.coreAt r.1) ∧ (s.coreAt r.1).bond = .gang ∧
        (s.focus r.1).isTrigger (haltCause r.2) = false := fun r hr => ⟨rfl, hb r hr, by
      have hr := List.any_eq_false.mp ht r hr
      match r, hr with
      | (_, .done _ _), _ => exact gangHalt_isTrigger _
      | (_, .trap c v u), hr => exact Bool.eq_false_iff.mpr hr
      | (_, .wait _ _), _ => exact gangHalt_isTrigger _⟩
    rw [haltCrew_eq hf ht]
    obtain ⟨hbond, hregs, hloc, hpc, htpc, hown, hhalt⟩ := (foldl_haltOne s hn rfl hall).2 x hx
    exact ⟨hbond, hregs, hloc, hpc, htpc, hown, hhalt⟩

end Sys2Proof.Proofs
end
section
/-! Joins: what the member that comes does with the others, and how each of them completes its own (R153). -/

namespace Sys2Proof.Proofs
open Machine Claims

/-! ## The word of a join (R152) -/

theorem joinFn_fmtR (op : BitVec 7) (d a b : Reg) (fn : BitVec 7) : joinFn (fmtR op d a b fn) = fn.toNat :=
  Laws.low_bits _ 7 _ (congrArg BitVec.toNat (Laws.fFn_fmtR op d a b fn))

/-- FOLLOW or GANG with its strength. -/
def JoinOf (i : Instr) (d : Reg) (b : Bond) : Prop := (i = .follow d ∧ b = .follow) ∨ (i = .gang d ∧ b = .gang)

theorem JoinOf.reg {i : Instr} {d : Reg} {b : Bond} (h : JoinOf i d b) : joinReg (encode i) = d := by
  rcases h with ⟨rfl, -⟩ | ⟨rfl, -⟩
  · exact Laws.fD_fmtR ..
  · exact Laws.fD_fmtR ..

theorem JoinOf.bond {i : Instr} {d : Reg} {b : Bond} (h : JoinOf i d b) : joinBond (joinFn (encode i)) = b := by
  rcases h with ⟨rfl, rfl⟩ | ⟨rfl, rfl⟩
  · exact congrArg joinBond (joinFn_fmtR ..)
  · exact congrArg joinBond (joinFn_fmtR ..)

/-- A member without a bond that comes to a join. -/
theorem JoinOf.effect {i : Instr} {d : Reg} {b : Bond} (h : JoinOf i d b) {s : State} (hb : s.me.bond = .none) :
    ∃ body : State → Res, exec i s = issue i body s ∧ body s = joinAlone (encode i) s := by
  rcases h with ⟨rfl, -⟩ | ⟨rfl, -⟩
  · exact ⟨followBody d, rfl, by simp only [followBody, hb]⟩
  · exact ⟨gangBody d, rfl, by simp only [gangBody, hb]⟩

/-! ## What a join comes to -/

section
variable {w : Word} {s : State}

/-- The other members of the instance. -/
def otherMates (s : State) : List Nat := s.mates.filter fun k => k != s.here

/-- A core waits at the same join as the core in focus comes to. -/
def SameJoin (s : State) (w : Word) (k : Nat) : Prop := ∃ v, (s.coreAt k).joinAt = some (s.me.pc, v) ∧ joinKind v = joinKind w

theorem joinAlone_only (h : otherMates s = []) :
    joinAlone w s = put (joinReg w) 1 (if s.width = 1 then s else s.formBond (joinBond (joinFn w)) s.mates) := by
  have he : (otherMates s).isEmpty = true := by rw [h]; rfl
  exact if_pos he

theorem joinAlone_early (h : otherMates s ≠ []) (hw : ∃ k ∈ otherMates s, (s.coreAt k).joinAt = none) : joinAlone w s = .wait (.join w) s := by
  have he : ¬ (otherMates s).isEmpty = true := by simpa using h
  have hn : (!(otherMates s).all fun k => (s.coreAt k).joinAt.isSome) = true := by simpa using hw
  exact (if_neg he).trans (if_pos hn)

theorem sameJoin_iff (k : Nat) :
    ((s.coreAt k).joinAt.any fun j => j.1 == s.me.pc && joinKind j.2 == joinKind w) = true ↔ SameJoin s w k := by
  unfold SameJoin
  cases (s.coreAt k).joinAt with
  | none => simp
  | some j => simp [Prod.ext_iff]

/-- The last to come: every other member waits at a join. -/
theorem joinAlone_last (h : otherMates s ≠ []) (hw : ∀ k ∈ otherMates s, (s.coreAt k).joinAt ≠ none) :
    ((∀ k ∈ otherMates s, SameJoin s w k) →
      joinAlone w s = put (joinReg w) 1 ((s.endJoins (otherMates s) 1).formBond (joinBond (joinFn w)) s.mates)) ∧
    ((∃ k ∈ otherMates s, ¬ SameJoin s w k) → joinAlone w s = put (joinReg w) 0 (s.endJoins (otherMates s) 0)) := by
  have he : ¬ (otherMates s).isEmpty = true := by simpa using h
  have hn : ¬ (!(otherMates s).all fun k => (s.coreAt k).joinAt.isSome) = true := by
    simpa [Option.isSome_iff_ne_none] using hw
  have hsame : ((otherMates s).all fun k => (s.coreAt k).joinAt.any fun j => j.1 == s.me.pc && joinKind j.2 == joinKind w) = true ↔
      ∀ k ∈ otherMates s, SameJoin s w k := by
    simp only [List.all_eq_true, sameJoin_iff]
  refine ⟨fun hall => ?_, fun ⟨k, hk, hdiff⟩ => ?_⟩
  · exact ((if_neg he).trans (if_neg hn)).trans (if_pos (hsame.mpr hall))
  · exact ((if_neg he).trans (if_neg hn)).trans (if_neg fun hall => hdiff (hsame.mp hall k hk))

end

/-- The four cases of a join by a member without a bond. -/
theorem join_cases {s : State} {d : Reg} {i : Instr} {b : Bond} (hi : JoinOf i d b) (hc : Clear i s) (hb : s.me.bond = .none) :
    (otherMates s = [] → Gives i s ((if s.width = 1 then s else s.formBond b s.mates).setG d 1)) ∧
    (otherMates s ≠ [] → (∃ k ∈ otherMates s, (s.coreAt k).joinAt = none) →
      exec i s = .next { s with me := { s.me with wait := some (.join (encode i)) } }) ∧
    (otherMates s ≠ [] → (∀ k ∈ otherMates s, SameJoin s (encode i) k) → Gives i s (((s.endJoins (otherMates s) 1).formBond b s.mates).setG d 1)) ∧
    (otherMates s ≠ [] → (∀ k ∈ otherMates s, (s.coreAt k).joinAt ≠ none) → (∃ k ∈ otherMates s, ¬ SameJoin s (encode i) k) →
      Gives i s ((s.endJoins (otherMates s) 0).setG d 0)) := by
  obtain ⟨body, hx, hbody⟩ := hi.effect hb
  rw [← hi.reg, ← hi.bond]
  refine ⟨fun h => gives_of_ok hx hc (hbody.trans (joinAlone_only h)), fun h hw => ?_,
    fun h hall => gives_of_ok hx hc (hbody.trans ((joinAlone_last h fun k hk e => ?_).1 hall)),
    fun h hw hsome => gives_of_ok hx hc (hbody.trans ((joinAlone_last h hw).2 hsome))⟩
  · rw [hx, issue_clear hc, hbody, joinAlone_early h hw]
    rfl
  · obtain ⟨v, hv, -⟩ := hall k hk
    rw [hv] at e
    cases e

/-! ## The others' joins end -/

/-- Where only the core in focus has been changed. -/
theorem coreAt_of_others {s t : State} (hh : t.here = s.here) (ho : t.others = s.others) (i : Nat) :
    t.coreAt i = if i = s.here then t.me else s.coreAt i := by
  unfold State.coreAt
  rw [hh, ho]
  split <;> rfl

/-- A core's join ends: what it holds is its register and its retirement, whatever the other cores hold. -/
theorem retire_setG_me {s t : State} (hm : t.me = s.me) (d : Reg) (x : W64) (n : Next) :
    ((t.setG d x).retire n).me = ((s.setG d x).retire n).me := by
  rw [setG_congr hm]
  rfl

theorem endJoin_coreAt (s : State) (k : Nat) (d : Reg) (x : W64) (i : Nat) :
    (s.endJoin k d x).coreAt i = if i = k then (((s.focus k).setG d x).retire .seq).me else s.coreAt i := by
  rw [State.endJoin, State.at, coreAt_focus, coreAt_of_others (s := s.focus k) (by simp) (by simp), focus_here, coreAt_focus]

theorem endJoin_here (s : State) (k : Nat) (d : Reg) (x : W64) : (s.endJoin k d x).here = s.here := focus_here ..

theorem endJoin_dev (s : State) (k : Nat) (d : Reg) (x : W64) : (s.endJoin k d x).dev = s.dev := by
  rw [State.endJoin, State.at, focus_dev, retire_dev, setG_dev, focus_dev]

/-- Every core of a list completes its own join; the core in focus, the device and the other cores stay. -/
theorem endJoins_each (x : W64) : ∀ {ks : List Nat} (s : State), ks.Nodup → (∀ k ∈ ks, (s.coreAt k).joinAt ≠ none) →
    let t := s.endJoins ks x
    t.here = s.here ∧ t.dev = s.dev ∧ (∀ k, k ∉ ks → t.coreAt k = s.coreAt k) ∧
      ∀ k ∈ ks, ∀ a w, (s.coreAt k).joinAt = some (a, w) → t.coreAt k = (((s.focus k).setG (joinReg w) x).retire .seq).me
  | [], _, _, _ => ⟨rfl, rfl, fun _ _ => rfl, fun _ h => absurd h List.not_mem_nil⟩
  | k :: ks, s, hn, hw => by
    obtain ⟨hk, hn⟩ := List.nodup_cons.mp hn
    obtain ⟨⟨a, w⟩, hj⟩ := Option.ne_none_iff_exists'.mp (hw k (by simp))
    have hstep : s.endJoins (k :: ks) x = (s.endJoin k (joinReg w) x).endJoins ks x := by
      simp only [State.endJoins, List.foldl_cons, hj]
    have hcore : ∀ i, i ≠ k → (s.endJoin k (joinReg w) x).coreAt i = s.coreAt i := fun i hi => by
      rw [endJoin_coreAt, if_neg hi]
    have hne : ∀ i ∈ ks, i ≠ k := fun i hi e => hk (e ▸ hi)
    obtain ⟨hhere, hdev, hout, hin⟩ := endJoins_each x (s.endJoin k (joinReg w) x) hn fun i hi => by
      rw [hcore i (hne i hi)]; exact hw i (by simp [hi])
    rw [hstep]
    refine ⟨hhere.trans (endJoin_here ..), hdev.trans (endJoin_dev ..), fun i hi => ?_, fun i hi a' w' hj' => ?_⟩
    · obtain ⟨hik, hi⟩ := not_or.mp fun e => hi (List.mem_cons.mpr e)
      rw [hout i hi, hcore i hik]
    · rcases List.mem_cons.mp hi with rfl | hi
      · obtain ⟨rfl, rfl⟩ := Prod.mk.inj (Option.some.inj (hj.symm.trans hj'))
        rw [hout i hk, endJoin_coreAt, if_pos rfl]
      · rw [hin i hi a' w' (by rw [hcore i (hne i hi), hj'])]
        exact retire_setG_me (by rw [focus_me, focus_me, hcore i (hne i hi)]) _ _ _

/-! ## The ends of bonds (R155) -/

/-- DISBAND of a locked gang: every member's bond ends, and each goes on to the next word. -/
theorem disband_gang {s : State} (hr : s.me.stopped = false) (hb : s.me.bond = .gang) (hn : s.me.crew.Nodup) (hh : s.here ∈ s.me.crew)
    (hcrew : ∀ k ∈ s.me.crew, (s.coreAt k).bond = .gang ∧ precheck .disband (s.focus k) = none) :
    ∃ t, exec .disband s = .next t ∧ t.here = s.here ∧ t.dev = s.dev ∧
      ∀ k ∈ s.me.crew, t.coreAt k = retiredWith (s.coreAt (s.me.crew.headD s.here)).unbond (s.coreAt k).unbond := by
  have he : CrewDoes (precheck .disband) (fun _ => disbandBody) s fun k => (s.coreAt k).unbond := fun k hk w t hm hdev => by
    obtain ⟨hbond, hchk⟩ := hcrew k hk
    refine ⟨(precheck_congr _ (hm.trans (focus_me s k).symm) (hdev.trans (focus_dev s k).symm)).trans hchk, ?_⟩
    have hgang : t.me.bond = .gang := by rw [hm, hbond]
    exact (if_pos hgang).trans (congrArg State.ok (by rw [leaveBond_gang hgang, hm]))
  exact ⟨_, issue_gang hr hb, runCrew_goOn he hn hh⟩

/-- Settles O23. -/
theorem joinsBondAnInstance : Obligations.JoinsBondAnInstance := by
  unfold Obligations.JoinsBondAnInstance
  refine ⟨fun s d i b hi hc hb => join_cases hi hc hb, fun s ks x hn hh hw => ?_, fun s hr hb hn hh hcrew => ?_, fun s =>
    ⟨fun hc => ?_, fun hc hf => ?_, fun hc hf hrank => ⟨?_, ?_⟩⟩⟩
  · obtain ⟨hhere, hdev, hout, hin⟩ := endJoins_each x s hn hw
    refine ⟨hhere, ?_, hdev, hout, hin⟩
    rw [← coreAt_here, hhere, hout _ hh, coreAt_here]
  · obtain ⟨t, hx, hhere, hdev, hcore⟩ := disband_gang hr hb hn hh hcrew
    refine ⟨t, hx, hhere, hdev, fun k hk => ?_⟩
    rw [hcore k hk]
    refine ⟨retiredWith_bond .., retiredWith_crew .., ?_, fun r => g_congr ?_ r, retiredWith_loc ..⟩
    · rw [retiredWith_pc]; exact goOn_seq_pc_congr rfl rfl ⟨rfl, rfl⟩
    · rw [focus_me, focus_me, hcore k hk, retiredWith_g]; rfl
  · exact gives_of_ok (body := disbandBody) rfl hc (if_neg hc.alone)
  · exact gives_of_ok (body := unfollowBody) rfl hc (if_neg hf)
  · exact gives_of_ok (body := unfollowBody) rfl hc (if_pos ⟨hf, hrank⟩)
  · rw [leaveBond_me, hf, if_neg (by decide)]; rfl

end Sys2Proof.Proofs
end
section
/-! One step of a REPV: the unit that PIX names, and where PIX goes (R143 to R146). -/

namespace Sys2Proof.Proofs
open Machine

/-! ## Units of a sequence (R144) -/

/-- A unit has at least its vector word. -/
theorem firstUnit_len_pos : ∀ {ws : List Word} {round : Option RMode} {sched : Bool} {n : Nat} {u : SeqUnit},
    firstUnit ws round sched n = some u → 1 ≤ u.len
  | [], _, _, _, _, h => by cases h
  | w :: t, round, sched, n, u, h => by
    unfold firstUnit at h
    split at h
    · cases h
    · split at h
      · cases h
      · exact firstUnit_len_pos h
    · split at h
      · cases h
      · exact firstUnit_len_pos h
    · split at h
      · cases h; exact Nat.le_add_left 1 n
      · cases h

/-! ## Breakpoints of the sequence (R146, R156) -/

/-- With no enabled register nothing matches. -/
theorem brkMatch_disabled {c : Core} (h : ∀ b ∈ c.ctl.brka.toList, b.getLsbD 0 = false) (addrs : List W64) :
    c.brkMatch addrs = (none, []) := by
  refine List.foldl_fixed' (fun n => ?_) _
  split
  · rfl
  · next b hb => simp only [h b (List.mem_of_getElem? hb), Bool.not_false, Bool.true_or, if_true]

/-! ## The step -/

section
variable {u : SeqUnit} {j : Instr} {rep word count n : Nat} {w : Crew} {s t : State} {body : Body} {next : Next}

/-- The state in which a unit's vector word acts: a ROUND of the unit, and no memory policy. -/
def unitStart (u : SeqUnit) (s : State) : State := { s with me := { s.me with hints := { s.me.hints with round := u.round, mempol := none } } }

/-- A unit in the midst of a REPV: PIX names the one that comes next. -/
theorem repvUnit_again (hb : vecBody j = some body) (hd : body w (unitStart u s) = .done t next) (h : word + u.len < n ∨ rep + 1 < count) :
    repvUnit u j rep word count n w s =
      .done { ({ t with me := { t.me with hints := s.me.hints } } : State).countWords (u.len - 1) with
        me.ctl.pix := if n ≤ word + u.len then pixOf (rep + 1) 0 else pixOf rep (word + u.len) } .again := by
  have hmore : ¬ (n ≤ word + u.len ∧ count ≤ rep + 1) := by omega
  unfold unitStart at hd
  simp only [repvUnit, hb, hd, if_neg hmore]

/-- The last unit of the last repetition ends the REPV. -/
theorem repvUnit_end (hb : vecBody j = some body) (hd : body w (unitStart u s) = .done t next) (hn : n ≤ word + u.len) (hc : count ≤ rep + 1) :
    repvUnit u j rep word count n w s = repvEnd n (({ t with me := { t.me with hints := s.me.hints } } : State).countWords u.len) := by
  unfold unitStart at hd
  simp only [repvUnit, hb, hd, if_pos (And.intro hn hc)]

end

/-- The sequence is none (R144). -/
def badSeq (ws : List Word) (st : SeqSteps) (count n : Nat) (c : Core) : Prop :=
  seqUnits n ws = none ∨ c.crosses n = true ∨ ∃ us, seqUnits n ws = some us ∧ seqOk us st count = false

section
variable {i : Instr} {count n : Nat} {st : SeqSteps} {w : Crew} {s s0 : State} {ws : List Word}

/-- REPV with its sequence. -/
def withSeq (s0 : State) (ws : List Word) : State := { s0 with me := { s0.me with seq := ws } }

theorem repvBody_illegal (hs : s.sequence n = .ok (ws, s0)) (h : badSeq ws st count n (withSeq s0 ws).me) :
    repvBody i count n st w s = .trap .illegal (zext (encode i)) (withSeq s0 ws) := by
  unfold withSeq at h ⊢
  simp only [repvBody, hs, bind, Except.bind]
  rcases h with h | h | ⟨us, hu, hok⟩
  · simp only [h]; rfl
  · cases hu : seqUnits n ws with
    | none => rfl
    | some us => simp only [h, Bool.or_true, if_true]; rfl
  · simp only [hu, hok, Bool.not_false, Bool.true_or, if_true]; rfl

/-- A REPV whose breakpoints do not match issues the unit that PIX names. -/
theorem repvBody_unit {us : List SeqUnit} {u : SeqUnit} {j : Instr} (hs : s.sequence n = .ok (ws, s0)) (hu : seqUnits n ws = some us)
    (hok : seqOk us st count = true) (hc : (withSeq s0 ws).me.crosses n = false) (hw : field s0.me.ctl.pix 6 3 < n)
    (hr : field s0.me.ctl.pix 0 6 < count) (hf : firstUnit (ws.drop (field s0.me.ctl.pix 6 3)) none false 0 = some u)
    (hj : u.at st (field s0.me.ctl.pix 0 6) = some j)
    (hbrk : (s.me.seq.length = n ∧ s.me.wait ≠ none ∧ s.me.wait ≠ some .gang) ∨ ∀ b ∈ s0.me.ctl.brka.toList, b.getLsbD 0 = false) :
    repvBody i count n st w s =
      repvUnit u j (field s0.me.ctl.pix 0 6) (field s0.me.ctl.pix 6 3) count n w (withSeq s0 ws) := by
  have hm (addrs : List W64) : (if (s.me.seq.length != n || s.me.wait.isNone || s.me.wait == some Wait.gang) = true then
      ({ s0.me with seq := ws } : Core).brkMatch addrs else (none, [])) = (none, []) := by
    rcases hbrk with ⟨hlen, hwait, hgang⟩ | hoff
    · exact if_neg (by simp [hlen, Option.isNone_iff_eq_none, hwait, hgang])
    · rw [brkMatch_disabled (c := { s0.me with seq := ws }) hoff, ite_self]
  unfold withSeq at hc ⊢
  simp only [repvBody, hs, bind, Except.bind, hu, hok, hc, Bool.not_true, Bool.or_self, Bool.false_eq_true, if_false, if_neg (not_le.mpr hw),
    if_neg (not_le.mpr hr), hf, hj]
  rw [hm]
  rfl

end

/-- What a REPV that goes on, or that has ended, holds of the unit's effect. -/
structure KeepsUnit (t t' : State) : Prop where
  dev : t'.dev = t.dev
  loc : t'.me.loc = t.me.loc
  regs : t'.me.regs.g = t.me.regs.g ∧ t'.me.regs.v = t.me.regs.v ∧ t'.me.regs.p = t.me.regs.p ∧ t'.me.regs.z = t.me.regs.z ∧
    t'.me.regs.zver = t.me.regs.zver

theorem KeepsUnit.reads {t t' : State} (h : KeepsUnit t t') : (∀ r, t'.g r = t.g r) ∧ (∀ r, t'.v r = t.v r) ∧ (∀ r, t'.p r = t.p r) ∧
    ∀ z, t'.z z = t.z z ∧ t'.zver z = t.zver z := by
  obtain ⟨hg, hv, hp, hz, hzver⟩ := h.regs
  refine ⟨fun r => g_congr hg r, fun r => ?_, fun r => ?_, fun z => ⟨?_, ?_⟩⟩
  · simp only [State.v, Core.v, hv]
  · simp only [State.p, hp]
  · simp only [State.z, hz]
  · simp only [State.zver, hzver]

/-- What the step of a REPV leaves of its unit's effect, and where PIX, the pc and RETIRED stand then (R145, R146, R463). -/
theorem repv_step {i : Instr} {body vec : Body} {u : SeqUnit} {j : Instr} {rep word count n : Nat} {s s1 t : State} {next : Next}
    (hc : Clear i s) (hbody : body ⟨[s.me], 0⟩ s = repvUnit u j rep word (count + 1) n ⟨[s.me], 0⟩ s1) (hv : vecBody j = some vec)
    (hd : vec ⟨[s.me], 0⟩ (unitStart u s1) = .done t next) (hr : rep < count + 1) (hlen : 1 ≤ u.len) :
    ∃ t', issueG i body s = .next t' ∧ KeepsUnit t t' ∧
      (word + u.len < n → t'.me.ctl.pix = w64 (rep + 64 * (word + u.len)) ∧ t'.me.pc = t.me.pc ∧
        t'.me.ctl.retired = t.me.ctl.retired + w64 u.len) ∧
      (n ≤ word + u.len → rep < count → t'.me.ctl.pix = w64 (rep + 1) ∧ t'.me.pc = t.me.pc ∧
        t'.me.ctl.retired = t.me.ctl.retired + w64 u.len) ∧
      (n ≤ word + u.len → rep = count → t'.me.ctl.pix = 0 ∧ t'.me.pc = (t.me.goOn (.skip n)).pc ∧
        t'.me.ctl.retired = t.me.ctl.retired + w64 u.len + w64 (1 + s1.me.hints.words.length)) := by
  by_cases hmore : word + u.len < n ∨ rep + 1 < count + 1
  · have hcount : t.me.ctl.retired + w64 (u.len - 1) + w64 1 = t.me.ctl.retired + w64 u.len := by
      rw [add_assoc, w64, w64, ← BitVec.ofNat_add, Nat.sub_add_cancel hlen]; rfl
    refine ⟨_, issueG_done hc (hbody.trans (repvUnit_again hv hd hmore)), ⟨rfl, rfl, rfl, rfl, rfl, rfl, rfl⟩, fun hn => ⟨?_, rfl, hcount⟩,
      fun hn hrep => ⟨?_, rfl, hcount⟩, fun hn hrep => by omega⟩
    · exact if_neg (not_le.mpr hn)
    · exact if_pos hn
  · obtain ⟨hn, hrep⟩ := not_or.mp hmore
    refine ⟨_, issueG_done hc (hbody.trans (repvUnit_end hv hd (not_lt.mp hn) (not_lt.mp hrep))), ⟨rfl, ?_, ?_⟩, fun h => absurd h hn,
      fun _ h => by omega, fun _ _ => ⟨?_, ?_, ?_⟩⟩
    · exact retire_me_loc ..
    · exact ⟨retire_regs_g .., retire_regs_v .., retire_regs_p .., retire_regs_z .., retire_regs_zver ..⟩
    · exact retire_ctl_pix ..
    · exact goOn_skip_pc_congr n rfl rfl ⟨rfl, rfl⟩
    · exact retire_retired ..

theorem trapEntry_reads (s : State) (c : BitVec 8) (v a : W64) :
    let t := s.trapEntry c v a
    t.me.ctl.tcause = zext c ∧ t.me.ctl.tval = v ∧ t.me.regs = s.me.regs ∧ t.dev = s.dev := by
  simp only [trapEntry_me, trapEntry_dev]
  refine ⟨trivial, trivial, ?_, trivial⟩
  split <;> rfl

/-- ILLEGAL from an effect: its cause and value are in the trap registers; registers and device are those that the effect left. -/
theorem illegal_settle (v : W64) (s s1 : State) :
    let t := ((Res.trap .illegal v s1).giveBack s).settle
    t.me.ctl.tcause = 0x01 ∧ t.me.ctl.tval = v ∧ t.me.regs = s1.me.regs ∧ t.dev = s1.dev := by
  rw [show ((Res.trap .illegal v s1).giveBack s).settle = _ from raise_illegal _ _ _]
  exact trapEntry_reads _ _ _ _

/-- Settles O26: the sequence is judged once it is there, and the unit that PIX names then acts. -/
theorem repvRunsItsUnits : Obligations.RepvRunsItsUnits := by
  unfold Obligations.RepvRunsItsUnits
  intro s s0 count len dst ast bst ws i n s1 rep word hc hs
  refine ⟨fun us u j body t next hu hok hcross hword hrep hf hj hbrk hv hd => ?_, fun hbad => ?_⟩
  · have hbody := repvBody_unit (i := i) (w := ⟨[s.me], 0⟩) hs hu hok hcross hword hrep hf hj hbrk
    obtain ⟨t', hx, hkeep, hword', hrep', hend⟩ := repv_step hc hbody hv hd hrep (firstUnit_len_pos hf)
    obtain ⟨hg, hv, hp, hz⟩ := hkeep.reads
    exact ⟨t', hx, hkeep.dev, hkeep.loc, hg, hv, hp, hz, hword', hrep', hend⟩
  · exact ⟨_, issueG_trap hc (repvBody_illegal hs hbad), illegal_settle ..⟩

end Sys2Proof.Proofs
end
section
/-! What follows a word on a core that stands alone: the signature checkers (R160). -/

namespace Sys2Proof.Proofs
open Machine Claims

/-! ## The checker keeps the focus -/

theorem sigWordIn_here (s : State) (w : Word) (pc : W64) : (s.sigWordIn w pc).here = s.here := by
  unfold State.sigWordIn
  split
  · rfl
  · simp only
    split <;> rfl

theorem sigCheck_here (s : State) (pc next : W64) : (s.sigCheck pc next).here = s.here := by
  unfold State.sigCheck
  simp only
  split
  · rfl
  · split
    · rfl
    · split <;> rfl

theorem sigBlockEnd_here (s : State) (pc next : W64) : (s.sigBlockEnd pc next).here = s.here := by
  unfold State.sigBlockEnd
  simp only
  split
  · rfl
  · exact sigCheck_here s pc next

theorem sigAgain_here (s : State) (pc : W64) (j k : Nat) : (s.sigAgain pc j k).here = s.here := by
  unfold State.sigAgain
  simp only
  split
  · split <;> rfl
  · rfl

theorem sigWords_here (s : State) (ws : List Word) (a : W64) : (s.sigWords ws a).here = s.here :=
  foldl_leaves State.here _ (fun s _ => sigWordIn_here s _ _) _ s

theorem ite_here {c : Prop} [Decidable c] {s t : State} {k : Nat} (hs : s.here = k) (ht : t.here = k) : (if c then s else t).here = k := by
  split
  · exact hs
  · exact ht

theorem sigRepv_here (s : State) (w : Word) (pc : W64) (len : Nat) (pix : W64) : (s.sigRepv w pc len pix).here = s.here := by
  have hword : (if pix = 0 then s.sigWordIn w pc else s).here = s.here := ite_here (sigWordIn_here ..) rfl
  unfold State.sigRepv
  simp only
  refine ite_here ((sigBlockEnd_here ..).trans ?_) ?_
  · exact ite_here ((sigWords_here ..).trans hword) ((sigAgain_here ..).trans hword)
  · exact ite_here ((sigWords_here ..).trans hword) ((sigAgain_here ..).trans hword)

theorem sigFeed_here (s : State) (w : Word) (i : Instr) (pc pix : W64) : (s.sigFeed w i pc pix).here = s.here := by
  unfold State.sigFeed
  split
  · exact sigRepv_here ..
  · exact (sigBlockEnd_here ..).trans (sigWordIn_here ..)
  · exact (sigBlockEnd_here ..).trans (sigWordIn_here ..)
  · exact (sigBlockEnd_here ..).trans (sigWordIn_here ..)

/-! ## Which checkers are fed -/

theorem focus_of_here {s : State} {k : Nat} (h : k = s.here) : s.focus k = s := if_pos h

/-- The checker of one core, at a step from s0. -/
def feedOne (s0 : State) (w : Word) (s : State) (k : Nat) : State :=
  if (s0.coreAt k).sigActive && (s.coreAt k).live && (s0.coreAt k).nretired != (s.coreAt k).nretired then
    s.at k fun s => s0.feedCore s k w
  else s

theorem feedAll_eq (s0 s : State) (w : Word) : s0.feedAll s w = s0.cores.foldl (feedOne s0 w) s := rfl

theorem feedOne_inactive {s0 : State} {k : Nat} (h : (s0.coreAt k).sigActive = false) (w : Word) (s : State) : feedOne s0 w s k = s := by
  unfold feedOne
  rw [h]
  rfl

/-- Where no checker but one is active, that one alone is fed. -/
theorem foldl_feedOne {s0 : State} {w : Word} {k : Nat} : ∀ {l : List Nat} (s : State), l.Nodup →
    (∀ j ∈ l, j ≠ k → (s0.coreAt j).sigActive = false) → l.foldl (feedOne s0 w) s = if k ∈ l then feedOne s0 w s k else s
  | [], _, _, _ => rfl
  | j :: l, s, hn, h => by
    obtain ⟨hj, hn⟩ := List.nodup_cons.mp hn
    have ih (s : State) := foldl_feedOne (w := w) s hn fun i hi => h i (by simp [hi])
    rw [List.foldl_cons, ih]
    by_cases hjk : j = k
    · subst hjk; simp [hj]
    · rw [feedOne_inactive (h j (by simp) hjk)]
      simp [Ne.symm hjk]

theorem feedAll_inactive {s0 : State} (h : ∀ k ∈ s0.cores, (s0.coreAt k).sigActive = false) (s : State) (w : Word) : s0.feedAll s w = s := by
  rw [feedAll_eq]
  generalize s0.cores = l at h
  induction l with
  | nil => rfl
  | cons k l ih =>
    rw [List.foldl_cons, feedOne_inactive (h k (by simp))]
    exact ih fun j hj => h j (by simp [hj])

/-- The checker of the core in focus is fed the word that it has retired. -/
theorem feedOne_here {s u : State} {w : Word} {i : Instr} (hd : decode w = .ok i) (hh : s.me.hints = .none) (hu : u.here = s.here)
    (hl : u.me.live = true) (ha : s.me.sigActive = true) (hr : u.me.nretired ≠ s.me.nretired) :
    feedOne s w u s.here = u.sigFeed w i s.me.pc s.me.ctl.pix := by
  have hme : u.coreAt s.here = u.me := by rw [← hu, coreAt_here]
  have hfeed : s.feedCore u s.here w = u.sigFeed w i s.me.pc s.me.ctl.pix := by
    have hat : s.retiredAt s.here = s.me := by rw [State.retiredAt, coreAt_here, ite_self]
    have hword : s.retiredWord s.here w = w := if_pos rfl
    have hchain : s.me.hints.chain = [] := by rw [hh]; rfl
    simp only [State.feedCore, hat, hword, hd, hchain, List.foldl_nil, ite_self]
  have hcond : ((s.coreAt s.here).sigActive && (u.coreAt s.here).live && (s.coreAt s.here).nretired != (u.coreAt s.here).nretired) = true := by
    rw [coreAt_here, hme, ha, hl]
    simpa using Ne.symm hr
  refine (if_pos hcond).trans ?_
  rw [State.at, focus_of_here hu.symm, hfeed, focus_of_here (sigFeed_here ..).symm]

/-! ## A core alone -/

theorem leave_nil (s : State) (xs : List TrailWord) : s.leave [] xs = s := rfl

theorem followers_of_not_leader {s : State} (h : ¬ (s.me.bond = .follow ∧ s.me.rank = 0)) : s.followers = [] := if_neg h

theorem handOn_of_not_leader {s : State} (h : ¬ (s.me.bond = .follow ∧ s.me.rank = 0)) (u : State) (w : Word) (i : Instr) :
    s.handOn u w i = u := by
  rw [State.handOn, followers_of_not_leader h, List.filter_nil, leave_nil, ite_self]

theorem keepUp_of_not_follower {u : State} (h : u.me.bond ≠ .follow ∨ u.me.rank = 0) (s : State) (i : Instr) : s.keepUp u i = u := by
  unfold State.keepUp
  simp only
  split
  · rfl
  · exact if_pos h

theorem afterWord_retired {s u : State} (h : u.me.nretired ≠ s.me.nretired) (w : Word) (i : Instr) :
    s.afterWord u w i = s.feedAll (s.keepUp (s.handOn u w i) i) w := if_neg h

/-- Nothing but the checkers follows a word on a core in no follow bond (R147, R160). -/
theorem loneWord : LoneWord := by
  intro s u w i hb hh hu
  have hshare : u.me.nretired = s.me.nretired → s.afterWord u w i = u := fun h =>
    (if_pos h).trans (if_neg fun hc => hu hc.1)
  have hfeed : u.me.nretired ≠ s.me.nretired → s.afterWord u w i = s.feedAll u w := fun h => by
    rw [afterWord_retired h, handOn_of_not_leader (by simp [hb]), keepUp_of_not_follower (.inl hu)]
  refine ⟨hshare, hfeed, fun ha => ?_, fun hr hd hhints _ hhere hlive hact hothers hn hmem => ?_⟩
  · by_cases h : u.me.nretired = s.me.nretired
    · exact hshare h
    · rw [hfeed h, feedAll_inactive ha]
  · rw [hfeed hr, feedAll_eq, foldl_feedOne u hn hothers, if_pos hmem, feedOne_here hd hhints hhere hlive hact hr]

end Sys2Proof.Proofs
end
section
/-! The record of a word, its CRC-32C, and the producers in a pass (R160, R161). -/

namespace Sys2Proof.Proofs
open Machine Claims

/-! ## Records (Table 8 of 06) -/

theorem ofNat_field {n : Nat} (x : BitVec n) (lo k : Nat) : BitVec.ofNat 8 (field x lo k) = (x.extractLsb' lo k).setWidth 8 :=
  BitVec.ofNat_toNat _ _

/-- A record: its five bytes and the two producers. -/
def record (b0 b1 b2 b3 b4 : Byte) (p q : Nat) : List Byte := [b0, b1, b2, b3, b4] ++ leBytes 3 (p + 4096 * q)

section
variable (p q : Nat) {op : BitVec 7}

theorem sigRecord_fmtR (d a b : Reg) (fn : BitVec 7) (h : fmtOf (fmtR op d a b fn) = .r) :
    sigRecord (fmtR op d a b fn) p q = record (op.setWidth 8) (fn.setWidth 8) (d.setWidth 8) (a.setWidth 8) (b.setWidth 8) p q := by
  have hfn : BitVec.ofNat 8 ((fmtR op d a b fn).toNat % 128) = fn.setWidth 8 :=
    (congrArg (BitVec.ofNat 8) (joinFn_fmtR op d a b fn)).trans (BitVec.ofNat_toNat _ _)
  simp only [sigRecord, h, ofNat_field, hfn]
  rw [← fOp, ← fD, ← fA, ← fB, Laws.fOp_fmtR, Laws.fD_fmtR, Laws.fA_fmtR, Laws.fB_fmtR]
  rfl

/-- The I, S and B formats have their fields at the same bits. -/
theorem sigRecord_fmtI (d a : Reg) (imm : BitVec 13)
    (h : fmtOf (fmtI op d a imm) = .i ∨ fmtOf (fmtI op d a imm) = .s ∨ fmtOf (fmtI op d a imm) = .b) :
    sigRecord (fmtI op d a imm) p q = record (op.setWidth 8) 0 (d.setWidth 8) (a.setWidth 8) 0 p q := by
  rcases h with h | h | h
  all_goals
    simp only [sigRecord, h, ofNat_field]
    rw [← fOp, ← fD, ← fA, Laws.fOp_fmtI, Laws.fD_fmtI, Laws.fA_fmtI]
    rfl

theorem sigRecord_fmtJ (off : BitVec 25) (h : fmtOf (fmtJ op off) = .j) :
    sigRecord (fmtJ op off) p q = record (op.setWidth 8) 0 0 0 0 p q := by
  simp only [sigRecord, h, ofNat_field]
  rw [← fOp, Laws.fOp_fmtJ]
  rfl

theorem sigRecord_fmtV (d a b : Reg) (r : PReg) (ty : ElemTy) (x : Bool) (h : fmtOf (fmtV op d a b r ty x) = .v) :
    sigRecord (fmtV op d a b r ty x) p q = record (op.setWidth 8) 0 (d.setWidth 8) (a.setWidth 8) (b.setWidth 8) p q := by
  simp only [sigRecord, h, ofNat_field]
  rw [← fOp, ← fD, ← fA, ← fB, Laws.fOp_fmtV, Laws.fD_fmtV, Laws.fA_fmtV, Laws.fB_fmtV]
  rfl

theorem sigRecord_fmtM (z : ZReg) (ev : BitVec 4) (k : Bool) (a b : Reg) (fn : BitVec 5) (h : fmtOf (fmtM op z ev k a b fn) = .m) :
    sigRecord (fmtM op z ev k a b fn) p q =
      record (op.setWidth 8) (fn.setWidth 8) (z.setWidth 8) (a.setWidth 8) (b.setWidth 8) p q := by
  have hfn : BitVec.ofNat 8 ((fmtM op z ev k a b fn).toNat % 32) = fn.setWidth 8 :=
    (congrArg (BitVec.ofNat 8) (Laws.low_fmtM op z ev k a b fn)).trans (BitVec.ofNat_toNat _ _)
  simp only [sigRecord, h, ofNat_field, hfn]
  rw [← fOp, ← fZ, ← fMa, ← fMb, Laws.fOp_fmtM, Laws.fZ_fmtM, Laws.fMa_fmtM, Laws.fMb_fmtM]
  rfl

theorem sigRecord_fmtH (kind : BitVec 3) (payload : BitVec 22) (h : fmtOf (fmtH kind payload) = .h) :
    sigRecord (fmtH kind payload) p q = record 0x7E (kind.setWidth 8) 0 0 0 p q := by
  simp only [sigRecord, h, ofNat_field]
  rw [← fOp, Laws.fOp_fmtH, Laws.slice_22_3_fmtH]
  rfl

end

/-- The function field of MMA: closing and type. -/
theorem mmaFn_eq (mc : Bool) (m : MmaTy) : BitVec.setWidth 8 ((0 : BitVec 1) ++ BitVec.ofBool mc ++ MmaTy.code m) =
    BitVec.ofNat 8 ((if mc then 8 else 0) + (MmaTy.code m).toNat) := by
  cases mc <;> cases m <;> rfl

/-! ## CRC-32C (R161) -/

/-- One step of the CRC by a bit of its byte. -/
def crcBit (b : Byte) (r : BitVec 32) (k : Nat) : BitVec 32 :=
  (r >>> 1) ^^^ (if r.getLsbD 0 = b.getLsbD k then 0 else (0x1EDC6F41 : BitVec 32).reverse)

/-- One step of the CRC with the byte added to the register beforehand. -/
def crcShift (c : BitVec 32) (_ : Nat) : BitVec 32 := if c.getLsbD 0 then (c >>> 1) ^^^ 0x82F63B78 else c >>> 1

theorem poly_reverse : (0x1EDC6F41 : BitVec 32).reverse = 0x82F63B78 := by decide +kernel

/-- Adding the byte first or bit by bit: the registers differ by the bits that are still to come. -/
theorem crcShift_step (b : Byte) (r : BitVec 32) (k : Nat) :
    crcShift (r ^^^ (b.setWidth 32 >>> k)) k = crcBit b r k ^^^ (b.setWidth 32 >>> (k + 1)) := by
  have hbit : (r ^^^ (b.setWidth 32 >>> k)).getLsbD 0 = (r.getLsbD 0 ^^ b.getLsbD k) := by
    have hk : k < 32 ∨ b.getLsbD k = false := by
      by_cases h : k < 32
      · exact .inl h
      · exact .inr (BitVec.getLsbD_of_ge b k (by omega))
    rcases hk with hk | hk <;> simp [hk]
  have hshift : (r ^^^ (b.setWidth 32 >>> k)) >>> 1 = r >>> 1 ^^^ (b.setWidth 32 >>> (k + 1)) := by
    rw [BitVec.ushiftRight_xor_distrib, BitVec.shiftRight_add]
  unfold crcShift crcBit
  rw [hbit, hshift, poly_reverse]
  by_cases h : r.getLsbD 0 = b.getLsbD k
  · rw [if_pos h, h, Bool.xor_self, if_neg Bool.false_ne_true]
    exact congrArg (· ^^^ _) BitVec.xor_zero.symm
  · rw [if_neg h, if_pos (by simpa using h), BitVec.xor_assoc, BitVec.xor_assoc, BitVec.xor_comm 0x82F63B78]

theorem crcShift_foldl (b : Byte) (c : BitVec 32) : ∀ n : Nat,
    (List.range n).foldl crcShift (c ^^^ b.setWidth 32) = (List.range n).foldl (crcBit b) c ^^^ (b.setWidth 32 >>> n)
  | 0 => by simp
  | n + 1 => by
    rw [List.range_succ, List.foldl_append, List.foldl_append, crcShift_foldl b c n]
    exact crcShift_step b _ n

theorem crcByte_eq (c : BitVec 32) (b : Byte) : crcByte c b = (List.range 8).foldl (crcBit b) c := by
  have hzero : b.setWidth 32 >>> 8 = 0#32 := BitVec.eq_of_toNat_eq (by
    rw [BitVec.toNat_ushiftRight, BitVec.toNat_setWidth_of_le (by decide), Nat.shiftRight_eq_div_pow]
    exact Nat.div_eq_of_lt b.isLt)
  exact (crcShift_foldl b c 8).trans (by rw [hzero, BitVec.xor_zero])

/-! ## Producers (R160) -/

/-- A word of a pass writes a register. -/
def Writes (ws : List Word) (x : RFile × Nat) (n : Nat) : Prop := ∃ w i, ws[n]? = some w ∧ decode w = .ok i ∧ x ∈ dests i

/-- The word writes the register. -/
def WritesReg (w : Word) (x : RFile × Nat) : Prop := ∃ i, decode w = .ok i ∧ x ∈ dests i

theorem writes_lt {ws : List Word} {x : RFile × Nat} {n : Nat} (h : Writes ws x n) : n < ws.length := by
  obtain ⟨w, i, hw, -⟩ := h
  exact (List.getElem?_eq_some_iff.mp hw).1

theorem writes_append {ws : List Word} {w : Word} {x : RFile × Nat} {n : Nat} :
    Writes (ws ++ [w]) x n ↔ Writes ws x n ∨ (n = ws.length ∧ WritesReg w x) := by
  constructor
  · rintro ⟨v, i, hv, hd, hx⟩
    by_cases hn : n < ws.length
    · exact .inl ⟨v, i, by rwa [List.getElem?_append_left hn] at hv, hd, hx⟩
    · rw [List.getElem?_append_right (by omega)] at hv
      obtain ⟨hlt, rfl⟩ := List.getElem?_eq_some_iff.mp hv
      rw [List.length_singleton] at hlt
      exact .inr ⟨by omega, i, by simpa using hd, hx⟩
  · rintro (h | ⟨rfl, i, hd, hx⟩)
    · have hn := writes_lt h
      obtain ⟨v, i, hv, hd, hx⟩ := h
      exact ⟨v, i, by rwa [List.getElem?_append_left hn], hd, hx⟩
    · exact ⟨w, i, by simp, hd, hx⟩

/-- A word that writes the register, after others, is its last producer. -/
theorem producer_append_writes {w : Word} {x : RFile × Nat} (h : WritesReg w x) (ws : List Word) :
    producer (ws ++ [w]) (some x) = ws.length := by
  obtain ⟨i, hd, hx⟩ := h
  simp [producer, List.zipIdx_append, hd, hx]

theorem producer_append_other {w : Word} {x : RFile × Nat} (h : ¬ WritesReg w x) (ws : List Word) :
    producer (ws ++ [w]) (some x) = producer ws (some x) := by
  cases hd : decode w with
  | error e => simp [producer, List.zipIdx_append, hd]
  | ok i =>
    have hx : x ∉ dests i := fun hx => h ⟨i, hd, hx⟩
    simp [producer, List.zipIdx_append, hd, hx]

/-- The producer is the last word of the pass that writes the register. -/
theorem producer_spec (x : RFile × Nat) (ws : List Word) : ((∀ n, ¬ Writes ws x n) → producer ws (some x) = 0xFFF) ∧
    ∀ n, Writes ws x n → (∀ k, n < k → ¬ Writes ws x k) → producer ws (some x) = n := by
  induction ws using List.reverseRecOn with
  | nil => exact ⟨fun _ => rfl, fun n hn => absurd (writes_lt hn) (Nat.not_lt_zero n)⟩
  | append_singleton ws w ih =>
    by_cases hw : WritesReg w x
    · have hlast : Writes (ws ++ [w]) x ws.length := writes_append.mpr (.inr ⟨rfl, hw⟩)
      refine ⟨fun h => absurd hlast (h _), fun n hn h => ?_⟩
      have hle : ws.length ≤ n := Nat.le_of_not_lt fun hlt => h _ hlt hlast
      rcases writes_append.mp hn with hn | ⟨rfl, -⟩
      · exact absurd (writes_lt hn) (by omega)
      · exact producer_append_writes hw ws
    · have hsame : ∀ n, Writes (ws ++ [w]) x n ↔ Writes ws x n := fun n =>
        writes_append.trans (or_iff_left fun h => hw h.2)
      simp only [hsame, producer_append_other hw]
      exact ih

/-- The clauses of Records. -/
theorem records : Records := by
  refine ⟨fun p q d a b imm off size o p0 ty h z ev k mc m taken gap => ⟨?_, ?_, ?_, ?_, ?_, ?_, ?_, ?_⟩, crcByte_eq, fun bs => ?_,
    fun c bs cs => ?_, fun ws x => ⟨rfl, producer_spec x ws⟩⟩
  · exact sigRecord_fmtR p q d a b _ (by rw [fmtOf, Laws.fOp_fmtR]; rfl)
  · exact sigRecord_fmtI p q d a imm (.inl (by rw [fmtOf, Laws.fOp_fmtI]; rfl))
  · exact sigRecord_fmtI p q a b imm (.inr (.inr (by rw [fmtOf, Laws.fOp_fmtI]; rfl)))
  · exact sigRecord_fmtJ p q off (by rw [fmtOf, Laws.fOp_fmtJ]; rfl)
  · exact sigRecord_fmtI p q d a (size.code ++ (0 : BitVec 1) ++ o) (.inr (.inl (by rw [fmtOf, Laws.fOp_fmtI]; rfl)))
  · exact sigRecord_fmtV p q d a b p0 ty h (by rw [fmtOf, Laws.fOp_fmtV]; rfl)
  · exact (sigRecord_fmtM p q z ev k a b ((0 : BitVec 1) ++ BitVec.ofBool mc ++ MmaTy.code m)
      (by rw [fmtOf, Laws.fOp_fmtM]; rfl)).trans (by rw [mmaFn_eq]; rfl)
  · exact sigRecord_fmtH p q 3 ((0 : BitVec 17) ++ BitVec.ofBool taken ++ gap) (by rw [fmtOf, Laws.fOp_fmtH]; rfl)
  · rfl
  · simp only [crcOver, List.foldl_append, BitVec.not_not]

end Sys2Proof.Proofs
end
section
/-! The signature checker: how it is fed, where a block ends, and when a mismatch is raised (R160 to R162). -/

namespace Sys2Proof.Proofs
open Machine Claims

theorem sigFeed_plain {i : Instr} (hs : shared i = true) (ht : trapsAfter i = false) (s : State) (w : Word) (pc pix : W64) :
    s.sigFeed w i pc pix = (s.sigWordIn w pc).sigBlockEnd pc s.me.pc := by
  unfold State.sigFeed
  split
  · cases hs
  · cases ht
  · cases ht
  · rfl

/-! ## A word joins its block (R160, R161) -/

/-- The flags of a block entry are its byte 7. -/
theorem sigFlag (b : BitVec 128) {k : Nat} (hk : k < 8) : (b.extractLsb' 56 8).getLsbD k = b.getLsbD (56 + k) := by
  simp [hk]

section
variable {s : State} (hp : s.me.sigPend = none)
include hp

theorem sigWordIn_past {w : Word} {pc : W64} (h : field (s.sigBlock s.me.sigParts.1) 32 16 ≤ s.me.sigParts.2.1) :
    s.sigWordIn w pc = s.sigFail pc := by
  rw [State.sigWordIn, hp]
  exact if_pos h

theorem sigWordIn_within {w : Word} {i : Instr} {pc : W64} (hd : decode w = .ok i)
    (h : s.me.sigParts.2.1 < field (s.sigBlock s.me.sigParts.1) 32 16) :
    let b := s.sigBlock s.me.sigParts.1
    let ws := s.passWords (s.me.ctl.sigtext + w64 (field b 0 32)) s.me.sigParts.2.1
    s.sigWordIn w pc = { s with me := { s.me with
      ctl.sigst := sigWord s.me.sigParts.1 (s.me.sigParts.2.1 + 1) (if b.getLsbD 59 then s.me.sigParts.2.2
        else crcOver s.me.sigParts.2.2 (sigRecord w (producer ws (vSource (regUse i).src1)) (producer ws (vSource (regUse i).src2)))),
      pass := ws ++ [w] } } := by
  have hflag := sigFlag (s.sigBlock s.me.sigParts.1) (k := 3) (by omega)
  simp only [State.sigWordIn, hp, hd, hflag, if_neg (Nat.not_le_of_lt h)]
  rfl

/-! ## Where a block ends (R161, R162) -/

omit hp in
theorem sigBlockEnd_eq (s : State) (pc next : W64) : s.sigBlockEnd pc next =
    if s.me.sigPend.isSome || (decide (s.me.sigParts.2.1 < field (s.sigBlock s.me.sigParts.1) 32 16) && next == pc + 4) then s
    else s.sigCheck pc next := rfl

omit hp in
theorem sigBlockEnd_within {pc next : W64} (h : s.me.sigParts.2.1 < field (s.sigBlock s.me.sigParts.1) 32 16) (hn : next = pc + 4) :
    s.sigBlockEnd pc next = s := by
  rw [sigBlockEnd_eq, decide_eq_true h, hn, beq_self_eq_true, Bool.and_self, Bool.or_true]
  exact if_pos rfl

theorem sigBlockEnd_end {pc next : W64} (h : field (s.sigBlock s.me.sigParts.1) 32 16 ≤ s.me.sigParts.2.1 ∨ next ≠ pc + 4) :
    s.sigBlockEnd pc next = s.sigCheck pc next := by
  rw [sigBlockEnd_eq, hp]
  refine if_neg ?_
  rcases h with h | h
  · rw [decide_eq_false (Nat.not_lt_of_le h)]; exact Bool.false_ne_true
  · rw [beq_false_of_ne h, Bool.and_false]; exact Bool.false_ne_true

end

/-- A block starts at an address. -/
def BlockStarts (s : State) (next : W64) (n : Nat) : Prop :=
  n < s.sigCount ∧ s.me.ctl.sigtext + w64 (field (s.sigBlock n) 0 32) = next

theorem blockAt_some {s : State} {next : W64} {n : Nat} :
    s.blockAt next s.sigCount = some n ↔ BlockStarts s next n ∧ ∀ k, k < n → ¬ BlockStarts s next k := by
  rw [State.blockAt, List.find?_range_eq_some]
  simp only [BlockStarts, List.mem_range, beq_iff_eq, Bool.not_eq_true', beq_eq_false_iff_ne, not_and]
  constructor
  · rintro ⟨ha, hn, hfirst⟩
    exact ⟨⟨hn, ha⟩, fun k hk _ => hfirst k hk⟩
  · rintro ⟨⟨hn, ha⟩, hfirst⟩
    exact ⟨ha, hn, fun k hk => hfirst k hk (hk.trans hn)⟩

/-- One block may follow another. -/
def BlockAllowed (s : State) (b : BitVec 128) (n : Nat) : Prop :=
  b.getLsbD 59 = true ∨
    (b.getLsbD 58 = true ∧ ((s.sigBlock n).getLsbD 56 = true ∨ (s.sigBlock n).getLsbD 57 = true)) ∨
    (b.getLsbD 58 = false ∧ ∃ k, k < field b 48 8 ∧
      (s.glance s.me.space (s.me.ctl.sigtab + w64 (16 * s.sigCount + 4 * (field b 96 32 + k))) 4).getD 0 = n)

theorem sigNextOk_iff (s : State) (b : BitVec 128) (n : Nat) : s.sigNextOk b n = true ↔ BlockAllowed s b n := by
  have h0 := sigFlag (s.sigBlock n) (k := 0) (by omega)
  have h1 := sigFlag (s.sigBlock n) (k := 1) (by omega)
  have h2 := sigFlag b (k := 2) (by omega)
  have h3 := sigFlag b (k := 3) (by omega)
  simp only [State.sigNextOk, BlockAllowed, h0, h1, h2, h3]
  cases b.getLsbD (56 + 3) <;> cases b.getLsbD (56 + 2) <;> simp

/-- The CRC is right, and the block may be followed by the next. -/
def BlockGood (s : State) (n : Nat) : Prop :=
  ((s.sigBlock s.me.sigParts.1).getLsbD 59 = true ∨ s.me.sigParts.2.2 = (s.sigBlock s.me.sigParts.1).extractLsb' 64 32) ∧
    BlockAllowed s (s.sigBlock s.me.sigParts.1) n

theorem sigCheck_good {s : State} {pc next : W64} {n : Nat} (hn : BlockStarts s next n) (hfirst : ∀ k, k < n → ¬ BlockStarts s next k)
    (hg : BlockGood s n) : s.sigCheck pc next = { s with me := { s.me with ctl.sigst := sigWord n 0 0, pass := [] } } := by
  obtain ⟨hcrc, hallow⟩ := hg
  have hflag := sigFlag (s.sigBlock s.me.sigParts.1) (k := 3) (by omega)
  have hcond : ¬ (!(s.sigBlock s.me.sigParts.1).getLsbD (56 + 3) &&
      s.me.sigParts.2.2 != (s.sigBlock s.me.sigParts.1).extractLsb' 64 32) = true := by
    rcases hcrc with h | h <;> simp [h]
  simp only [State.sigCheck, hflag, if_neg hcond, blockAt_some.mpr ⟨hn, hfirst⟩, (sigNextOk_iff s _ n).mpr hallow, if_true]

theorem sigCheck_bad {s : State} {pc next : W64}
    (h : ∀ n, BlockStarts s next n → (∀ k, k < n → ¬ BlockStarts s next k) → ¬ BlockGood s n) : s.sigCheck pc next = s.sigFail pc := by
  have hflag := sigFlag (s.sigBlock s.me.sigParts.1) (k := 3) (by omega)
  simp only [State.sigCheck, hflag]
  split
  · rfl
  · next hcrc =>
    split
    · rfl
    · next n hb =>
      obtain ⟨hn, hfirst⟩ := blockAt_some.mp hb
      refine if_neg fun hok => h n hn hfirst ⟨?_, (sigNextOk_iff s _ n).mp hok⟩
      simpa [or_iff_not_imp_left] using hcrc

/-! ## Repetitions of REPV (R161) -/

/-- The words of a sequence as repetition 0 fed them. -/
def fedSeq (s : State) : List Word :=
  let ws := s.passWords (s.me.ctl.sigtext + w64 (field (s.sigBlock s.me.sigParts.1) 0 32)) s.me.sigParts.2.1
  ws.drop (ws.length - s.me.seq.length)

/-- The first word of a repetition, from word j up, that differs from the one that repetition 0 fed. -/
def changedWord (s : State) (j k : Nat) : Option Nat :=
  ((List.range (k - j)).find? fun n => s.me.seq[n + j]? != (fedSeq s)[n + j]?).map (· + j)

theorem sigAgain_eq (s : State) (pc : W64) (j k : Nat) : s.sigAgain pc j k =
    match changedWord s j k with
    | some i => if s.me.sigPend.isSome then s else s.sigFail (pc + 4 + w64 (4 * i))
    | none => s := by
  rw [changedWord, ← Function.comp_def (f := fun i => s.me.seq[i]? != (fedSeq s)[i]?), ← List.find?_map]
  rfl

theorem sigAgain_same {s : State} {j k : Nat} (h : ∀ n, j ≤ n → n < k → s.me.seq[n]? = (fedSeq s)[n]?) (pc : W64) :
    s.sigAgain pc j k = s := by
  have hnone : changedWord s j k = none := by
    rw [changedWord, Option.map_eq_none_iff, List.find?_range_eq_none]
    intro n hn
    simpa using h (n + j) (by omega) (by omega)
  simp only [sigAgain_eq, hnone]

theorem sigAgain_changed {s : State} {j k n : Nat} (hp : s.me.sigPend = none) (hj : j ≤ n) (hk : n < k)
    (hn : s.me.seq[n]? ≠ (fedSeq s)[n]?) (h : ∀ m, j ≤ m → m < n → s.me.seq[m]? = (fedSeq s)[m]?) (pc : W64) :
    s.sigAgain pc j k = s.sigFail (pc + 4 + w64 (4 * n)) := by
  have hsome : changedWord s j k = some n := by
    have hfind : (List.range (k - j)).find? (fun n => s.me.seq[n + j]? != (fedSeq s)[n + j]?) = some (n - j) := by
      rw [List.find?_range_eq_some]
      refine ⟨by rwa [Nat.sub_add_cancel hj, bne_iff_ne], List.mem_range.mpr (by omega), fun m hm => ?_⟩
      simpa using h (m + j) (by omega) (by omega)
    rw [changedWord, hfind, Option.map_some, Nat.sub_add_cancel hj]
  rw [sigAgain_eq, hsome, hp]
  rfl

/-! ## A pending mismatch (R162, R391) -/

theorem sigPending_here {s : State} {a : W64} (hb : s.me.bond ≠ .gang) (hp : s.me.sigPend = some a) : s.sigPending = some (s.here, a) := by
  simp only [State.sigPending, if_neg hb, List.findSome?_cons, coreAt_here, hp, Option.map_some]

theorem raiseAt_here {s : State} (hb : s.me.bond ≠ .gang) (c : Cause) (v : W64) : s.raiseAt s.here c v = s.raise c.code v s.me.trapPc := by
  rw [State.raiseAt, focus_of_here rfl]
  exact (if_neg hb).trans (focus_of_here (raise_here ..).symm)

theorem stepWord_sigTrap {s : State} {m : Member} {a : W64} (hb : s.me.bond ≠ .gang) (hi : s.me.interruptDue = false)
    (hp : s.me.sigPend = some a) (hm : s.me.member = some m) :
    s.stepWord = .next (({ s with me := { s.me with sigPend := none } } : State).raise 0x0E a s.me.trapPc) := by
  have hraise : (s.onCore s.here fun c => { c with sigPend := none }).raiseAt s.here .sigMismatch a =
      ({ s with me := { s.me with sigPend := none } } : State).raise 0x0E a s.me.trapPc := by
    rw [State.onCore, State.setCore, if_pos rfl, coreAt_here]
    exact raiseAt_here (s := { s with me := { s.me with sigPend := none } }) hb _ _
  have htrig : ({ s with me := { s.me with sigPend := none } } : State).isTrigger 0x0E = true := by
    simp [State.isTrigger, hm]
  have hmember : ((({ s with me := { s.me with sigPend := none } } : State).raise 0x0E a s.me.trapPc).coreAt s.here).member.isNone = false := by
    rw [State.raise, if_pos htrig, coreAt_setMe, if_pos rfl]
    exact congrArg Option.isNone hm
  simp only [State.stepWord, hi, sigPending_here hb hp, State.sigTrap, hraise, hmember]
  rfl

/-- The clauses of Checked. -/
theorem checked : Checked := by
  refine ⟨fun s w i pc pix hs ht => sigFeed_plain hs ht s w pc pix, fun s pc hp => ⟨fun w i hd => ⟨?_, ?_⟩, ?_, fun next h => ⟨?_, ?_⟩,
    fun j k _ => ⟨?_, ?_⟩⟩, fun _ _ => rfl, fun s m a hb hi hp hm => stepWord_sigTrap hb hi hp hm⟩
  · exact sigWordIn_past hp
  · exact sigWordIn_within hp hd
  · exact fun next => sigBlockEnd_within
  · exact fun n hn hfirst hg => (sigBlockEnd_end hp h).trans (sigCheck_good hn hfirst hg)
  · exact fun hbad => (sigBlockEnd_end hp h).trans (sigCheck_bad hbad)
  · exact fun hsame => sigAgain_same hsame pc
  · exact fun n hj hk hn hfirst => sigAgain_changed hp hj hk hn hfirst pc

end Sys2Proof.Proofs
end
section
/-! Follow strength: what a leader hands on, how a follower keeps up, and how the bond ends at a trap (R147 to R149, R389). -/

namespace Sys2Proof.Proofs
open Machine Claims

/-! ## Leaders and followers -/

theorem foldl_onCore_coreAt (f : Core → Core) (i : Nat) : ∀ {l : List Nat} (s : State), l.Nodup →
    (l.foldl (fun t k => t.onCore k f) s).coreAt i = if i ∈ l then f (s.coreAt i) else s.coreAt i
  | [], _, _ => rfl
  | k :: l, s, hn => by
    obtain ⟨hk, hn⟩ := List.nodup_cons.mp hn
    rw [List.foldl_cons, foldl_onCore_coreAt f i _ hn, coreAt_onCore]
    by_cases hik : i = k
    · subst hik; simp [hk]
    · simp [hik]

theorem followers_of_leader {s : State} (hb : s.me.bond = .follow) (hr : s.me.rank = 0) : s.followers = s.me.crew.filter s.follows :=
  if_pos ⟨hb, hr⟩

/-- A leader is no follower. -/
theorem ne_here_of_follows {s : State} {k : Nat} (hr : s.me.rank = 0) (h : s.follows k = true) : k ≠ s.here := by
  rintro rfl
  simp [State.follows, coreAt_here, hr] at h

theorem bond_of_follows {s : State} {k : Nat} (h : s.follows k = true) : (s.coreAt k).bond = .follow := by
  simp only [State.follows, Bool.and_eq_true, beq_iff_eq] at h
  exact h.1.1.1

theorem leave_here (s : State) (fs : List Nat) (xs : List TrailWord) : (s.leave fs xs).here = s.here :=
  foldl_leaves State.here _ (fun s _ => onCore_here s _ _) fs s

theorem leave_coreAt {fs : List Nat} (hn : fs.Nodup) (s : State) (xs : List TrailWord) (k : Nat) : (s.leave fs xs).coreAt k =
    if k ∈ fs then { s.coreAt k with trail := (s.coreAt k).trail ++ xs } else s.coreAt k :=
  foldl_onCore_coreAt _ k s hn

/-! ## A leader hands on its word (R147) -/

/-- Outside a HINT chain and REPV, a leader hands on the word alone. -/
theorem handed_single {s u : State} {i : Instr} (hh : s.me.hints = .none) (hi : shared i = true) (w : Word) (next : W64) :
    s.handed u w i next = [⟨s.me.pc, w, next, decision i s, u.me.seq, 1⟩] := by
  have hchain : s.me.hints.chain = [] := by rw [hh]; rfl
  simp only [State.handed, hchain, hi, ite_self, if_true]
  rfl

theorem afterWord_leader {s u : State} {w : Word} {i : Instr} (hb : s.me.bond = .follow)
    (hoff : ∀ k ∈ s.cores, (s.coreAt k).sigActive = false) (hret : u.me.nretired ≠ s.me.nretired) (hh : s.me.hints = .none)
    (hi : shared i = true) (hr : s.me.rank = 0) (hu : u.me.rank = 0) (hn : s.me.handed = false) (hc : s.me.crew.Nodup) (k : Nat) :
    ((s.afterWord u w i).coreAt k).trail = (u.coreAt k).trail ++
      (if k ∈ s.me.crew ∧ s.follows k = true ∧ (u.coreAt k).bond = .follow then
        [⟨s.me.pc, w, u.me.pc, decision i s, u.me.seq, 1⟩] else []) := by
  have hnodup : ((s.me.crew.filter s.follows).filter fun k => (u.coreAt k).bond == .follow).Nodup := (hc.filter _).filter _
  have hon : s.handOn u w i = u.leave ((s.me.crew.filter s.follows).filter fun k => (u.coreAt k).bond == .follow)
      [⟨s.me.pc, w, u.me.pc, decision i s, u.me.seq, 1⟩] := by
    rw [State.handOn, hn, followers_of_leader hb hr, handed_single hh hi]
    rfl
  have hrank : (s.handOn u w i).me.rank = 0 := by
    rw [hon, ← coreAt_here, leave_here, leave_coreAt hnodup, coreAt_here]
    split <;> exact hu
  rw [afterWord_retired hret, feedAll_inactive hoff, keepUp_of_not_follower (.inr hrank), hon, leave_coreAt hnodup]
  simp only [List.mem_filter, beq_iff_eq, and_assoc]
  split
  · rfl
  · exact (List.append_nil _).symm

/-! ## A follower keeps up or is released (R148) -/

/-- A core without what the release of a follower changes of its leader. -/
def unreleased (c : Core) : Core := { c with released := false }

theorem leaveBond_follower_coreAt {s : State} (hb : s.me.bond = .follow) (hr : s.me.rank ≠ 0) {k : Nat} (hk : k ≠ s.here) :
    unreleased (s.leaveBond.coreAt k) = unreleased (s.coreAt k) := by
  simp only [State.leaveBond, hb, if_neg hr]
  rw [coreAt_setMe, if_neg (by rwa [onCore_here]), coreAt_onCore]
  split
  · split <;> rfl
  · rfl

theorem keepUp_follower {s u : State} {i : Instr} {x : TrailWord} {rest : List TrailWord} (hh : s.me.hints = .none)
    (hi : shared i = true) (hb : u.me.bond = .follow) (hr : u.me.rank ≠ 0) (ht : u.me.trail = x :: rest) :
    s.keepUp u i = u.followed 1 (decision i s) x := by
  have hpart : partway i u.me = false := by
    cases i
    case repv => cases hi
    all_goals rfl
  have hn : (if s.me.trail.head?.map (·.pc) = s.me.hints.start then s.me.hints.words.length else 0) = 0 := by
    rw [hh]
    exact ite_self 0
  have hx : u.me.trail[0]? = some x := by rw [ht]; rfl
  simp only [State.keepUp, hn, hx, hpart, if_neg (not_or.mpr ⟨not_not.mpr hb, hr⟩), Bool.false_eq_true, if_false]

theorem afterWord_follower {s u : State} {w : Word} {i : Instr} {x : TrailWord} {rest : List TrailWord}
    (hoff : ∀ k ∈ s.cores, (s.coreAt k).sigActive = false) (hret : u.me.nretired ≠ s.me.nretired) (hh : s.me.hints = .none)
    (hi : shared i = true) (hr : s.me.rank ≠ 0) (hb : u.me.bond = .follow) (hu : u.me.rank ≠ 0) (ht : u.me.trail = x :: rest) :
    s.afterWord u w i = u.followed 1 (decision i s) x := by
  rw [afterWord_retired hret, feedAll_inactive hoff, handOn_of_not_leader (fun h => hr h.2), keepUp_follower hh hi hb hu ht]

section
variable {u : State} {x : TrailWord} {rest : List TrailWord} {choice : Nat}
  (ht : u.me.trail = x :: rest) (ho : u.me.orphan = false)
include ht ho

theorem followed_same (hpc : u.me.pc = x.next) (hc : choice = x.choice) :
    u.followed 1 choice x = { u with me := { u.me with trail := rest } } := by
  simp only [State.followed, hpc, hc, ht, ho]
  simp

theorem followed_differs (h : u.me.pc ≠ x.next ∨ choice ≠ x.choice) :
    u.followed 1 choice x = ({ u with me := { u.me with trail := rest } } : State).leaveBond := by
  have hnot : ¬ (u.me.pc = x.next ∧ choice = x.choice) := by tauto
  simp only [State.followed, if_neg hnot, ht, ho]
  rfl

/-- A follower that differs from its leader goes on alone; of the other cores at most the leader's note of it changes. -/
theorem followed_released (hb : u.me.bond = .follow) (hr : u.me.rank ≠ 0) (h : u.me.pc ≠ x.next ∨ choice ≠ x.choice) :
    let t := u.followed 1 choice x
    t.me.bond = .none ∧ t.me.pc = u.me.pc ∧ t.me.trail = [] ∧ t.me.regs = u.me.regs ∧
      ∀ k, k ≠ u.here → unreleased (t.coreAt k) = unreleased (u.coreAt k) := by
  have hme : (u.followed 1 choice x).me = u.me.unbond := by
    rw [followed_differs ht ho h, leaveBond_me]
    exact if_neg (by rw [hb]; decide)
  refine ⟨by rw [hme]; rfl, by rw [hme]; rfl, by rw [hme]; rfl, by rw [hme]; rfl, fun k hk => ?_⟩
  rw [followed_differs ht ho h]
  refine (leaveBond_follower_coreAt (s := { u with me := { u.me with trail := rest } }) hb hr hk).trans ?_
  rw [coreAt_setMe, if_neg hk]

end

/-! ## The decision of a word (R148) -/

theorem decision_mod_two (i : Instr) (s : State) : decision i s % 2 = if Machine.takes i s = true then 1 else 0 := by
  rw [decision, Nat.add_mul_mod_self_left]
  cases Machine.takes i s <;> rfl

/-- The direction that a branch decides is its condition (R176). -/
theorem takes_branch {s : State} {i : Instr} {c : Bool} {off : BitVec 13} (h : branchRule s i = some (c, off)) : Machine.takes i s = c := by
  unfold branchRule at h
  split at h
  case h_7 => cases h
  all_goals obtain ⟨rfl, rfl⟩ := Prod.mk.inj (Option.some.inj h)
  · rfl
  · simp [Machine.takes, bne, Bool.beq_eq_decide_eq]
  · exact BitVec.slt_eq_decide
  · rw [Machine.takes, BitVec.slt_eq_decide, ← decide_not, decide_eq_decide, not_lt]
  · exact BitVec.ult_eq_decide
  · rw [Machine.takes, BitVec.ult_eq_decide, ← decide_not, decide_eq_decide, not_lt]

/-! ## A leader that stalls, and where a follower's words come from (R147) -/

theorem sigPending_none {s : State} (hb : s.me.bond ≠ .gang) (hp : s.me.sigPend = none) : s.sigPending = none := by
  simp only [State.sigPending, if_neg hb, List.findSome?_cons, coreAt_here, hp, Option.map_none, List.findSome?_nil]

theorem lagging_of_behind {t : State} {n : Nat} (hb : t.me.bond = .follow) (hr : t.me.rank = 0) (hn : t.me.issued = false)
    (h : ∃ k ∈ t.me.crew, t.follows k = true ∧ 64 < (t.coreAt k).behind + n) : t.lagging n = true := by
  obtain ⟨k, hk, hf, hlag⟩ := h
  rw [State.lagging, hn, followers_of_leader hb hr]
  exact List.any_eq_true.mpr ⟨k, List.mem_filter.mpr ⟨hk, hf⟩, decide_eq_true hlag⟩

theorem trailLeft_of_no_hints {c : Core} (h : c.hints = .none) : c.trailLeft = c.trail := by
  rw [Core.trailLeft, h]
  exact ite_self _

/-- A follower that has words of its leader's to issue takes the oldest. -/
theorem fetchNext_handed {s : State} (hb : s.me.bond = .follow) (hr : s.me.rank ≠ 0) (hh : s.me.hints = .none) {x : TrailWord}
    {rest : List TrailWord} (ht : s.me.trail = x :: rest) : s.fetchNext = .ok (x.word, s.captureTaken x.word) := by
  simp only [State.fetchNext, if_pos (And.intro hb hr), trailLeft_of_no_hints hh, ht]

theorem fetchNext_empty {s : State} (hb : s.me.bond = .follow) (hr : s.me.rank ≠ 0) (hh : s.me.hints = .none) (ht : s.me.trail = []) :
    s.fetchNext = if s.me.orphan then ({ s with me := s.me.unbond } : State).fetchHere else .error (.wait .follow s) := by
  simp only [State.fetchNext, if_pos (And.intro hb hr), trailLeft_of_no_hints hh, ht]

/-! ## A trap ends the bond (R149, R389) -/

theorem trapEntry_follower_coreAt {s : State} (hb : s.me.bond = .follow) (hr : s.me.rank ≠ 0) (c : BitVec 8) (v a : W64) {k : Nat}
    (hk : k ≠ s.here) : unreleased (unpaired ((s.trapEntry c v a).coreAt k)) = unreleased (unpaired (s.coreAt k)) := by
  rw [trapEntry_coreAt_ne _ _ _ _ hk]
  exact congrArg unpaired (leaveBond_follower_coreAt hb hr hk)

/-- A leader that traps cuts each of its followers off. -/
theorem trapEntry_leader_coreAt {s : State} (hb : s.me.bond = .follow) (hr : s.me.rank = 0) (hc : s.me.crew.Nodup) (c : BitVec 8)
    (v a : W64) {k : Nat} (hk : k ∈ s.me.crew) (hf : s.follows k = true) :
    unpaired ((s.trapEntry c v a).coreAt k) = unpaired ((s.coreAt k).cutOff s.me) := by
  have hne := ne_here_of_follows hr hf
  rw [trapEntry_coreAt_ne _ _ _ _ hne]
  simp only [State.leaveBond, hb, if_pos hr]
  rw [coreAt_setMe, foldl_leaves State.here _ (fun s _ => onCore_here s _ _), if_neg hne, foldl_onCore_coreAt _ _ _ (hc.filter _),
    if_pos (List.mem_filter.mpr ⟨hk, hf⟩)]

/-- The clauses of Followed. -/
theorem followed : Followed := by
  refine ⟨fun s u w i hb hoff hret hhere hh hi => ⟨?_, ?_⟩, fun s i => ⟨?_, ?_⟩, ?_, fun s hb hr hh => ⟨?_, ?_, ?_⟩,
    fun s c v a hb hc => ⟨?_, ?_, ?_⟩⟩
  · exact fun hr hu hn hc k => afterWord_leader hb hoff hret hh hi hr hu hn hc k
  · intro x rest hr hub hur ht ho
    rw [afterWord_follower hoff hret hh hi hr hub hur ht]
    refine ⟨followed_same ht ho, fun h => ?_⟩
    obtain ⟨hbond, hpc, htrail, hregs, hothers⟩ := followed_released ht ho hub hur h
    exact ⟨hbond, hpc, htrail, hregs, fun k hk => ⟨(congrArg Core.pc (hothers k hk) :), (congrArg Core.bond (hothers k hk) :),
      (congrArg Core.regs (hothers k hk) :)⟩⟩
  · intro c off h
    rw [decision_mod_two, takes_branch h]
  · rintro a n len rfl
    rw [decision_mod_two]
    simp [Machine.takes]
  · intro s t w hb hi hp hf htb htr htn hlag
    simp only [State.stepWord, hi, sigPending_none hb hp, hf, lagging_of_behind htb htr htn hlag]
    rfl
  · exact fun x rest ht => fetchNext_handed hb hr hh ht
  · exact fun ht ho => (fetchNext_empty hb hr hh ht).trans (if_neg (by simp [ho]))
  · exact fun ht ho => (fetchNext_empty hb hr hh ht).trans (if_pos ho)
  · rw [trapEntry_me, if_neg (by rw [hb]; decide)]
    rfl
  · intro hr k hk
    have h := trapEntry_follower_coreAt hb hr c v a hk
    exact ⟨(congrArg Core.pc h :), (congrArg Core.bond h :), (congrArg Core.trail h :), (congrArg Core.regs h :)⟩
  · intro hr k hk hf
    have h := trapEntry_leader_coreAt hb hr hc c v a hk hf
    refine ⟨congrArg Core.orphan h, (congrArg Core.bond h).trans (bond_of_follows hf), (congrArg Core.trail h).trans ?_⟩
    simp [unpaired, Core.cutOff]

/-- Settles O6: a core alone, the records, the checker, and the words of followers. -/
theorem nothingFollowsALoneWord : Obligations.NothingFollowsALoneWord := ⟨loneWord, records, checked, followed⟩

end Sys2Proof.Proofs
end

section
/-! The results of the ALU (R165, R166). -/

namespace Sys2Proof.Proofs

/-- Settles O10, by the value of each instruction. -/
theorem aluResults : Obligations.AluResults := fun _ _ _ _ => alu_gives

end Sys2Proof.Proofs
end

section
/-! Jumps: their offsets, targets, links and words (R177, R178). -/

namespace Sys2Proof.Proofs
open Machine Claims

/-! ## Offsets and words -/

theorem toNat_append_eq {m n : Nat} (x : BitVec m) (y : BitVec n) : (x ++ y).toNat = x.toNat * 2 ^ n + y.toNat := by
  rw [BitVec.toNat_append, ← Nat.shiftLeft_add_eq_or_of_lt y.isLt, Nat.shiftLeft_eq]

theorem toNat_fmtI (op : BitVec 7) (d a : Reg) (imm : BitVec 13) :
    (fmtI op d a imm).toNat = op.toNat * 2 ^ 25 + d.toNat * 2 ^ 19 + a.toNat * 2 ^ 13 + imm.toNat := by
  simp only [fmtI, toNat_append_eq]
  ring

theorem toNat_fmtJ (op : BitVec 7) (off : BitVec 25) : (fmtJ op off).toNat = op.toNat * 2 ^ 25 + off.toNat :=
  toNat_append_eq op off

/-- Off of a J-format word: 25 bits of the word, below 22 of an open HINT.WIDE (R30). -/
def offRule (s : State) (off : BitVec 25) : Int :=
  match s.me.hints.wide with
  | none => off.toInt
  | some hi => hi.toInt * 2 ^ 25 + off.toNat

theorem offJ_eq (s : State) (off : BitVec 25) : s.offJ off = BitVec.ofInt 64 (offRule s off) := by
  cases h : s.me.hints.wide with
  | none =>
    simp only [State.offJ, offRule, h]
    exact sext_eq off (by decide)
  | some hi =>
    simp only [State.offJ, offRule, h]
    rw [sext_eq _ (by decide), BitVec.toInt_append]
    exact congrArg (fun x => BitVec.ofInt 64 (x + (off.toNat : Int))) (mul_comm _ _)

/-- The target of J and JAL (R177). -/
theorem pc_add_offJ (s : State) (off : BitVec 25) : s.me.pc + 4 * s.offJ off = s.me.pc + BitVec.ofInt 64 (4 * offRule s off) := by
  rw [BitVec.ofInt_mul, ← offJ_eq]
  rfl

/-! ## J and JAL (R177) -/

theorem exec_j {s : State} {off : BitVec 25} (h : Clear (.j off) s) :
    exec (.j off) s = .next (s.retire (.jump (s.me.pc + BitVec.ofInt 64 (4 * offRule s off)))) := by
  rw [← pc_add_offJ]
  exact (issue_clear h : execJ off s = _)

theorem exec_jal {s : State} {off : BitVec 25} (h : Clear (.jal off) s) : exec (.jal off) s =
    .next ((s.setG 63 (s.me.pc + 4)).retire (.jump (s.me.pc + BitVec.ofInt 64 (4 * offRule s off)))) := by
  rw [← pc_add_offJ]
  exact (issue_clear h : execJal off s = _)

/-! ## JALR and JR (R178) -/

/-- The target of JALR and JR. -/
def regTarget (s : State) (a : Reg) (imm : BitVec 13) : W64 := s.g a + BitVec.ofInt 64 (immRule s imm)

/-- A context alone takes the target from its own g[a]. -/
theorem jumpReg_alone (d a : Reg) (imm : BitVec 13) (s : State) : jumpReg d a imm ⟨[s.me], 0⟩ s =
    if (regTarget s a imm).toNat % 4 ≠ 0 then .trap .misalign (regTarget s a imm) s
    else .done (s.setG d (s.me.pc + 4)) (.jump (regTarget s a imm)) := by
  rw [regTarget, ← immS_eq]
  rfl

/-- To an aligned target they jump, with the link in g[d]. -/
theorem issueG_jumpReg_aligned {i : Instr} {s : State} {d a : Reg} {imm : BitVec 13} (h : Clear i s)
    (ht : (regTarget s a imm).toNat % 4 = 0) :
    issueG i (jumpReg d a imm) s = .next ((s.setG d (s.me.pc + 4)).retire (.jump (regTarget s a imm))) :=
  issueG_done h ((jumpReg_alone d a imm s).trans (if_neg (not_not_intro ht)))

/-- A misaligned target raises MISALIGN, with no register written. -/
theorem issueG_jumpReg_misaligned {i : Instr} {s : State} {d a : Reg} {imm : BitVec 13} (h : Clear i s)
    (ht : (regTarget s a imm).toNat % 4 ≠ 0) :
    issueG i (jumpReg d a imm) s = .next (s.trapEntry 0x03 (regTarget s a imm) s.me.trapPc) :=
  (issueG_trap h ((jumpReg_alone d a imm s).trans (if_pos ht))).trans (congrArg _ (raise_misalign s _ s.me.trapPc))

/-- Settles O13: JR is JALR whose link goes to g0, where nothing is written. -/
theorem jumpsGoToTheirTargets : Obligations.JumpsGoToTheirTargets := by
  refine ⟨fun s => ⟨fun off => ⟨exec_j, exec_jal⟩, fun d a imm ht => ⟨fun h => ?_, fun h => ?_⟩, fun t => rfl⟩,
    fun s d a imm ht => ⟨fun h => ?_, fun h => ?_⟩, fun d a imm => ⟨rfl, rfl, ?_, ?_⟩, fun off => ⟨rfl, rfl, ?_, ?_⟩⟩
  · exact issueG_jumpReg_aligned h ht
  · exact issueG_jumpReg_aligned h ht
  · exact issueG_jumpReg_misaligned h ht
  · exact issueG_jumpReg_misaligned h ht
  · exact toNat_fmtI 0x18 d a imm
  · exact (toNat_fmtI 0x18 0 a imm).trans (by simp)
  · exact toNat_fmtJ 0x16 off
  · exact toNat_fmtJ 0x17 off

end Sys2Proof.Proofs
end

section
/-! The records of the constant pool (R172, R173). -/

namespace Sys2Proof.Proofs
open Machine Claims

theorem poolRec_eq (s : State) (idx : BitVec 12) : s.poolRec idx = s.me.ctl.poolbase + w64 (16 * idx.toNat) := by
  rw [State.poolRec, w64_mul, zext, BitVec.toNat_setWidth_of_le (by decide)]
  rfl

/-- A pool load that succeeds is a load under no HINT.MEMPOL. -/
theorem poolLoad_ok {s t : State} {va : W64} {n x : Nat} (hl : s.noPol.load va n = .ok (x, t)) (rec : W64) :
    poolLoad s rec va n = .ok (x, t) := by
  rw [poolLoad, hl]

theorem exec_laddr {s t : State} {d a : Reg} {idx : BitVec 12} {x : Nat} (h : Clear (.laddr d a idx) s)
    (hl : s.noPol.load (s.poolRec idx) 8 = .ok (x, t)) :
    exec (.laddr d a idx) s = .next ((t.setG d (w64 x + s.g a)).retire .seq) := by
  refine (issue_clear h : execLaddr d a idx s = _).trans ?_
  rw [poolLoad_ok hl]
  rfl

theorem exec_laddrLen {s t : State} {d : Reg} {idx : BitVec 12} {x : Nat} (h : Clear (.laddrLen d idx) s)
    (hl : s.noPol.load (s.poolRec idx + 8) 4 = .ok (x, t)) :
    exec (.laddrLen d idx) s = .next ((t.setG d (w64 x)).retire .seq) := by
  refine (issue_clear h : execLaddrLen d idx s = _).trans ?_
  rw [poolLoad_ok hl]
  rfl

/-- Settles O14: the loads are those at the record's address and eight bytes on. -/
theorem poolRecordsAreRead : Obligations.PoolRecordsAreRead := by
  intro s t d a idx x
  rw [← poolRec_eq]
  refine ⟨fun h hl => ?_, fun h hl => exec_laddrLen h hl⟩
  have hsum : w64 (x + (s.g a).toNat) = w64 x + s.g a := by rw [w64, BitVec.ofNat_add, ← w64, ← w64, w64_toNat]
  rw [Gives, hsum]
  exact exec_laddr h hl

end Sys2Proof.Proofs
end
section
/-! Reports without enabled exceptions, registers and predicates formed from lists of elements (R190, R203, R206). -/

namespace Sys2Proof.Proofs
open Machine Claims

/-! ## Reports -/

theorem report_quiet {s : State} {fs : List (Nat × Nat)} (L : Nat) (h : ∀ f ∈ fs, f.2 &&& s.me.fpEnabled = 0) :
    s.report L fs = .ok { s with me := s.me.raiseFlags (allFlags fs) } := by
  rw [State.report, lowestEnabled_eq_none.mpr h]

theorem finishLanes_quiet {s : State} {rs : List (Option FpRes)} (d : Reg) (n : Nat)
    (h : ∀ f ∈ flagsFrom 0 rs, f.2 &&& s.me.fpEnabled = 0) :
    s.finishLanes d n rs = .ok (State.writeLanes { s with me := s.me.raiseFlags (allFlags (flagsFrom 0 rs)) } d n
      (rs.map fun r => r.map (·.bits))) := by
  rw [State.finishLanes, report_quiet _ h]
  rfl

/-- The exceptions of a list of results are those of its members. -/
theorem flagsFrom_quiet {en : Nat} {rs : List (Option FpRes)} (h : ∀ r, some r ∈ rs → r.flags &&& en = 0) :
    ∀ f ∈ flagsFrom 0 rs, f.2 &&& en = 0 := by
  rintro ⟨j, fl⟩ hf
  obtain ⟨k, r, hk, -, rfl⟩ := mem_flagsFrom.mp hf
  exact h r (List.mem_of_getElem? hk)

/-! ## Registers from lists -/

/-- An element of the register that a list of no more than 512 bits forms. -/
theorem elem_packLanes_getD {n : Nat} {l : List Nat} (hl : n * l.length ≤ 512) (k : Nat) :
    elem n (packLanes n l) k = l.getD k 0 % 2 ^ n := by
  have hlt := (packNat_lt n l).trans_le (pow_le_pow_right₀ one_le_two hl)
  rw [packLanes, elem, toNat_ofNat_of_lt hlt, packNat_elem]

/-- The elements of a register after some of them have been written. -/
theorem elem_writeLanes (s : State) {d : Reg} (hd : d.toNat < 56) {ty : ElemTy} (g : Nat → Option Nat) {k : Nat}
    (hk : k < 512 / ElemTy.width ty) :
    elem (ElemTy.width ty)
      ((s.writeLanes d (ElemTy.width ty) ((List.range (512 / ElemTy.width ty)).map g)).v d.toNat) k =
      (g k).elim (elem (ElemTy.width ty) (s.v d.toNat) k) (· % 2 ^ ElemTy.width ty) := by
  rw [State.writeLanes, v_setV_same hd, lanesOf_eq, mergeLanes_map, elem_packLanes (width_mul_lanes ty) _ hk]
  cases g k with
  | none => exact Nat.mod_eq_of_lt (elem_lt ..)
  | some x => rfl

/-- Writing a vector register changes nothing else. -/
theorem setV_onlyVector (s : State) (n : Nat) (x : V512) : OnlyVector s (s.setV n x) [n] := by
  refine ⟨⟨fun r hr => v_setV_ne (by simpa using hr) s x, fun r => ?_, fun r => ?_, fun z => ⟨?_, ?_⟩, ?_⟩, ?_⟩
  · rw [g_setV]
  · rw [p_setV]
  · rw [z_setV]
  · rw [zver_setV]
  · rw [setV_me_loc]
  · rw [setV_dev]

/-- Retirement changes nothing that a vector instruction may not. -/
theorem onlyVector_retire {s t : State} {ds : List Nat} (h : OnlyVector s t ds) : OnlyVector s (t.retire .seq) ds := by
  obtain ⟨⟨hv, hg, hp, hz, hloc⟩, hdev⟩ := h
  refine ⟨⟨fun r hr => ?_, fun r => ?_, fun r => ?_, fun z => ?_, ?_⟩, ?_⟩
  · rw [v_retire, hv r hr]
  · rw [g_retire, hg]
  · rw [p_retire, hp]
  · rw [z_retire, zver_retire]
    exact hz z
  · rw [retire_me_loc, hloc]
  · rw [retire_dev, hdev]

/-- One change after another, of the same registers or more. -/
theorem onlyVector_trans {s t u : State} {ds es : List Nat} (h : OnlyVector s t ds) (h' : OnlyVector t u es) :
    OnlyVector s u (ds ++ es) := by
  obtain ⟨⟨hv, hg, hp, hz, hloc⟩, hdev⟩ := h
  obtain ⟨⟨hv', hg', hp', hz', hloc'⟩, hdev'⟩ := h'
  refine ⟨⟨fun r hr => ?_, fun r => (hg' r).trans (hg r), fun r => (hp' r).trans (hp r),
    fun z => ⟨(hz' z).1.trans (hz z).1, (hz' z).2.trans (hz z).2⟩, hloc'.trans hloc⟩, hdev'.trans hdev⟩
  obtain ⟨hd, he⟩ := not_or.mp (mt List.mem_append.mpr hr)
  exact (hv' r he).trans (hv r hd)

theorem onlyVector_mono {s t : State} {ds es : List Nat} (h : OnlyVector s t ds) (hsub : ds ⊆ es) : OnlyVector s t es := by
  obtain ⟨⟨hv, hrest⟩, hdev⟩ := h
  exact ⟨⟨fun r hr => hv r fun hd => hr (hsub hd), hrest⟩, hdev⟩

/-- A bit of the predicate that a list of bits forms. -/
theorem getLsbD_packBits (l : List Nat) {k : Nat} (hk : k < 64) : (w64 (packNat 1 l)).getLsbD k = (l.getD k 0).testBit 0 := by
  have hbit := packNat_elem 1 l k
  rw [Nat.one_mul] at hbit
  rw [getLsbD_w64, decide_eq_true hk, Bool.true_and, Nat.testBit_eq_decide_div_mod_eq, Nat.testBit_eq_decide_div_mod_eq,
    ← Nat.pow_one 2, hbit]
  simp

end Sys2Proof.Proofs
end
section
/-! VCMP, VSEL and VCVT (R215 to R218). -/

namespace Sys2Proof.Proofs
open Machine Claims

/-! ## VCMP (R215) -/

theorem SameFiles.p {s t : State} (h : SameFiles s t) (r : PReg) : t.p r = s.p r := by
  simp only [State.p, h.1]

theorem SameFiles.g {s t : State} (h : SameFiles s t) (r : Reg) : t.g r = s.g r := by
  simp only [State.g, h.1]

/-- What VCMP makes of the state in which its sources have been taken: c k is the result of element k. -/
def compared (ty : ElemTy) (d : PReg) (p : PReg) (c : Nat → FpRes) (s s2 : State) : State :=
  let rs := laneResults (512 / ElemTy.width ty) (active s p) c
  State.setP { s2 with me := s2.me.raiseFlags (allFlags (flagsFrom 0 rs)) } d
    (w64 (packNat 1 (rs.map fun r => (r.map (·.bits)).getD 0)))

theorem maskedResults_eq {s s2 : State} (hf : SameFiles s s2) (p : PReg) (ty : ElemTy) (x y : V512) (f : Nat → Nat → FpRes) :
    activeRes (s2.me.mask p (Machine.ElemTy.lanes ty))
      (((lanesOf (ElemTy.width ty) x).zip (lanesOf (ElemTy.width ty) y)).map fun t => f t.1 t.2) =
    laneResults (512 / ElemTy.width ty) (active s p) fun k => f (elem (ElemTy.width ty) x k) (elem (ElemTy.width ty) y k) := by
  simp only [hf.mask, Machine.ElemTy.lanes, mask_eq s p (lanes_le ty), lanesOf_eq, List.zip_map', List.map_map, activeRes_map]
  rfl

theorem laneResults_quiet {s s2 : State} (hf : SameFiles s s2) {L : Nat} {p : PReg} {r : Nat → FpRes} (h : Quiet s L p r) :
    ∀ f ∈ flagsFrom 0 (laneResults L (active s p) r), f.2 &&& s2.me.fpEnabled = 0 :=
  lowestEnabled_eq_none.mp (lowest_of_quiet hf h)

theorem vcmpBody_quiet {s s1 s2 : State} {cond : VCond} {d : PReg} {a b : Reg} {p : PReg} {ty : ElemTy} {x y : V512}
    (ha : s.vsrc a = .ok (x, s1)) (hb : s1.vsrc b = .ok (y, s2))
    (hq : Quiet s (512 / ElemTy.width ty) p fun k => laneCmp cond ty (elem (ElemTy.width ty) x k) (elem (ElemTy.width ty) y k)) :
    vcmpBody cond d a b p ty s =
      (compared ty d p (fun k => laneCmp cond ty (elem (ElemTy.width ty) x k) (elem (ElemTy.width ty) y k)) s s2).ok := by
  have hf := (vsrc_files ha).trans (vsrc_files hb)
  simp only [vcmpBody, ha, hb, bind, Except.bind, maskedResults_eq hf p ty x y (laneCmp cond ty),
    report_quiet _ (laneResults_quiet hf hq)]
  rfl

theorem compared_bit (ty : ElemTy) {d : PReg} (hd : d ≠ 0) (p : PReg) (c : Nat → FpRes) (s s2 : State) {k : Nat} (hk : k < 64) :
    ((compared ty d p c s s2).p d).getLsbD k =
      (decide (k < 512 / ElemTy.width ty) && active s p k && (c k).bits.testBit 0) := by
  rw [compared, p_setP_same hd, getLsbD_packBits _ hk, laneResults, List.map_map]
  by_cases hL : k < 512 / ElemTy.width ty
  · cases hact : active s p k <;> simp [hL, hact]
  · simp [hL]

theorem compared_only {ty : ElemTy} {d : PReg} {p : PReg} {c : Nat → FpRes} {s s2 : State} (hf : SameFiles s s2) :
    let t := (compared ty d p c s s2).retire .seq
    (∀ r, r ≠ d → t.p r = s.p r) ∧ (∀ r, t.v r = s.v r) ∧ (∀ r, t.g r = s.g r) ∧ t.dev = s2.dev := by
  refine ⟨fun r hr => ?_, fun r => ?_, fun r => ?_, ?_⟩
  · rw [p_retire, compared, p_setP_ne hr]
    exact hf.p r
  · rw [v_retire, compared, v_setP]
    exact hf.v r
  · rw [g_retire, compared, g_setP]
    exact hf.g r
  · rw [retire_dev, compared, setP_dev]

/-- The conditions on float elements (Table 5 of 09). -/
def floatHolds (f : FpFmt) (u w : Nat) : VCond → Bool
  | .eq => !(f.isNan u || f.isNan w) && f.eq u w
  | .ne => (f.isNan u || f.isNan w) || !f.eq u w
  | .lt => !(f.isNan u || f.isNan w) && f.lt u w
  | .le => !(f.isNan u || f.isNan w) && (f.lt u w || f.eq u w)
  | .un => f.isNan u || f.isNan w
  | .ltc | .lec => false

/-- The conditions on integer elements of n bits (Table 5 of 09). -/
def intHolds (n u w : Nat) : VCond → Bool
  | .eq => decide (u = w)
  | .ne => decide (u ≠ w)
  | .lt => decide (twos n u < twos n w)
  | .le => decide (twos n u ≤ twos n w)
  | .ltc => decide (u < w)
  | .lec => decide (u ≤ w)
  | .un => false

theorem laneCmp_float {ty : ElemTy} {f : FpFmt} (hf : ElemTy.fmt? ty = some f) (c : VCond) (u w : Nat) :
    (laneCmp c ty u w).bits = bit (floatHolds f u w c) := by
  simp only [laneCmp, hf]
  cases c <;> rfl

theorem laneCmp_int {ty : ElemTy} (hf : ElemTy.fmt? ty = none) (c : VCond) (u w : Nat) :
    (laneCmp c ty u w).bits = bit (intHolds (ElemTy.width ty) u w c) := by
  simp only [laneCmp, hf]
  cases c with
  | ne => exact congrArg bit (by rw [intHolds, bne, decide_not]; rfl)
  | _ => rfl

theorem testBit_bit (b : Bool) : (bit b).testBit 0 = b := by cases b <;> rfl

/-! ## VSEL (R216) -/

theorem pickLanes_map (c : Nat → Bool) (f g : Nat → Nat) : ∀ l : List Nat,
    pickLanes (l.map c) (l.map f) (l.map g) = l.map fun k => if c k then f k else g k
  | [] => rfl
  | k :: l => by simp only [List.map_cons, pickLanes, pickLanes_map c f g l]

/-- What VSEL makes of the state in which its sources have been taken. -/
def selected (ty : ElemTy) (d : Reg) (p : PReg) (x y : V512) (s s2 : State) : State :=
  s2.setV d.toNat (packLanes (ElemTy.width ty) ((List.range (512 / ElemTy.width ty)).map fun k =>
    if active s p k then elem (ElemTy.width ty) x k else elem (ElemTy.width ty) y k))

theorem vselBody_eq {s s1 s2 : State} {d a b : Reg} {p : PReg} {ty : ElemTy} {x y : V512}
    (ha : s.vsrc a = .ok (x, s1)) (hb : s1.vsrc b = .ok (y, s2)) : vselBody d a b p ty s = (selected ty d p x y s s2).ok := by
  have hf := (vsrc_files ha).trans (vsrc_files hb)
  simp only [vselBody, ha, hb, bind, Except.bind, hf.mask, Machine.ElemTy.lanes, mask_eq s p (lanes_le ty), lanesOf_eq, pickLanes_map]
  rfl

theorem selected_elem {d : Reg} (hd : d.toNat < 56) (ty : ElemTy) (p : PReg) (x y : V512) (s s2 : State) {k : Nat}
    (hk : k < 512 / ElemTy.width ty) : elem (ElemTy.width ty) ((selected ty d p x y s s2).v d.toNat) k =
      if active s p k then elem (ElemTy.width ty) x k else elem (ElemTy.width ty) y k := by
  rw [selected, v_setV_same hd, elem_packLanes (width_mul_lanes ty) _ hk, Nat.mod_eq_of_lt]
  split
  · exact elem_lt ..
  · exact elem_lt ..

/-! ## VCVT (R217, R218) -/

/-- The source element that VCVT converts to element k, where there is one: part selects those of the type with more elements. -/
def cvtFrom (src ty : ElemTy) (part k : Nat) : Option Nat :=
  let ls := Machine.ElemTy.lanes src
  let ld := Machine.ElemTy.lanes ty
  let n := min ls ld
  if ls < ld then (if part * n ≤ k ∧ k < part * n + n then some (k - part * n) else none)
  else if ld < ls then some (part * n + k) else some k

/-- The result of element k, where it is active and VCVT writes it. -/
def cvtRes (src ty : ElemTy) (part : Nat) (r : Nat → FpRes) (act : Bool) (k : Nat) : Option FpRes :=
  if act then (cvtFrom src ty part k).map r else none

/-- An element past the end of a register is 0. -/
theorem elem_past (ty : ElemTy) (x : V512) {k : Nat} (hk : 512 / ElemTy.width ty ≤ k) : elem (ElemTy.width ty) x k = 0 := by
  have hle : 512 ≤ ElemTy.width ty * k := (width_mul_lanes ty).symm.trans_le (Nat.mul_le_mul_left _ hk)
  rw [elem, Nat.div_eq_of_lt (BitVec.toNat_lt_twoPow_of_le hle), Nat.zero_mod]

theorem lanesOf_getD (ty : ElemTy) (x : V512) (k : Nat) :
    (lanesOf (ElemTy.width ty) x).getD k 0 = elem (ElemTy.width ty) x k := by
  rw [lanesOf_eq]
  by_cases hk : k < 512 / ElemTy.width ty
  · simp [hk]
  · simp [hk, elem_past ty x (Nat.le_of_not_lt hk)]

theorem zipIdx_map_range {α β : Type} (f : Nat → α) (g : α → Nat → β) (n : Nat) :
    (((List.range n).map f).zipIdx.map fun t => g t.1 t.2) = (List.range n).map fun k => g (f k) k := by
  refine List.ext_getElem (by simp) fun i h1 h2 => ?_
  simp

theorem vcvtBody_eq {s s1 : State} {a : Reg} {x : V512} (ha : s.vsrc a = .ok (x, s1)) (d : Reg) (part : BitVec 2) (c : Bool)
    (src : ElemTy) (p : PReg) (ty : ElemTy) :
    vcvtBody d a part c src p ty s = settle do
      let t ← s1.finishLanes d (ElemTy.width ty) ((List.range (512 / ElemTy.width ty)).map fun k => cvtRes src ty part.toNat
        (fun j => laneCvt src ty c s.me.rounding (elem (ElemTy.width src) x j)) (active s p k) k)
      return t.ok := by
  have hf := vsrc_files ha
  rw [← zipIdx_map_range (active s p) fun act k => cvtRes src ty part.toNat
    (fun j => laneCvt src ty c s.me.rounding (elem (ElemTy.width src) x j)) act k, ← mask_eq s p (lanes_le ty)]
  simp only [vcvtBody, ha, bind, Except.bind, hf.mask, hf.rounding]
  congr 4
  funext ⟨act, k⟩
  cases act with
  | false => rfl
  | true =>
    simp only [cvtRes, cvtFrom, lanesOf_getD, Bool.not_true, Bool.false_eq_true, if_false, if_true]
    rcases lt_trichotomy (Machine.ElemTy.lanes src) (Machine.ElemTy.lanes ty) with h | h | h
    · simp only [if_pos h, min_eq_left h.le]
      split <;> rfl
    · simp only [h, lt_irrefl, if_false, Option.map_some]
    · simp only [if_neg h.not_gt, if_pos h, min_eq_right h.le, Option.map_some]

/-- The state after the results that VCVT writes. -/
def converted (ty : ElemTy) (d : Reg) (g : Nat → Option FpRes) (s1 : State) : State :=
  let rs := (List.range (512 / ElemTy.width ty)).map g
  State.writeLanes { s1 with me := s1.me.raiseFlags (allFlags (flagsFrom 0 rs)) } d (ElemTy.width ty) (rs.map fun r => r.map (·.bits))

/-- Where no result raises an enabled exception, the results are written. -/
theorem finishLanes_converted {s s1 : State} (hf : SameFiles s s1) (d : Reg) {ty : ElemTy} {g : Nat → Option FpRes}
    (hq : ∀ k r, k < 512 / ElemTy.width ty → g k = some r → r.flags &&& s.me.fpEnabled = 0) :
    s1.finishLanes d (ElemTy.width ty) ((List.range (512 / ElemTy.width ty)).map g) = .ok (converted ty d g s1) := by
  refine finishLanes_quiet d _ ?_
  rw [hf.fpEnabled]
  refine flagsFrom_quiet fun r hr => ?_
  obtain ⟨k, hk, hgk⟩ := List.mem_map.mp hr
  exact hq k r (List.mem_range.mp hk) hgk

theorem converted_elem {s s1 : State} (hf : SameFiles s s1) {d : Reg} (hd : d.toNat < 56) {ty : ElemTy} (g : Nat → Option FpRes) {k : Nat}
    (hk : k < 512 / ElemTy.width ty) : elem (ElemTy.width ty) ((converted ty d g s1).v d.toNat) k =
      (g k).elim (elem (ElemTy.width ty) (s.v d.toNat) k) fun r => r.bits % 2 ^ ElemTy.width ty := by
  simp only [converted, List.map_map]
  rw [elem_writeLanes _ hd _ hk, raiseFlags_v, hf.v, Function.comp]
  cases g k <;> rfl

theorem converted_only (ty : ElemTy) (d : Reg) (g : Nat → Option FpRes) (s1 : State) :
    OnlyVector s1 ((converted ty d g s1).retire .seq) [d.toNat] := onlyVector_retire (setV_onlyVector ..)

/-- An integer whose low bits are taken. -/
theorem cast_lowBits (n : Nat) (x : Int) : (lowBits n x : Int) = x % 2 ^ n :=
  Int.toNat_of_nonneg (Int.emod_nonneg _ (by positivity))

/-- Out of the range of an integer type is at its nearer end (R218). -/
theorem laneCvt_int {src ty : ElemTy} (hs : ElemTy.fmt? src = none) (ht : ElemTy.fmt? ty = none) (c : Bool) (m : RMode) (v : Nat) :
    (laneCvt src ty c m v).flags = 0 ∧ ((laneCvt src ty c m v).bits : Int) =
      if c then (if (v : Int) ≤ 2 ^ ElemTy.width ty - 1 then (v : Int) else 2 ^ ElemTy.width ty - 1)
      else (if twos (ElemTy.width src) v < -2 ^ (ElemTy.width ty - 1) then -2 ^ (ElemTy.width ty - 1)
        else if twos (ElemTy.width src) v ≤ 2 ^ (ElemTy.width ty - 1) - 1 then twos (ElemTy.width src) v
        else 2 ^ (ElemTy.width ty - 1) - 1) % 2 ^ ElemTy.width ty := by
  have hpow : (0 : Int) < 2 ^ ElemTy.width ty := by positivity
  simp only [laneCvt, hs, ht, Machine.plain, cast_lowBits, true_and]
  cases c with
  | true =>
    simp only [intOf, intLow, intHigh, if_true, if_neg (Int.natCast_nonneg v).not_gt]
    split
    · next h => rw [if_neg h.not_ge, Int.emod_eq_of_lt (by omega) (by omega)]
    · next h => rw [if_pos (le_of_not_gt h), Int.emod_eq_of_lt (by omega) (by omega)]
  | false =>
    simp only [intOf, intLow, intHigh, signedOf_eq, Bool.false_eq_true, if_false]
    congr 1
    split
    · rfl
    · rw [← ite_not]
      simp only [not_lt]

/-- Settles O44: the results of each element, in the predicate or in the register that the instruction writes. -/
theorem comparesAndConversions : Obligations.ComparesAndConversions := by
  unfold Obligations.ComparesAndConversions
  refine ⟨⟨?_, ?_⟩, ?_⟩
  · intro s s1 s2 c d a b p ty h x y i hwf hclear ha hb n L u w holds hquiet
    have hbit (k : Nat) : (laneCmp c ty (u k) (w k)).bits.testBit 0 = holds k := by
      simp only [holds]
      cases hty : ElemTy.fmt? ty with
      | none => rw [laneCmp_int hty, testBit_bit]; cases c <;> rfl
      | some f => rw [laneCmp_float hty, testBit_bit]; cases c <;> rfl
    refine ⟨_, gives_of_ok rfl hclear (vcmpBody_quiet ha hb hquiet), fun hd k hk => ?_, compared_only ((vsrc_files ha).trans (vsrc_files hb))⟩
    rw [p_retire, compared_bit ty hd p _ s s2 hk]
    exact congrArg _ (hbit k)
  · intro s s1 s2 d a b p ty h x y i hwf hclear ha hb
    refine ⟨_, gives_of_ok rfl hclear (vselBody_eq ha hb), fun k hk => ?_, onlyVector_retire (setV_onlyVector ..)⟩
    rw [v_retire, selected_elem (of_decide_eq_true hwf) ty p x y s s2 hk]
  · intro s s1 d a part c src p ty h x i hwf hclear ha ls ld n from' r hquiet
    have hf := vsrc_files ha
    have hd : d.toNat < 56 := of_decide_eq_true (Bool.and_eq_true_iff.mp hwf).1
    have hfrom (k : Nat) : from' k = cvtFrom src ty part.toNat k := rfl
    have hres := finishLanes_converted hf d (ty := ty) (g := fun k => cvtRes src ty part.toNat r (active s p k) k) (by
      intro k q hk hq
      obtain ⟨hact, hq⟩ := Option.ite_none_right_eq_some.mp hq
      obtain ⟨j, hj, rfl⟩ := Option.map_eq_some_iff.mp hq
      exact hquiet k j hk hact hj)
    refine ⟨_, gives_of_ok rfl hclear ((vcvtBody_eq ha d part c src p ty).trans (congrArg (fun o => settle (do let t ← o; return t.ok)) hres)),
      converted_only .., fun k hk => ?_, fun v hs ht => ?_⟩
    · rw [v_retire, converted_elem hf hd _ hk, hfrom, cvtRes]
      cases cvtFrom src ty part.toNat k <;> cases active s p k <;> rfl
    · obtain ⟨hflags, hbits⟩ := laneCvt_int hs ht c s.me.rounding v
      refine ⟨hflags, hbits.trans ?_⟩
      cases c <;> rfl

end Sys2Proof.Proofs
end
section
/-! A core goes on as itself: what the end steps of its loops write, and that a member which goes on with itself as member 0 goes on as
alone (R139, R150). -/

namespace Sys2Proof.Proofs
open Machine Claims

theorem endSteps_cons (c : Core) (next : W64) (n : Nat) (t : List Nat) : c.endSteps next (n :: t) =
    if c.lc n - 1 ≠ 0 then (c.setLc n (c.lc n - 1), (c.setLc n (c.lc n - 1)).loopStart n)
    else ((c.setLc n (c.lc n - 1)).loopOff n).endSteps next t := rfl

theorem endSteps_lc_of_not_mem (next : W64) {k : Nat} : ∀ {l : List Nat} (c : Core), k ∉ l → (c.endSteps next l).1.lc k = c.lc k
  | [], _, _ => rfl
  | n :: t, c, h => by
    obtain ⟨hn, ht⟩ := not_or.mp (mt List.mem_cons.mpr h)
    rw [endSteps_cons]
    split
    · exact lc_setLc_ne c hn _
    · rw [endSteps_lc_of_not_mem next _ ht, lc_loopOff, lc_setLc_ne c hn]

/-- Each loop that ends at the word steps once. -/
theorem endSteps_lc (next : W64) {k : Nat} (hk : k < 3) : ∀ {l : List Nat} (c : Core), l.Nodup →
    (c.endSteps next l).1.lc k = c.lc k ∨ (c.endSteps next l).1.lc k = c.lc k - 1
  | [], _, _ => .inl rfl
  | n :: t, c, h => by
    obtain ⟨hn, ht⟩ := List.nodup_cons.mp h
    rw [endSteps_cons]
    by_cases hkn : k = n
    · subst hkn
      right
      split
      · exact lc_setLc_same c hk _
      · rw [endSteps_lc_of_not_mem next _ hn, lc_loopOff, lc_setLc_same c hk]
    · split
      · exact .inl (lc_setLc_ne c hkn _)
      · have hrest := endSteps_lc next hk (((c.setLc n (c.lc n - 1)).loopOff n)) ht
        rwa [lc_loopOff, lc_setLc_ne c hkn] at hrest

/-- An end step leaves a bit of LLEN, or clears the act bit of a loop. -/
theorem endSteps_llen (next : W64) (j : Nat) : ∀ {l : List Nat} (c : Core), (∀ n ∈ l, n < 3) →
    (c.endSteps next l).1.ctl.llen.getLsbD j = c.ctl.llen.getLsbD j ∨
      ∃ n, n < 3 ∧ j = 10 * n + 9 ∧ (c.endSteps next l).1.ctl.llen.getLsbD j = false
  | [], _, _ => .inl rfl
  | n :: t, c, h => by
    obtain ⟨hn, ht⟩ := List.forall_mem_cons.mp h
    rw [endSteps_cons]
    split
    · exact .inl (by rw [setLc_ctl])
    · rcases endSteps_llen next j ((c.setLc n (c.lc n - 1)).loopOff n) ht with hrest | hrest
      · by_cases hj : j = 10 * n + 9
        · exact .inr ⟨n, hn, hj, by rw [hrest, hj]; exact loopAct_loopOff_same _ hn⟩
        · refine .inl (hrest.trans ?_)
          rw [Core.loopOff, getLsbD_withField_out _ _ (by omega), setLc_ctl]
      · exact .inr hrest

theorem goOn_lc (c : Core) {k : Nat} (hk : k < 3) : (c.goOn .seq).lc k = c.lc k ∨ (c.goOn .seq).lc k = c.lc k - 1 :=
  endSteps_lc _ hk c (loopsEnding_nodup c c.pc)

theorem goOn_llen (c : Core) (j : Nat) : (c.goOn .seq).ctl.llen.getLsbD j = c.ctl.llen.getLsbD j ∨
    ∃ n, n < 3 ∧ j = 10 * n + 9 ∧ (c.goOn .seq).ctl.llen.getLsbD j = false :=
  endSteps_llen _ j c fun _ hn => (mem_loopsEnding.mp hn).1

theorem loopWith_lc (lead r c : Core) {k : Nat} (hk : k < 3) (m : Nat) : (loopWith lead r c k).lc m =
    if m = k ∧ r.lc k ≠ lead.lc k then c.lc m - 1 else c.lc m := by
  have hoff (e : Core) : (if lead.loopAct k && !r.loopAct k then e.loopOff k else e).lc m = e.lc m := by split <;> rfl
  rw [loopWith, hoff]
  by_cases hm : m = k
  · subst hm
    by_cases hr : r.lc m ≠ lead.lc m
    · rw [if_pos hr, if_pos ⟨rfl, hr⟩, lc_setLc_same c hk]
    · rw [if_neg hr, if_neg (show ¬(m = m ∧ _) from fun h => hr h.2)]
  · rw [if_neg (show ¬(m = k ∧ _) from fun h => hm h.1)]
    split
    · exact lc_setLc_ne c hm _
    · rfl

theorem loopWith_llen (lead r c : Core) {k : Nat} (hk : k < 3) (j : Nat) : (loopWith lead r c k).ctl.llen.getLsbD j =
    if j = 10 * k + 9 ∧ lead.loopAct k = true ∧ r.loopAct k = false then false else c.ctl.llen.getLsbD j := by
  have hset : (if r.lc k ≠ lead.lc k then c.setLc k (c.lc k - 1) else c).ctl = c.ctl := by
    split
    · exact setLc_ctl ..
    · rfl
  rw [loopWith]
  generalize (if r.lc k ≠ lead.lc k then c.setLc k (c.lc k - 1) else c) = e at hset ⊢
  by_cases hact : lead.loopAct k = true ∧ r.loopAct k = false
  · rw [if_pos (by simpa using hact)]
    by_cases hj : j = 10 * k + 9
    · rw [if_pos ⟨hj, hact⟩, hj]
      exact loopAct_loopOff_same e hk
    · rw [if_neg fun h => hj h.1, Core.loopOff, getLsbD_withField_out _ _ (by omega), hset]
  · rw [if_neg (by simpa using hact), if_neg fun h => hact h.2, hset]

theorem goOnWith_eq (c lead : Core) (n : Next) : c.goOnWith lead n =
    { loopWith lead (lead.goOn n) (loopWith lead (lead.goOn n) (loopWith lead (lead.goOn n) c 0) 1) 2 with pc := (lead.goOn n).pc } := rfl

theorem goOnWith_self_lc (c : Core) {k : Nat} (hk : k < 3) : (c.goOnWith c .seq).lc k = (c.goOn .seq).lc k := by
  have hgo := goOn_lc c hk
  have hlc (e : Core) (a : W64) : ({ e with pc := a } : Core).lc k = e.lc k := rfl
  rw [goOnWith_eq, hlc, loopWith_lc _ _ _ (by decide), loopWith_lc _ _ _ (by decide), loopWith_lc _ _ _ (by decide)]
  by_cases hr : (c.goOn .seq).lc k = c.lc k
  · rw [if_neg, if_neg, if_neg, hr]
    all_goals (rintro ⟨rfl, hne⟩; exact hne hr)
  · have hsub := hgo.resolve_left hr
    obtain rfl | rfl | rfl : k = 0 ∨ k = 1 ∨ k = 2 := by omega
    all_goals simp [hsub]

theorem goOnWith_self_llen (c : Core) : (c.goOnWith c .seq).ctl.llen = (c.goOn .seq).ctl.llen := by
  refine BitVec.eq_of_getLsbD_eq fun j _ => ?_
  have hgo := goOn_llen c j
  have hllen (e : Core) (a : W64) : ({ e with pc := a } : Core).ctl.llen = e.ctl.llen := rfl
  rw [goOnWith_eq, hllen, loopWith_llen _ _ _ (by decide), loopWith_llen _ _ _ (by decide), loopWith_llen _ _ _ (by decide)]
  by_cases hr : (c.goOn .seq).ctl.llen.getLsbD j = c.ctl.llen.getLsbD j
  · rw [if_neg, if_neg, if_neg, hr]
    all_goals (rintro ⟨rfl, hact, hend⟩; exact Bool.false_ne_true (hend.symm.trans (hr.trans hact)))
  · obtain ⟨n, hn, rfl, hfalse⟩ := hgo.resolve_left hr
    have hact : c.loopAct n = true := Bool.eq_true_of_not_eq_false fun h => hr (hfalse.trans h.symm)
    rw [hfalse]
    split
    · rfl
    · next h2 =>
      split
      · rfl
      · next h1 =>
        refine if_pos ?_
        obtain rfl | rfl | rfl : n = 0 ∨ n = 1 ∨ n = 2 := by omega
        · exact ⟨rfl, hact, hfalse⟩
        · exact absurd ⟨rfl, hact, hfalse⟩ h1
        · exact absurd ⟨rfl, hact, hfalse⟩ h2

/-- The loops, the counters and the place to which a word in sequence goes on depend on the pc, the counters and the loops. -/
theorem endSteps_congr (next : W64) : ∀ (l : List Nat) {c e : Core}, e.regs.lc = c.regs.lc → SameLoops c e →
    (e.endSteps next l).1.regs.lc = (c.endSteps next l).1.regs.lc ∧ SameLoops (c.endSteps next l).1 (e.endSteps next l).1
  | [], _, _, hlc, hloops => ⟨hlc, hloops⟩
  | n :: t, c, e, hlc, hloops => by
    have hn : e.lc n = c.lc n := by simp only [Core.lc, hlc]
    have hset : (e.setLc n (c.lc n - 1)).regs.lc = (c.setLc n (c.lc n - 1)).regs.lc := by
      unfold Core.setLc
      split <;> simp only [hlc]
    rw [endSteps_cons, endSteps_cons, hn]
    split
    · exact ⟨hset, by simpa only [SameLoops, setLc_ctl] using hloops⟩
    · refine endSteps_congr next t (c := (c.setLc n (c.lc n - 1)).loopOff n) (e := (e.setLc n (c.lc n - 1)).loopOff n) hset ?_
      simp only [SameLoops, Core.loopOff, setLc_ctl, hloops.1, hloops.2, and_self]

theorem goOn_seq_congr {c e : Core} (hpc : e.pc = c.pc) (hlc : e.regs.lc = c.regs.lc) (hloops : SameLoops c e) :
    (e.goOn .seq).regs.lc = (c.goOn .seq).regs.lc ∧ (e.goOn .seq).ctl.llen = (c.goOn .seq).ctl.llen := by
  rw [goOn_seq, goOn_seq, hpc, loopsEnding_congr hloops]
  obtain ⟨hl, hs⟩ := endSteps_congr (c.pc + 4) (c.loopsEnding c.pc) hlc hloops
  exact ⟨hl, hs.2⟩

end Sys2Proof.Proofs
end
section
/-! The control registers of a context: one word of its state each, of which a write changes one (R406, Table 6 of 19). -/

namespace Sys2Proof.Proofs
open Machine Claims

/-! ## Reading -/

/-- The words of the control part of a core that CWR writes. -/
def ctlWord (c : Ctl) (n : Nat) : W64 :=
  if n = 0x08 then c.fpctl
  else if n = 0x09 then c.qctl
  else if n = 0x0A then c.wlimit
  else if n = 0x0B then c.wstat
  else if n = 0x0C then c.patctl
  else if n = 0x10 then c.tvec
  else if n = 0x11 then c.tcause
  else if n = 0x12 then c.tval
  else if n = 0x13 then c.tpc
  else if n = 0x14 then c.tstat
  else if n = 0x15 then c.pix
  else if 0x1C ≤ n ∧ n ≤ 0x1F then vget 0 c.brka (n - 0x1C)
  else if n = 0x20 then c.sigctl
  else if n = 0x40 then c.ptbase
  else if n = 0x50 then c.poolbase
  else if 0x62 ≤ n ∧ n ≤ 0x64 then vget 0 c.lbody (n - 0x62)
  else if n = 0x65 then c.llen
  else if n = 0x66 then c.sigtab
  else if n = 0x67 then c.sigtext
  else if n = 0x68 then c.sigst
  else 0

/-- The same with the loop counters. -/
def ctxWord (c : Core) (n : Nat) : W64 := if 0x18 ≤ n ∧ n ≤ 0x1A then c.lc (n - 0x18) else ctlWord c.ctl n

/-- The control registers of a context are words of the core. -/
theorem control_context {r : BitVec 12 × W64} (hr : r ∈ contextRegs) (s : State) : s.control r.1 = ctxWord s.me r.1.toNat := by
  fin_cases hr <;> rfl

theorem ctlMask_context : ∀ r ∈ contextRegs, w64 (ctlMask r.1.toNat) = r.2 := by
  intro r hr
  fin_cases hr <;> rfl

theorem keep_context {num : BitVec 12} {mask : W64} (h : (num, mask) ∈ contextRegs) (x : W64) : keep x (ctlMask num.toNat) = x &&& mask :=
  congrArg (x &&& ·) (ctlMask_context _ h)

/-! ## Writing -/

theorem vget_vset_ne {α : Type} {n : Nat} (d : α) (v : Vector α n) {i k : Nat} (h : k ≠ i) (x : α) : vget d (vset v i x) k = vget d v k := by
  unfold vget vset
  by_cases hi : i < n
  · by_cases hk : k < n
    · simp [hi, hk, Vector.getElem_set_ne, h.symm]
    · simp [hk]
  · simp [hi]

theorem vget_vset_same {α : Type} {n : Nat} (d : α) (v : Vector α n) {i : Nat} (h : i < n) (x : α) : vget d (vset v i x) i = x := by
  simp [vget, vset, h]

/-- A step writes one word of the context, and of the rest of the state no more than the signatures of the pass. -/
structure WritesWord (s t : State) (n : Nat) (y : W64) : Prop where
  frame : ∃ c l q, t = { s with me := { s.me with ctl := c, regs.lc := l, pass := q } } ∧ c.mode = s.me.ctl.mode ∧ c.ie = s.me.ctl.ie
  same : ctxWord t.me n = y
  other : ∀ m, m ≠ n → ctxWord t.me m = ctxWord s.me m

theorem ctxWord_of_ctl {c e : Core} {m : Nat} (hlc : e.regs.lc = c.regs.lc) (h : ctlWord e.ctl m = ctlWord c.ctl m) :
    ctxWord e m = ctxWord c m := by
  simp only [ctxWord, Core.lc, hlc, h]

/-- A write that the context's control part takes. -/
theorem setControl_of_write {s : State} {num : BitVec 12} {x : W64} {c : Ctl} (hlc : ¬(0x18 ≤ num.toNat ∧ num.toNat ≤ 0x1A))
    (hw : s.me.ctl.write num.toNat x = some c) :
    s.setControl num x = { s with me := { s.me with ctl := c, pass := if num.toNat = 0x68 then [] else s.me.pass } } := by
  simp only [State.setControl, if_neg hlc, hw]

/-- The registers that hold one number of the control part each. -/
def scalarRegs : List (BitVec 12) :=
  [0x08, 0x09, 0x0A, 0x0B, 0x10, 0x11, 0x12, 0x13, 0x14, 0x15, 0x20, 0x40, 0x50, 0x65, 0x66, 0x67, 0x68]

theorem setControl_scalar {num : BitVec 12} (h : num ∈ scalarRegs) (s : State) (x : W64) :
    WritesWord s (s.setControl num x) num.toNat (keep x (ctlMask num.toNat)) := by
  fin_cases h
  all_goals
    refine ⟨⟨_, _, _, rfl, rfl, rfl⟩, rfl, fun m hm => ?_⟩
    simp only [BitVec.reduceToNat] at hm
    refine ctxWord_of_ctl rfl ?_
    simp only [ctlWord, if_neg hm]
    rfl

theorem field_zero {w : Nat} (x : BitVec w) (n : Nat) : field x 0 n = x.toNat % 2 ^ n := by
  rw [field, BitVec.extractLsb'_toNat, Nat.shiftRight_zero]

theorem field_keep_patctl (x : W64) : field (keep x 0x1FF) 0 8 = x.toNat % 256 := by
  have hlow : (keep x 0x1FF).extractLsb' 0 8 = x.extractLsb' 0 8 := by
    rw [keep, BitVec.extractLsb'_and]
    exact BitVec.and_allOnes
  exact (congrArg BitVec.toNat hlow).trans (field_zero x 8)

theorem setControl_patctl (s : State) {x : W64} (hx : Claims.takes 0x0C x = true) : WritesWord s (s.setControl 0x0C x) 0x0C (keep x 0x1FF) := by
  have hne : field (keep x 0x1FF) 0 8 ≠ 0 := by
    rw [field_keep_patctl]
    exact bne_iff_ne.mp hx
  have hw : s.me.ctl.write 0x0C x = some { s.me.ctl with patctl := keep x 0x1FF } := if_neg hne
  rw [setControl_of_write (by decide) hw]
  refine ⟨⟨_, _, _, rfl, rfl, rfl⟩, rfl, fun m hm => ctxWord_of_ctl rfl ?_⟩
  simp only [ctlWord, if_neg hm]

theorem setControl_brka {i : Nat} (hi : i < 4) (s : State) (x : W64) :
    WritesWord s (s.setControl (BitVec.ofNat 12 (0x1C + i)) x) (0x1C + i) (keep x (ctlMask (0x1C + i))) := by
  have hset : s.setControl (BitVec.ofNat 12 (0x1C + i)) x =
      { s with me := { s.me with ctl.brka := vset s.me.ctl.brka i (keep x (ctlMask (0x1C + i))) } } := by
    interval_cases i <;> rfl
  rw [hset]
  refine ⟨⟨_, _, _, rfl, rfl, rfl⟩, ?_, fun m hm => ?_⟩
  · refine Eq.trans ?_ (vget_vset_same 0 s.me.ctl.brka hi _)
    interval_cases i <;> rfl
  · refine ctxWord_of_ctl rfl ?_
    by_cases hr : 0x1C ≤ m ∧ m ≤ 0x1F
    · simp only [ctlWord, vget_vset_ne 0 s.me.ctl.brka (show m - 0x1C ≠ i by omega)]
    · simp only [ctlWord, if_neg hr]

theorem setControl_lbody {i : Nat} (hi : i < 3) (s : State) (x : W64) :
    WritesWord s (s.setControl (BitVec.ofNat 12 (0x62 + i)) x) (0x62 + i) (keep x (ctlMask (0x62 + i))) := by
  have hset : s.setControl (BitVec.ofNat 12 (0x62 + i)) x =
      { s with me := { s.me with ctl.lbody := vset s.me.ctl.lbody i (keep x (ctlMask (0x62 + i))) } } := by
    interval_cases i <;> rfl
  rw [hset]
  refine ⟨⟨_, _, _, rfl, rfl, rfl⟩, ?_, fun m hm => ?_⟩
  · refine Eq.trans ?_ (vget_vset_same 0 s.me.ctl.lbody hi _)
    interval_cases i <;> rfl
  · refine ctxWord_of_ctl rfl ?_
    by_cases hr : 0x62 ≤ m ∧ m ≤ 0x64
    · simp only [ctlWord, vget_vset_ne 0 s.me.ctl.lbody (show m - 0x62 ≠ i by omega)]
    · simp only [ctlWord, if_neg hr]

theorem setControl_lc {i : Nat} (hi : i < 3) (s : State) (x : W64) :
    WritesWord s (s.setControl (BitVec.ofNat 12 (0x18 + i)) x) (0x18 + i) x := by
  have hset : s.setControl (BitVec.ofNat 12 (0x18 + i)) x = { s with me := s.me.setLc i x } := by
    interval_cases i <;> rfl
  rw [hset]
  refine ⟨⟨s.me.ctl, (s.me.setLc i x).regs.lc, s.me.pass, ?_, rfl, rfl⟩, ?_, fun m hm => ?_⟩
  · rw [setLc_frame]
  · simp only [ctxWord, show 0x18 ≤ 0x18 + i ∧ 0x18 + i ≤ 0x1A by omega, Nat.add_sub_cancel_left, lc_setLc_same _ hi]
    simp
  · by_cases hr : 0x18 ≤ m ∧ m ≤ 0x1A
    · simp only [ctxWord, lc_setLc_ne s.me (show m - 0x18 ≠ i by omega), setLc_ctl]
    · simp only [ctxWord, if_neg hr, setLc_ctl]

/-- The control registers of a context by their kind. -/
theorem contextRegs_kinds {r : BitVec 12 × W64} (hr : r ∈ contextRegs) : r.1 ∈ scalarRegs ∨ r.1 = 0x0C ∨
    (∃ i < 4, r.1 = BitVec.ofNat 12 (0x1C + i)) ∨ (∃ i < 3, r.1 = BitVec.ofNat 12 (0x62 + i)) ∨
    ∃ i < 3, r.1 = BitVec.ofNat 12 (0x18 + i) := by
  fin_cases hr <;> decide

/-- A write of a control register of the context writes its word alone, with the bits that it keeps (R406). -/
theorem setControl_context {num : BitVec 12} {mask x : W64} (h : (num, mask) ∈ contextRegs) (hx : Claims.takes num x = true) (s : State) :
    WritesWord s (s.setControl num x) num.toNat (x &&& mask) := by
  rw [← keep_context h]
  rcases contextRegs_kinds h with hk | rfl | ⟨i, hi, rfl⟩ | ⟨i, hi, rfl⟩ | ⟨i, hi, rfl⟩
  · exact setControl_scalar hk s x
  · exact setControl_patctl s hx
  · have hn : (BitVec.ofNat 12 (0x1C + i)).toNat = 0x1C + i := by interval_cases i <;> rfl
    rw [hn]
    exact setControl_brka hi s x
  · have hn : (BitVec.ofNat 12 (0x62 + i)).toNat = 0x62 + i := by interval_cases i <;> rfl
    rw [hn]
    exact setControl_lbody hi s x
  · have hn : (BitVec.ofNat 12 (0x18 + i)).toNat = 0x18 + i := by interval_cases i <;> rfl
    have hk : keep x (ctlMask (0x18 + i)) = x := by interval_cases i <;> exact BitVec.and_allOnes
    rw [hn, hk]
    exact setControl_lc hi s x

end Sys2Proof.Proofs
end
section
/-! CRD and CWR (R406, R407). -/

namespace Sys2Proof.Proofs
open Machine Claims

/-! ## What retirement leaves of the context's words -/

/-- Where two cores have the same words for the loops, they have the same loops and counters. -/
theorem sameLoops_of_words {c e : Core} (h : ∀ m, (0x18 ≤ m ∧ m ≤ 0x1A) ∨ (0x62 ≤ m ∧ m ≤ 0x65) → ctxWord e m = ctxWord c m) :
    e.regs.lc = c.regs.lc ∧ SameLoops c e := by
  refine ⟨Vector.ext fun i hi => ?_, Vector.ext fun i hi => ?_, h 0x65 (by decide)⟩
  · have hw := h (0x18 + i) (by omega)
    interval_cases i <;> exact hw
  · have hw := h (0x62 + i) (by omega)
    interval_cases i <;> exact hw

/-- Retirement writes the counters and LLEN as the end steps do, and no other word of the context. -/
theorem ctxWord_retire (s : State) (n : Next) (m : Nat) : ctxWord (s.retire n).me m =
    if (0x18 ≤ m ∧ m ≤ 0x1A) ∨ m = 0x65 then ctxWord (s.me.goOn n) m else ctxWord s.me m := by
  by_cases hlc : 0x18 ≤ m ∧ m ≤ 0x1A
  · rw [if_pos (.inl hlc), ctxWord, ctxWord, if_pos hlc, if_pos hlc]
    rfl
  · by_cases hllen : m = 0x65
    · subst hllen
      rfl
    · rw [if_neg (not_or.mpr ⟨hlc, hllen⟩), ctxWord, ctxWord, if_neg hlc, if_neg hlc, retire_ctl]
      simp only [ctlWord, if_neg hllen]

/-- A member that goes on with itself as member 0 has the words of one that goes on alone. -/
theorem ctxWord_goOnWith_self (c : Core) (m : Nat) : ctxWord (c.goOnWith c .seq) m =
    if (0x18 ≤ m ∧ m ≤ 0x1A) ∨ m = 0x65 then ctxWord (c.goOn .seq) m else ctxWord c m := by
  by_cases hlc : 0x18 ≤ m ∧ m ≤ 0x1A
  · rw [if_pos (.inl hlc), ctxWord, ctxWord, if_pos hlc, if_pos hlc, goOnWith_self_lc c (by omega)]
  · by_cases hllen : m = 0x65
    · subst hllen
      exact goOnWith_self_llen c
    · rw [if_neg (not_or.mpr ⟨hlc, hllen⟩), ctxWord, ctxWord, if_neg hlc, if_neg hlc, goOnWith_frame]
      simp only [ctlWord, if_neg hllen]

/-! ## CWR of the context's registers -/

theorem exec_cwr {s : State} {a : Reg} {num : BitVec 12} (h : Clear (.cwr a num) s) (hloop : isLoopReg num = false) :
    exec (.cwr a num) s = .next ((s.setControl num (s.cwrValue num (s.g a))).retire .seq) := by
  refine (issueG_done h (?_ : cwrBody a num _ s = .done _ .seq) : execCwr a num s = _)
  rw [cwrBody, hloop]
  rfl

/-- The state in which a CWR of the loop state writes it: the core has gone on. -/
def wentOn (s : State) : State :=
  { s with me := { s.me.goOnWith s.me .seq with loopBuf := (s.me.goOnWith s.me .seq).loopWords } }

theorem exec_cwr_loop {s : State} {a : Reg} {num : BitVec 12} (h : Clear (.cwr a num) s) (hloop : isLoopReg num = true) :
    exec (.cwr a num) s = .next (((wentOn s).setControl num (s.g a)).retire .stay) := by
  refine (issueG_done h (?_ : cwrBody a num _ s = .done _ .stay) : execCwr a num s = _)
  rw [cwrBody, hloop]
  rfl

theorem cwrValue_of_ne {num : BitVec 12} (h : num ≠ 0x31) (s : State) (x : W64) : s.cwrValue num x = x := if_neg h

theorem ctxWord_wentOn (s : State) (m : Nat) : ctxWord (wentOn s).me m = ctxWord (s.retire .seq).me m :=
  (ctxWord_goOnWith_self s.me m).trans (ctxWord_retire s .seq m).symm

/-- What every CWR of the context leaves of the state in which it has written a word. -/
def CwrFrame (s t : State) : Prop :=
  t.me.pc = (s.retire .seq).me.pc ∧ (∀ r, t.g r = s.g r) ∧ (∀ r, t.v r = s.v r) ∧ (∀ r, t.p r = s.p r) ∧
    t.me.ctl.mode = s.me.ctl.mode ∧ t.me.ctl.ie = s.me.ctl.ie ∧ t.me.loc = s.me.loc ∧ t.dev = s.dev

theorem isLoopReg_eq {num : BitVec 12} : isLoopReg num = true ↔
    (0x18 ≤ num.toNat ∧ num.toNat ≤ 0x1A) ∨ (0x62 ≤ num.toNat ∧ num.toNat ≤ 0x65) := by
  simp [isLoopReg]

/-- A register of no loop: the core goes on as it would have done. -/
theorem retire_writesWord {s u : State} {n : Nat} {y : W64} (hw : WritesWord s u n y)
    (hloop : ¬((0x18 ≤ n ∧ n ≤ 0x1A) ∨ (0x62 ≤ n ∧ n ≤ 0x65))) :
    ctxWord (u.retire .seq).me n = y ∧ (∀ m, m ≠ n → ctxWord (u.retire .seq).me m = ctxWord (s.retire .seq).me m) ∧
      CwrFrame s (u.retire .seq) := by
  obtain ⟨⟨c, l, q, hu, hmode, hie⟩, hsame, hother⟩ := hw
  obtain ⟨hlc, hloops⟩ := sameLoops_of_words fun m hm => hother m fun e => hloop (e ▸ hm)
  have hpc : u.me.pc = s.me.pc := by rw [hu]
  obtain ⟨hgolc, hgollen⟩ := goOn_seq_congr hpc hlc hloops
  refine ⟨?_, fun m hm => ?_, goOn_seq_pc_congr hpc hlc hloops, fun r => ?_, fun r => ?_, fun r => ?_, ?_, ?_, ?_, ?_⟩
  · rw [ctxWord_retire, if_neg (by omega), hsame]
  · rw [ctxWord_retire, ctxWord_retire, hother m hm]
    refine ite_congr rfl (fun hm' => ?_) fun _ => rfl
    rcases hm' with hm' | rfl
    · simp only [ctxWord, if_pos hm', Core.lc, hgolc]
    · exact hgollen
  · rw [g_retire, hu]; rfl
  · rw [v_retire, hu]; rfl
  · rw [p_retire, hu]; rfl
  · rw [retire_ctl_mode, hu, hmode]
  · rw [retire_ctl_ie, hu, hie]
  · rw [retire_me_loc, hu]
  · rw [retire_dev, hu]

theorem wentOn_me (s : State) : (wentOn s).me.regs.g = s.me.regs.g ∧ (wentOn s).me.regs.v = s.me.regs.v ∧
    (wentOn s).me.regs.p = s.me.regs.p ∧ (wentOn s).me.ctl.mode = s.me.ctl.mode ∧ (wentOn s).me.ctl.ie = s.me.ctl.ie ∧
    (wentOn s).me.loc = s.me.loc := by
  rw [wentOn, goOnWith_frame]
  exact ⟨rfl, rfl, rfl, rfl, rfl, rfl⟩

/-- A register of the loop state: it is written once the core has gone on (R142). -/
theorem retire_wentOn_writesWord {s u : State} {n : Nat} {y : W64} (hw : WritesWord (wentOn s) u n y) :
    ctxWord (u.retire .stay).me n = y ∧ (∀ m, m ≠ n → ctxWord (u.retire .stay).me m = ctxWord (s.retire .seq).me m) ∧
      CwrFrame s (u.retire .stay) := by
  obtain ⟨⟨c, l, q, hu, hmode, hie⟩, hsame, hother⟩ := hw
  obtain ⟨hg, hv, hp, hmode', hie', hloc⟩ := wentOn_me s
  have hstay (v : State) (m : Nat) : ctxWord (v.retire .stay).me m = ctxWord v.me m := by
    rw [ctxWord_retire]
    exact ite_self _
  refine ⟨(hstay _ n).trans hsame, fun m hm => ?_, ?_, fun r => ?_, fun r => ?_, fun r => ?_, ?_, ?_, ?_, ?_⟩
  · rw [hstay, hother m hm, ctxWord_wentOn]
  · rw [hu]; rfl
  · rw [g_retire, hu]
    exact g_congr hg r
  · rw [v_retire, hu]
    simp only [State.v, Core.v, hv]
  · rw [p_retire, hu]
    simp only [State.p, hp]
  · rw [retire_ctl_mode, hu]
    exact hmode.trans hmode'
  · rw [retire_ctl_ie, hu]
    exact hie.trans hie'
  · rw [retire_me_loc, hu]
    exact hloc
  · rw [retire_dev, hu]
    rfl

theorem contextRegs_ne_retired : ∀ r ∈ contextRegs, r.1 ≠ 0x31 := by
  intro r hr
  fin_cases hr <;> decide

/-- CWR of a register of the context (R406). -/
theorem cwr_context {s : State} {a : Reg} {num : BitVec 12} {mask : W64} (h : Clear (.cwr a num) s) (hmem : (num, mask) ∈ contextRegs)
    (hx : Claims.takes num (s.g a) = true) : ∃ t : State, exec (.cwr a num) s = .next t ∧ t.control num = s.g a &&& mask ∧
      (∀ r ∈ contextRegs, r.1 ≠ num → t.control r.1 = (s.retire .seq).control r.1) ∧ CwrFrame s t := by
  have hreads {t : State} (hsame : ctxWord t.me num.toNat = s.g a &&& mask)
      (hother : ∀ m, m ≠ num.toNat → ctxWord t.me m = ctxWord (s.retire .seq).me m) :
      t.control num = s.g a &&& mask ∧ ∀ r ∈ contextRegs, r.1 ≠ num → t.control r.1 = (s.retire .seq).control r.1 := by
    refine ⟨by rw [control_context hmem, hsame], fun r hr hne => ?_⟩
    rw [control_context hr, control_context hr, hother _ fun e => hne (BitVec.eq_of_toNat_eq e)]
  cases hloop : isLoopReg num with
  | true =>
    obtain ⟨hsame, hother, hframe⟩ := retire_wentOn_writesWord (setControl_context hmem hx (wentOn s))
    obtain ⟨hread, hreads⟩ := hreads hsame hother
    exact ⟨_, exec_cwr_loop h hloop, hread, hreads, hframe⟩
  | false =>
    obtain ⟨hsame, hother, hframe⟩ := retire_writesWord (setControl_context hmem hx s) fun e => Bool.false_ne_true (hloop.symm.trans (isLoopReg_eq.mpr e))
    obtain ⟨hread, hreads⟩ := hreads hsame hother
    exact ⟨_, (exec_cwr h hloop).trans (by rw [cwrValue_of_ne (contextRegs_ne_retired _ hmem)]), hread, hreads, hframe⟩

/-! ## Registers that a stave or the device holds -/

/-- A word of some bits of a number. -/
theorem and_fieldMask (x : W64) {lo n : Nat} : x &&& w64 ((2 ^ n - 1) * 2 ^ lo) = w64 (field x lo n * 2 ^ lo) := by
  refine BitVec.eq_of_getLsbD_eq fun i hi => ?_
  rw [BitVec.getLsbD_and, getLsbD_w64, getLsbD_w64, Nat.testBit_mul_two_pow, Nat.testBit_mul_two_pow, Nat.testBit_two_pow_sub_one, field,
    BitVec.testBit_toNat, BitVec.getLsbD_extractLsb']
  by_cases hlo : lo ≤ i
  · simp [hi, hlo, Bool.and_comm]
  · simp [hlo]

/-- Two fields that do not overlap. -/
theorem w64_or (a b : Nat) {k : Nat} (hb : b < 2 ^ k) : w64 (a * 2 ^ k + b) = w64 (a * 2 ^ k) ||| w64 b := by
  rw [Nat.mul_comm, Nat.two_pow_add_eq_or_of_lt hb]
  exact BitVec.ofNat_or ..

theorem fqbase_value (x : W64) : w64 (field x 7 45 * 128 + field x 0 4) = x &&& 0xFFFFFFFFFFF8F := by
  have hlt : field x 0 4 < 2 ^ 7 := lt_trans (BitVec.isLt _) (by decide)
  have hmask : (0xFFFFFFFFFFF8F : W64) = w64 ((2 ^ 45 - 1) * 2 ^ 7) ||| w64 ((2 ^ 4 - 1) * 2 ^ 0) := by decide
  rw [hmask, BitVec.and_or_distrib_left, and_fieldMask, and_fieldMask]
  exact (w64_or (k := 7) (field x 7 45) _ hlt).trans (by rw [pow_zero, mul_one])

theorem savebase_value (x : W64) : w64 (field x 19 33 * 2 ^ 19) = x &&& 0xFFFFFFFF80000 := by
  have hmask : (0xFFFFFFFF80000 : W64) = w64 ((2 ^ 33 - 1) * 2 ^ 19) := by decide
  rw [hmask, and_fieldMask]

/-! ### FQBASE (R396) -/

theorem stave_setStave_same (d : Dev) (n : BitVec 6) (t : Stave) : (d.setStave n t).stave n = t := by
  rw [stave_setStave, if_pos rfl]

theorem stave_onStave_same (s : State) (n : BitVec 6) (f : Stave → Stave) : (s.onStave n f).dev.stave n = f (s.dev.stave n) :=
  stave_setStave_same ..

theorem poke_stave (d : Dev) (key m x : Nat) (n : BitVec 6) : (d.poke key m x).stave n = d.stave n := rfl

/-- A record that is appended leaves the core and the place of the queue. -/
theorem appendFault_spec (s : State) (n : BitVec 6) (r : FaultRec) : (s.appendFault n r).1.me = s.me ∧
    ((s.appendFault n r).1.dev.stave n).fqbase = (s.dev.stave n).fqbase := by
  simp only [State.appendFault, stave_setStave_same, and_self]

theorem appendWaiting_spec (s : State) (n : BitVec 6) : (s.appendWaiting n).me = s.me ∧
    ((s.appendWaiting n).dev.stave n).fqbase = (s.dev.stave n).fqbase := by
  refine foldl_keeps (fun u => u.me = s.me ∧ (u.dev.stave n).fqbase = (s.dev.stave n).fqbase) _ (fun u r hu => ?_) _ s ⟨rfl, rfl⟩
  split
  · obtain ⟨hme, hfq⟩ := appendFault_spec u n r
    generalize u.appendFault n r = v at hme hfq ⊢
    exact ⟨hme.trans hu.1, (congrArg Stave.fqbase (stave_onStave_same ..)).trans (hfq.trans hu.2)⟩
  · exact hu

/-- A write of FQBASE leaves the core and puts the new queue in the register. -/
theorem writeFqbase_spec (s : State) (n : BitVec 6) {x : W64} (hx : field x 0 4 < 13) : (s.writeFqbase n x).me = s.me ∧
    ((s.writeFqbase n x).dev.stave n).fqbase = w64 (field x 7 45 * 128 + field x 0 4) := by
  rw [State.writeFqbase, if_neg (by omega)]
  simp only
  split
  · exact ⟨rfl, by rw [stave_onStave_same]⟩
  · refine ⟨(appendWaiting_spec ..).1, (appendWaiting_spec ..).2.trans ?_⟩
    rw [poke_stave, stave_onStave_same]

/-! ### SAVEBASE (R401, R403) -/

/-- A write of SAVEBASE changes of the core no more than REGBASE. -/
theorem writeSavebase_spec (s : State) (n : BitVec 6) (x : W64) :
    (∃ r, (s.writeSavebase n x).me = { s.me with ctl.regbase := r }) ∧
      ((s.writeSavebase n x).dev.stave n).savebase = w64 (field x 19 33 * 2 ^ 19) := by
  set u := s.onStave n fun t => { t with savebase := w64 (field x 19 33 * 2 ^ 19) } with hu
  have hkeep : (s.writeSavebase n x).dev = u.dev ∧ ∃ r, (s.writeSavebase n x).me = { s.me with ctl.regbase := r } := by
    refine foldl_keeps (fun t => t.dev = u.dev ∧ ∃ r, t.me = { s.me with ctl.regbase := r }) _ (fun t k ht => ?_) _ u ⟨rfl, _, rfl⟩
    obtain ⟨hdev, r, hme⟩ := ht
    refine ⟨(onCore_dev ..).trans hdev, ?_⟩
    rw [State.onCore, State.setCore]
    split
    · next hk =>
      rw [State.coreAt, if_pos hk]
      split
      · exact ⟨_, by rw [hme]⟩
      · exact ⟨r, hme⟩
    · exact ⟨r, hme⟩
  exact ⟨hkeep.2, by rw [hkeep.1, hu, stave_onStave_same]⟩

/-! ### Every register that a stave or the device holds -/

/-- What a write of a shared register leaves of the core, and the word that it then reads as. -/
def SharedWrite (s u : State) (num : BitVec 12) (y : W64) : Prop :=
  u.control num = y ∧ (∀ m, ctxWord u.me m = ctxWord s.me m) ∧ u.me.regs = s.me.regs

/-- Writes that do not touch the core. -/
theorem SharedWrite.of_me {s u : State} {num : BitVec 12} {y : W64} (hme : u.me = s.me) (hy : u.control num = y) :
    SharedWrite s u num y := ⟨hy, fun m => by rw [hme], by rw [hme]⟩

/-- A register of the own stave. -/
theorem sharedWrite_own {s : State} {num : BitVec 12} {y : W64} {f : Stave → Stave} (get : Stave → W64)
    (hget : ∀ u : State, u.control num = get u.stave) (hy : get (f s.stave) = y) :
    SharedWrite s (s.onStave s.me.stave f) num y :=
  .of_me rfl ((hget _).trans ((congrArg get (stave_onStave_same ..)).trans hy))

/-- A register of the stave that STVSEL selects (R113). -/
theorem sharedWrite_selected {s : State} {num : BitVec 12} {y : W64} {f : Stave → Stave} (get : Stave → W64)
    (hget : ∀ u : State, u.control num = get (u.dev.stave u.dev.selected)) (hy : get (f (s.dev.stave s.dev.selected)) = y) :
    SharedWrite s (s.onStave s.dev.selected f) num y :=
  .of_me rfl ((hget _).trans ((congrArg get (stave_onStave_same ..)).trans hy))

theorem writeFqbase_shared {s : State} {x : W64} (hx : Claims.takes 0x41 x = true) :
    SharedWrite s (s.writeFqbase s.me.stave x) 0x41 (x &&& 0xFFFFFFFFFFF8F) := by
  have hlt : field x 0 4 < 13 := by
    rw [field_zero]
    exact of_decide_eq_true hx
  obtain ⟨hme, hfq⟩ := writeFqbase_spec s s.me.stave hlt
  refine .of_me hme ?_
  calc (s.writeFqbase s.me.stave x).control 0x41
      = ((s.writeFqbase s.me.stave x).dev.stave (s.writeFqbase s.me.stave x).me.stave).fqbase := rfl
    _ = x &&& 0xFFFFFFFFFFF8F := by rw [hme, hfq, fqbase_value]

theorem writeSavebase_shared (s : State) (x : W64) :
    SharedWrite s (s.writeSavebase s.me.stave x) 0x69 (x &&& 0xFFFFFFFF80000) := by
  obtain ⟨⟨r, hme⟩, hsave⟩ := writeSavebase_spec s s.me.stave x
  refine ⟨?_, fun m => ?_, by rw [hme]⟩
  · calc (s.writeSavebase s.me.stave x).control 0x69
        = ((s.writeSavebase s.me.stave x).dev.stave (s.writeSavebase s.me.stave x).me.stave).savebase := rfl
      _ = ((s.writeSavebase s.me.stave x).dev.stave s.me.stave).savebase := by rw [hme]; rfl
      _ = x &&& 0xFFFFFFFF80000 := by rw [hsave, savebase_value]
  · rw [hme]
    rfl

theorem writePltune_shared (s : State) {x : W64} (hx : Claims.takes 0x52 x = true) :
    SharedWrite s (s.writeShared 0x52 x) 0x52 (x &&& 0xFFF1F) := by
  have hok : pltuneOk x = true := hx
  have hw : s.writeShared 0x52 x =
      s.onStave s.me.stave fun t => { t with pltune := keep x 0xFFF1F, winAt := s.dev.cycle.toNat } := if_pos hok
  rw [hw]
  exact sharedWrite_own Stave.pltune (fun _ => rfl) rfl

theorem writeSrate_shared (s : State) {x : W64} (hx : Claims.takes 0x54 x = true) :
    SharedWrite s (s.writeShared 0x54 x) 0x54 (x &&& 0x7FF000007FF) := by
  have hok : (rateOk (field x 0 11) && rateOk (field x 32 11)) = true := by
    obtain ⟨h1, h2, h3, h4⟩ := of_decide_eq_true hx
    exact Bool.and_eq_true_iff.mpr ⟨decide_eq_true ⟨h1, h2⟩, decide_eq_true ⟨h3, h4⟩⟩
  have hw : s.writeShared 0x54 x = s.onStave s.dev.selected fun t => { t with srate := keep x 0x7FF000007FF } := if_pos hok
  rw [hw]
  exact sharedWrite_selected Stave.srate (fun _ => rfl) rfl

theorem writeWwait_shared (s : State) {x : W64} (hx : Claims.takes 0x55 x = true) :
    SharedWrite s (s.writeShared 0x55 x) 0x55 (x &&& 0xFFFFFFFF) := by
  have hne : field x 0 32 ≠ 0 := bne_iff_ne.mp hx
  have hw : s.writeShared 0x55 x = s.onStave s.me.stave fun t => { t with wwait := keep x 0xFFFFFFFF } := if_neg hne
  rw [hw]
  exact sharedWrite_own Stave.wwait (fun _ => rfl) rfl

theorem writeCkbase_shared (s : State) {x : W64} (hx : Claims.takes 0x6B x = true) :
    SharedWrite s (s.writeShared 0x6B x) 0x6B (x &&& 0xFFFFFFFF0000F) := by
  have hlt : ¬ 11 ≤ field x 0 4 := by
    rw [field_zero]
    exact not_le.mpr (of_decide_eq_true hx)
  have hw : s.writeShared 0x6B x = s.onStave s.me.stave fun t => { t with ckbase := keep x 0xFFFFFFFF0000F } := if_neg hlt
  rw [hw]
  exact sharedWrite_own Stave.ckbase (fun _ => rfl) rfl

theorem writeSvec_shared (s : State) (x : W64) : SharedWrite s (s.writeShared 0x6A x) 0x6A (x &&& 0xFFFFFFFFFFFFFFFC) :=
  sharedWrite_own (f := fun t => { t with svec := keep x 0xFFFFFFFFFFFFFFFC }) Stave.svec (fun _ => rfl) rfl

theorem writePeertab_shared (s : State) (x : W64) : SharedWrite s (s.writeShared 0x70 x) 0x70 (x &&& 0xFFFFFFFFFFF80) :=
  sharedWrite_selected (f := fun t => { t with peertab := keep x 0xFFFFFFFFFFF80 }) Stave.peertab (fun _ => rfl) rfl

/-- A write of a register that a stave or the device holds (R406). -/
theorem setControl_shared {num : BitVec 12} {mask x : W64} (h : (num, mask) ∈ sharedRegs) (hx : Claims.takes num x = true) (s : State) :
    SharedWrite s (s.setControl num x) num (x &&& mask) := by
  have hset : s.setControl num x = s.writeShared num.toNat x := by
    fin_cases h <;> rfl
  rw [hset]
  simp only [sharedRegs, List.mem_cons, Prod.mk.injEq, List.not_mem_nil, or_false] at h
  rcases h with ⟨rfl, rfl⟩ | ⟨rfl, rfl⟩ | ⟨rfl, rfl⟩ | ⟨rfl, rfl⟩ | ⟨rfl, rfl⟩ | ⟨rfl, rfl⟩ | ⟨rfl, rfl⟩ | ⟨rfl, rfl⟩ | ⟨rfl, rfl⟩ |
    ⟨rfl, rfl⟩
  · exact writeFqbase_shared hx
  · exact writePltune_shared s hx
  · exact .of_me rfl rfl
  · exact writeSrate_shared s hx
  · exact writeWwait_shared s hx
  · exact writeSavebase_shared s x
  · exact writeSvec_shared s x
  · exact writeCkbase_shared s hx
  · exact .of_me rfl rfl
  · exact writePeertab_shared s x

/-- The registers that do not take every value. -/
def rangedRegs : List (BitVec 12) := [0x0C, 0x41, 0x52, 0x54, 0x55, 0x6B]

theorem mem_rangedRegs_of_not_takes {num : BitVec 12} {x : W64} (hx : Claims.takes num x = false) : num ∈ rangedRegs := by
  by_contra hn
  simp only [rangedRegs, List.mem_cons, List.not_mem_nil, or_false, not_or] at hn
  obtain ⟨h1, h2, h3, h4, h5, h6⟩ := hn
  rw [Claims.takes, if_neg h1, if_neg h2, if_neg h3, if_neg h4, if_neg h5, if_neg h6] at hx
  cases hx

/-- A value that a register does not take leaves the state as it was. -/
theorem setControl_of_not_takes {num : BitVec 12} {x : W64} (hx : Claims.takes num x = false) (s : State) : s.setControl num x = s := by
  have hmem := mem_rangedRegs_of_not_takes hx
  simp only [rangedRegs, List.mem_cons, List.not_mem_nil, or_false] at hmem
  rcases hmem with rfl | rfl | rfl | rfl | rfl | rfl
  · have hzero : field (keep x 0x1FF) 0 8 = 0 := by
      rw [field_keep_patctl]
      exact bne_eq_false_iff_eq.mp hx
    have hw : s.me.ctl.write 0x0C x = some s.me.ctl := if_pos hzero
    rw [setControl_of_write (by decide) hw]
    rfl
  · have hge : 13 ≤ field x 0 4 := by
      rw [field_zero]
      exact not_lt.mp (of_decide_eq_false hx)
    exact (if_pos hge : s.writeFqbase s.me.stave x = s)
  · have hok : ¬ pltuneOk x = true := Bool.eq_false_iff.mp hx
    exact (if_neg hok : s.writeShared 0x52 x = s)
  · have hok : ¬ (rateOk (field x 0 11) && rateOk (field x 32 11)) = true := fun hok => by
      obtain ⟨h1, h2⟩ := Bool.and_eq_true_iff.mp hok
      obtain ⟨hne, hle⟩ := of_decide_eq_true h1
      exact of_decide_eq_false hx ⟨hne, hle, of_decide_eq_true h2⟩
    exact (if_neg hok : s.writeShared 0x54 x = s)
  · have hzero : field x 0 32 = 0 := bne_eq_false_iff_eq.mp hx
    exact (if_pos hzero : s.writeShared 0x55 x = s)
  · have hge : 11 ≤ field x 0 4 := by
      rw [field_zero]
      exact not_lt.mp (of_decide_eq_false hx)
    exact (if_pos hge : s.writeShared 0x6B x = s)

/-- A register that only the device writes. -/
theorem setControl_readOnly {num : BitVec 12} (h : num ∈ readOnlyRegs) (s : State) (x : W64) : s.setControl num x = s := by
  fin_cases h <;> rfl

/-! ## CRD (R407) -/

theorem exec_crd {s : State} {d : Reg} {num : BitVec 12} (h : Clear (.crd d num) s) (hn : num ≠ 0x6E) :
    Gives (.crd d num) s (s.setG d (s.control num)) := gives_of_ok rfl h (if_neg hn)

theorem exec_crd_rbdata {s : State} {d : Reg} (h : Clear (.crd d 0x6E) s) : Gives (.crd d 0x6E) s (s.rbRead d) :=
  gives_of_ok rfl h (if_pos rfl)

/-- A read of RBDATA moves on to the next dword of the entry (R442). -/
theorem rbRead_rbsel (s : State) (d : Reg) : field (s.rbRead d).dev.rbsel 3 5 = (field s.dev.rbsel 3 5 + 1) % 32 ∧
    field (s.rbRead d).dev.rbsel 8 56 = field s.dev.rbsel 8 56 := by
  rw [State.rbRead, setG_dev]
  have hmod (x : W64) (y : Nat) : withField x 3 5 y = withField x 3 5 (y % 2 ^ 5) := by
    rw [withField, withField, Nat.mod_mod]
  refine ⟨?_, field_withField_out _ _ (.inr (by decide))⟩
  exact (congrArg (field · 3 5) (hmod _ _)).trans (field_withField_same _ (by decide) (Nat.mod_lt _ (by decide)))

/-! ## CWR -/

/-- A register that is not of the loop state, and not RETIRED. -/
def Plain (num : BitVec 12) : Prop := isLoopReg num = false ∧ num ≠ 0x31

theorem gives_cwr {s u : State} {a : Reg} {num : BitVec 12} (h : Clear (.cwr a num) s) (hplain : Plain num)
    (hu : s.setControl num (s.g a) = u) : Gives (.cwr a num) s u := by
  obtain ⟨hloop, hne⟩ := hplain
  refine (exec_cwr h hloop).trans ?_
  rw [cwrValue_of_ne hne, hu]

theorem plain_of_shared {r : BitVec 12 × W64} (hr : r ∈ sharedRegs) : Plain r.1 := by
  fin_cases hr <;> exact ⟨by decide, by decide⟩

theorem plain_of_readOnly {num : BitVec 12} (hr : num ∈ readOnlyRegs) : Plain num := by
  fin_cases hr <;> exact ⟨by decide, by decide⟩

theorem plain_of_ranged {num : BitVec 12} (hr : num ∈ rangedRegs) : Plain num := by
  fin_cases hr <;> exact ⟨by decide, by decide⟩

/-- CWR of SID leaves the stave and writes the space's number. -/
theorem setControl_sid (s : State) (x : W64) : (s.setControl 0x03 x).me.ctl.sid.toNat = s.me.stave.toNat * 1024 + x.toNat % 1024 ∧
    (s.setControl 0x03 x).me.regs = s.me.regs ∧ (s.setControl 0x03 x).dev = s.dev := by
  refine ⟨?_, rfl, rfl⟩
  have hk : keep x 0xFFFFFFFFFFFFFFFF = x := BitVec.and_allOnes
  calc (s.setControl 0x03 x).me.ctl.sid.toNat
      = (s.me.stave ++ (keep x 0xFFFFFFFFFFFFFFFF).extractLsb' 0 10).toNat := rfl
    _ = s.me.stave.toNat * 1024 + x.toNat % 1024 := by
      rw [hk, BitVec.toNat_append, ← Nat.shiftLeft_add_eq_or_of_lt (BitVec.isLt _), Nat.shiftLeft_eq]
      exact congrArg _ (field_zero x 10)

theorem setControl_mode (s : State) (x : W64) : s.setControl 0x05 x = { s with me.ctl.ie := x.getLsbD 2 } := by
  have hk : keep x 0xFFFFFFFFFFFFFFFF = x := BitVec.and_allOnes
  exact congrArg (fun y : W64 => ({ s with me.ctl.ie := y.getLsbD 2 } : State)) hk

/-- TRCFG is written until the first stave has opened (Table 6 of 19). -/
theorem setControl_trcfg (s : State) (x : W64) :
    (s.dev.opened = true → s.setControl 0x6F x = s) ∧ (s.dev.opened = false → s.setControl 0x6F x =
      { s with dev := { s.dev with trcfg := withField s.dev.trcfg 0 9 (field x 0 9) } }) :=
  ⟨fun ho => if_pos ho, fun ho => if_neg (Bool.eq_false_iff.mp ho)⟩

/-- RETIRED counts on from the value that is written (R406). -/
theorem cwr_retired {s : State} {a : Reg} (h : Clear (.cwr a 0x31) s) :
    ∃ t : State, exec (.cwr a 0x31) s = .next t ∧ t.me.ctl.retired = s.g a := by
  have hk (y : W64) : keep y 0xFFFFFFFFFFFFFFFF = y := BitVec.and_allOnes
  refine ⟨_, exec_cwr h rfl, ?_⟩
  rw [retire_retired]
  calc (s.setControl 0x31 (s.cwrValue 0x31 (s.g a))).me.ctl.retired + w64 (s.me.counts1 .seq)
      = keep (s.g a - w64 (s.me.counts1 .seq)) 0xFFFFFFFFFFFFFFFF + w64 (s.me.counts1 .seq) := rfl
    _ = s.g a := by rw [hk, sub_add_cancel]

/-- Settles O54: each kind of register by the lemma about its writes. -/
theorem controlRegistersKeepTheirBits : Obligations.ControlRegistersKeepTheirBits := by
  unfold Obligations.ControlRegistersKeepTheirBits
  refine fun s => ⟨fun d num h => ⟨exec_crd h, ?_⟩, rfl, rfl, rfl, rfl, rfl, fun a num h => ⟨fun mask hmem hx => ?_, fun mask hmem hx => ?_,
    fun hx => ?_, fun hmem => ?_, ?_, ?_, ?_, ?_⟩⟩
  · rintro rfl
    exact ⟨_, exec_crd_rbdata h, fun hd => g_setG_same hd _ _, rbRead_rbsel s d⟩
  · exact cwr_context h hmem hx
  · obtain ⟨hread, hothers, hregs⟩ := setControl_shared hmem hx s
    exact ⟨_, gives_cwr h (plain_of_shared hmem) rfl, hread, fun r hr => by rw [control_context hr, control_context hr, hothers], hregs⟩
  · exact gives_cwr h (plain_of_ranged (mem_rangedRegs_of_not_takes hx)) (setControl_of_not_takes hx s)
  · exact gives_cwr h (plain_of_readOnly hmem) (setControl_readOnly hmem s _)
  · rintro rfl
    exact gives_cwr h ⟨rfl, by decide⟩ (setControl_mode s _)
  · rintro rfl
    exact ⟨_, gives_cwr h ⟨rfl, by decide⟩ rfl, setControl_sid s _⟩
  · rintro rfl
    obtain ⟨hopen, hclosed⟩ := setControl_trcfg s (s.g a)
    refine ⟨fun ho => gives_cwr h ⟨rfl, by decide⟩ (hopen ho), fun ho => ⟨_, gives_cwr h ⟨rfl, by decide⟩ (hclosed ho), ?_, ?_, rfl⟩⟩
    · exact field_withField_same _ (by decide) (BitVec.isLt _)
    · exact field_withField_out _ _ (.inr (by decide))
  · rintro rfl
    exact cwr_retired h

end Sys2Proof.Proofs
end
section
/-! A crew of one: what the combined vector of a core of its own is (R207). -/

namespace Sys2Proof.Proofs
open Machine Claims

/-- The core in focus as a crew. -/
abbrev aloneCrew (s : State) : Crew := ⟨[s.me], 0⟩

theorem form_alone (x : Bool) (s : State) : (aloneCrew s).form x s = aloneCrew s := ite_self _

theorem lanes_alone (s : State) (n : Nat) (r : Reg) (skip : Nat) : (aloneCrew s).lanes n r skip = lanesOf n (s.me.vpeek r skip) :=
  List.flatMap_singleton ..

theorem mask_alone (s : State) (p : PReg) (L : Nat) : (aloneCrew s).mask p L = s.me.mask p L := List.flatMap_singleton ..

theorem part_alone {α : Type} (s : State) {L : Nat} {l : List α} (h : l.length ≤ L) : (aloneCrew s).part L l = l :=
  List.take_of_length_le h

theorem vpeek_reg {r : Reg} (h : r.toNat < 56) (s : State) (skip : Nat) : s.me.vpeek r skip = s.v r.toNat := if_pos h

/-- A source that can be taken is what the crew sees of it. -/
theorem vpeek_of_vsrc {s t : State} {r : Reg} {x : V512} (h : s.vsrc r = .ok (x, t)) : s.me.vpeek r 0 = x ∧ s.me.canTake r = true := by
  unfold State.vsrc at h
  unfold Core.vpeek Core.canTake
  split at h
  · next hr =>
    cases h
    exact ⟨if_pos hr, by simp [hr]⟩
  · next hr =>
    unfold State.takeQueue at h
    split at h
    · cases h
    · next hslot =>
      split at h
      · cases h
      · next hq =>
        split at h
        · cases h
        · next hp =>
          cases h
          simp [hr, hq, hslot, not_not.mp hp]

theorem meet_alone {s t : State} {r : Reg} {x : V512} (h : s.vsrc r = .ok (x, t)) (u : State) : (aloneCrew s).meet r u = .ok u := by
  simp [Crew.meet, (vpeek_of_vsrc h).2]

/-- The active elements of a source, as the crew combines them. -/
def activeList (n : Nat) (s : State) (p : PReg) (x : V512) : List (Option Nat) :=
  (List.range (512 / n)).map fun k => if active s p k then some (elem n x k) else none

theorem activeList_alone {s t : State} {r : Reg} {x : V512} (h : s.vsrc r = .ok (x, t)) (p : PReg) (ty : ElemTy) :
    (((aloneCrew s).mask p (Machine.ElemTy.lanes ty)).zip ((aloneCrew s).lanes (ElemTy.width ty) r 0)).map
      (fun t => if t.1 then some t.2 else none) = activeList (ElemTy.width ty) s p x := by
  rw [mask_alone, lanes_alone, (vpeek_of_vsrc h).1, Machine.ElemTy.lanes, mask_eq s p (lanes_le ty), lanesOf_eq, List.zip_map', List.map_map]
  rfl

end Sys2Proof.Proofs
end
section
/-! VRED and VSCAN (R192, R224, R225). -/

namespace Sys2Proof.Proofs
open Machine Claims

/-! ## The halving tree -/

/-- The number at a place of a list of elements of which some are absent. -/
def valueAt (t : List (Option Nat)) (i : Nat) : Nat := (t.getD i none).getD 0

/-- The sum of the elements that are there. -/
def total (t : List (Option Nat)) : Nat := ∑ i ∈ Finset.range t.length, valueAt t i

theorem valueAt_of_le {t : List (Option Nat)} {i : Nat} (h : t.length ≤ i) : valueAt t i = 0 := by
  simp [valueAt, h]

theorem total_eq {t : List (Option Nat)} {m : Nat} (h : t.length ≤ m) : total t = ∑ i ∈ Finset.range m, valueAt t i := by
  refine Finset.sum_subset (Finset.range_subset_range.mpr h) fun i _ hi => valueAt_of_le ?_
  simpa using hi

/-- A halving step as a list of combined pairs. -/
theorem halve_eq (op : RedOp) (ty : ElemTy) (m : RMode) (t : List (Option Nat)) : halve op ty m t =
    (List.range ((t.length + 1) / 2)).map fun i => comb? op ty m (t.getD i none) (t.getD (i + (t.length + 1) / 2) none) := by
  refine List.ext_getElem ?_ fun i h1 h2 => ?_
  · simp [halve]
    omega
  · have hi : i < t.length := by simp at h2; omega
    simp [halve, hi]

/-- Where no element is there, the tree has no result. -/
theorem tree_none (op : RedOp) (ty : ElemTy) (m : RMode) : ∀ (n : Nat) (t : List (Option Nat)) (fl : List (Nat × Nat)),
    (∀ x ∈ t, x = none) → (tree op ty m n t fl).1 = none
  | 0, t, fl, h => by
    cases t with
    | nil => rfl
    | cons x t => exact h x (by simp)
  | n + 1, t, fl, h => by
    rw [tree]
    split
    · cases t with
      | nil => rfl
      | cons x t => exact h x (by simp)
    · refine tree_none op ty m n _ _ fun x hx => ?_
      have hget (i : Nat) : t.getD i none = none := by
        rw [List.getD_eq_getElem?_getD]
        cases hi : t[i]? with
        | none => rfl
        | some y => exact h y (List.mem_of_getElem? hi)
      rw [halve_eq, List.map_map, List.mem_map] at hx
      obtain ⟨i, -, rfl⟩ := hx
      simp only [Function.comp, hget]
      rfl

/-- An addition of integers is one modulo 2^n, whether or not its operands are there. -/
theorem combAdd_mod {ty : ElemTy} (hty : ElemTy.fmt? ty = none) (m : RMode) (x y : Option Nat) :
    (((comb? .add ty m x y).map (·.bits)).getD 0) ≡ x.getD 0 + y.getD 0 [MOD 2 ^ ElemTy.width ty] := by
  cases x with
  | none => cases y <;> simp [comb?, Machine.plain, Nat.ModEq]
  | some x =>
    cases y with
    | none => simp [comb?, Machine.plain, Nat.ModEq]
    | some y =>
      have hlow : lowBits (ElemTy.width ty) ((x : Int) + y) = (x + y) % 2 ^ ElemTy.width ty := by
        rw [lowBits]; norm_cast
      simp only [comb?, comb, arith, hty, Machine.plain, Option.map_some, Option.getD_some, hlow]
      exact Nat.mod_modEq _ _

theorem total_halve {ty : ElemTy} (hty : ElemTy.fmt? ty = none) (m : RMode) (t : List (Option Nat)) :
    total ((halve .add ty m t).map fun x => x.map (·.bits)) ≡ total t [MOD 2 ^ ElemTy.width ty] := by
  set h := (t.length + 1) / 2 with hh
  have hpairs : total t = ∑ i ∈ Finset.range h, (valueAt t i + valueAt t (i + h)) := by
    rw [total_eq (show t.length ≤ h + h by omega), Finset.sum_range_add, Finset.sum_add_distrib]
    simp only [Nat.add_comm]
  rw [hpairs, halve_eq, ← hh, total]
  simp only [List.map_map, List.length_map, List.length_range]
  refine Nat.ModEq.sum fun i hi => ?_
  have hlt : i < h := Finset.mem_range.mp hi
  have hcomb := combAdd_mod hty m (t.getD i none) (t.getD (i + h) none)
  simpa [valueAt, hlt] using hcomb

theorem headD_total {t : List (Option Nat)} (h : t.length ≤ 1) : (t.headD none).getD 0 = total t := by
  match t, h with
  | [], _ => rfl
  | [x], _ => simp [total, valueAt]

/-- A tree of integer additions is their sum (R225). -/
theorem tree_add {ty : ElemTy} (hty : ElemTy.fmt? ty = none) (m : RMode) : ∀ (n : Nat) (t : List (Option Nat)) (fl : List (Nat × Nat)),
    t.length ≤ 2 ^ n → (tree .add ty m n t fl).1.getD 0 ≡ total t [MOD 2 ^ ElemTy.width ty]
  | 0, t, fl, h => by
    rw [tree, headD_total h]
  | n + 1, t, fl, h => by
    rw [tree]
    split
    · next hle => rw [headD_total hle]
    · have hlen : ((halve .add ty m t).map fun x => x.map (·.bits)).length ≤ 2 ^ n := by
        rw [List.length_map, halve_eq, List.length_map, List.length_range]
        rw [pow_succ] at h
        omega
      exact (tree_add hty m n _ _ hlen).trans (total_halve hty m t)

/-! ## The scan -/

theorem scan_length (op : RedOp) (ty : ElemTy) (m : RMode) : ∀ (t : List (Option Nat)) (acc : Option Nat),
    (scan op ty m acc t).length = t.length
  | [], _ => rfl
  | none :: _, _ => by rw [scan, List.length_cons, scan_length, List.length_cons]
  | some _ :: _, _ => by rw [scan, List.length_cons, scan_length, List.length_cons]

/-- The scan has a result where there is an element. -/
theorem scan_isSome (op : RedOp) (ty : ElemTy) (m : RMode) : ∀ (t : List (Option Nat)) (acc : Option Nat) (i : Nat),
    ((scan op ty m acc t).getD i none).isSome = (t.getD i none).isSome
  | [], _, _ => rfl
  | none :: _, _, 0 => rfl
  | some _ :: _, _, 0 => rfl
  | none :: t, acc, i + 1 => scan_isSome op ty m t acc i
  | some _ :: t, _, i + 1 => scan_isSome op ty m t _ i

/-- A step of a scan of integer additions. -/
theorem scanAdd_mod {ty : ElemTy} (hty : ElemTy.fmt? ty = none) (m : RMode) (acc : Option Nat) (x : Nat) :
    ((comb? .add ty m acc (some x)).getD (Machine.plain x)).bits ≡ acc.getD 0 + x [MOD 2 ^ ElemTy.width ty] := by
  have hcomb := combAdd_mod hty m acc (some x)
  cases acc with
  | none => simpa [comb?] using hcomb
  | some y => simpa [comb?] using hcomb

/-- An element of a scan of integer additions is the sum up to it (R225). -/
theorem scan_add {ty : ElemTy} (hty : ElemTy.fmt? ty = none) (m : RMode) : ∀ {t : List (Option Nat)} {acc : Option Nat} {i : Nat} {r : FpRes},
    (scan .add ty m acc t)[i]? = some (some r) →
      r.bits ≡ acc.getD 0 + ∑ j ∈ Finset.range (i + 1), valueAt t j [MOD 2 ^ ElemTy.width ty]
  | [], _, _, _, h => by cases h
  | none :: t, acc, 0, r, h => by cases h
  | some x :: t, acc, 0, r, h => by
    obtain rfl : (comb? .add ty m acc (some x)).getD (Machine.plain x) = r := by simpa [scan] using h
    simpa [valueAt] using scanAdd_mod hty m acc x
  | none :: t, acc, i + 1, r, h => by
    rw [Finset.sum_range_succ']
    exact scan_add hty m (t := t) (i := i) h
  | some x :: t, acc, i + 1, r, h => by
    rw [Finset.sum_range_succ', Nat.add_comm (Finset.sum _ _), ← Nat.add_assoc]
    exact (scan_add hty m (t := t) (i := i) h).trans ((scanAdd_mod hty m acc x).add_right _)

/-! ## Sums over the active elements -/

theorem foldl_filter_range (p : Nat → Bool) (f : Nat → Nat) : ∀ L : Nat,
    ((List.range L).filter p).foldl (fun z k => z + f k) 0 = ∑ k ∈ Finset.range L, if p k then f k else 0
  | 0 => rfl
  | L + 1 => by
    rw [List.range_succ, List.filter_append, List.foldl_append, foldl_filter_range p f L, Finset.sum_range_succ]
    cases h : p L <;> simp [h]

theorem activeList_length (n : Nat) (s : State) (p : PReg) (x : V512) : (activeList n s p x).length = 512 / n := by simp [activeList]

theorem activeList_getD (n : Nat) (s : State) (p : PReg) (x : V512) {k : Nat} (hk : k < 512 / n) :
    (activeList n s p x).getD k none = if active s p k then some (elem n x k) else none := by
  simp [activeList, hk]

theorem valueAt_activeList (n : Nat) (s : State) (p : PReg) (x : V512) {k : Nat} (hk : k < 512 / n) :
    valueAt (activeList n s p x) k = if active s p k then elem n x k else 0 := by
  rw [valueAt, activeList_getD n s p x hk]
  split <;> rfl

theorem total_activeList (n : Nat) (s : State) (p : PReg) (x : V512) : total (activeList n s p x) =
    ((List.range (512 / n)).filter fun k => active s p k).foldl (fun z k => z + elem n x k) 0 := by
  rw [foldl_filter_range, total, activeList_length]
  exact Finset.sum_congr rfl fun k hk => valueAt_activeList n s p x (Finset.mem_range.mp hk)

/-- The sum up to an element. -/
theorem partial_activeList (n : Nat) (s : State) (p : PReg) (x : V512) {k : Nat} (hk : k < 512 / n) :
    ∑ j ∈ Finset.range (k + 1), valueAt (activeList n s p x) j =
      (((List.range (512 / n)).filter fun j => active s p j).filter fun j => decide (j ≤ k)).foldl (fun z j => z + elem n x j) 0 := by
  rw [List.filter_filter, foldl_filter_range,
    ← Finset.sum_subset (Finset.range_subset_range.mpr (show k + 1 ≤ 512 / n by omega)) fun j _ hj => if_neg (by simp at hj ⊢; omega)]
  refine Finset.sum_congr rfl fun j hj => ?_
  have hjk : j ≤ k := by simpa [Nat.lt_succ_iff] using hj
  rw [valueAt_activeList n s p x (by omega)]
  simp [hjk]

/-! ## The instructions -/

theorem givesG_of_ok {i : Instr} {body : Body} {s t : State} (hx : exec i s = issueG i body s) (h : Clear i s)
    (hb : body (aloneCrew s) s = t.ok) : Gives i s t := by
  rw [Gives, hx, issueG_done h hb]
  rfl

/-- What VRED makes of the state in which its source has been taken. -/
def reduced (d : Reg) (op : RedOp) (ty : ElemTy) (r : Option Nat × List (Nat × Nat)) (s1 : State) : State :=
  State.setV { s1 with me := s1.me.raiseFlags (allFlags r.2) } d.toNat (packLanes (ElemTy.width ty) [r.1.getD (identityOf op ty)])

theorem vredBody_quiet {s s1 : State} {a : Reg} {x : V512} (ha : s.vsrc a = .ok (x, s1)) (d : Reg) {op : RedOp} {p : PReg} {ty : ElemTy}
    (h : Bool) (hq : ∀ e ∈ (tree op ty s.me.rounding 10 (activeList (ElemTy.width ty) s p x) []).2, e.2 &&& s.me.fpEnabled = 0) :
    vredBody d a op p ty h (aloneCrew s) s =
      (reduced d op ty (tree op ty s.me.rounding 10 (activeList (ElemTy.width ty) s p x) []) s1).ok := by
  have hq' := (vsrc_files ha).fpEnabled.symm ▸ hq
  have hround : (aloneCrew s).rounding s = s.me.rounding := rfl
  simp only [vredBody, form_alone, activeList_alone ha, ha, bind, Except.bind, meet_alone ha, Crew.report, if_true, hround,
    report_quiet _ hq']
  rfl

/-- The results of a scan by their elements. -/
theorem map_range_getD {α : Type} (l : List (Option α)) : l = (List.range l.length).map fun k => l.getD k none := by
  refine List.ext_getElem (by simp) fun i h1 h2 => ?_
  simp [h1]

theorem vscanBody_quiet {s s1 : State} {a : Reg} {x : V512} (ha : s.vsrc a = .ok (x, s1)) (d : Reg) {op : RedOp} {p : PReg} {ty : ElemTy}
    (h : Bool) {rs : List (Option FpRes)} (hrs : rs = scan op ty s.me.rounding none (activeList (ElemTy.width ty) s p x))
    (hq : ∀ e ∈ rs, ∀ q, e = some q → q.flags &&& s.me.fpEnabled = 0) :
    vscanBody d a op p ty h (aloneCrew s) s = (converted ty d (fun k => rs.getD k none) s1).ok := by
  have hlen : rs.length = 512 / ElemTy.width ty := by rw [hrs, scan_length, activeList_length]
  have hlist : (List.range (512 / ElemTy.width ty)).map (fun k => rs.getD k none) = rs := hlen ▸ (map_range_getD rs).symm
  have hquiet : ∀ f ∈ flagsFrom 0 rs, f.2 &&& s1.me.fpEnabled = 0 := by
    rw [(vsrc_files ha).fpEnabled]
    exact flagsFrom_quiet fun r hr => hq _ hr r rfl
  have hround : (aloneCrew s).rounding s = s.me.rounding := rfl
  have hpart : (aloneCrew s).part (Machine.ElemTy.lanes ty) (rs.map fun r => r.map (·.bits)) = rs.map fun r => r.map (·.bits) :=
    part_alone s (by rw [List.length_map, hlen]; exact le_rfl)
  simp only [vscanBody, form_alone, activeList_alone ha, ha, bind, Except.bind, meet_alone ha, Crew.report, if_true, hround, ← hrs,
    report_quiet _ hquiet, hpart, converted, hlist]
  rfl

theorem reduced_elem {d : Reg} (hd : d.toNat < 56) (op : RedOp) (ty : ElemTy) (r : Option Nat × List (Nat × Nat)) (s1 : State) (k : Nat) :
    elem (ElemTy.width ty) ((reduced d op ty r s1).v d.toNat) k =
      if k = 0 then r.1.getD (identityOf op ty) % 2 ^ ElemTy.width ty else 0 := by
  have hwidth : ElemTy.width ty * 1 ≤ 512 := by cases ty <;> decide
  rw [reduced, v_setV_same hd, elem_packLanes_getD hwidth]
  cases k <;> simp

theorem getElem?_of_getD {α : Type} {l : List (Option α)} {k : Nat} {x : α} (h : l.getD k none = some x) : l[k]? = some (some x) := by
  rw [List.getD_eq_getElem?_getD] at h
  cases hk : l[k]? with
  | none => rw [hk] at h; cases h
  | some y => rw [hk] at h; exact congrArg some h

/-- VRED (R225). -/
theorem vred_results {s s1 : State} {d a : Reg} {op : RedOp} {p : PReg} {ty : ElemTy} {h : Bool} {x : V512}
    (ha : s.vsrc a = .ok (x, s1)) (hwf : (Instr.vred d a op p ty h).wf = true) (hclear : Clear (.vred d a op p ty h) s)
    (hq : ∀ e ∈ (tree op ty s.me.rounding 10 (activeList (ElemTy.width ty) s p x) []).2, e.2 &&& s.me.fpEnabled = 0) :
    let n := ElemTy.width ty
    let L := 512 / n
    let actives := (List.range L).filter fun k => active s p k
    ∃ t : State, exec (.vred d a op p ty h) s = .next t ∧
      elem n (t.v d.toNat) 0 =
        ((tree op ty s.me.rounding 10 (activeList n s p x) []).1.getD (identityOf op ty)) % 2 ^ n ∧
      (∀ k, 0 < k → k < L → elem n (t.v d.toNat) k = 0) ∧
      (actives = [] → elem n (t.v d.toNat) 0 = identityOf op ty % 2 ^ n) ∧
      (op = .add → ElemTy.fmt? ty = none → elem n (t.v d.toNat) 0 = (actives.foldl (fun z k => z + elem n x k) 0) % 2 ^ n) ∧
      OnlyVector s1 t [d.toNat] := by
  intro n L actives
  have hd : d.toNat < 56 := of_decide_eq_true (Bool.and_eq_true_iff.mp hwf).1
  have helem (k : Nat) := reduced_elem hd op ty (tree op ty s.me.rounding 10 (activeList n s p x) []) s1 k
  refine ⟨_, givesG_of_ok rfl hclear (vredBody_quiet ha d h hq), ?_, fun k hk _ => ?_, fun hnone => ?_, ?_, onlyVector_retire (setV_onlyVector ..)⟩
  · rw [v_retire, helem, if_pos rfl]
  · rw [v_retire, helem, if_neg (by omega)]
  · have habsent : ∀ y ∈ activeList n s p x, y = none := by
      intro y hy
      obtain ⟨k, hk, rfl⟩ := List.mem_map.mp hy
      exact if_neg (List.filter_eq_nil_iff.mp hnone k hk)
    rw [v_retire, helem, if_pos rfl, tree_none op ty _ _ _ _ habsent]
    rfl
  · rintro rfl hty
    have hlen : (activeList n s p x).length ≤ 2 ^ 10 := by
      rw [activeList_length]
      exact (lanes_le ty).trans (by decide)
    rw [v_retire, helem, if_pos rfl, ← total_activeList]
    exact tree_add hty s.me.rounding 10 _ [] hlen

/-- VSCAN (R225). -/
theorem vscan_results {s s1 : State} {d a : Reg} {op : RedOp} {p : PReg} {ty : ElemTy} {h : Bool} {x : V512}
    (ha : s.vsrc a = .ok (x, s1)) (hwf : (Instr.vscan d a op p ty h).wf = true) (hclear : Clear (.vscan d a op p ty h) s)
    (hq : ∀ e ∈ scan op ty s.me.rounding none (activeList (ElemTy.width ty) s p x), ∀ q, e = some q → q.flags &&& s.me.fpEnabled = 0) :
    let n := ElemTy.width ty
    let L := 512 / n
    let actives := (List.range L).filter fun k => active s p k
    ∃ t : State, exec (.vscan d a op p ty h) s = .next t ∧
      (∀ k, k < L → active s p k = false → elem n (t.v d.toNat) k = elem n (s.v d.toNat) k) ∧
      (∀ k, k < L → active s p k = true → op = .add → ElemTy.fmt? ty = none →
        elem n (t.v d.toNat) k = ((actives.filter fun j => decide (j ≤ k)).foldl (fun z k => z + elem n x k) 0) % 2 ^ n) ∧
      (∀ k q, k < L → active s p k = true → (scan op ty s.me.rounding none (activeList n s p x))[k]? = some (some q) →
        elem n (t.v d.toNat) k = q.bits % 2 ^ n) ∧ OnlyVector s1 t [d.toNat] := by
  intro n L actives
  have hd : d.toNat < 56 := of_decide_eq_true (Bool.and_eq_true_iff.mp hwf).1
  obtain ⟨rs, hrs⟩ : ∃ rs, rs = scan op ty s.me.rounding none (activeList n s p x) := ⟨_, rfl⟩
  rw [← hrs] at hq ⊢
  have helem {k : Nat} (hk : k < L) := converted_elem (vsrc_files ha) hd (fun k => rs.getD k none) hk
  have hsome {k : Nat} (hk : k < L) : (rs.getD k none).isSome = active s p k := by
    rw [hrs, scan_isSome, activeList_getD n s p x hk]
    cases active s p k <;> rfl
  refine ⟨_, givesG_of_ok rfl hclear (vscanBody_quiet ha d h hrs hq), fun k hk hact => ?_, fun k hk hact hop hty => ?_,
    fun k q hk hact hget => ?_, converted_only ..⟩
  · have hnone : rs.getD k none = none := Option.not_isSome_iff_eq_none.mp (Bool.not_eq_true _ ▸ (hsome hk).trans hact)
    rw [v_retire, helem hk, hnone]
    rfl
  · obtain ⟨q, hget⟩ := Option.isSome_iff_exists.mp ((hsome hk).trans hact)
    have hadd := scan_add hty s.me.rounding (acc := none) (hop ▸ hrs ▸ getElem?_of_getD hget)
    rw [v_retire, helem hk, hget, ← partial_activeList n s p x hk]
    exact hadd.trans (by rw [Option.getD_none, Nat.zero_add])
  · rw [v_retire, helem hk, List.getD_eq_getElem?_getD, hget]
    rfl

end Sys2Proof.Proofs
end
section
/-! VCXS (R226). -/

namespace Sys2Proof.Proofs
open Machine Claims

theorem powerOf_none {j : Nat} (h : ∀ q, j ≠ 2 ^ q) : powerOf j = none := if_neg (h _)

theorem powerOf_two_pow (q : Nat) : powerOf (2 ^ q) = some q := by
  rw [powerOf, Nat.log2_two_pow, if_pos rfl]

/-- An index without a power of two and the one with it. -/
theorem add_two_pow_and {e q : Nat} (h : e &&& 2 ^ q = 0) : (e + 2 ^ q) &&& 2 ^ q ≠ 0 := by
  have hbit : e.testBit q = false := by
    rw [Nat.and_two_pow] at h
    simpa using h
  rw [Nat.and_two_pow, Nat.add_comm, Nat.testBit_two_pow_add_eq, hbit]
  simp

/-- What VCXS makes of the state: the elements of both registers by the indices that the stage exchanges. -/
def exchanging (ty : ElemTy) (d : Reg) (p : PReg) (j k : Nat) (s : State) : State :=
  let n := ElemTy.width ty
  let reordered (x : V512) := packLanes n ((List.range (512 / n)).map fun i =>
    elem n x (exchange ty (lanesOf n (s.v d.toNat)) (s.me.mask p (512 / n)) j k i))
  (s.setV d.toNat (reordered (s.v d.toNat))).setV (d.toNat + 1) (reordered (s.v (d.toNat + 1)))

theorem vcxsBody_eq {s : State} {d : Reg} (hd : d.toNat < 55) (a b : Reg) (p : PReg) (ty : ElemTy) (h : Bool) :
    vcxsBody d a b p ty h (aloneCrew s) s =
      if (s.g a).toNat = 0 ∨ 512 / ElemTy.width ty ≤ (s.g a).toNat ∨ powerOf (s.g a).toNat = none then s.ok
      else (exchanging ty d p (s.g a).toNat (s.g b).toNat s).ok := by
  have hnext : (d + 1).toNat = d.toNat + 1 := by
    rw [BitVec.toNat_add]
    exact Nat.mod_eq_of_lt (by simp; omega)
  have hlen (x : V512) : (lanesOf (ElemTy.width ty) x).length = 512 / ElemTy.width ty := by simp [lanesOf]
  have hg (r : Reg) : (aloneCrew s).g s r = s.g r := rfl
  have hpart (f : Nat → Nat) : (aloneCrew s).part (Machine.ElemTy.lanes ty) ((List.range (512 / ElemTy.width ty)).map f) =
      (List.range (512 / ElemTy.width ty)).map f := part_alone s (by simp [Machine.ElemTy.lanes])
  simp only [vcxsBody, form_alone, lanes_alone, mask_alone, vpeek_reg (show d.toNat < 56 by omega),
    vpeek_reg (show (d + 1).toNat < 56 by omega), hnext, hg, hlen, List.map_map, Function.comp_def, lanesOf_getD, hpart]
  rfl

/-- Two elements that are active change places when they stand against the order that is asked for. -/
def swapped (ty : ElemTy) (s : State) (p : PReg) (x : V512) (j k e : Nat) : Bool :=
  active s p e && active s p (e + j) &&
    (if e &&& k = 0 then decide (keyOf ty (elem (ElemTy.width ty) x (e + j)) < keyOf ty (elem (ElemTy.width ty) x e))
    else decide (keyOf ty (elem (ElemTy.width ty) x e) < keyOf ty (elem (ElemTy.width ty) x (e + j))))

theorem exchanged_eq (ty : ElemTy) (s : State) (p : PReg) (x : V512) {j e : Nat} (k : Nat) (he : e + j < 512 / ElemTy.width ty) :
    exchanged ty (lanesOf (ElemTy.width ty) x) (s.me.mask p (512 / ElemTy.width ty)) j k e = swapped ty s p x j k e := by
  have hmask {i : Nat} (hi : i < 512 / ElemTy.width ty) : (s.me.mask p (512 / ElemTy.width ty)).getD i false = active s p i := by
    rw [mask_eq s p (lanes_le ty)]
    simp [hi]
  simp only [exchanged, swapped, lanesOf_getD, hmask he, hmask (show e < 512 / ElemTy.width ty by omega)]

/-- Where the elements of a pair come from. -/
theorem exchange_pair (ty : ElemTy) (s : State) (p : PReg) (x : V512) {j q e : Nat} (k : Nat) (hj : j = 2 ^ q)
    (he : e + j < 512 / ElemTy.width ty) (hbit : e &&& j = 0) :
    let source := exchange ty (lanesOf (ElemTy.width ty) x) (s.me.mask p (512 / ElemTy.width ty)) j k
    source e = (if swapped ty s p x j k e then e + j else e) ∧ source (e + j) = (if swapped ty s p x j k e then e else e + j) := by
  have hswap := exchanged_eq ty s p x k he
  refine ⟨?_, ?_⟩
  · rw [exchange, if_pos hbit, hswap]
  · rw [exchange, if_neg (hj ▸ add_two_pow_and (hj ▸ hbit)), Nat.add_sub_cancel, hswap]

theorem exchanging_elem (ty : ElemTy) {d : Reg} (hd : d.toNat < 55) (p : PReg) (j k : Nat) (s : State) {i r : Nat}
    (hi : i < 512 / ElemTy.width ty) (hr : r = d.toNat ∨ r = d.toNat + 1) :
    elem (ElemTy.width ty) ((exchanging ty d p j k s).v r) i = elem (ElemTy.width ty) (s.v r)
      (exchange ty (lanesOf (ElemTy.width ty) (s.v d.toNat)) (s.me.mask p (512 / ElemTy.width ty)) j k i) := by
  rcases hr with rfl | rfl
  · rw [exchanging, v_setV_ne (by omega), v_setV_same (by omega), elem_packLanes (width_mul_lanes ty) _ hi,
      Nat.mod_eq_of_lt (elem_lt ..)]
  · rw [exchanging, v_setV_same (by omega), elem_packLanes (width_mul_lanes ty) _ hi, Nat.mod_eq_of_lt (elem_lt ..)]

theorem exchanging_only (ty : ElemTy) (d : Reg) (p : PReg) (j k : Nat) (s : State) :
    OnlyVector s ((exchanging ty d p j k s).retire .seq) [d.toNat, d.toNat + 1] :=
  onlyVector_retire (onlyVector_trans (setV_onlyVector ..) (setV_onlyVector ..))

/-- Settles O46: the tree and the scan of the active elements, and the exchanges of a stage. -/
theorem reductionsAndExchanges : Obligations.ReductionsAndExchanges := by
  unfold Obligations.ReductionsAndExchanges
  refine ⟨fun s s1 d a op p ty h x ha => ⟨vred_results ha, vscan_results ha⟩, ?_⟩
  intro s d a b p ty h i hwf hclear hd n L j k key swaps
  have hbody := vcxsBody_eq hd a b p ty h (s := s)
  refine ⟨fun hj => ?_, fun q hq hlt => ?_⟩
  · have hsame : (s.g a).toNat = 0 ∨ 512 / ElemTy.width ty ≤ (s.g a).toNat ∨ powerOf (s.g a).toNat = none :=
      hj.imp_right (Or.imp_right powerOf_none)
    exact givesG_of_ok rfl hclear (hbody.trans (if_pos hsame))
  · have hother : ¬((s.g a).toNat = 0 ∨ 512 / ElemTy.width ty ≤ (s.g a).toNat ∨ powerOf (s.g a).toNat = none) := by
      rintro (h0 | hL | hp)
      · exact absurd (hq.symm.trans h0) (by positivity)
      · exact absurd hL (not_le.mpr hlt)
      · rw [show (s.g a).toNat = 2 ^ q from hq, powerOf_two_pow] at hp
        cases hp
    refine ⟨_, givesG_of_ok rfl hclear (hbody.trans (if_neg hother)), exchanging_only .., fun e he hbit r hr => ?_⟩
    obtain ⟨hlow, hhigh⟩ := exchange_pair ty s p (s.v d.toNat) k hq he hbit
    rw [v_retire, exchanging_elem ty hd p _ _ s (lt_of_le_of_lt (Nat.le_add_right e j) he) hr, exchanging_elem ty hd p _ _ s he hr]
    exact ⟨congrArg (elem n (s.v r)) hlow, congrArg (elem n (s.v r)) hhigh⟩

end Sys2Proof.Proofs
end
section
/-! QUANT and DQUANT: the codes of a register, one after another (R197 to R202, R249 to R252). -/

namespace Sys2Proof.Proofs
open Machine Claims

/-! ## Codes in a register -/

/-- An element of a register into which another element has been put. -/
theorem elem_withField (x : V512) {w c m : Nat} (hfit : m * w + w ≤ 512) (hc : c < 2 ^ w) (k : Nat) :
    elem w (withField x (m * w) w c) k = if k = m then c else elem w x k := by
  split
  case isTrue hk => rw [hk, ← field_elem, Nat.mul_comm w, field_withField_same x hfit hc]
  case isFalse hk =>
    rw [← field_elem, ← field_elem, field_withField_out]
    rcases Nat.lt_or_gt_of_ne hk with h | h
    · exact .inl (by rw [← Nat.mul_succ, Nat.mul_comm m]; exact Nat.mul_le_mul_left _ h)
    · exact .inr (by rw [← Nat.succ_mul, Nat.mul_comm w]; exact Nat.mul_le_mul_right _ h)

/-- A code is one of those of its width. -/
theorem code_lt {q : QParam} {x : Fp} {c : Nat} (h : q.code x = some c) : c < 2 ^ q.width := by
  unfold QParam.code at h
  split at h
  · split at h
    · contradiction
    · obtain ⟨⟨hpos, hlt⟩, hc⟩ := Option.ite_none_right_eq_some.mp h
      obtain rfl := Option.some.inj hc
      exact (Int.toNat_lt hpos).mpr (by exact_mod_cast hlt)
  · contradiction

/-- The width of a code, as the instruction's bit names it. -/
def codeWidth (q4 : Bool) : Nat := if q4 then 4 else 8

/-- The types of the float side (R249). -/
def quantTy (ty : ElemTy) : Bool := ty == .f32 || ty == .f16 || ty == .bf16

/-- The codes of one part lie within the register. -/
theorem part_fits {ty : ElemTy} (hty : quantTy ty = true) (q4 : Bool) (x : W64) :
    (Machine.qparam q4 (512 / ElemTy.width ty) x).part * (512 / ElemTy.width ty) + 512 / ElemTy.width ty ≤ 512 / codeWidth q4 := by
  have hpos : 0 < 512 / (512 / ElemTy.width ty * codeWidth q4) := by
    cases ty <;> cases q4 <;> revert hty <;> decide
  calc _ = ((Machine.qparam q4 (512 / ElemTy.width ty) x).part + 1) * (512 / ElemTy.width ty) := (Nat.succ_mul ..).symm
    _ ≤ 512 / (512 / ElemTy.width ty * codeWidth q4) * (512 / ElemTy.width ty) := Nat.mul_le_mul_right _ (Nat.mod_lt _ hpos)
    _ = 512 / codeWidth q4 / (512 / ElemTy.width ty) * (512 / ElemTy.width ty) := by rw [Nat.div_div_eq_div_mul, Nat.mul_comm (codeWidth q4)]
    _ ≤ 512 / codeWidth q4 := Nat.div_mul_le_self ..

/-! ## Elements of QUANT, one after another (R250) -/

theorem SameArch.quota {s t : State} (h : SameArch s t) : t.me.quota = s.me.quota := (congrArg Core.quota h.me :)

theorem setQueue_quota (c : Core) (q i : Nat) (l : List QEntry) (f : Slot → Slot) : ((c.setQueue q l).onSlot i f).quota = c.quota := by
  unfold Core.onSlot Core.setQueue
  split <;> split <;> rfl

/-- A source leaves the elements that may still be committed. -/
theorem vsrc_quota {s t : State} {r : Reg} {x : V512} (h : s.vsrc r = .ok (x, t)) : t.me.quota = s.me.quota := by
  unfold State.vsrc at h
  split at h
  · cases h; rfl
  · unfold State.takeQueue at h
    split at h
    · cases h
    · split at h
      · cases h
      · split at h
        · cases h
        · cases h
          exact (setQueue_quota ..).trans ((acquire_sameArch s).trans (irreversible_sameArch _)).quota

/-- What the elements of QUANT without outliers keep: everything but the code register and the element in PIX. -/
structure QuantKeeps (d : Nat) (s t : State) : Prop where
  only : OnlyVector s t [d]
  quota : t.me.quota = s.me.quota
  ctl : { t.me.ctl with pix := 0 } = { s.me.ctl with pix := 0 }

theorem onlyVector_refl (s : State) (ds : List Nat) : OnlyVector s s ds :=
  ⟨⟨fun _ _ => rfl, fun _ => rfl, fun _ => rfl, fun _ => ⟨rfl, rfl⟩, rfl⟩, rfl⟩

theorem QuantKeeps.refl (d : Nat) (s : State) : QuantKeeps d s s := ⟨onlyVector_refl s _, rfl, rfl⟩

theorem QuantKeeps.trans {d : Nat} {s t u : State} (h : QuantKeeps d s t) (h' : QuantKeeps d t u) : QuantKeeps d s u :=
  ⟨onlyVector_mono (onlyVector_trans h.only h'.only) (by simp), h'.quota.trans h.quota, h'.ctl.trans h.ctl⟩

theorem QuantKeeps.qctl {d : Nat} {s t : State} (h : QuantKeeps d s t) : t.me.ctl.qctl = s.me.ctl.qctl :=
  (congrArg Ctl.qctl h.ctl :)

theorem QuantKeeps.unack {d : Nat} {s t : State} (h : QuantKeeps d s t) : t.me.ctl.unack = s.me.ctl.unack :=
  (congrArg Ctl.unack h.ctl :)

/-- The code of element i in its place. -/
def coded (d : Reg) (q : QParam) (L i c : Nat) (s : State) : State :=
  s.setV d.toNat (withField (s.v d.toNat) (q.at L i) q.width c)

theorem coded_keeps (d : Reg) (q : QParam) (L i c : Nat) (s : State) : QuantKeeps d.toNat s (coded d q L i c s) :=
  ⟨setV_onlyVector .., by rw [coded, setV_me_quota], by rw [coded, setV_me_ctl]⟩

theorem elem_coded {d : Reg} (hd : d.toNat < 56) {q : QParam} {L i c : Nat} (hi : q.part * L + i < 512 / q.width) (hc : c < 2 ^ q.width)
    (s : State) (m : Nat) :
    elem q.width ((coded d q L i c s).v d.toNat) m = if m = q.part * L + i then c else elem q.width (s.v d.toNat) m := by
  have hfit : (q.part * L + i) * q.width + q.width ≤ 512 := by
    rw [← Nat.succ_mul]
    exact (Nat.mul_le_mul_right _ hi).trans (Nat.div_mul_le_self ..)
  rw [coded, v_setV_same hd, QParam.at, elem_withField _ hfit hc]

/-- Element i has been committed. -/
def committed (i : Nat) (s : State) : State := { s.answered with me.ctl.pix := w64 (i + 1) }

theorem committed_keeps (d i : Nat) (s : State) : QuantKeeps d s (committed i s) := by
  unfold committed State.answered
  split <;> exact ⟨onlyVector_refl s _, rfl, rfl⟩

theorem committed_v (i : Nat) (s : State) (r : Nat) : (committed i s).v r = s.v r := by
  unfold committed State.answered
  split <;> rfl

theorem element_free {s : State} (h : s.me.quota = none) : s.element = .ok s := by rw [State.element, h]

theorem quantElem_code {q : QParam} {f : FpFmt} {x c : Nat} (hc : q.code (f.unpack x) = some c) (s : State) (d : Reg) (L i : Nat) :
    s.quantElem d q f L x i = .ok (coded d q L i c s) := by
  rw [State.quantElem, hc]
  rfl

/-- The code of element i in its place, where the element is active. -/
def codedIf (b : Bool) (d : Reg) (q : QParam) (L i c : Nat) (s : State) : State := if b then coded d q L i c s else s

theorem codedIf_keeps (b : Bool) (d : Reg) (q : QParam) (L i c : Nat) (s : State) : QuantKeeps d.toNat s (codedIf b d q L i c s) := by
  cases b with
  | false => exact .refl ..
  | true => exact coded_keeps ..

theorem elem_codedIf {b : Bool} {d : Reg} (hd : d.toNat < 56) {q : QParam} {L i c : Nat} (hi : q.part * L + i < 512 / q.width)
    (hc : b = true → c < 2 ^ q.width) (s : State) (m : Nat) :
    elem q.width ((codedIf b d q L i c s).v d.toNat) m =
      if m = q.part * L + i ∧ b = true then c else elem q.width (s.v d.toNat) m := by
  cases b with
  | false => exact (if_neg fun h => Bool.noConfusion h.2).symm
  | true => exact (elem_coded hd hi (hc rfl) s m).trans (if_congr (and_iff_left rfl).symm rfl rfl)

/-- An element that has no outlier: its code, where it is active, and the next element. -/
theorem quantFrom_succ {s : State} {d : Reg} {q : QParam} {f : FpFmt} {L : Nat} {mask : List Bool} {xs : List Nat} {n i c : Nat}
    (hquota : s.me.quota = none) (hc : mask.getD i false = true → q.code (f.unpack (xs.getD i 0)) = some c) :
    quantFrom d q f L mask xs (n + 1) i s =
      quantFrom d q f L mask xs n (i + 1) (committed i (codedIf (mask.getD i false) d q L i c s)) := by
  rw [quantFrom, element_free hquota, codedIf]
  by_cases hm : mask.getD i false = true
  · simp only [hm, if_true, quantElem_code (hc hm), bind, Except.bind]
    rfl
  · simp only [hm, bind, Except.bind]
    rfl

/-- The codes of n elements from element i on, where none is an outlier. -/
theorem quantFrom_codes {d : Reg} (hd : d.toNat < 56) {q : QParam} {f : FpFmt} {L : Nat} {mask : List Bool} {xs : List Nat} {c : Nat → Nat}
    (hfit : q.part * L + L ≤ 512 / q.width) (n : Nat) : ∀ (i : Nat) (s : State), s.me.quota = none → n ≤ L - i →
      (∀ k, i ≤ k → k < i + n → mask.getD k false = true → q.code (f.unpack (xs.getD k 0)) = some (c k)) →
      ∃ t, quantFrom d q f L mask xs n i s = .ok t ∧ QuantKeeps d.toNat s t ∧ ∀ m, elem q.width (t.v d.toNat) m =
        if q.part * L + i ≤ m ∧ m < q.part * L + (i + n) ∧ mask.getD (m - q.part * L) false = true then c (m - q.part * L)
        else elem q.width (s.v d.toNat) m := by
  induction n with
  | zero => exact fun i s _ _ _ => ⟨s, rfl, .refl _ s, fun m => by rw [if_neg (by omega)]⟩
  | succ n ih =>
    intro i s hquota hn hcode
    have hi := hcode i (by omega) (by omega)
    have hs := (codedIf_keeps (mask.getD i false) d q L i (c i) s).trans (committed_keeps _ i _)
    obtain ⟨t, ht, hkeep, helem⟩ := ih (i + 1) _ (hs.quota.trans hquota) (by omega) fun k h1 h2 => hcode k (by omega) (by omega)
    refine ⟨t, (quantFrom_succ hquota hi).trans ht, hs.trans hkeep, fun m => ?_⟩
    rw [helem m, committed_v, elem_codedIf hd (by omega) fun h => code_lt (hi h)]
    by_cases hm : m = q.part * L + i
    · subst hm
      rw [if_neg (by omega), Nat.add_sub_cancel_left]
      exact if_congr ⟨fun h => ⟨Nat.le_refl _, by omega, h.2⟩, fun h => ⟨rfl, h.2.2⟩⟩ rfl rfl
    · rw [if_neg (c := m = _ ∧ _) fun h => hm h.1]
      exact if_congr ⟨fun h => ⟨by omega, by omega, h.2.2⟩, fun h => ⟨by omega, by omega, h.2.2⟩⟩ rfl rfl

/-! ## The instructions -/

theorem vsrc_qparam {s s1 : State} {a : Reg} {x : V512} (ha : s.vsrc a = .ok (x, s1)) (q4 : Bool) (prm : BitVec 5) (ty : ElemTy) :
    s1.qparam q4 prm ty = s.qparam q4 prm ty := by
  rw [State.qparam, State.qparam, (vsrc_files ha).g]

/-- Nothing is waited for where outliers are not appended, or where every append has been answered. -/
theorem appendsDone_free {s : State} (h : s.me.ctl.qctl.getLsbD 0 = false ∨ s.me.ctl.unack = 0) : s.appendsDone = .ok s := by
  rw [State.appendsDone, if_neg]
  rcases h with h | h <;> rw [Core.qEnabled, h] <;> simp

theorem quantBody_eq {s s1 s2 s3 : State} {d a : Reg} {q4 : Bool} {prm : BitVec 5} {p : PReg} {ty : ElemTy} {x : V512}
    (ha : s.vsrc a = .ok (x, s1))
    (hq : quantFrom d (s1.qparam q4 prm ty) (floatSide ty) (512 / ElemTy.width ty) (s1.me.mask p (512 / ElemTy.width ty))
      (lanesOf (ElemTy.width ty) x) (512 / ElemTy.width ty - field s1.me.ctl.pix 0 6) (field s1.me.ctl.pix 0 6) s1 = .ok s2)
    (hdone : s2.appendsDone = .ok s3) :
    quantBody d a q4 prm p ty s = State.ok { s3 with me.ctl.pix := 0 } := by
  simp only [quantBody, ha, bind, Except.bind, Machine.ElemTy.lanes, hq, hdone]
  rfl

theorem dquantBody_eq {s s1 : State} {d a : Reg} {q4 : Bool} {prm : BitVec 5} {p : PReg} {ty : ElemTy} {x : V512}
    (ha : s.vsrc a = .ok (x, s1)) :
    dquantBody d a q4 prm p ty s = State.ok (s1.writeLanes d (ElemTy.width ty) ((List.range (512 / ElemTy.width ty)).map fun k =>
      if active s p k then some (dquantElem (floatSide ty) (s.qparam q4 prm ty) (field x ((s.qparam q4 prm ty).at (512 / ElemTy.width ty) k)
        (s.qparam q4 prm ty).width)) else none)) := by
  simp only [dquantBody, ha, bind, Except.bind, Machine.ElemTy.lanes, vsrc_qparam ha, (vsrc_files ha).mask, mask_eq s p (lanes_le ty),
    List.zip_map', List.map_map]
  rfl

theorem quantTy_of_wf {d a : Reg} {q4 : Bool} {prm : BitVec 5} {p : PReg} {ty : ElemTy} (hwf : (Instr.quant d a q4 prm p ty).wf = true) :
    d.toNat < 56 ∧ quantTy ty = true := by
  obtain ⟨hd, hty⟩ := Bool.and_eq_true_iff.mp hwf
  exact ⟨of_decide_eq_true hd, hty⟩

theorem mask_getD {s s1 : State} (hf : SameFiles s s1) (p : PReg) {L k : Nat} (hL : L ≤ 64) (hk : k < L) :
    (s1.me.mask p L).getD k false = active s p k := by
  rw [hf.mask, mask_eq s p hL, List.getD_eq_getElem?_getD, List.getElem?_map, List.getElem?_range hk]
  rfl

/-- QUANT where no element is an outlier. -/
theorem quant_results {s s1 : State} {d a : Reg} {q4 : Bool} {prm : BitVec 5} {p : PReg} {ty : ElemTy} {x : V512} {c : Nat → Nat}
    (ha : s.vsrc a = .ok (x, s1)) (hquota : s.me.quota = none) (hq : s.me.ctl.qctl.getLsbD 0 = false ∨ s.me.ctl.unack = 0)
    (hwf : (Instr.quant d a q4 prm p ty).wf = true) (hclear : Clear (.quant d a q4 prm p ty) s)
    (hcode : ∀ k, field s1.me.ctl.pix 0 6 ≤ k → k < 512 / ElemTy.width ty → active s p k = true →
      (s.qparam q4 prm ty).code ((floatSide ty).unpack (elem (ElemTy.width ty) x k)) = some (c k)) :
    ∃ t : State, exec (.quant d a q4 prm p ty) s = .next t ∧ t.me.ctl.pix = 0 ∧ t.me.ctl.qctl = s.me.ctl.qctl ∧
      OnlyVector s1 t [d.toNat] ∧
      ∀ m, m < 512 / codeWidth q4 → elem (codeWidth q4) (t.v d.toNat) m =
        if (s.qparam q4 prm ty).part * (512 / ElemTy.width ty) + field s1.me.ctl.pix 0 6 ≤ m ∧
          m < (s.qparam q4 prm ty).part * (512 / ElemTy.width ty) + 512 / ElemTy.width ty ∧
          active s p (m - (s.qparam q4 prm ty).part * (512 / ElemTy.width ty)) = true
        then c (m - (s.qparam q4 prm ty).part * (512 / ElemTy.width ty)) else elem (codeWidth q4) (s.v d.toNat) m := by
  obtain ⟨hd, hty⟩ := quantTy_of_wf hwf
  have hf := vsrc_files ha
  have hmask {k : Nat} (hk : k < 512 / ElemTy.width ty) := mask_getD hf p (lanes_le ty) hk
  obtain ⟨t, ht, hkeep, helem⟩ :=
    quantFrom_codes (q := s.qparam q4 prm ty) (f := floatSide ty) (mask := s1.me.mask p (512 / ElemTy.width ty))
      (xs := lanesOf (ElemTy.width ty) x) (c := c) hd (part_fits hty q4 _) _ _ s1 ((vsrc_quota ha).trans hquota) le_rfl
      fun k h1 h2 hact => by
        have hk : k < 512 / ElemTy.width ty := by omega
        rw [lanesOf_getD]
        exact hcode k h1 hk (hmask hk ▸ hact)
  obtain ⟨-, hctl, -⟩ := hf
  have hbody := quantBody_eq ha (vsrc_qparam ha q4 prm ty ▸ ht) (appendsDone_free (by rwa [hkeep.qctl, hkeep.unack, hctl]))
  refine ⟨_, gives_of_ok rfl hclear hbody, retire_ctl_pix .., ?_, onlyVector_retire hkeep.only, fun m _ => ?_⟩
  · rw [retire_ctl_qctl]
    exact hkeep.qctl.trans (congrArg Ctl.qctl hctl)
  · rw [v_retire, ← (vsrc_files ha).v]
    refine (helem m).trans (if_congr ?_ rfl rfl)
    have hk (h : m < (s.qparam q4 prm ty).part * (512 / ElemTy.width ty) + 512 / ElemTy.width ty)
        (h' : (s.qparam q4 prm ty).part * (512 / ElemTy.width ty) + field s1.me.ctl.pix 0 6 ≤ m) :
        m - (s.qparam q4 prm ty).part * (512 / ElemTy.width ty) < 512 / ElemTy.width ty := by omega
    constructor
    · rintro ⟨hlo, hhi, hact⟩
      have hhi' : m < (s.qparam q4 prm ty).part * (512 / ElemTy.width ty) + 512 / ElemTy.width ty := by omega
      exact ⟨hlo, hhi', hmask (hk hhi' hlo) ▸ hact⟩
    · rintro ⟨hlo, hhi, hact⟩
      exact ⟨hlo, by omega, (hmask (hk hhi hlo)).trans hact⟩

/-- The code of the zero point stands for 0 (R198). -/
theorem dquantElem_mod (f : FpFmt) (q : QParam) (c n : Nat) :
    dquantElem f q c % 2 ^ n = if c = q.zp then 0 else dquantElem f q c % 2 ^ n := by
  by_cases hc : c = q.zp
  · rw [if_pos hc, dquantElem, if_pos hc, Nat.zero_mod]
  · rw [if_neg hc]

/-- DQUANT: the value of each active element's code. -/
theorem dquant_results {s s1 : State} {d a : Reg} {q4 : Bool} {prm : BitVec 5} {p : PReg} {ty : ElemTy} {x : V512}
    (ha : s.vsrc a = .ok (x, s1)) (hwf : (Instr.dquant d a q4 prm p ty).wf = true) (hclear : Clear (.dquant d a q4 prm p ty) s) :
    ∃ t : State, exec (.dquant d a q4 prm p ty) s = .next t ∧ OnlyVector s1 t [d.toNat] ∧
      ∀ k, k < 512 / ElemTy.width ty → elem (ElemTy.width ty) (t.v d.toNat) k =
        if active s p k then
          if elem (codeWidth q4) x ((s.qparam q4 prm ty).part * (512 / ElemTy.width ty) + k) = (s.qparam q4 prm ty).zp then 0
          else dquantElem (floatSide ty) (s.qparam q4 prm ty)
            (elem (codeWidth q4) x ((s.qparam q4 prm ty).part * (512 / ElemTy.width ty) + k)) % 2 ^ ElemTy.width ty
        else elem (ElemTy.width ty) (s.v d.toNat) k := by
  have hd := (quantTy_of_wf (d := d) (a := a) (q4 := q4) (prm := prm) (p := p) (ty := ty) hwf).1
  refine ⟨_, gives_of_ok rfl hclear (dquantBody_eq ha), onlyVector_retire (setV_onlyVector ..), fun k hk => ?_⟩
  have hcode : field x ((s.qparam q4 prm ty).at (512 / ElemTy.width ty) k) (s.qparam q4 prm ty).width =
      elem (codeWidth q4) x ((s.qparam q4 prm ty).part * (512 / ElemTy.width ty) + k) := by
    rw [QParam.at, Nat.mul_comm, field_elem]
    rfl
  rw [v_retire, elem_writeLanes s1 hd _ hk, hcode, (vsrc_files ha).v]
  by_cases hact : active s p k = true
  · rw [if_pos hact, if_pos hact]
    exact dquantElem_mod ..
  · rw [if_neg hact, if_neg hact]
    rfl

/-- Settles O51, by the elements of QUANT in their order. -/
theorem quantizationResults : Obligations.QuantizationResults := by
  unfold Obligations.QuantizationResults
  intro s s1 d a q4 prm p ty x ha
  exact ⟨fun s2 s3 _ hclear hq hdone => gives_of_ok rfl hclear (quantBody_eq ha hq hdone),
    fun c hquota hq hwf hclear hcode => quant_results ha hquota hq hwf hclear hcode, dquant_results ha⟩

end Sys2Proof.Proofs

end
section
/-! What the memory system neither reads nor writes: the registers and PIX of the cores, the shared reads of B blocks and the cycle
(R241). An acquire commutes with any change of these (R276). -/

namespace Sys2Proof.Proofs
open Machine Claims

/-! ## A change that the memory system does not see -/

/-- A change of a core that leaves what the memory system reads of it: its SELF words, its notes, its stave, its unit, its SID. -/
structure Unseen (g : Core → Core) : Prop where
  reset : g Core.reset = Core.reset
  l1 : ∀ c, (g c).l1 = c.l1
  stave : ∀ c, (g c).stave = c.stave
  member : ∀ c, (g c).member = c.member
  sid : ∀ c, (g c).ctl.sid = c.ctl.sid
  setL1 : ∀ c l, g { c with l1 := l } = { g c with l1 := l }
  filterNotes : ∀ c p, g { c with notes := c.notes.filter p } = { g c with notes := (g c).notes.filter p }

/-- The device with other shared reads and another cycle. -/
def recastDev (b : List SharedB) (cy : W64) (d : Dev) : Dev := { d with sharedB := b, cycle := cy }

/-- The state with every core changed, and with other shared reads and another cycle. -/
def recast (g : Core → Core) (b : List SharedB) (cy : W64) (s : State) : State :=
  { s with me := g s.me, others := s.others.map fun x => (x.1, g x.2), dev := recastDev b cy s.dev }

section
variable (g : Core → Core) (b : List SharedB) (cy : W64)

@[simp] theorem recast_here (s : State) : (recast g b cy s).here = s.here := rfl
@[simp] theorem recast_me (s : State) : (recast g b cy s).me = g s.me := rfl
@[simp] theorem recast_dev (s : State) : (recast g b cy s).dev = recastDev b cy s.dev := rfl
@[simp] theorem recast_fresh (s : State) : (recast g b cy s).fresh = s.fresh := rfl
@[simp] theorem recastDev_stave (d : Dev) (n : BitVec 6) : (recastDev b cy d).stave n = d.stave n := rfl
@[simp] theorem recastDev_homeOf (d : Dev) (n : BitVec 6) (line : Nat) : (recastDev b cy d).homeOf n line = d.homeOf n line := rfl
@[simp] theorem recastDev_knows (d : Dev) (n : BitVec 6) (line : Nat) : (recastDev b cy d).knows n line = d.knows n line := rfl
@[simp] theorem recastDev_nextHome (d : Dev) (n : BitVec 6) (line : Nat) : (recastDev b cy d).nextHome n line = d.nextHome n line := rfl
@[simp] theorem recastDev_inLeavingWay (d : Dev) (line : Nat) : (recastDev b cy d).inLeavingWay line = d.inLeavingWay line := rfl
@[simp] theorem recastDev_waysFor (d : Dev) (n : BitVec 6) (line : Nat) : (recastDev b cy d).waysFor n line = d.waysFor n line := rfl
@[simp] theorem recastDev_llc (d : Dev) : (recastDev b cy d).llc = d.llc := rfl
@[simp] theorem recastDev_dir (d : Dev) : (recastDev b cy d).dir = d.dir := rfl
@[simp] theorem recastDev_l2 (d : Dev) : (recastDev b cy d).l2 = d.l2 := rfl
@[simp] theorem recastDev_inSlice (d : Dev) (h line : Nat) : (recastDev b cy d).inSlice h line = d.inSlice h line := rfl
@[simp] theorem recastDev_linePa (d : Dev) (line : Nat) : (recastDev b cy d).linePa line = d.linePa line := rfl
@[simp] theorem recastDev_poisonMask (d : Dev) (line : Nat) : (recastDev b cy d).poisonMask line = d.poisonMask line := rfl
@[simp] theorem recastDev_peek (d : Dev) (key n : Nat) : (recastDev b cy d).peek key n = d.peek key n := rfl
@[simp] theorem recastDev_poke (d : Dev) (key n x : Nat) : (recastDev b cy d).poke key n x = recastDev b cy (d.poke key n x) := rfl
@[simp] theorem recastDev_charge (d : Dev) (t : Stave) (k : Nat) (chan : Bool) (n : Nat) :
    (recastDev b cy d).charge t k chan n = recastDev b cy (d.charge t k chan n) := by
  unfold Dev.charge
  split <;> rfl

theorem recast_ite {c : Prop} {_ : Decidable c} (s t : State) :
    recast g b cy (if c then s else t) = if c then recast g b cy s else recast g b cy t := apply_ite ..

/-- A fold of steps that commute with the change. -/
theorem foldl_recast {α : Type} {f : State → α → State} (h : ∀ s x, f (recast g b cy s) x = recast g b cy (f s x)) (l : List α) :
    ∀ s, l.foldl f (recast g b cy s) = recast g b cy (l.foldl f s) := by
  induction l with
  | nil => exact fun _ => rfl
  | cons x l ih => exact fun s => (congrArg (l.foldl f) (h s x)).trans (ih _)

/-! ## The homes and the checks -/

theorem noteHome_recast (s : State) (sid : BitVec 16) (line : Nat) :
    (recast g b cy s).noteHome sid line = recast g b cy (s.noteHome sid line) := by
  unfold State.noteHome
  dsimp only
  rw [recast_dev, recastDev_stave, recastDev_knows, recastDev_nextHome, recastDev_homeOf]
  split
  · rfl
  · split <;> rfl

end

/-- A line leaves an LLC way that leaves its stave (R119). -/
def leaveWay (s : State) (line : Nat) : State :=
  if s.dev.inLeavingWay line then { s with dev := { s.dev with llc := s.dev.llc.filter fun x => x.line != line } } else s

/-- A line in a way of the LLC. -/
def putWay (s : State) (sid : BitVec 16) (line : Nat) (dirty : BitVec 16) (code w : Nat) : State :=
  { s with dev := { s.dev with llc := s.dev.llc ++ [⟨w, line, sid, dirty, code == 2⟩] } }

/-- The channel's LLC after the request has been paid for. -/
def fillWay (s : State) (sid : BitVec 16) (line : Nat) (dirty : BitVec 16) (code : Nat) : State :=
  let ways := s.dev.waysFor (sid.extractLsb' 10 6) line
  let set := s.dev.llc.filter fun x => ways.contains x.way && x.line % 2048 == line % 2048
  if s.dev.llc.any fun x => x.line == line then
    { s with dev := { s.dev with llc := s.dev.llc.map fun x => if x.line = line then { x with dirty := x.dirty ||| dirty } else x } }
  else if code = 1 ∨ ways.isEmpty then s
  else
    match ways.find? fun w => !set.any fun x => x.way == w with
    | some w => putWay s sid line dirty code w
    | none =>
      let cands := if set.any (·.first) then set.filter (·.first) else set
      match cands[Config.freeIndex s.fresh % cands.length]? with
      | none => s
      | some v =>
        putWay { s with dev := { s.dev with llc := s.dev.llc.filter fun x => x.line != v.line }, fresh := s.fresh + 1 } sid line dirty code v.way

theorem channel_eq (s : State) (sid : BitVec 16) (line n : Nat) (dirty : BitVec 16) (code : Nat) :
    s.channel sid line n dirty code = if 2 ^ 31 ≤ line then s else
      fillWay (leaveWay { s with dev := s.dev.charge (s.dev.stave (sid.extractLsb' 10 6)) (s.dev.homeOf (sid.extractLsb' 10 6) line) true n } line)
        sid line dirty code := rfl

section
variable (g : Core → Core) (b : List SharedB) (cy : W64)

theorem leaveWay_recast (s : State) (line : Nat) : leaveWay (recast g b cy s) line = recast g b cy (leaveWay s line) := by
  unfold leaveWay
  rw [recast_dev, recastDev_inLeavingWay]
  split <;> rfl

theorem fillWay_recast (s : State) (sid : BitVec 16) (line : Nat) (dirty : BitVec 16) (code : Nat) :
    fillWay (recast g b cy s) sid line dirty code = recast g b cy (fillWay s sid line dirty code) := by
  unfold fillWay
  dsimp only
  rw [recast_dev, recastDev_llc, recastDev_waysFor, recast_fresh]
  split
  · rfl
  · split
    · rfl
    · split
      · rfl
      · split <;> rfl

theorem channel_recast (s : State) (sid : BitVec 16) (line n : Nat) (dirty : BitVec 16) (code : Nat) :
    (recast g b cy s).channel sid line n dirty code = recast g b cy (s.channel sid line n dirty code) := by
  rw [channel_eq, channel_eq, recast_dev, recastDev_stave, recastDev_homeOf, recastDev_charge]
  split
  · rfl
  · rw [← fillWay_recast, ← leaveWay_recast]
    rfl

end

section
variable {α β : Type} (f : α → β)

theorem assocGet_map (d : α) (k : Nat) (l : List (Nat × α)) :
    assocGet (f d) k (l.map fun x => (x.1, f x.2)) = f (assocGet d k l) := by
  induction l with
  | nil => rfl
  | cons x l ih =>
    rw [List.map_cons, assocGet, assocGet, ih]
    exact (apply_ite f _ _ _).symm

theorem assocSet_map (k : Nat) (y : α) (l : List (Nat × α)) :
    assocSet k (f y) (l.map fun x => (x.1, f x.2)) = (assocSet k y l).map fun x => (x.1, f x.2) := by
  induction l with
  | nil => rfl
  | cons x l ih =>
    rw [List.map_cons, assocSet, assocSet, ih]
    split
    · rfl
    · split <;> rfl

theorem assocErase_map (k : Nat) (l : List (Nat × α)) :
    assocErase k (l.map fun x => (x.1, f x.2)) = (assocErase k l).map fun x => (x.1, f x.2) := by
  induction l with
  | nil => rfl
  | cons x l ih =>
    rw [List.map_cons, assocErase, assocErase, ih]
    split <;> rfl

end

/-! ## Pattern entries and the slices -/

section
variable {g : Core → Core} (hg : Unseen g) (b : List SharedB) (cy : W64)

theorem cores_recast (s : State) : (recast g b cy s).cores = s.cores := by
  rw [State.cores, State.cores, recast, List.map_map]
  rfl

include hg

theorem coreAt_recast (s : State) (k : Nat) : (recast g b cy s).coreAt k = g (s.coreAt k) := by
  unfold State.coreAt
  rw [recast_here]
  split
  · rfl
  · exact (congrArg (assocGet · k _) hg.reset.symm).trans (assocGet_map g ..)

theorem onCore_recast (s : State) (k : Nat) {f : Core → Core} (hf : ∀ c, f (g c) = g (f c)) :
    (recast g b cy s).onCore k f = recast g b cy (s.onCore k f) := by
  rw [State.onCore, State.onCore, coreAt_recast hg, hf, State.setCore, State.setCore, recast_here]
  split
  · rfl
  · exact congrArg (fun l => { recast g b cy s with others := l }) (assocSet_map ..)

theorem focus_recast (s : State) (k : Nat) : (recast g b cy s).focus k = recast g b cy (s.focus k) := by
  unfold State.focus
  rw [coreAt_recast hg, recast_here]
  split
  · rfl
  · refine congrArg (fun l => { recast g b cy s with here := k, me := g (s.coreAt k), others := l }) ?_
    exact (congrArg (assocErase k) (assocSet_map g s.here s.me s.others)).trans (assocErase_map ..)

theorem at_recast (s : State) (k : Nat) {f : State → State} (hf : ∀ u, f (recast g b cy u) = recast g b cy (f u)) :
    (recast g b cy s).at k f = recast g b cy (s.at k f) := by
  rw [State.at, State.at, focus_recast hg, hf, focus_recast hg, recast_here]

theorem dropNotes_recast (s : State) (n job : BitVec 6) (i : Nat) :
    (recast g b cy s).dropNotes n job i = recast g b cy (s.dropNotes n job i) := by
  rw [State.dropNotes, State.dropNotes, cores_recast]
  refine foldl_recast g b cy (fun u k => onCore_recast hg b cy u k fun c => ?_) _ _
  rw [hg.stave]
  split
  · exact (hg.filterNotes ..).symm
  · rfl

theorem tearOut_recast (s : State) (n job : BitVec 6) (i : Nat) :
    (recast g b cy s).tearOut n job i = recast g b cy (s.tearOut n job i) := by
  unfold State.tearOut
  rw [recast_dev, recastDev_stave]
  split
  · rfl
  · split
    · rfl
    · split
      · rfl
      · dsimp only
        rw [← dropNotes_recast hg]
        rfl

theorem tearUnread_recast (s : State) (line : Nat) (m : BitVec 16) (p : Nat → Bool) :
    (recast g b cy s).tearUnread line m p = recast g b cy (s.tearUnread line m p) :=
  foldl_recast g b cy (f := fun s (u : Unread) => s.tearOut u.stave u.job u.pat.toNat) (fun _ _ => tearOut_recast hg ..) _
    { s with dev := { s.dev with unread := s.dev.unread.filter fun u => !(u.line == line && (u.span &&& m) != 0 && p u.holder) } }

theorem pushedOut_recast (s : State) (slice line : Nat) :
    (recast g b cy s).pushedOut slice line = recast g b cy (s.pushedOut slice line) := by
  unfold State.pushedOut
  rw [recast_dev, recastDev_dir]
  split
  · rfl
  · rw [tearUnread_recast hg]
    rfl

theorem sliceOut_recast (s : State) (v : L2Line) : (recast g b cy s).sliceOut v = recast g b cy (s.sliceOut v) := by
  unfold State.sliceOut
  dsimp only
  rw [← pushedOut_recast hg]
  split
  · rfl
  · rw [← channel_recast]
    rfl

theorem sliceRoom_recast (s : State) (h line : Nat) : (recast g b cy s).sliceRoom h line = recast g b cy (s.sliceRoom h line) := by
  unfold State.sliceRoom
  rw [show (recast g b cy s).sliceVictim h line = s.sliceVictim h line from rfl]
  split
  · rw [← sliceOut_recast hg]
    rfl
  · rfl

theorem atHome_recast (s : State) (sid : BitVec 16) (line : Nat) (m : BitVec 16) (write : Bool) (alloc llc : Nat) :
    (recast g b cy s).atHome sid line m write alloc llc = recast g b cy (s.atHome sid line m write alloc llc) := by
  unfold State.atHome
  dsimp only
  rw [recast_dev, recastDev_homeOf, recastDev_inSlice, recastDev_l2]
  split
  · split
    · rfl
    · split
      · rw [← channel_recast]
        rfl
      · rfl
  · split
    · exact channel_recast ..
    · rw [sliceRoom_recast hg, channel_recast]
      rfl

/-! ## The checks and the host -/

theorem journalLine_recast (s : State) (n job : BitVec 6) (d : Dom) (key : Nat) :
    (recast g b cy s).journalLine n job d key = recast g b cy (s.journalLine n job d key) := by
  unfold State.journalLine
  dsimp only
  rw [show (recast g b cy s).entryLine n = s.entryLine n from rfl, show (recast g b cy s).freeEntry n = s.freeEntry n from rfl]
  split
  · rfl
  · split
    · rfl
    · rw [recast_me, hg.sid, recast_dev, recastDev_stave, recastDev_linePa, recastDev_poisonMask, recastDev_peek, recastDev_poke,
        recastDev_poke]
      generalize (Dev.poke (Dev.poke _ _ _ _) _ _ _) = dev
      rfl

theorem ckTouch_recast (s : State) (n : BitVec 6) (j : Job) (d : Dom) (inside write : Bool) (key : Nat) :
    (recast g b cy s).ckTouch n j d inside write key = recast g b cy (s.ckTouch n j d inside write key) := by
  unfold State.ckTouch
  rw [show (recast g b cy s).entryLine n = s.entryLine n from rfl]
  split
  · rfl
  · split
    · split
      · exact journalLine_recast hg ..
      · rfl
    · split <;> rfl

theorem ckOutside_recast (s : State) (p : BitVec 6 → Bool) (key : Nat) :
    (recast g b cy s).ckOutside p key = recast g b cy (s.ckOutside p key) := by
  refine foldl_recast g b cy (fun u t => ?_) _ s
  split
  · rfl
  · refine foldl_recast g b cy (fun v j => ?_) _ u
    refine foldl_recast g b cy (fun w d => ?_) _ v
    exact ckTouch_recast hg ..

theorem ckGlobal_recast (s : State) (key : Nat) (write : Bool) :
    (recast g b cy s).ckGlobal key write = recast g b cy (s.ckGlobal key write) := by
  unfold State.ckGlobal State.stave
  dsimp only
  rw [recast_me, hg.stave, recast_dev, recastDev_stave, ← ckOutside_recast hg]
  refine congrArg (State.ckOutside · _ _) (foldl_recast g b cy (fun u j => ?_) _ s)
  refine foldl_recast g b cy (fun v d => ?_) _ u
  rw [recast_me, hg.member]
  exact ckTouch_recast hg ..

omit hg

theorem hostFetch_recast (s : State) (h : Nat) (bad : Bool) :
    (recast g b cy s).hostFetch h bad = recast g b cy (s.hostFetch h bad) := by
  unfold State.hostFetch
  dsimp only
  rw [show (recast g b cy s).dev.mem = s.dev.mem from rfl, recast_fresh]
  generalize s.dev.mem.writeN _ _ _ = mem
  rfl

theorem hostArrive_recast (s : State) (h : Nat) (own bad : Bool) :
    (recast g b cy s).hostArrive h own bad = recast g b cy (s.hostArrive h own bad) := by
  have hfetch : (if (recast g b cy s).dev.devHolds.contains h then recast g b cy s else (recast g b cy s).hostFetch h bad) =
      recast g b cy (if s.dev.devHolds.contains h then s else s.hostFetch h bad) := by
    rw [hostFetch_recast, recast_ite]
    rfl
  rw [State.hostArrive, hfetch]
  rfl

theorem hostBring_recast (s : State) (h : Nat) (own : Bool) : (recast g b cy s).hostBring h own = recast g b cy (s.hostBring h own) := by
  unfold State.hostBring
  rw [recast_ite, ← hostArrive_recast]
  rfl

theorem bring_recast (s : State) (pa n : Nat) (own : Bool) : (recast g b cy s).bring pa n own = recast g b cy (s.bring pa n own) := by
  unfold State.bring
  rw [show (recast g b cy s).dev.paKind pa = s.dev.paKind pa from rfl]
  split
  · exact foldl_recast g b cy (fun u h => hostBring_recast b cy u h own) _ s
  · rfl
  · rfl

/-! ## SELF words and acquires -/

/-- The device after a SELF word's bytes have been written. -/
def putBack (d : Dev) (w : L1Word) : Dev :=
  let r := putWord d.mem d.poison w.word w.data w.dirty
  { d with mem := r.1, poison := if w.bad then insertNat w.word r.2 else r.2 }

theorem putBack_recast (d : Dev) (w : L1Word) : putBack (recastDev b cy d) w = recastDev b cy (putBack d w) := rfl

/-- A SELF word goes back: its bytes are written and paid for, and its line's home learns of it. -/
theorem selfBack_eq (s : State) (w : L1Word) :
    s.selfBack w =
      let u := (s.ckGlobal (8 * w.word) true).bring (8 * w.word) 8 true
      let d := putBack u.dev w
      (State.noteHome { u with dev := d.charge (d.stave (w.sid.extractLsb' 10 6)) (clusterOf u.here) false (popCount 8 w.dirty.toNat) }
        w.sid (w.word / 16)).atHome w.sid (w.word / 16) (spanMask (w.word % 16) (w.word % 16)) true 0 0 := rfl

/-- The directory forgets a line that it lists for another SID. -/
def forgetLine (s : State) (sid : BitVec 16) (line : Nat) : State :=
  if s.dev.dir.any fun x => x.line == line && x.sid != sid then
    let s := s.tearUnread line 0xFFFF fun _ => true
    { s with dev := { s.dev with dir := s.dev.dir.filter fun x => x.line != line } }
  else s

/-- A SELF word of a line under another SID. -/
def ofOther (sid : BitVec 16) (line : Nat) (w : L1Word) : Bool := w.word / 16 == line && w.sid != sid

/-- The slices and the LLC drop a line that they hold for another SID. -/
def dropOther (s : State) (sid : BitVec 16) (line : Nat) : State :=
  { s with dev := { s.dev with l2 := s.dev.l2.filter fun x => !(x.line == line && x.sid != sid)
                               llc := s.dev.llc.filter fun x => !(x.line == line && x.sid != sid) } }

theorem recall_eq (s : State) (sid : BitVec 16) (line : Nat) :
    s.recall sid line = dropOther ((forgetLine s sid line).cores.foldl (fun s k =>
      if (s.coreAt k).l1.any (ofOther sid line) then s.at k fun s => s.selfRecall (ofOther sid line) else s) (forgetLine s sid line))
        sid line := rfl

include hg

theorem forgetLine_recast (s : State) (sid : BitVec 16) (line : Nat) :
    forgetLine (recast g b cy s) sid line = recast g b cy (forgetLine s sid line) := by
  unfold forgetLine
  rw [recast_dev, recastDev_dir, tearUnread_recast hg]
  split <;> rfl

theorem selfBack_recast (s : State) (w : L1Word) : (recast g b cy s).selfBack w = recast g b cy (s.selfBack w) := by
  rw [selfBack_eq, selfBack_eq]
  dsimp only
  rw [ckGlobal_recast hg, bring_recast, recast_dev, putBack_recast, recastDev_stave, recastDev_charge, recast_here, ← atHome_recast hg,
    ← noteHome_recast]
  rfl

/-- The core in focus without some of its SELF words. -/
theorem dropL1_recast (s : State) (p : L1Word → Bool) :
    { recast g b cy s with me := { (recast g b cy s).me with l1 := (recast g b cy s).me.l1.filter p } } =
      recast g b cy { s with me := { s.me with l1 := s.me.l1.filter p } } := by
  rw [recast_me, hg.l1]
  exact congrArg (fun c => { recast g b cy s with me := c }) (hg.setL1 s.me _).symm

theorem selfRecall_recast (s : State) (p : L1Word → Bool) : (recast g b cy s).selfRecall p = recast g b cy (s.selfRecall p) := by
  rw [State.selfRecall, State.selfRecall, recast_me, hg.l1, foldl_recast g b cy (selfBack_recast hg b cy)]
  exact dropL1_recast hg ..

theorem recall_recast (s : State) (sid : BitVec 16) (line : Nat) : (recast g b cy s).recall sid line = recast g b cy (s.recall sid line) := by
  rw [recall_eq, recall_eq, forgetLine_recast hg, cores_recast]
  refine congrArg (dropOther · sid line) (foldl_recast g b cy (fun u k => ?_) _ _)
  rw [coreAt_recast hg, hg.l1]
  split
  · exact at_recast hg b cy u k fun v => selfRecall_recast hg ..
  · rfl

theorem selfPut_recast (s : State) (p : L1Word → Bool) : (recast g b cy s).selfPut p = recast g b cy (s.selfPut p) := by
  rw [State.selfPut, State.selfPut, recast_me, hg.l1]
  exact (congrArg (List.foldl State.selfBack · _) (foldl_recast g b cy (fun u w => recall_recast hg b cy u _ _) _ s)).trans
    (foldl_recast g b cy (selfBack_recast hg b cy) _ _)

theorem acquire_recast (s : State) : (recast g b cy s).acquire = recast g b cy s.acquire := by
  rw [State.acquire, State.acquire, State.selfOut, State.selfOut, selfPut_recast hg]
  exact dropL1_recast hg ..

end

end Sys2Proof.Proofs

end
section
/-! What an MMA's joins leave: an acquire leaves the shared reads and the cycle, a second one changes nothing, and one after rows have
been written comes to the same memory as one before (R235, R241, R354). -/

namespace Sys2Proof.Proofs
open Machine Claims

/-! ## Acquires -/

theorem unseen_id : Unseen id := ⟨rfl, fun _ => rfl, fun _ => rfl, fun _ => rfl, fun _ => rfl, fun _ _ => rfl, fun _ _ => rfl⟩

theorem recast_self (s : State) : recast id s.dev.sharedB s.dev.cycle s = s := by
  rw [recast, show (fun x : Nat × Core => (x.1, id x.2)) = id from rfl, List.map_id]
  rfl

theorem acquire_shares (s : State) : s.acquire.dev.sharedB = s.dev.sharedB ∧ s.acquire.dev.cycle = s.dev.cycle := by
  have h := acquire_recast unseen_id s.dev.sharedB s.dev.cycle s
  rw [recast_self] at h
  exact ⟨congrArg (fun t => t.dev.sharedB) h, congrArg (fun t => t.dev.cycle) h⟩

theorem acquire_l1 (s : State) : s.acquire.me.l1 = [] := List.filter_eq_nil_iff.mpr fun _ _ => Bool.false_ne_true

theorem acquire_of_l1 {s : State} (h : s.me.l1 = []) : s.acquire = s := by
  have hput : s.selfPut (fun _ => true) = s := by
    rw [State.selfPut, h]
    rfl
  rw [State.acquire, State.selfOut, hput, h]
  exact congrArg (fun l => { s with me := { s.me with l1 := l } }) h.symm

theorem acquire_acquire (s : State) : s.acquire.acquire = s.acquire := acquire_of_l1 (acquire_l1 s)

/-! ## States that differ in rows, PIX and shared reads -/

/-- A core without its registers and PIX. -/
def bareCore (c : Core) : Core := { c with regs := Core.reset.regs, ctl := { c.ctl with pix := Core.reset.ctl.pix } }

theorem unseen_bareCore : Unseen bareCore :=
  ⟨rfl, fun _ => rfl, fun _ => rfl, fun _ => rfl, fun _ => rfl, fun _ _ => rfl, fun _ _ => rfl⟩

/-- The state without what an MMA's rows and shared reads change. -/
def bare (s : State) : State := recast bareCore [] 0 s

theorem bare_acquire {s t : State} (h : bare s = bare t) : bare s.acquire = bare t.acquire := by
  rw [bare, bare, ← acquire_recast unseen_bareCore, ← acquire_recast unseen_bareCore]
  exact congrArg State.acquire h

/-- What an MMA may have done so far: joined the copies, and changed registers, PIX and shared reads. -/
structure Walks (u t : State) : Prop where
  bare : bare t = bare u ∨ u.me.loc.landed ≠ [] ∧ bare t = Proofs.bare u.acquire
  cycle : t.dev.cycle = u.dev.cycle

theorem Walks.refl (u : State) : Walks u u := ⟨.inl rfl, rfl⟩

/-- Changes that `bare` does not see. -/
theorem Walks.step {u t t' : State} (h : Walks u t) (hb : Proofs.bare t' = Proofs.bare t) (hc : t'.dev.cycle = t.dev.cycle) : Walks u t' :=
  ⟨h.bare.imp hb.trans fun ⟨hl, h⟩ => ⟨hl, hb.trans h⟩, hc.trans h.cycle⟩

/-- Every field of the core in focus but its registers, PIX, SELF words, notes and TLB. -/
theorem Walks.core {u t : State} (h : Walks u t) : archOf (bareCore t.me) = archOf (bareCore u.me) := by
  rcases h.bare with hb | ⟨-, hb⟩
  · exact (congrArg (fun s => archOf s.me) hb :)
  · have hacq : bareCore (archOf u.acquire.me) = bareCore (archOf u.me) := congrArg bareCore (acquire_sameArch u).me
    exact (congrArg (fun s => archOf s.me) hb :).trans hacq

theorem Walks.here {u t : State} (h : Walks u t) : t.here = u.here := by
  rcases h.bare with hb | ⟨-, hb⟩
  · exact (congrArg State.here hb :)
  · exact (congrArg State.here hb :).trans (acquire_sameArch u).1

theorem Walks.loc {u t : State} (h : Walks u t) : t.me.loc = u.me.loc := (congrArg Core.loc h.core :)
theorem Walks.member {u t : State} (h : Walks u t) : t.me.member = u.me.member := (congrArg Core.member h.core :)
theorem Walks.quota {u t : State} (h : Walks u t) : t.me.quota = u.me.quota := (congrArg Core.quota h.core :)

theorem Walks.acquire {u t : State} (h : Walks u t) (hl : u.me.loc.landed ≠ []) : Walks u t.acquire := by
  refine ⟨.inr ⟨hl, ?_⟩, (acquire_shares t).2.trans h.cycle⟩
  rcases h.bare with hb | ⟨-, hb⟩
  · exact bare_acquire hb
  · exact (bare_acquire hb).trans (congrArg Proofs.bare (acquire_acquire u))

/-- Devices that differ in their shared reads alone. -/
theorem dev_of_bare {t v : State} (h : bare t = bare v) (hc : t.dev.cycle = v.dev.cycle) :
    { t.dev with sharedB := v.dev.sharedB } = v.dev := by
  have hdev : recastDev [] 0 t.dev = recastDev [] 0 v.dev := congrArg State.dev h
  rw [show { t.dev with sharedB := v.dev.sharedB } = recastDev v.dev.sharedB t.dev.cycle (recastDev [] 0 t.dev) from rfl, hdev, hc]
  rfl

/-- The device as the joins have left it, but for the shared reads. -/
theorem Walks.joined {u t : State} (h : Walks u t) : Claims.Joined u { t with dev := { t.dev with sharedB := u.dev.sharedB } } := by
  rcases h.bare with hb | ⟨hl, hb⟩
  · have hdev := dev_of_bare hb h.cycle
    exact ⟨.inl hdev, fun _ => hdev⟩
  · obtain ⟨hshare, hcycle⟩ := acquire_shares u
    exact ⟨.inr (hshare ▸ dev_of_bare hb (h.cycle.trans hcycle.symm)), fun hnil => absurd hnil hl⟩

/-! ## Reading operands in the core's own local memory (R235) -/

theorem Walks.joinLocal {u t : State} (h : Walks u t) (a n : Nat) : Walks u (t.joinLocal a n) := by
  unfold State.joinLocal
  split
  case isTrue hjoin =>
    refine h.acquire fun hnil => ?_
    rw [h.loc, hnil] at hjoin
    simp at hjoin
  case isFalse => exact h

/-- Part of what can be read can be read. -/
theorem wholeReadable_mono {s : State} {off n a m : Nat} (h : WholeReadable s off n) (ha : off ≤ a) (hm : a + m ≤ off + n) (hpos : 0 < m) :
    WholeReadable s a m := by
  obtain ⟨hfit, hempty, hpoison⟩ := h
  refine ⟨by omega, fun l h1 h2 => hempty l (le_trans (Nat.div_le_div_right ha) h1) (le_trans h2 (Nat.div_le_div_right (by omega))), ?_⟩
  rw [firstPoison, List.find?_eq_none] at hpoison ⊢
  intro w hw hin
  obtain ⟨h1, h2⟩ := of_decide_eq_true hin
  exact hpoison w hw (decide_eq_true ⟨le_trans (Nat.div_le_div_right ha) h1, le_trans h2 (Nat.div_le_div_right (by omega))⟩)

theorem ckLocal_free {s : State} (hm : s.me.member = none) (line : Nat) (write : Bool) : s.ckLocal s.here line write = s := by
  rw [State.ckLocal, State.ckLocalBy, coreAt_here, hm]

/-- A read of n bytes from byte i of an operand in the core's own local memory. -/
theorem opRead_own {u t : State} (h : Walks u t) (hm : u.me.member = none) {off i n : Nat} (va : W64) (hr : WholeReadable u (off + i) n) :
    t.opRead ⟨u.here, off, va⟩ i n = .ok (u.me.loc.bytes.readN (off + i) n, t.joinLocal (off + i) n) := by
  obtain ⟨hfit, hempty, hpoison⟩ := hr
  have hfull : (List.range ((off + i + n - 1) / 128 + 1 - (off + i) / 128)).any
      (fun k => u.me.loc.empty.contains ((off + i) / 128 + k)) = false :=
    List.any_eq_false.mpr fun k hk => Bool.eq_false_iff.mp (hempty _ (Nat.le_add_right ..) (by have := List.mem_range.mp hk; omega))
  have hmine : t.storesTo t.here = false := by rw [State.storesTo, bne_self_eq_false, Bool.false_and]
  rw [State.opRead, ← h.here]
  simp only [coreAt_here, hmine, h.loc, hfull, hpoison, ckLocal_free (h.member.trans hm), if_neg (Nat.not_lt.mpr hfit), if_true,
    Bool.false_eq_true, if_false]

end Sys2Proof.Proofs

end
section
/-! The bytes of blocks of codes, and the elements of accumulator rows (Table 1 of 10, R195, R239). -/

namespace Sys2Proof.Proofs
open Machine Claims

/-! ## Bytes of a block -/

/-- Byte j of the number that a run of bytes forms. -/
theorem readN_byte (m : Cells) : ∀ (n a : Nat) {j : Nat}, j < n → m.readN a n / 256 ^ j % 256 = (m.read (a + j)).toNat
  | n + 1, a, 0, _ => by
    have hlt := (m.read a).isLt
    rw [Cells.readN, Nat.pow_zero, Nat.div_one, Nat.add_mul_mod_self_left, Nat.mod_eq_of_lt hlt, Nat.add_zero]
  | n + 1, a, j + 1, hj => by
    have hlt := (m.read a).isLt
    rw [Cells.readN, Nat.pow_succ', ← Nat.div_div_eq_div_mul, Nat.add_mul_div_left _ _ (by decide), Nat.div_eq_of_lt hlt, Nat.zero_add,
      readN_byte m n (a + 1) (Nat.lt_of_succ_lt_succ hj), Nat.add_assoc, Nat.add_comm 1]

theorem blockK_bytes (x : Nat) : blockK x = x / 256 ^ 0 % 256 + 256 * (x / 256 ^ 1 % 256) := by
  rw [blockK]
  omega

/-- The header of a block is its first 128 bytes. -/
theorem header_byte (x : Nat) {j : Nat} (hj : j < 128) : x % 256 ^ 128 / 256 ^ j % 256 = x / 256 ^ j % 256 := by
  rw [show 256 ^ 128 = 256 ^ j * 256 ^ (128 - j) by rw [← Nat.pow_add]; congr 1; omega, Nat.mod_mul_right_div_self,
    Nat.mod_mod_of_dvd _ (dvd_pow_self 256 (by omega))]

/-- The data of a block follow its header. -/
theorem data_byte (x j : Nat) : x / 256 ^ 128 / 256 ^ j % 256 = x / 256 ^ (128 + j) % 256 := by
  rw [Nat.div_div_eq_div_mul, ← Nat.pow_add]

theorem elemsOf_bytes (n x : Nat) : elemsOf 8 n x = (List.range n).map fun e => x / 256 ^ e % 256 :=
  List.map_congr_left fun e _ => by rw [Nat.pow_mul]; rfl

theorem zeroPoints_q8 (header : Nat) {i : Nat} (hi : i < 16) : (zeroPoints .q8 header).getD i 0 = header / 256 ^ (16 + i) % 256 := by
  rw [zeroPoints, elemsOf_bytes, List.map_map, List.getD_eq_getElem?_getD, List.getElem?_map, List.getElem?_range hi,
    show 2 ^ 128 = 256 ^ 16 by norm_num]
  simp only [Option.map_some, Option.getD_some, Function.comp, Nat.div_div_eq_div_mul, ← Nat.pow_add]
  rfl

theorem vectorOf_q8 (k x v : Nat) : vectorOf .q8 k x v = (List.range k).map fun e => x / 256 ^ (k * v + e) % 256 := by
  rw [vectorOf, show MmaTy.bits .q8 = 8 from rfl, elemsOf_bytes]
  refine List.map_congr_left fun e _ => ?_
  rw [show k * 8 * v = 8 * (k * v) by ring, Nat.pow_mul, Nat.div_div_eq_div_mul, ← Nat.pow_add]

/-- The sum of products, from a sum so far. -/
theorem foldl_codeDot (za zb : Nat) (f h : Nat → Nat) (l : List Nat) : ∀ x : Int,
    l.foldl (fun (x : Int) e => x + ((f e : Int) - za) * ((h e : Int) - zb)) x = x + codeDot za zb (l.map f) (l.map h) := by
  induction l with
  | nil => exact fun x => (Int.add_zero x).symm
  | cons e l ih =>
    intro x
    rw [List.foldl_cons, ih, List.map_cons, List.map_cons, codeDot, Int.add_assoc]

/-! ## Elements of an accumulator -/

/-- An element of a vector; 0 past its end. -/
def vget (v : Vector (BitVec 32) 256) (m : Nat) : BitVec 32 := if h : m < 256 then v[m] else 0

theorem zElem_eq (s : State) (z : ZReg) (m : Nat) : s.zElem z m = vget (s.z z) m := rfl

theorem vget_vset (v : Vector (BitVec 32) 256) {k : Nat} (hk : k < 256) (x : BitVec 32) (m : Nat) :
    vget (vset v k x) m = if m = k then x else vget v m := by
  unfold vget vset
  rw [dif_pos hk]
  by_cases hm : m < 256
  · rw [dif_pos hm, dif_pos hm, Vector.getElem_set]
    exact if_congr eq_comm rfl rfl
  · rw [dif_neg hm, dif_neg hm, if_neg (by omega)]

/-- Elements of a vector after a run of n of them has been written. -/
theorem vget_run (v : Vector (BitVec 32) 256) (lo : Nat) (x : Nat → BitVec 32) (n : Nat) (hn : lo + n ≤ 256) (m : Nat) :
    vget ((List.range n).foldl (fun v j => vset v (lo + j) (x j)) v) m =
      if lo ≤ m ∧ m < lo + n then x (m - lo) else vget v m := by
  induction n with
  | zero => rw [if_neg (by omega)]; rfl
  | succ n ih =>
    rw [List.range_succ, List.foldl_append, List.foldl_cons, List.foldl_nil, vget_vset _ (by omega), ih (by omega)]
    by_cases hm : m = lo + n
    · rw [if_pos hm, if_pos (by omega), hm, Nat.add_sub_cancel_left]
    · rw [if_neg hm]
      exact if_congr (by omega) rfl rfl

/-- Elements of an accumulator after one of its rows has been replaced. -/
theorem zElem_setZRow (s : State) (z : ZReg) {i r c : Nat} (hi : i < 16) (hc : c < 16) (l : List Nat) :
    (s.setZRow z i l).zElem z (16 * r + c) = if r = i then BitVec.ofNat 32 (l.getD c 0) else s.zElem z (16 * r + c) := by
  rw [zElem_eq, State.setZRow, z_setZ_same, vget_run _ (16 * i) _ 16 (by omega), zElem_eq]
  by_cases hr : r = i
  · rw [if_pos (by omega), if_pos hr, hr, Nat.add_sub_cancel_left]
  · rw [if_neg (by omega), if_neg hr]

theorem zRow_getD (s : State) (z : ZReg) (i : Nat) {c : Nat} (hc : c < 16) : (s.zRow z i).getD c 0 = (s.zElem z (16 * i + c)).toNat := by
  rw [State.zRow, List.getD_eq_getElem?_getD, List.getElem?_map, List.getElem?_range hc]
  rfl

end Sys2Proof.Proofs

end
section
/-! Rows of an MMA of codes: what each reads, what it writes and what it keeps (R195, R239). -/

namespace Sys2Proof.Proofs
open Machine Claims

/-! ## What a row keeps -/

/-- Nothing has changed of registers and shared reads but one accumulator's elements. -/
structure OnlyZ (z : ZReg) (s t : State) : Prop where
  regs : t.me.regs = { s.me.regs with z := t.me.regs.z }
  z : ∀ y, y ≠ z → t.z y = s.z y
  shares : t.dev.sharedB = s.dev.sharedB

theorem OnlyZ.refl (z : ZReg) (s : State) : OnlyZ z s s := ⟨rfl, fun _ _ => rfl, rfl⟩

theorem OnlyZ.trans {z : ZReg} {s t u : State} (h : OnlyZ z s t) (h' : OnlyZ z t u) : OnlyZ z s u :=
  ⟨by rw [h'.regs, h.regs], fun y hy => (h'.z y hy).trans (h.z y hy), h'.shares.trans h.shares⟩

theorem OnlyZ.zver {z : ZReg} {s t : State} (h : OnlyZ z s t) (y : ZReg) : t.zver y = s.zver y := by
  rw [State.zver, State.zver, h.regs]

theorem OnlyZ.g {z : ZReg} {s t : State} (h : OnlyZ z s t) (r : Reg) : t.g r = s.g r := by
  rw [State.g, State.g, h.regs]

theorem OnlyZ.v {z : ZReg} {s t : State} (h : OnlyZ z s t) (r : Nat) : t.v r = s.v r := by
  rw [State.v, State.v, Core.v, Core.v, h.regs]

/-- A join changes no register. -/
theorem joinLocal_regs (s : State) (a n : Nat) : (s.joinLocal a n).me.regs = s.me.regs ∧ (s.joinLocal a n).dev.sharedB = s.dev.sharedB := by
  unfold State.joinLocal
  split
  · exact ⟨(acquire_sameArch s).regs, (acquire_shares s).1⟩
  · exact ⟨rfl, rfl⟩

theorem joinLocal_onlyZ (z : ZReg) (s : State) (a n : Nat) : OnlyZ z s (s.joinLocal a n) := by
  obtain ⟨hregs, hshares⟩ := joinLocal_regs s a n
  refine ⟨by rw [hregs], fun y _ => ?_, hshares⟩
  rw [State.z, State.z]
  simp only [hregs]

theorem joinLocal_zElem (s : State) (a n : Nat) (z : ZReg) (m : Nat) : (s.joinLocal a n).zElem z m = s.zElem z m := by
  rw [State.zElem, State.zElem]
  simp only [(joinLocal_regs s a n).1]

theorem setZRow_onlyZ (z : ZReg) (s : State) (i : Nat) (l : List Nat) : OnlyZ z s (s.setZRow z i l) :=
  ⟨rfl, fun _ hy => z_setZ_ne hy s _, rfl⟩

/-! ## The data of B -/

/-- The data of B that a row uses. -/
def dataB (s : State) (b : Opnd) (n : Nat) (shared : Option Nat) : Except Res (Nat × State) :=
  match shared with
  | some y => .ok (y, s)
  | none => s.opRead b 128 (16 * n)

/-- Where the rows find the data of B: in a group's read, or in the core's own local memory. -/
def SourceB (u : State) (off k : Nat) (byteB : Nat → Nat) : Option Nat → Prop
  | some y => ∀ j, j < 16 * k → y / 256 ^ j % 256 = byteB j
  | none => WholeReadable u (off + 128) (16 * k) ∧ ∀ j, byteB j = localByte u (off + 128 + j)

theorem dataB_eq {u s : State} (h : Walks u s) (hm : u.me.member = none) {off k : Nat} {va : W64} {byteB : Nat → Nat} {shared : Option Nat}
    (hb : SourceB u off k byteB shared) (z : ZReg) :
    ∃ y t, dataB s ⟨u.here, off, va⟩ k shared = .ok (y, t) ∧ Walks u t ∧ OnlyZ z s t ∧ (∀ m, t.zElem z m = s.zElem z m) ∧
      ∀ j, j < 16 * k → y / 256 ^ j % 256 = byteB j := by
  cases shared with
  | some y => exact ⟨y, s, rfl, h, .refl z s, fun _ => rfl, hb⟩
  | none =>
    obtain ⟨hr, hbyte⟩ := hb
    refine ⟨_, _, opRead_own h hm va hr, h.joinLocal .., joinLocal_onlyZ .., fun m => joinLocal_zElem .., fun j hj => ?_⟩
    rw [readN_byte _ _ _ hj, hbyte, localByte]

/-! ## One row -/

/-- Row i with the products added. -/
def mulRow (z : ZReg) (ty : MmaTy) (k ha hb x y i : Nat) (s : State) : State :=
  s.setZRow z i ((List.range 16).map fun j => mmaElem ty ((s.zRow z i).getD j 0) ((zeroPoints ty ha).getD i 0)
    ((zeroPoints ty hb).getD j 0) (vectorOf ty k x 0) (vectorOf ty k y j))

theorem mmaRow_eq (s : State) (z : ZReg) (ty : MmaTy) (a b : Opnd) (k ha hb : Nat) (shared : Option Nat) (i : Nat) :
    s.mmaRow z ty a b k ha hb shared i = (do
      let (x, s) ← s.opRead a (128 + k * MmaTy.bits ty / 8 * i) (k * MmaTy.bits ty / 8)
      let (y, s) ← dataB s b (k * MmaTy.bits ty / 8) shared
      return mulRow z ty k ha hb x y i s) := by
  cases shared <;> rfl

/-- The sum that an MMA of codes adds to element (r, c). -/
def dotSum (byteA byteB : Nat → Nat) (k r c : Nat) : Int :=
  (List.range k).foldl (fun (x : Int) e => x + ((byteA (128 + k * r + e) : Int) - byteA (16 + r)) *
    ((byteB (128 + k * c + e) : Int) - byteB (16 + c))) 0

theorem mulRow_q8 {z : ZReg} {k ha hb x y i : Nat} {s : State} {byteA byteB : Nat → Nat} (hi : i < 16)
    (hza : ha / 256 ^ (16 + i) % 256 = byteA (16 + i)) (hzb : ∀ j, j < 16 → hb / 256 ^ (16 + j) % 256 = byteB (16 + j))
    (hx : ∀ e, e < k → x / 256 ^ e % 256 = byteA (128 + k * i + e)) (hy : ∀ j, j < 16 * k → y / 256 ^ j % 256 = byteB (128 + j))
    {r c : Nat} (hc : c < 16) :
    (((mulRow z .q8 k ha hb x y i s).zElem z (16 * r + c)).toNat : Int) =
      if r = i then (((s.zElem z (16 * r + c)).toNat : Int) + dotSum byteA byteB k r c) % 2 ^ 32 else ((s.zElem z (16 * r + c)).toNat : Int) := by
  rw [mulRow, zElem_setZRow s z hi hc]
  split
  case isFalse => rfl
  case isTrue hr =>
    subst hr
    have hrow : vectorOf .q8 k x 0 = (List.range k).map fun e => byteA (128 + k * r + e) := by
      rw [vectorOf_q8]
      refine List.map_congr_left fun e he => ?_
      rw [Nat.mul_zero, Nat.zero_add, hx e (List.mem_range.mp he)]
    have hcol : vectorOf .q8 k y c = (List.range k).map fun e => byteB (128 + k * c + e) := by
      rw [vectorOf_q8]
      refine List.map_congr_left fun e he => ?_
      have hlt : k * c + e < 16 * k := by
        have := List.mem_range.mp he
        have := Nat.mul_le_mul_left k (Nat.le_of_lt_succ (m := c) (n := 15) hc)
        omega
      rw [hy _ hlt, Nat.add_assoc]
    rw [List.getD_eq_getElem?_getD, List.getElem?_map, List.getElem?_range hc, Option.map_some, Option.getD_some, mmaElem, zRow_getD s z r hc,
      zeroPoints_q8 ha hi, zeroPoints_q8 hb hc, hza, hzb c hc, hrow, hcol, BitVec.toNat_ofNat, Int.natCast_mod, cast_lowBits, dotSum,
      foldl_codeDot, Int.zero_add]
    exact Int.emod_emod_of_dvd _ (dvd_refl _)

/-- The blocks of an MMA of codes: A in the core's own local memory, B there or in a group's read, with their headers. -/
structure CodeBlocks (u : State) (offA offB k ha hb : Nat) (byteB : Nat → Nat) (shared : Option Nat) : Prop where
  pos : 0 < k
  readA : WholeReadable u offA (128 + 16 * k)
  zerosA : ∀ i, i < 16 → ha / 256 ^ (16 + i) % 256 = localByte u (offA + (16 + i))
  zerosB : ∀ j, j < 16 → hb / 256 ^ (16 + j) % 256 = byteB (16 + j)
  source : SourceB u offB k (fun j => byteB (128 + j)) shared

/-- Byte j of the block at an offset. -/
def blockByte (u : State) (off j : Nat) : Nat := localByte u (off + j)

section
variable {u : State} {offA offB k ha hb : Nat} {byteB : Nat → Nat} {shared : Option Nat}

theorem mmaRow_q8 (hblocks : CodeBlocks u offA offB k ha hb byteB shared) (hm : u.me.member = none) {s : State} (hw : Walks u s) (z : ZReg)
    (va vb : W64) {i : Nat} (hi : i < 16) :
    ∃ t, s.mmaRow z .q8 ⟨u.here, offA, va⟩ ⟨u.here, offB, vb⟩ k ha hb shared i = .ok t ∧ Walks u t ∧ OnlyZ z s t ∧ ∀ r c, c < 16 →
      ((t.zElem z (16 * r + c)).toNat : Int) = if r = i then
        (((s.zElem z (16 * r + c)).toNat : Int) + dotSum (blockByte u offA) byteB k r c) % 2 ^ 32
        else ((s.zElem z (16 * r + c)).toNat : Int) := by
  have hwidth : k * MmaTy.bits .q8 / 8 = k := Nat.mul_div_cancel k (by decide)
  have hki : k * i + k ≤ 16 * k := by
    rw [← Nat.mul_succ, Nat.mul_comm 16]
    exact Nat.mul_le_mul_left k hi
  have hread := wholeReadable_mono hblocks.readA (a := offA + (128 + k * i)) (m := k) (by omega) (by omega) hblocks.pos
  obtain ⟨y, t, hdata, hwt, hzt, hsame, hy⟩ := dataB_eq (hw.joinLocal (offA + (128 + k * i)) k) hm hblocks.source z (va := vb)
  refine ⟨mulRow z .q8 k ha hb (u.me.loc.bytes.readN (offA + (128 + k * i)) k) y i t, ?_, hwt.step rfl rfl,
    (joinLocal_onlyZ ..).trans (hzt.trans (setZRow_onlyZ ..)), fun r c hc => ?_⟩
  · rw [mmaRow_eq, hwidth, opRead_own hw hm va hread]
    simp only [bind, Except.bind, hdata]
    rfl
  · rw [mulRow_q8 (byteA := blockByte u offA) hi (hblocks.zerosA i hi) hblocks.zerosB (fun e he => ?_) hy hc, hsame, joinLocal_zElem]
    rw [readN_byte _ _ _ he, Nat.add_assoc]
    rfl

/-- PIX names row i. -/
def atRow (i : Nat) (s : State) : State := { s with me.ctl.pix := w64 i }

theorem atRow_onlyZ (z : ZReg) (i : Nat) (s : State) : OnlyZ z s (atRow i s) := ⟨rfl, fun _ _ => rfl, rfl⟩

theorem Walks.atRow {u s : State} (h : Walks u s) (i : Nat) : Walks u (atRow i s) := h.step rfl rfl

theorem atRow_zElem (i : Nat) (s : State) (z : ZReg) (m : Nat) : (atRow i s).zElem z m = s.zElem z m := rfl

/-- Row i is committed with PIX. -/
theorem mmaRows_succ {z : ZReg} {ty : MmaTy} {a b : Opnd} {n i : Nat} {s t : State} (hquota : s.me.quota = none)
    (hrow : s.mmaRow z ty a b k ha hb shared i = .ok t) :
    mmaRows z ty a b k ha hb shared (n + 1) i s = mmaRows z ty a b k ha hb shared n (i + 1) (atRow (i + 1) t) := by
  rw [mmaRows, element_free hquota]
  simp only [bind, Except.bind, hrow]
  rfl

/-- The rows of an MMA of codes from row i on. -/
theorem mmaRows_q8 (hblocks : CodeBlocks u offA offB k ha hb byteB shared) (hm : u.me.member = none) (hquota : u.me.quota = none) (z : ZReg)
    (va vb : W64) (n : Nat) : ∀ (i : Nat) (s : State), Walks u s → n ≤ 16 - i →
      ∃ t, mmaRows z .q8 ⟨u.here, offA, va⟩ ⟨u.here, offB, vb⟩ k ha hb shared n i s = .ok t ∧ Walks u t ∧ OnlyZ z s t ∧ ∀ r c, c < 16 →
        ((t.zElem z (16 * r + c)).toNat : Int) = if i ≤ r ∧ r < i + n then
          (((s.zElem z (16 * r + c)).toNat : Int) + dotSum (blockByte u offA) byteB k r c) % 2 ^ 32
          else ((s.zElem z (16 * r + c)).toNat : Int) := by
  induction n with
  | zero => exact fun i s hw _ => ⟨s, rfl, hw, .refl z s, fun r c _ => by rw [if_neg (by omega)]⟩
  | succ n ih =>
    intro i s hw hn
    obtain ⟨v, hrow, hwv, hzv, helem⟩ := mmaRow_q8 hblocks hm hw z va vb (i := i) (by omega)
    obtain ⟨t, ht, hwt, hzt, helems⟩ := ih (i + 1) _ (hwv.atRow (i + 1)) (by omega)
    refine ⟨t, (mmaRows_succ (hw.quota.trans hquota) hrow).trans ht, hwt, hzv.trans ((atRow_onlyZ ..).trans hzt), fun r c hc => ?_⟩
    rw [helems r c hc, atRow_zElem, helem r c hc]
    by_cases hr : r = i
    · rw [if_neg (by omega), if_pos hr, if_pos (by omega)]
    · rw [if_neg hr]
      exact if_congr (by omega) rfl rfl

end

end Sys2Proof.Proofs

end
section
/-! An MMA from its operands on: its headers, its checks, the shared read of B (R235, R239, R241). -/

namespace Sys2Proof.Proofs
open Machine Claims

/-! ## Operands in the core's own window -/

theorem ownVa_toNat {off : Nat} (h : off < 2 ^ 18) : (ownVa off).toNat = 0xFFFF000000000000 + off := by
  have hbase : (0xFFFF000000000000 : W64).toNat = 0xFFFF000000000000 := rfl
  rw [ownVa, BitVec.toNat_add, w64, BitVec.toNat_ofNat, hbase]
  omega

theorem operand_own (s : State) {off : Nat} (h : off < 2 ^ 18) : s.operand (ownVa off) = .ok ⟨s.here, off, ownVa off⟩ := by
  have htop : field (ownVa off) 48 16 = 0xFFFF := by
    rw [field, BitVec.extractLsb'_toNat, ownVa_toNat h, Nat.shiftRight_eq_div_pow]
    omega
  have hmid : field (ownVa off) 18 30 = 0 := by
    rw [field, BitVec.extractLsb'_toNat, ownVa_toNat h, Nat.shiftRight_eq_div_pow]
    omega
  have hoff : field (ownVa off) 0 18 = off := by
    rw [field, BitVec.extractLsb'_toNat, ownVa_toNat h, Nat.shiftRight_eq_div_pow]
    omega
  rw [State.operand, htop, hoff, if_pos ⟨rfl, by rw [zeroAt, hmid]; rfl⟩]

/-! ## What the joins of the headers leave -/

/-- The state after joins alone. -/
def JoinsTo (u v : State) : Prop := v = u ∨ u.me.loc.landed ≠ [] ∧ v = u.acquire

theorem JoinsTo.walks {u v : State} (h : JoinsTo u v) : Walks u v := by
  rcases h with rfl | ⟨hl, rfl⟩
  · exact .refl v
  · exact (Walks.refl u).acquire hl

theorem JoinsTo.arch {u v : State} (h : JoinsTo u v) : SameArch u v := by
  rcases h with rfl | ⟨-, rfl⟩
  · exact .refl v
  · exact acquire_sameArch u

theorem JoinsTo.shares {u v : State} (h : JoinsTo u v) : v.dev.sharedB = u.dev.sharedB ∧ v.dev.cycle = u.dev.cycle := by
  rcases h with rfl | ⟨-, rfl⟩
  · exact ⟨rfl, rfl⟩
  · exact acquire_shares u

theorem JoinsTo.joinLocal {u v : State} (h : JoinsTo u v) (a n : Nat) : JoinsTo u (v.joinLocal a n) := by
  unfold State.joinLocal
  split
  case isFalse => exact h
  case isTrue hjoin =>
    have hl : u.me.loc.landed ≠ [] := fun hnil => by
      rw [h.walks.loc, hnil] at hjoin
      simp at hjoin
    rcases h with rfl | ⟨-, rfl⟩
    · exact .inr ⟨hl, rfl⟩
    · exact .inr ⟨hl, acquire_acquire u⟩

/-- The open group of a block goes by the shared reads, the cycle, and where the core stands. -/
theorem openGroup_congr {s t : State} (ha : SameArch s t) (hs : t.dev.sharedB = s.dev.sharedB ∧ t.dev.cycle = s.dev.cycle) (b : Opnd)
    (ty : MmaTy) : t.openGroup b ty = s.openGroup b ty := by
  have hpc : t.me.pc = s.me.pc := (congrArg Core.pc ha.me :)
  have hwait : t.me.wait = s.me.wait := (congrArg Core.wait ha.me :)
  simp only [State.openGroup, hs.1, hs.2, ha.1, hpc, hwait, ha.ctl]

/-! ## The headers -/

/-- Byte j of a B block: of its group's read, or of local memory. -/
def groupByte (s : State) (off : Nat) (group : Option SharedB) (j : Nat) : Nat :=
  match group with
  | some x => x.bytes / 256 ^ j % 256
  | none => localByte s (off + j)

/-- The header of A: the first 128 bytes of its block. -/
def headA (u : State) (off : Nat) : Nat := u.me.loc.bytes.readN off 128

theorem headA_byte (u : State) (off : Nat) {j : Nat} (hj : j < 128) : headA u off / 256 ^ j % 256 = localByte u (off + j) :=
  readN_byte _ _ _ hj

/-- K as a block's first two bytes give it. -/
def codeK (byte : Nat → Nat) : Nat := byte 0 + 256 * byte 1

theorem blockK_eq {x : Nat} {byte : Nat → Nat} (h : ∀ j, j < 128 → x / 256 ^ j % 256 = byte j) : blockK x = codeK byte := by
  rw [blockK_bytes, h 0 (by decide), h 1 (by decide), codeK]

theorem opRead_headA {u : State} (hm : u.me.member = none) {off : Nat} (va : W64) (hr : WholeReadable u off 128) :
    u.opRead ⟨u.here, off, va⟩ 0 128 = .ok (headA u off, u.joinLocal off 128) :=
  opRead_own (i := 0) (.refl u) hm va hr

/-- The header of B, from its group's read or from local memory. -/
theorem headB_eq {u v : State} (hv : JoinsTo u v) (hm : u.me.member = none) {off : Nat} {va : W64} {ty : MmaTy} {mc : Bool} {group : Option SharedB}
    (hgroup : (if mc then u.openGroup ⟨u.here, off, va⟩ ty else none) = group) (hr : group = none → WholeReadable u off 128) :
    ∃ hb w, v.headB ⟨u.here, off, va⟩ ty mc = .ok (hb, w) ∧ JoinsTo u w ∧ ∀ j, j < 128 → hb / 256 ^ j % 256 = groupByte u off group j := by
  rw [State.headB, openGroup_congr hv.arch hv.shares, hgroup]
  cases group with
  | some x => exact ⟨_, v, rfl, hv, fun j hj => header_byte x.bytes hj⟩
  | none =>
    exact ⟨_, _, opRead_own (i := 0) hv.walks hm va (hr rfl), hv.joinLocal .., fun j hj => readN_byte _ _ _ hj⟩

/-! ## Headers that do not fit -/

theorem mmaRun_trapA {u v w : State} {z : ZReg} {ty : MmaTy} {mc : Bool} {a b : Opnd} {ha hb : Nat} (hA : u.opRead a 0 128 = .ok (ha, v))
    (hB : v.headB b ty mc = .ok (hb, w)) (hk : blockK ha ≠ 32 ∧ blockK ha ≠ 64 ∧ blockK ha ≠ 128) :
    mmaRun z ty mc a b u = trapHere w .misalign a.va := by
  simp only [mmaRun, hA, hB, bind, Except.bind, if_pos hk]

theorem mmaRun_trapB {u v w : State} {z : ZReg} {ty : MmaTy} {mc : Bool} {a b : Opnd} {ha hb : Nat} (hA : u.opRead a 0 128 = .ok (ha, v))
    (hB : v.headB b ty mc = .ok (hb, w)) (hk : blockK ha = 32 ∨ blockK ha = 64 ∨ blockK ha = 128) (hne : blockK hb ≠ blockK ha) :
    mmaRun z ty mc a b u = trapHere w .misalign b.va := by
  simp only [mmaRun, hA, hB, bind, Except.bind, if_neg (show ¬(blockK ha ≠ 32 ∧ blockK ha ≠ 64 ∧ blockK ha ≠ 128) by omega), if_pos hne]

/-! ## The shared read and the rows -/

/-- The data of B before the rows: a group's, with mc. -/
def shareStep (mc : Bool) (b : Opnd) (ty : MmaTy) (n : Nat) (s : State) : Except Res (Option Nat × State) :=
  if mc then (s.shareB b ty n).map fun r => (some r.1, r.2) else .ok (none, s)

theorem shareStep_eq {u w : State} (hw : JoinsTo u w) (hm : u.me.member = none) {off k : Nat} {va : W64} {ty : MmaTy} {mc : Bool}
    {group : Option SharedB} (hgroup : (if mc then u.openGroup ⟨u.here, off, va⟩ ty else none) = group) (hk : 0 < k)
    (hr : group = none → WholeReadable u off (128 + 16 * k)) :
    ∃ shared t, shareStep mc ⟨u.here, off, va⟩ ty (128 + 16 * k) w = .ok (shared, t) ∧ Walks u t ∧ SameArch u t ∧
      (mc = false → t.dev.sharedB = u.dev.sharedB) ∧ SourceB u off k (fun j => groupByte u off group (128 + j)) shared := by
  cases mc with
  | false =>
    obtain rfl : none = group := hgroup
    refine ⟨none, w, rfl, hw.walks, hw.arch, fun _ => hw.shares.1, wholeReadable_mono (hr rfl) (by omega) (by omega) (by omega), fun j => ?_⟩
    exact congrArg (localByte u) (Nat.add_assoc ..).symm
  | true =>
    rw [shareStep, if_pos rfl, State.shareB, openGroup_congr hw.arch hw.shares]
    rw [if_pos rfl] at hgroup
    rw [hgroup]
    cases group with
    | some x =>
      exact ⟨_, _, rfl, hw.walks.step rfl rfl, hw.arch.trans (setDev_sameArch ..), nofun, fun j _ => data_byte x.bytes j⟩
    | none =>
      have hread := opRead_own (i := 0) hw.walks hm va (hr rfl)
      have hj := hw.joinLocal (off + 0) (128 + 16 * k)
      simp only [hread, bind, Except.bind]
      refine ⟨_, _, rfl, hj.walks.step rfl rfl, hj.arch.trans (setDev_sameArch ..), nofun, fun j hlt => ?_⟩
      rw [data_byte, readN_byte _ _ _ (by omega)]
      rfl

/-- An MMA's end: it uses no group's bytes any longer, PIX names no row, and the version grows. -/
def mmaEnd (z : ZReg) (mc : Bool) (s : State) : State := (atRow 0 (if mc then s.endShare else s)).bumpZ z

/-- An MMA whose headers fit. -/
theorem mmaRun_fits {u v w : State} {z : ZReg} {ty : MmaTy} {mc : Bool} {a b : Opnd} {ha hb : Nat} (hA : u.opRead a 0 128 = .ok (ha, v))
    (hB : v.headB b ty mc = .ok (hb, w)) (hk : blockK ha = 32 ∨ blockK ha = 64 ∨ blockK ha = 128) (heq : blockK hb = blockK ha)
    (hfitA : a.off + blockBytes ty (blockK ha) ≤ 0x30000) (hfitB : b.off + blockBytes ty (blockK ha) ≤ 0x30000) :
    mmaRun z ty mc a b u = (do
      let (shared, s) ← shareStep mc b ty (blockBytes ty (blockK ha)) w
      let t ← mmaRows z ty a b (blockK ha) ha hb shared (16 - field s.me.ctl.pix 0 5) (field s.me.ctl.pix 0 5) s
      return mmaEnd z mc t) := by
  simp only [mmaRun, hA, hB, bind, Except.bind, if_neg (show ¬(blockK ha ≠ 32 ∧ blockK ha ≠ 64 ∧ blockK ha ≠ 128) by omega),
    if_neg (not_not.mpr heq), if_neg (Nat.not_lt.mpr hfitA), if_neg (Nat.not_lt.mpr hfitB)]
  cases mc <;> rfl

/-! ## What an MMA of codes leaves -/

/-- What an MMA has done: F is the sum that it adds to each element of the rows from PIX on. -/
structure MmaDone (z : ZReg) (mc : Bool) (F : Nat → Nat → Int) (u t : State) : Prop where
  pix : t.me.ctl.pix = 0
  version : t.zver z = u.zver z + 1
  elems : ∀ r c, r < 16 → c < 16 → ((t.zElem z (16 * r + c)).toNat : Int) =
    if field u.me.ctl.pix 0 5 ≤ r then (((u.zElem z (16 * r + c)).toNat : Int) + F r c) % 2 ^ 32 else ((u.zElem z (16 * r + c)).toNat : Int)
  others : ∀ y, y ≠ z → t.z y = u.z y ∧ t.zver y = u.zver y
  g : ∀ r, t.g r = u.g r
  v : ∀ r, t.v r = u.v r
  loc : t.me.loc = u.me.loc
  joined : Claims.Joined u { t with dev := { t.dev with sharedB := u.dev.sharedB } }
  unshared : mc = false → Claims.Joined u t

theorem mmaEnd_z (z y : ZReg) (mc : Bool) (s : State) : (mmaEnd z mc s).z y = s.z y := by
  cases mc <;> rfl

theorem mmaEnd_zver_same (z : ZReg) (mc : Bool) (s : State) : (mmaEnd z mc s).zver z = s.zver z + 1 := by
  cases mc <;> exact zver_bumpZ_same ..

theorem mmaEnd_zver_ne {z y : ZReg} (h : y ≠ z) (mc : Bool) (s : State) : (mmaEnd z mc s).zver y = s.zver y := by
  cases mc <;> exact zver_bumpZ_ne h _

theorem mmaEnd_g (z : ZReg) (mc : Bool) (s : State) (r : Reg) : (mmaEnd z mc s).g r = s.g r := by
  cases mc <;> rfl

theorem mmaEnd_v (z : ZReg) (mc : Bool) (s : State) (r : Nat) : (mmaEnd z mc s).v r = s.v r := by
  cases mc <;> rfl

theorem Walks.mmaEnd {u t : State} (h : Walks u t) (z : ZReg) (mc : Bool) : Walks u (mmaEnd z mc t) := by
  cases mc <;> exact h.step rfl rfl

theorem SameArch.z {s t : State} (h : SameArch s t) (y : ZReg) : t.z y = s.z y := by
  simp only [State.z, h.regs]

theorem SameArch.zver {s t : State} (h : SameArch s t) (y : ZReg) : t.zver y = s.zver y := by
  simp only [State.zver, h.regs]

theorem SameArch.v {s t : State} (h : SameArch s t) (r : Nat) : t.v r = s.v r := h.files.v r

/-- What the headers, the shared read, the rows and the end come to. -/
theorem mmaDone {u s t : State} {z : ZReg} {mc : Bool} {F : Nat → Nat → Int} (ha : SameArch u s) (hw : Walks u t) (hz : OnlyZ z s t)
    (hshares : mc = false → s.dev.sharedB = u.dev.sharedB)
    (helems : ∀ r c, c < 16 → ((t.zElem z (16 * r + c)).toNat : Int) =
      if field s.me.ctl.pix 0 5 ≤ r ∧ r < field s.me.ctl.pix 0 5 + (16 - field s.me.ctl.pix 0 5) then
        (((s.zElem z (16 * r + c)).toNat : Int) + F r c) % 2 ^ 32 else ((s.zElem z (16 * r + c)).toNat : Int)) :
    MmaDone z mc F u (mmaEnd z mc t) where
  pix := by cases mc <;> rfl
  version := by rw [mmaEnd_zver_same, hz.zver, ha.zver]
  elems r c hr hc := by
    rw [zElem_eq, mmaEnd_z, ← zElem_eq, helems r c hc, zElem_eq s, ha.z, ← zElem_eq, ha.ctl]
    exact if_congr (by omega) rfl rfl
  others y hy := ⟨by rw [mmaEnd_z, hz.z y hy, ha.z], by rw [mmaEnd_zver_ne hy, hz.zver, ha.zver]⟩
  g r := by rw [mmaEnd_g, hz.g, ha.g]
  v r := by rw [mmaEnd_v, hz.v, ha.v]
  loc := (hw.mmaEnd z mc).loc
  joined := (hw.mmaEnd z mc).joined
  unshared hmc := by
    have hjoined := (hw.mmaEnd z mc).joined
    have hdev : (mmaEnd z mc t).dev.sharedB = u.dev.sharedB := by
      subst hmc
      exact hz.shares.trans (hshares rfl)
    rwa [← hdev] at hjoined

theorem mmaRun_q8 {u : State} (hm : u.me.member = none) (hquota : u.me.quota = none) {offA offB : Nat} {va vb : W64} {mc : Bool}
    {group : Option SharedB} (hgroup : (if mc then u.openGroup ⟨u.here, offB, vb⟩ .q8 else none) = group) {k : Nat}
    (hkA : codeK (blockByte u offA) = k) (hkB : codeK (groupByte u offB group) = k) (hk : k = 32 ∨ k = 64 ∨ k = 128)
    (hrA : WholeReadable u offA (128 + 16 * k)) (hfitB : offB + 128 + 16 * k ≤ 0x30000)
    (hrB : group = none → WholeReadable u offB (128 + 16 * k)) (z : ZReg) :
    ∃ t, mmaRun z .q8 mc ⟨u.here, offA, va⟩ ⟨u.here, offB, vb⟩ u = .ok t ∧
      MmaDone z mc (dotSum (blockByte u offA) (groupByte u offB group) k) u t := by
  have hpos : 0 < k := by omega
  have hA := opRead_headA hm va (wholeReadable_mono hrA le_rfl (by omega) (by decide))
  have hv : JoinsTo u (u.joinLocal offA 128) := JoinsTo.joinLocal (.inl rfl) ..
  obtain ⟨hb, w, hB, hw, hbytes⟩ := headB_eq hv hm hgroup fun h => wholeReadable_mono (hrB h) le_rfl (by omega) (by decide)
  have hKA : blockK (headA u offA) = k := (blockK_eq fun j hj => headA_byte u offA hj).trans hkA
  have hKB : blockK hb = k := (blockK_eq hbytes).trans hkB
  have hblock : blockBytes .q8 k = 128 + 16 * k := by
    rw [blockBytes, show MmaTy.bits .q8 = 8 from rfl, Nat.mul_div_cancel _ (by decide)]
  obtain ⟨shared, s, hshare, hws, harch, hsame, hsource⟩ := shareStep_eq hw hm hgroup hpos hrB
  obtain ⟨t, hrows, hwt, hzt, helems⟩ := mmaRows_q8 (va := va) (vb := vb) (z := z)
    ⟨hpos, hrA, fun i hi => headA_byte u offA (by omega), fun j hj => hbytes _ (by omega), hsource⟩ hm hquota
    (16 - field s.me.ctl.pix 0 5) (field s.me.ctl.pix 0 5) s hws le_rfl
  refine ⟨mmaEnd z mc t, ?_, mmaDone harch hwt hzt hsame helems⟩
  rw [mmaRun_fits hA hB (hKA ▸ hk) (hKB.trans hKA.symm), hKA, hblock, hshare]
  · simp only [bind, Except.bind, hrows]
    rfl
  · rw [hKA, hblock]
    exact hrA.1
  · rw [hKA, hblock, ← Nat.add_assoc]
    exact hfitB

end Sys2Proof.Proofs

end
section
/-! MMA (R195, R236, R239 to R241): the version that it observes, its operands, and how it retires or traps. -/

namespace Sys2Proof.Proofs
open Machine Claims

theorem observed_arch (s : State) (k : Bool) : SameArch s (observed s k) := by
  cases k with
  | false => exact .refl s
  | true => exact acquire_sameArch s

theorem observed_shares (s : State) (k : Bool) :
    (observed s k).dev.sharedB = s.dev.sharedB ∧ (observed s k).dev.cycle = s.dev.cycle := by
  cases k with
  | false => exact ⟨rfl, rfl⟩
  | true => exact acquire_shares s

theorem verWait_eq {s : State} {z : ZReg} {ev : BitVec 4} {k : Bool} (h : VersionIs s z ev k) : s.verWait z ev k = .ok (observed s k) := by
  cases k with
  | false => rfl
  | true =>
    have hver : (s.zver z).extractLsb' 0 4 = ev := by
      rw [← h.resolve_left Bool.true_eq_false_eq_False, BitVec.setWidth_eq_extractLsb' (by decide)]
    rw [State.verWait, hver]
    simp [observed]

theorem aligned_ok (s : State) {va : W64} {n : Nat} (h : va.toNat % n = 0) : aligned s va n = .ok () := if_neg (not_not.mpr h)

theorem mmaBody_eq {s : State} {z : ZReg} {ev : BitVec 4} {k : Bool} {a b : Reg} {mc : Bool} {ty : MmaTy} {oa ob : Opnd}
    (hver : VersionIs s z ev k) (ha : (s.g a).toNat % 128 = 0) (hb : (s.g b).toNat % 128 = 0)
    (hoa : (observed s k).operand (s.g a) = .ok oa) (hob : (observed s k).operand (s.g b) = .ok ob) :
    mmaBody z ev k a b mc ty s = settle (do return (← mmaRun z ty mc oa ob (observed s k)).ok) := by
  have hg (r : Reg) : (observed s k).g r = s.g r := (observed_arch s k).g r
  simp only [mmaBody, verWait_eq hver, bind, Except.bind, hg, aligned_ok _ ha, aligned_ok _ hb, hoa, hob]

/-- An MMA that runs to its end. -/
theorem mma_gives {s t : State} {z : ZReg} {ev : BitVec 4} {k : Bool} {a b : Reg} {mc : Bool} {ty : MmaTy} {oa ob : Opnd}
    (hclear : Clear (.mma z ev k a b mc ty) s) (hver : VersionIs s z ev k) (ha : (s.g a).toNat % 128 = 0) (hb : (s.g b).toNat % 128 = 0)
    (hoa : (observed s k).operand (s.g a) = .ok oa) (hob : (observed s k).operand (s.g b) = .ok ob)
    (hrun : mmaRun z ty mc oa ob (observed s k) = .ok t) : Gives (.mma z ev k a b mc ty) s t := by
  refine gives_of_ok rfl hclear ?_
  rw [mmaBody_eq hver ha hb hoa hob, hrun]
  rfl

/-- An MMA whose header does not fit: nothing has happened but the joins. -/
theorem mma_traps {s w : State} {z : ZReg} {ev : BitVec 4} {k : Bool} {a b : Reg} {mc : Bool} {ty : MmaTy} {oa ob : Opnd} {va : W64}
    (hclear : Clear (.mma z ev k a b mc ty) s) (hver : VersionIs s z ev k) (ha : (s.g a).toNat % 128 = 0) (hb : (s.g b).toNat % 128 = 0)
    (hoa : (observed s k).operand (s.g a) = .ok oa) (hob : (observed s k).operand (s.g b) = .ok ob)
    (hrun : mmaRun z ty mc oa ob (observed s k) = trapHere w .misalign va) (harch : SameArch s w) :
    exec (.mma z ev k a b mc ty) s = .next (w.trapEntry 0x03 va s.me.trapPc) := by
  have hbody : mmaBody z ev k a b mc ty s = .trap .misalign va w := by
    rw [mmaBody_eq hver ha hb hoa hob, hrun]
    rfl
  have hqueues : w.me.queues = s.me.queues := (congrArg Core.queues harch.me :)
  have hslots : w.me.slots = s.me.slots := (congrArg Core.slots harch.me :)
  have hpc : w.me.trapPc = s.me.trapPc := (congrArg Core.trapPc harch.me :)
  refine (issue_clear (body := mmaBody z ev k a b mc ty) hclear).trans (congrArg Host.Outcome.next ?_)
  rw [hbody, Res.giveBack, ← hqueues, ← hslots, ← hpc]
  exact raise_misalign ..

/-! ## The statement's terms, in the state that the version check leaves -/

theorem SameArch.loc {s t : State} (h : SameArch s t) : t.me.loc = s.me.loc := (congrArg Core.loc h.me :)

theorem localByte_congr {s t : State} (h : SameArch s t) : localByte t = localByte s := by
  funext j
  rw [localByte, localByte, h.loc]

theorem wholeReadable_congr {s t : State} (h : SameArch s t) {off n : Nat} (hr : WholeReadable s off n) : WholeReadable t off n := by
  rwa [WholeReadable, h.loc]

theorem groupByte_congr {s t : State} (h : SameArch s t) (off : Nat) (group : Option SharedB) : groupByte t off group = groupByte s off group := by
  funext j
  cases group with
  | none => exact congrFun (localByte_congr h) _
  | some x => rfl

/-- The traps of the statement: nothing has happened but joins. -/
theorem JoinsTo.traps {s u w : State} (h : JoinsTo u w) (hl : u.me.loc = s.me.loc) :
    (w = u ∨ w = u.acquire) ∧ (s.me.loc.landed = [] → w = u) := by
  rcases h with rfl | ⟨hne, rfl⟩
  · exact ⟨.inl rfl, fun _ => rfl⟩
  · exact ⟨.inr rfl, fun hnil => absurd (hl ▸ hnil) hne⟩

theorem MmaDone.retire {z : ZReg} {mc : Bool} {F : Nat → Nat → Int} {u t : State} (h : MmaDone z mc F u t) :
    MmaDone z mc F u (t.retire .seq) where
  pix := (retire_ctl_pix ..).trans h.pix
  version := (zver_retire ..).trans h.version
  elems r c hr hc := by
    rw [zElem_eq, z_retire, ← zElem_eq]
    exact h.elems r c hr hc
  others y hy := ⟨(z_retire ..).trans (h.others y hy).1, (zver_retire ..).trans (h.others y hy).2⟩
  g r := (g_retire ..).trans (h.g r)
  v r := (v_retire ..).trans (h.v r)
  loc := (retire_me_loc ..).trans h.loc
  joined := by
    unfold Claims.Joined
    rw [retire_dev]
    exact h.joined
  unshared hmc := by
    unfold Claims.Joined
    rw [retire_dev]
    exact h.unshared hmc

/-- Settles O50, by the headers, the rows in their order, and the joins on the way. -/
theorem matrixProducts : Obligations.MatrixProducts := by
  unfold Obligations.MatrixProducts
  intro s z ev k a b mc ty i u hclear hver haligna halignb
  have harch : SameArch s u := observed_arch s k
  refine ⟨fun oa ob t hoa hob hrun => mma_gives hclear hver haligna halignb hoa hob hrun, ?_⟩
  intro offA offB hga hgb hmember group byteB K KB hrA hfitB hrB traps
  have hfitA : offA + 128 ≤ 0x30000 := hrA.1
  have hm : u.me.member = none := (congrArg Core.member harch.me :).trans hmember
  have hhere : u.here = s.here := harch.1
  have hloc : u.me.loc = s.me.loc := harch.loc
  have hoa : u.operand (s.g a) = .ok ⟨u.here, offA, s.g a⟩ := hga ▸ operand_own u (by omega)
  have hob : u.operand (s.g b) = .ok ⟨u.here, offB, s.g b⟩ := hgb ▸ operand_own u (by omega)
  have hgroup : (if mc then u.openGroup ⟨u.here, offB, s.g b⟩ ty else none) = group := by
    rw [openGroup_congr harch (observed_shares s k), hhere]
  have hbyte : groupByte u offB group = byteB := groupByte_congr harch offB group
  have hA := opRead_headA hm (s.g a) (wholeReadable_congr harch hrA)
  obtain ⟨hb, w, hB, hw, hbytes⟩ := headB_eq (JoinsTo.joinLocal (.inl rfl) offA 128) hm hgroup fun h => wholeReadable_congr harch (hrB h)
  have hKA' : codeK (blockByte u offA) = K := by
    unfold codeK blockByte
    rw [localByte_congr harch]
    rfl
  have hKA : blockK (headA u offA) = K := (blockK_eq fun j hj => headA_byte u offA hj).trans hKA'
  have hKB : blockK hb = KB := (blockK_eq hbytes).trans (by rw [hbyte]; rfl)
  have htraps {va : W64} (hrun : mmaRun z ty mc ⟨u.here, offA, s.g a⟩ ⟨u.here, offB, s.g b⟩ u = trapHere w .misalign va) : traps va :=
    ⟨w, (hw.traps hloc).1, (hw.traps hloc).2, mma_traps hclear hver haligna halignb hoa hob hrun (harch.trans hw.arch)⟩
  refine ⟨fun hk => htraps (mmaRun_trapA hA hB (hKA ▸ hk)), fun hk hne => htraps (mmaRun_trapB hA hB (hKA ▸ hk) (by rwa [hKA, hKB])), ?_⟩
  intro hk heq hty hquota hrA' hfitB' hrB' i0
  subst hty
  obtain ⟨t, hrun, hdone⟩ := mmaRun_q8 (va := s.g a) hm ((congrArg Core.quota harch.me :).trans hquota) hgroup hKA' (by rw [hbyte]; exact heq) hk
    (wholeReadable_congr harch hrA') hfitB' (fun h => wholeReadable_congr harch (hrB' h)) z
  have h := hdone.retire
  have hctl : u.me.ctl = s.me.ctl := harch.ctl
  refine ⟨_, mma_gives hclear hver haligna halignb hoa hob hrun, h.pix, h.version.trans (by rw [harch.zver]), fun r c hr hc => ?_,
    fun y hy => ?_, fun r => (h.g r).trans (harch.g r), fun r => (h.v r).trans (harch.v r), h.loc.trans hloc, h.joined, h.unshared⟩
  · rw [h.elems r c hr hc, hctl, zElem_eq u, harch.z, ← zElem_eq, dotSum, hbyte]
    simp only [blockByte, localByte_congr harch, ← Nat.add_assoc]
    rfl
  · obtain ⟨hz, hv⟩ := h.others y hy
    exact ⟨hz.trans (harch.z y), hv.trans (harch.zver y)⟩

end Sys2Proof.Proofs

end

section
/-! The predicate instructions (R230). -/

namespace Sys2Proof.Proofs
open Machine Claims

/-- The predicate that an instruction writes, and its value (R230). -/
def predicateRule (s : State) : Instr → Option (PReg × W64)
  | .pset d a => some (d, s.g a)
  | .pand d a b => some (d, s.p a &&& s.p b)
  | .por d a b => some (d, s.p a ||| s.p b)
  | .pxor d a b => some (d, s.p a ^^^ s.p b)
  | .pnot d a => some (d, ~~~s.p a)
  | _ => none

/-- A predicate instruction writes what its rule gives and goes on. -/
theorem predicate_gives {i : Instr} {s : State} {d : PReg} {x : W64} (hrule : predicateRule s i = some (d, x)) (h : Clear i s) :
    Gives i s (s.setP d x) := by
  unfold predicateRule at hrule
  split at hrule
  case h_6 => cases hrule
  all_goals
    obtain ⟨rfl, rfl⟩ := Prod.mk.inj (Option.some.inj hrule)
    exact gives_of_ok rfl h rfl

/-- Writing a predicate and going on leaves the other predicates, p0 among them, every other register and the device. -/
theorem setP_retire_frame (s : State) (d : PReg) (x : W64) :
    let t := (s.setP d x).retire .seq
    (d ≠ 0 → t.p d = x) ∧ (∀ r, r ≠ d ∨ r = 0 → t.p r = s.p r) ∧ (∀ r, t.g r = s.g r) ∧ (∀ r, t.v r = s.v r) ∧
      t.me.loc = s.me.loc ∧ t.dev = s.dev := by
  refine ⟨fun hd => ?_, fun r hr => ?_, fun r => ?_, fun r => ?_, ?_, ?_⟩
  · rw [p_retire, p_setP_same hd]
  · rcases hr with hr | rfl
    · rw [p_retire, p_setP_ne hr]
    · rw [p_zero, p_zero]
  · rw [g_retire, g_setP]
  · rw [v_retire, v_setP]
  · rw [retire_me_loc, setP_me_loc]
  · rw [retire_dev, setP_dev]

/-- Settles O48: each instruction's value, and what writing it leaves. -/
theorem predicateResults : Obligations.PredicateResults := by
  unfold Obligations.PredicateResults
  intro s
  refine ⟨fun i d x hi h => ?_, fun d a => ⟨fun h => issue_put h (congrArg (put d · s) ?_), fun h => issue_put h (congrArg (put d · s) ?_)⟩⟩
  · have hrule : predicateRule s i = some (d, x) := by
      rcases hi with ⟨a, rfl, rfl⟩ | ⟨a, b, rfl, rfl⟩ | ⟨a, b, rfl, rfl⟩ | ⟨a, b, rfl, rfl⟩ | ⟨a, rfl, rfl⟩ <;> rfl
    exact ⟨_, predicate_gives hrule h, setP_retire_frame s d x⟩
  · exact congrArg w64 (popCount_eq 64 _)
  · exact congrArg w64 (trailingZeros_eq 64 _)

end Sys2Proof.Proofs

end
section
/-! Registers of which some elements are written, and what a source leaves of the operand queues (R20, R207). -/

namespace Sys2Proof.Proofs
open Machine Claims

/-! ## Writing elements -/

/-- The instruction makes element k of d f k, and leaves the rest as its sources have left it. -/
def MovesTo (i : Instr) (ty : ElemTy) (d : Reg) (s s2 : State) (f : Nat → Nat) : Prop :=
  ∃ t : State, exec i s = .next t ∧
    (∀ k, k < 512 / ElemTy.width ty → elem (ElemTy.width ty) (t.v d.toNat) k = f k) ∧ OnlyVector s2 t [d.toNat]

/-- An instruction that writes the elements that g gives, and leaves the others. -/
theorem movesTo_of_writes {i : Instr} {ty : ElemTy} {d : Reg} {s s2 : State} {f : Nat → Nat} {g : Nat → Option Nat} (hd : isVec d = true)
    (hfiles : SameFiles s s2)
    (hgives : Gives i s (s2.writeLanes d (ElemTy.width ty) ((List.range (512 / ElemTy.width ty)).map g)))
    (hf : ∀ k, k < 512 / ElemTy.width ty →
      (g k).elim (elem (ElemTy.width ty) (s.v d.toNat) k) (· % 2 ^ ElemTy.width ty) = f k) : MovesTo i ty d s s2 f := by
  refine ⟨_, hgives, fun k hk => ?_, onlyVector_retire (setV_onlyVector ..)⟩
  rw [v_retire, elem_writeLanes s2 (of_decide_eq_true hd) g hk, hfiles.v, hf k hk]

/-- A core of its own writes its active elements. -/
theorem movesTo_of_active {i : Instr} {body : Body} {ty : ElemTy} {d : Reg} {p : PReg} {s s2 : State} {e : Nat → Nat}
    (hx : exec i s = issueG i body s) (h : Clear i s) (hd : isVec d = true) (hfiles : SameFiles s s2)
    (he : ∀ k, e k < 2 ^ ElemTy.width ty)
    (hb : body (aloneCrew s) s = (aloneCrew s).write s2 d (ElemTy.width ty) (s.me.mask p (512 / ElemTy.width ty))
      ((List.range (512 / ElemTy.width ty)).map e)) :
    MovesTo i ty d s s2 fun k => if active s p k then e k else elem (ElemTy.width ty) (s.v d.toNat) k := by
  have hok : body (aloneCrew s) s = (s2.writeLanes d (ElemTy.width ty) ((List.range (512 / ElemTy.width ty)).map fun k =>
      if active s p k then some (e k) else none)).ok := by
    rw [hb, Crew.write, mask_eq s p (lanes_le ty), List.zip_map', List.map_map, part_alone s (by simp)]
    rfl
  refine movesTo_of_writes hd hfiles (givesG_of_ok hx h hok) fun k _ => ?_
  cases active s p k with
  | true => exact Nat.mod_eq_of_lt (he k)
  | false => rfl

/-! ## Operand queues -/

/-- An entry of an operand queue after its oldest, or that of another queue, has been taken. -/
theorem queue_setQueue (c : Core) {q q' i : Nat} (l : List QEntry) (f : Slot → Slot) (hq : q < 8) :
    ((c.setQueue q l).onSlot i f).queue q' = if q' = q then l else c.queue q' := by
  have hslot : ((c.setQueue q l).onSlot i f).queues = (c.setQueue q l).queues := by
    unfold Core.onSlot
    split <;> rfl
  rw [Core.queue, hslot, Core.setQueue, dif_pos hq]
  by_cases h : q' = q
  · simp [h, hq]
  · simp [Core.queue, h, List.getD_eq_getElem?_getD, Vector.getElem?_set_ne hq (Ne.symm h)]

theorem reg_queue_lt (r : Reg) : r.toNat - 56 < 8 := by
  have := r.isLt
  omega

/-- What a field holds once another source has been taken: of the same queue, one entry more has gone (R20). -/
theorem vpeek_after_vsrc {s t : State} {r : Reg} {x : V512} (h : s.vsrc r = .ok (x, t)) (b : Reg) :
    t.me.vpeek b 0 = s.me.vpeek b (if r = b then 1 else 0) := by
  unfold Core.vpeek
  by_cases hb : b.toNat < 56
  · rw [if_pos hb, if_pos hb]
    exact (vsrc_files h).v _
  rw [if_neg hb, if_neg hb]
  unfold State.vsrc at h
  split at h
  · next hr =>
    cases h
    rw [if_neg fun e : r = b => hb (e ▸ hr)]
  · next hr =>
    unfold State.takeQueue at h
    split at h
    · cases h
    · split at h
      · cases h
      · next e rest hqueue =>
        split at h
        · cases h
        · cases h
          have harch := (acquire_sameArch s).trans (irreversible_sameArch s.acquire)
          have hqueues : s.acquire.irreversible.me.queue (b.toNat - 56) = s.me.queue (b.toNat - 56) := by
            exact (congrArg (fun c => c.queue (b.toNat - 56)) harch.me :)
          rw [queue_setQueue _ _ _ (reg_queue_lt r), hqueues]
          by_cases heq : r = b
          · subst heq
            rw [if_pos rfl, if_pos rfl, hqueue]
            rfl
          · have hne : b.toNat - 56 ≠ r.toNat - 56 := fun e => heq (BitVec.eq_of_toNat_eq (by omega))
            rw [if_neg hne, if_neg heq]

end Sys2Proof.Proofs

end
section
/-! Where the elements of moves come from (R219 to R223). -/

namespace Sys2Proof.Proofs
open Machine Claims

/-! ## VBCAST, VINS and VEXT (R219 to R221) -/

theorem field_zero_toNat (x : W64) (n : Nat) : field x 0 n = x.toNat % 2 ^ n := by
  rw [field, BitVec.extractLsb'_toNat, Nat.shiftRight_zero]

/-- The bit of a predicate that names an active element, p0's bits among them (R19). -/
theorem active_eq_bit (s : State) (p : PReg) {k : Nat} (hk : k < 64) : active s p k = (s.p p).getLsbD k := by
  rw [active]
  by_cases hp : p = 0
  · rw [hp, p_zero, show (-1 : W64) = BitVec.allOnes 64 from rfl, BitVec.getLsbD_allOnes, decide_eq_true hk]
    rfl
  · rw [beq_eq_false_iff_ne.mpr hp, Bool.false_or]

/-- VBCAST (R219). -/
theorem vbcast_moves {s : State} {d a : Reg} {p : PReg} {ty : ElemTy} {h : Bool} (hd : isVec d = true)
    (hclear : Clear (.vbcast d a p ty h) s) :
    MovesTo (.vbcast d a p ty h) ty d s s fun k =>
      if active s p k then (s.g a).toNat % 2 ^ ElemTy.width ty else elem (ElemTy.width ty) (s.v d.toNat) k := by
  have hbody : vbcastBody d a p ty s = (s.writeLanes d (ElemTy.width ty) ((List.range (512 / ElemTy.width ty)).map fun k =>
      if active s p k then some ((s.g a).toNat % 2 ^ ElemTy.width ty) else none)).ok := by
    rw [vbcastBody, field_zero_toNat, Machine.ElemTy.lanes, mask_eq s p (lanes_le ty), List.map_map]
    rfl
  refine movesTo_of_writes hd ⟨rfl, rfl, rfl⟩ (gives_of_ok rfl hclear hbody) fun k _ => ?_
  cases active s p k with
  | true => exact Nat.mod_mod ..
  | false => rfl

theorem setLane_elem (s : State) {d : Reg} (hd : d.toNat < 56) {ty : ElemTy} {j x : Nat} (hj : j < 512 / ElemTy.width ty)
    (hx : x < 2 ^ ElemTy.width ty) (k : Nat) :
    elem (ElemTy.width ty) ((s.setLane d (ElemTy.width ty) j x).v d.toNat) k =
      if k = j then x else elem (ElemTy.width ty) (s.v d.toNat) k := by
  have hfit : j * ElemTy.width ty + ElemTy.width ty ≤ 512 := by
    rw [← Nat.succ_mul]
    exact (Nat.mul_le_mul_right _ hj).trans (Nat.div_mul_le_self ..)
  rw [State.setLane, v_setV_same hd, Nat.mul_comm, elem_withField _ hfit hx]

/-- VINS (R220). -/
theorem vins_moves {s : State} {d a b : Reg} {p : PReg} {ty : ElemTy} (hd : isVec d = true) (hclear : Clear (.vins d a b p ty) s) :
    MovesTo (.vins d a b p ty) ty d s s fun k =>
      if k = (s.g b).toNat ∧ active s p k = true then (s.g a).toNat % 2 ^ ElemTy.width ty
      else elem (ElemTy.width ty) (s.v d.toNat) k := by
  by_cases hj : (s.g b).toNat < 512 / ElemTy.width ty ∧ (s.p p).getLsbD (s.g b).toNat = true
  · have hbody : vinsBody d a b p ty s =
        (s.setLane d (ElemTy.width ty) (s.g b).toNat ((s.g a).toNat % 2 ^ ElemTy.width ty)).ok := by
      rw [← field_zero_toNat]
      exact if_pos hj
    obtain ⟨hlt, hbit⟩ := hj
    refine ⟨_, gives_of_ok rfl hclear hbody, fun k hk => ?_, onlyVector_retire (setV_onlyVector ..)⟩
    rw [v_retire, setLane_elem s (of_decide_eq_true hd) hlt (Nat.mod_lt _ (Nat.two_pow_pos _))]
    refine if_congr ⟨?_, And.left⟩ rfl rfl
    rintro rfl
    exact ⟨rfl, (active_eq_bit s p (hk.trans_le (lanes_le ty))).trans hbit⟩
  · have hbody : vinsBody d a b p ty s = s.ok := if_neg hj
    refine ⟨_, gives_of_ok rfl hclear hbody, fun k hk => ?_, onlyVector_retire (onlyVector_refl s _)⟩
    rw [v_retire]
    refine (if_neg ?_).symm
    rintro ⟨rfl, hact⟩
    exact hj ⟨hk, (active_eq_bit s p (hk.trans_le (lanes_le ty))).symm.trans hact⟩

/-- VEXT (R221). -/
theorem vext_gives {s s1 : State} {d a b : Reg} {z : Bool} {ty : ElemTy} {x : V512} (ha : s.vsrc a = .ok (x, s1))
    (hclear : Clear (.vext d a b z ty) s) :
    let e := elem (ElemTy.width ty) x (s.g b).toNat
    Gives (.vext d a b z ty) s (s1.setG d (
      if 512 / ElemTy.width ty ≤ (s.g b).toNat then 0
      else if ElemTy.fmt? ty = none ∧ z = false then BitVec.ofInt 64 (twos (ElemTy.width ty) e) else w64 e)) := by
  refine gives_of_ok rfl hclear ?_
  simp only [vextBody, ha, bind, Except.bind, (vsrc_files ha).g, field_elem, signedOf_eq, Bool.and_eq_true, Option.isNone_iff_eq_none,
    Bool.not_eq_true']
  rfl

/-! ## VPERM and VSLIDE (R222) -/

theorem ite_elem_lt {c : Prop} [Decidable c] (n : Nat) (x : V512) (k : Nat) : (if c then elem n x k else 0) < 2 ^ n := by
  split
  · exact elem_lt ..
  · exact Nat.two_pow_pos n

/-- An element past the end of a register reads as zero (R222). -/
theorem elem_or_zero (ty : ElemTy) (x : V512) (k : Nat) :
    elem (ElemTy.width ty) x k = if k < 512 / ElemTy.width ty then elem (ElemTy.width ty) x k else 0 := by
  split
  · rfl
  · next hk => exact elem_past ty x (Nat.le_of_not_lt hk)

/-- VPERM. -/
theorem vperm_moves {s s1 s2 : State} {d a b : Reg} {p : PReg} {ty : ElemTy} {h : Bool} {x y : V512} (ha : s.vsrc a = .ok (x, s1))
    (hb : s1.vsrc b = .ok (y, s2)) (hd : isVec d = true) (hclear : Clear (.vperm d a b p ty h) s) :
    let n := ElemTy.width ty
    MovesTo (.vperm d a b p ty h) ty d s s2 fun k =>
      if active s p k then (if elem n y k < 512 / n then elem n x (elem n y k) else 0) else elem n (s.v d.toNat) k := by
  refine movesTo_of_active rfl hclear hd ((vsrc_files ha).trans (vsrc_files hb)) (fun k => ite_elem_lt ..) ?_
  have hy : s.me.vpeek b (if a = b then 1 else 0) = y := (vpeek_after_vsrc ha b).symm.trans (vpeek_of_vsrc hb).1
  simp only [vpermBody, form_alone, lanes_alone, mask_alone, (vpeek_of_vsrc ha).1, hy, ha, hb, bind, Except.bind, lanesOf_getD,
    Machine.ElemTy.lanes]
  rw [lanesOf_eq _ y, List.map_map, ← List.map_congr_left fun k _ => elem_or_zero ty x (elem (ElemTy.width ty) y k)]
  rfl

/-- VSLIDE. -/
theorem vslide_moves {s s1 : State} {d a b : Reg} {p : PReg} {ty : ElemTy} {h : Bool} {x : V512} (ha : s.vsrc a = .ok (x, s1))
    (hd : isVec d = true) (hclear : Clear (.vslide d a b p ty h) s) :
    let n := ElemTy.width ty
    MovesTo (.vslide d a b p ty h) ty d s s1 fun k =>
      if active s p k then
        (let j := (k : Int) + (s.g b).toInt
         if 0 ≤ j ∧ j < (512 / n : Nat) then elem n x j.toNat else 0)
      else elem n (s.v d.toNat) k := by
  refine movesTo_of_active rfl hclear hd (vsrc_files ha) (fun k => ite_elem_lt ..) ?_
  have hg : (aloneCrew s).g s b = s.g b := rfl
  simp only [vslideBody, form_alone, lanes_alone, mask_alone, (vpeek_of_vsrc ha).1, hg, ha, bind, Except.bind, lanesOf_getD,
    Machine.ElemTy.lanes]
  rw [lanesOf_eq, zipIdx_map_range (elem (ElemTy.width ty) x) fun _ k =>
    if (k : Int) + (s.g b).toInt < 0 then 0 else elem (ElemTy.width ty) x ((k : Int) + (s.g b).toInt).toNat]
  refine congrArg (fun l => settle (.ok (Crew.write _ _ _ _ _ l))) (List.map_congr_left fun k _ => ?_)
  by_cases hneg : (k : Int) + (s.g b).toInt < 0
  · rw [if_pos hneg, if_neg (by omega)]
  · rw [if_neg hneg]
    exact (elem_or_zero ty x _).trans (if_congr (by omega) rfl rfl)

/-! ## VCOMPR and VEXPND (R223) -/

theorem chosen_map (c : Nat → Bool) (f : Nat → Nat) : ∀ l : List Nat, chosen (l.map c) (l.map f) = (l.filter c).map f
  | [] => rfl
  | k :: l => by
    rw [List.map_cons, List.map_cons, chosen, chosen_map c f l, List.filter_cons]
    cases c k <;> rfl

/-- VCOMPR. -/
theorem vcompr_moves {s s1 : State} {d a : Reg} {p : PReg} {ty : ElemTy} {h : Bool} {x : V512} (ha : s.vsrc a = .ok (x, s1))
    (hd : isVec d = true) (hclear : Clear (.vcompr d a p ty h) s) :
    let n := ElemTy.width ty
    let actives := (List.range (512 / n)).filter fun k => active s p k
    MovesTo (.vcompr d a p ty h) ty d s s1 fun k => match actives[k]? with | some j => elem n x j | none => 0 := by
  intro n actives
  have hbody : vcomprBody d a p ty h (aloneCrew s) s = (s1.writeLanes d n ((List.range (512 / n)).map fun k =>
      some ((actives.map (elem n x)).getD k 0))).ok := by
    simp only [vcomprBody, form_alone, lanes_alone, mask_alone, (vpeek_of_vsrc ha).1, ha, bind, Except.bind, Machine.ElemTy.lanes,
      mask_eq s p (lanes_le ty), lanesOf_eq, chosen_map, List.map_map]
    rw [zipIdx_map_range (elem n x) fun _ k => (actives.map (elem n x)).getD k 0, Crew.write, List.zip_map', List.map_map,
      part_alone s (by simp [n])]
    rfl
  refine movesTo_of_writes hd (vsrc_files ha) (givesG_of_ok rfl hclear hbody) fun k _ => ?_
  rw [Option.elim_some, List.getD_eq_getElem?_getD, List.getElem?_map]
  cases actives[k]? with
  | none => exact Nat.zero_mod _
  | some j => exact Nat.mod_eq_of_lt (elem_lt n x j)

/-- The elements in turn: element k is the one whose index is the number of those below k that are set. -/
theorem spread_range : ∀ (L : Nat) (c : Nat → Bool) (xs : List Nat), spread ((List.range L).map c) xs =
    (List.range L).map fun k => if c k then xs.getD ((List.range k).filter c).length 0 else 0
  | 0, _, _ => rfl
  | L + 1, c, xs => by
    have hcount (k : Nat) : ((List.range (k + 1)).filter c).length =
        (if c 0 then 1 else 0) + ((List.range k).filter (c ∘ Nat.succ)).length := by
      rw [List.range_succ_eq_map, List.filter_cons, List.filter_map]
      cases c 0 <;> simp [Nat.add_comm]
    have hrest := spread_range L (c ∘ Nat.succ)
    rw [List.range_succ_eq_map, List.map_cons, List.map_cons, List.map_map, List.map_map]
    cases h0 : c 0 with
    | false =>
      rw [spread, hrest]
      simp [hcount, h0]
    | true =>
      cases xs with
      | nil =>
        rw [spread, hrest]
        simp [Function.comp_def]
      | cons x xs =>
        rw [spread, hrest]
        simp [hcount, h0, Nat.add_comm 1]

/-- VEXPND. -/
theorem vexpnd_moves {s s1 : State} {d a : Reg} {p : PReg} {ty : ElemTy} {h : Bool} {x : V512} (ha : s.vsrc a = .ok (x, s1))
    (hd : isVec d = true) (hclear : Clear (.vexpnd d a p ty h) s) :
    let n := ElemTy.width ty
    MovesTo (.vexpnd d a p ty h) ty d s s1 fun k =>
      if active s p k then elem n x ((List.range k).filter fun j => active s p j).length else elem n (s.v d.toNat) k := by
  intro n
  have hmoves := movesTo_of_active (i := .vexpnd d a p ty h) (ty := ty) (p := p) rfl hclear hd (vsrc_files ha)
    (e := fun k => if active s p k then elem n x ((List.range k).filter (active s p)).length else 0) (fun k => ite_elem_lt ..) (by
      simp only [vexpndBody, form_alone, lanes_alone, mask_alone, (vpeek_of_vsrc ha).1, ha, bind, Except.bind, Machine.ElemTy.lanes]
      rw [mask_eq s p (lanes_le ty), spread_range]
      simp only [lanesOf_getD]
      rfl)
  obtain ⟨t, ht, helem, honly⟩ := hmoves
  refine ⟨t, ht, fun k hk => (helem k hk).trans ?_, honly⟩
  by_cases hact : active s p k = true
  · exact (if_pos hact).trans ((if_pos hact).trans (if_pos hact).symm)
  · exact (if_neg hact).trans (if_neg hact).symm

/-- Settles O45, instruction by instruction. -/
theorem elementsMove : Obligations.ElementsMove := by
  unfold Obligations.ElementsMove
  intro s d a b p ty h n L old actives gives
  refine ⟨fun hwf hclear => vbcast_moves hwf hclear, fun hwf hclear => vins_moves hwf hclear, fun x s1 ha =>
    ⟨fun z _ hclear => vext_gives ha hclear, fun y s2 hb hwf hclear => vperm_moves ha hb hwf hclear,
      fun hwf hclear => vslide_moves ha hwf hclear, fun hwf hclear => vcompr_moves ha hwf hclear,
      fun hwf hclear => vexpnd_moves ha hwf hclear⟩⟩

end Sys2Proof.Proofs

end
section
/-! VLUT: the elements looked up one after another (R227, R228). -/

namespace Sys2Proof.Proofs
open Machine Claims

/-! ## Reading the table -/

theorem readN_lt (m : Cells) : ∀ (n a : Nat), m.readN a n < 256 ^ n
  | 0, _ => Nat.one_pos
  | n + 1, a => by
    have hbyte := (m.read a).isLt
    have hrest := readN_lt m n (a + 1)
    rw [Cells.readN, pow_succ]
    omega

/-- A number of the bytes of an element is one of its bits. -/
theorem pow_bytes_width (ty : ElemTy) : 256 ^ (ElemTy.width ty / 8) = 2 ^ ElemTy.width ty := by
  cases ty <;> rfl

theorem bytes_pos (ty : ElemTy) : 0 < ElemTy.width ty / 8 := by
  cases ty <;> decide

/-- A read of bytes of the core's own local memory that can be read. -/
theorem readPlace_own {s : State} {off n : Nat} (va : W64) (hr : Readable s off n) :
    s.readPlace (.own off) va n false = .ok (s.me.loc.bytes.readN off n, s.joinLocal off n) := by
  obtain ⟨-, -, hfull, hpoison⟩ := hr
  have hready : s.volReady false = .ok s := rfl
  simp only [State.readPlace, hready, bind, Except.bind, hfull, hpoison, Bool.false_eq_true, if_false]

/-! ## What looking up leaves -/

theorem onlyFiles_trans {s t u : State} {ds : List Nat} (h : OnlyFiles s t ds) (h' : OnlyFiles t u ds) : OnlyFiles s u ds := by
  obtain ⟨hv, hg, hp, hz, hloc⟩ := h
  obtain ⟨hv', hg', hp', hz', hloc'⟩ := h'
  exact ⟨fun r hr => (hv' r hr).trans (hv r hr), fun r => (hg' r).trans (hg r), fun r => (hp' r).trans (hp r),
    fun z => ⟨(hz' z).1.trans (hz z).1, (hz' z).2.trans (hz z).2⟩, hloc'.trans hloc⟩

theorem SameArch.onlyFiles {s t : State} (h : SameArch s t) (ds : List Nat) : OnlyFiles s t ds :=
  ⟨fun r _ => h.v r, h.g, h.files.p, fun z => ⟨h.z z, h.zver z⟩, h.loc⟩

/-- What the elements of VLUT keep: every register but d; of the device nothing but what joins write through. -/
structure LooksUp (d : Nat) (u t : State) : Prop where
  files : OnlyFiles u t [d]
  walks : Walks u t
  shares : t.dev.sharedB = u.dev.sharedB

theorem LooksUp.refl (d : Nat) (u : State) : LooksUp d u u := ⟨(SameArch.refl u).onlyFiles _, .refl u, rfl⟩

theorem LooksUp.joined {d : Nat} {u t : State} (h : LooksUp d u t) : Claims.Joined u t := by
  have hjoined := h.walks.joined
  rwa [← h.shares] at hjoined

theorem LooksUp.joinLocal {d : Nat} {u t : State} (h : LooksUp d u t) (off n : Nat) : LooksUp d u (t.joinLocal off n) :=
  have hjoins : JoinsTo t (t.joinLocal off n) := JoinsTo.joinLocal (.inl rfl) off n
  ⟨onlyFiles_trans h.files (hjoins.arch.onlyFiles _), h.walks.joinLocal off n, hjoins.shares.1.trans h.shares⟩

theorem bare_setV (s : State) (d : Nat) (x : V512) : bare (s.setV d x) = bare s := by
  unfold State.setV
  split <;> rfl

theorem LooksUp.setV {d : Nat} {u t : State} (h : LooksUp d u t) (x : V512) : LooksUp d u (t.setV d x) := by
  have hdev : (t.setV d x).dev = t.dev := setV_dev ..
  exact ⟨onlyFiles_trans h.files (setV_onlyVector t d x).1, h.walks.step (bare_setV ..) (congrArg Dev.cycle hdev),
    (congrArg Dev.sharedB hdev).trans h.shares⟩

/-- PIX names an element. -/
def atElement (i : Nat) (s : State) : State := { s with me.ctl.pix := w64 i }

theorem LooksUp.atElement {d : Nat} {u t : State} (h : LooksUp d u t) (i : Nat) : LooksUp d u (atElement i t) :=
  ⟨h.files, h.walks.step rfl rfl, h.shares⟩

theorem LooksUp.retire {d : Nat} {u t : State} (h : LooksUp d u t) : OnlyFiles u (t.retire .seq) [d] ∧ Claims.Joined u (t.retire .seq) := by
  refine ⟨onlyFiles_trans h.files (onlyVector_retire (onlyVector_refl t _)).1, ?_⟩
  unfold Claims.Joined
  rw [retire_dev]
  exact h.joined

/-! ## One element after another -/

/-- Element i from an offset of local memory, where the element is active. -/
def lookedUp (act : Bool) (d : Reg) (ty : ElemTy) (i off : Nat) (s : State) : State :=
  if act then
    (s.joinLocal off (ElemTy.width ty / 8)).setLane d (ElemTy.width ty) i (s.me.loc.bytes.readN off (ElemTy.width ty / 8))
  else s

theorem LooksUp.lookedUp {d : Reg} {u t : State} (h : LooksUp d.toNat u t) (act : Bool) (ty : ElemTy) (i off : Nat) :
    LooksUp d.toNat u (lookedUp act d ty i off t) := by
  cases act with
  | false => exact h
  | true => exact (h.joinLocal off _).setV _

theorem lookedUp_elem {d : Reg} (hd : d.toNat < 56) {ty : ElemTy} {i : Nat} (hi : i < 512 / ElemTy.width ty) (act : Bool) (off : Nat)
    (s : State) (m : Nat) :
    elem (ElemTy.width ty) ((lookedUp act d ty i off s).v d.toNat) m =
      if m = i ∧ act = true then s.me.loc.bytes.readN off (ElemTy.width ty / 8) else elem (ElemTy.width ty) (s.v d.toNat) m := by
  cases act with
  | false => exact (if_neg fun h => Bool.noConfusion h.2).symm
  | true =>
    have hjoins : JoinsTo s (s.joinLocal off (ElemTy.width ty / 8)) := JoinsTo.joinLocal (.inl rfl) ..
    refine (setLane_elem _ hd hi ?_ m).trans ?_
    · exact (readN_lt ..).trans_eq (pow_bytes_width ty)
    · rw [hjoins.arch.v]
      exact if_congr (and_iff_left rfl).symm rfl rfl

/-- The address of an active element names its offset of local memory, of which the element can be read. -/
def TableEntry (s : State) (base : W64) (ty : ElemTy) (x off : Nat) : Prop :=
  base + w64 (ElemTy.width ty / 8) * w64 x = w64 off ∧ Readable s off (ElemTy.width ty / 8)

theorem tableEntry_congr {s t : State} (h : t.me.loc = s.me.loc) {base : W64} {ty : ElemTy} {x off : Nat}
    (he : TableEntry s base ty x off) : TableEntry t base ty x off := by
  rwa [TableEntry, Readable, h]

theorem vlutFrom_succ {s : State} {d : Reg} {base : W64} {ty : ElemTy} {mask : List Bool} {xs : List Nat} {n i off : Nat}
    (hquota : s.me.quota = none) (he : mask.getD i false = true → TableEntry s base ty (xs.getD i 0) off) :
    vlutFrom d base (ElemTy.width ty) mask xs (n + 1) i s =
      vlutFrom d base (ElemTy.width ty) mask xs n (i + 1) (atElement (i + 1) (lookedUp (mask.getD i false) d ty i off s)) := by
  rw [vlutFrom, element_free hquota]
  by_cases hm : mask.getD i false = true
  · obtain ⟨haddr, hr⟩ := he hm
    have hbelow : off + ElemTy.width ty / 8 ≤ 0x30000 := hr.2.1
    have hpos := bytes_pos ty
    have hoff : (w64 off).toNat = off := toNat_ofNat_of_lt (by omega)
    simp only [hm, haddr, hoff, readPlace_own _ hr, bind, Except.bind, if_neg (show ¬ 0x30000 ≤ off by omega), if_true]
    rfl
  · simp only [hm, bind, Except.bind]
    rfl

/-- The elements that VLUT looks up, n of them from element i on. -/
theorem vlutFrom_entries {u : State} {d : Reg} (hd : d.toNat < 56) {base : W64} {ty : ElemTy} {mask : List Bool} {xs : List Nat}
    {off : Nat → Nat} (hquota : u.me.quota = none) (n : Nat) : ∀ (i : Nat) (s : State), LooksUp d.toNat u s →
      n ≤ 512 / ElemTy.width ty - i →
      (∀ k, i ≤ k → k < i + n → mask.getD k false = true → TableEntry u base ty (xs.getD k 0) (off k)) →
      ∃ t, vlutFrom d base (ElemTy.width ty) mask xs n i s = .ok t ∧ LooksUp d.toNat u t ∧
        ∀ m, elem (ElemTy.width ty) (t.v d.toNat) m =
          if i ≤ m ∧ m < i + n ∧ mask.getD m false = true then u.me.loc.bytes.readN (off m) (ElemTy.width ty / 8)
          else elem (ElemTy.width ty) (s.v d.toNat) m := by
  induction n with
  | zero => exact fun i s hs _ _ => ⟨s, rfl, hs, fun m => by rw [if_neg (by omega)]⟩
  | succ n ih =>
    intro i s hs hn hentry
    have hloc : s.me.loc = u.me.loc := hs.walks.loc
    have hi (hm : mask.getD i false = true) := tableEntry_congr hloc (hentry i le_rfl (by omega) hm)
    obtain ⟨t, ht, hkeep, helem⟩ := ih (i + 1) _ ((hs.lookedUp (mask.getD i false) ty i (off i)).atElement (i + 1)) (by omega)
      fun k h1 h2 => hentry k (by omega) (by omega)
    refine ⟨t, (vlutFrom_succ (hs.walks.quota.trans hquota) hi).trans ht, hkeep, fun m => ?_⟩
    have hv (r : Nat) (w : State) : (atElement (i + 1) w).v r = w.v r := rfl
    rw [helem m, hv, lookedUp_elem hd (by omega), hloc]
    by_cases hm : m = i
    · subst hm
      rw [if_neg (by omega)]
      exact if_congr ⟨fun h => ⟨le_rfl, by omega, h.2⟩, fun h => ⟨rfl, h.2.2⟩⟩ rfl rfl
    · rw [if_neg (c := m = i ∧ _) fun h => hm h.1]
      exact if_congr ⟨fun h => ⟨by omega, by omega, h.2.2⟩, fun h => ⟨by omega, by omega, h.2.2⟩⟩ rfl rfl

/-! ## The instruction -/

/-- A base that is not aligned raises MISALIGN (R227). -/
theorem vlut_misaligned {s : State} {d a b : Reg} {p : PReg} {ty : ElemTy} (hclear : Clear (.vlut d a b p ty) s)
    (hb : (s.g b).toNat % (ElemTy.width ty / 8) ≠ 0) :
    exec (.vlut d a b p ty) s = .next (s.trapEntry 0x03 (s.g b) s.me.trapPc) := by
  refine exec_of_misalign rfl hclear ?_
  rw [vlutBody]
  simp only [if_pos hb]
  rfl

/-- A source that is a register changes nothing (R20). -/
theorem vsrc_vec {s s1 : State} {r : Reg} {x : V512} (hr : isVec r = true) (h : s.vsrc r = .ok (x, s1)) : s1 = s := by
  rw [State.vsrc, if_pos (of_decide_eq_true hr)] at h
  cases h
  rfl

/-- VLUT, from the element that PIX names (R228). -/
theorem vlut_results {s s1 : State} {d a b : Reg} {p : PReg} {ty : ElemTy} {x : V512} {off : Nat → Nat} (ha : s.vsrc a = .ok (x, s1))
    (hwf : (Instr.vlut d a b p ty).wf = true) (hclear : Clear (.vlut d a b p ty) s) (hb : (s.g b).toNat % (ElemTy.width ty / 8) = 0)
    (hquota : s.me.quota = none)
    (hentry : ∀ k, field s1.me.ctl.pix 0 6 ≤ k → k < 512 / ElemTy.width ty → active s p k = true →
      s.g b + w64 (ElemTy.width ty / 8 * elem (ElemTy.width ty) x k) = w64 (off k) ∧ Readable s (off k) (ElemTy.width ty / 8)) :
    ∃ t : State, exec (.vlut d a b p ty) s = .next t ∧ t.me.ctl.pix = 0 ∧ OnlyFiles s1 t [d.toNat] ∧ Claims.Joined s1 t ∧
      ∀ k, k < 512 / ElemTy.width ty → elem (ElemTy.width ty) (t.v d.toNat) k =
        if field s1.me.ctl.pix 0 6 ≤ k ∧ active s p k = true then s.me.loc.bytes.readN (off k) (ElemTy.width ty / 8)
        else elem (ElemTy.width ty) (s.v d.toNat) k := by
  obtain ⟨hvec, -⟩ := Bool.and_eq_true_iff.mp hwf
  obtain ⟨hd, hsource⟩ := Bool.and_eq_true_iff.mp hvec
  obtain rfl := vsrc_vec hsource ha
  have hmask {k : Nat} (hk : k < 512 / ElemTy.width ty) := mask_getD (s := s1) ⟨rfl, rfl, rfl⟩ p (lanes_le ty) hk
  obtain ⟨t, ht, hkeep, helem⟩ := vlutFrom_entries (ty := ty) (base := s1.g b) (mask := s1.me.mask p (512 / ElemTy.width ty))
    (xs := lanesOf (ElemTy.width ty) x) (off := off) (of_decide_eq_true hd) hquota (512 / ElemTy.width ty - field s1.me.ctl.pix 0 6)
    (field s1.me.ctl.pix 0 6) s1 (.refl _ s1) le_rfl fun k h1 h2 hact => by
      have hk : k < 512 / ElemTy.width ty := by omega
      obtain ⟨haddr, hr⟩ := hentry k h1 hk (hmask hk ▸ hact)
      rw [lanesOf_getD]
      exact ⟨(congrArg _ (BitVec.ofNat_mul ..).symm).trans haddr, hr⟩
  have hbody : vlutBody d a b p ty s1 = State.ok { t with me.ctl.pix := 0 } := by
    simp only [vlutBody, if_neg (not_not.mpr hb), ha, bind, Except.bind, Machine.ElemTy.lanes, ht]
    rfl
  obtain ⟨honly, hjoined⟩ := (hkeep.atElement 0).retire
  refine ⟨_, gives_of_ok rfl hclear hbody, retire_ctl_pix .., honly, hjoined, fun k hk => ?_⟩
  rw [v_retire]
  refine (helem k).trans (if_congr ?_ rfl rfl)
  rw [hmask hk]
  exact ⟨fun h => ⟨h.1, h.2.2⟩, fun h => ⟨h.1, by omega, h.2⟩⟩

end Sys2Proof.Proofs

end
section
/-! VDOT (R229). -/

namespace Sys2Proof.Proofs
open Machine Claims

/-- The groups of m elements of a list. -/
theorem groups_range (m : Nat) : ∀ (K : Nat) (f : Nat → Nat), groups m K ((List.range (m * K)).map f) =
    (List.range K).map fun k => (List.range m).map fun e => f (m * k + e)
  | 0, _ => rfl
  | K + 1, f => by
    have hsplit : (List.range (m * (K + 1))).map f = (List.range m).map f ++ (List.range (m * K)).map fun j => f (m + j) := by
      rw [Nat.mul_succ, Nat.add_comm, List.range_add, List.map_append, List.map_map]
      rfl
    have hlen : ((List.range m).map f).length = m := by simp
    rw [groups, hsplit, List.take_left' hlen, List.drop_left' hlen, groups_range m K fun j => f (m + j), List.range_succ_eq_map,
      List.map_cons, List.map_map]
    refine congrArg₂ List.cons (by simp) (List.map_congr_left fun k _ => List.map_congr_left fun e _ => ?_)
    rw [Nat.mul_succ]
    exact congrArg f (by omega)

/-- The source elements of VDOT fill the register: 16 groups of 32 bits. -/
theorem dot_groups (ty : ElemTy) : 512 / dotWidth ty = 32 / dotWidth ty * 16 := by
  cases ty <;> rfl

/-- The sum of the products of a group. -/
theorem dotInt_range (rd : Nat → Int) (m : Nat) (f g : Nat → Nat) :
    dotInt rd ((List.range m).map f) ((List.range m).map g) = (List.range m).foldl (fun z e => z + rd (f e) * rd (g e)) 0 := by
  rw [dotInt, List.zip_map', List.foldl_map]

/-- The element that VDOT makes of the old one and of its group. -/
def dotElem (ty : ElemTy) (m : RMode) (old : Nat) (x y : V512) (k : Nat) : FpRes :=
  laneDot ty m old ((List.range (32 / dotWidth ty)).map fun e => elem (dotWidth ty) x (32 / dotWidth ty * k + e))
    ((List.range (32 / dotWidth ty)).map fun e => elem (dotWidth ty) y (32 / dotWidth ty * k + e))

/-- VDOT writes and reports its elements as an elementwise instruction of 32 bits does. -/
theorem vdotBody_eq {s s1 s2 : State} {d a b : Reg} {p : PReg} {ty : ElemTy} {x y : V512} (ha : s.vsrc a = .ok (x, s1))
    (hb : s1.vsrc b = .ok (y, s2)) :
    vdotBody d a b p ty s = elementwise .i32 d p (fun k => dotElem ty s.me.rounding (elem 32 (s.v d.toNat) k) x y k) s s2 := by
  have hf := (vsrc_files ha).trans (vsrc_files hb)
  have hmask : s.me.mask p 16 = (List.range 16).map (active s p) := mask_eq s p (by decide)
  have hold : lanesOf 32 (s.v d.toNat) = (List.range 16).map (elem 32 (s.v d.toNat)) := lanesOf_eq ..
  simp only [vdotBody, ha, hb, bind, Except.bind, hf.rounding, hf.v, hf.mask, hmask, hold, lanesOf_eq, dot_groups, groups_range,
    List.zip_map', List.map_map, activeRes_map]
  rfl

/-- Settles O47: the table's elements one after another, and the groups of VDOT as elements of 32 bits. -/
theorem tablesAndDotProducts : Obligations.TablesAndDotProducts := by
  unfold Obligations.TablesAndDotProducts
  refine ⟨?_, ?_⟩
  · intro s s1 d a b p ty x off i hwf hclear ha n L i0
    exact ⟨vlut_misaligned hclear, fun hb hquota hentry => vlut_results ha hwf hclear hb hquota hentry⟩
  · intro s s1 s2 d a b p ty h x y i hwf hclear ha hb n m read sum r
    have hd : isVec d = true := (Bool.and_eq_true_iff.mp hwf).1
    have hr (k : Nat) : dotElem ty s.me.rounding (elem 32 (s.v d.toNat) k) x y k = r k := by
      cases ty with
      | f16 => exact congrArg (dotRound fmt32 fmt16 _ _ false) List.zip_map'
      | bf16 => exact congrArg (dotRound fmt32 fmtB16 _ _ false) List.zip_map'
      | _ => exact congrArg (fun z => Machine.plain (lowBits 32 (_ + z))) (dotInt_range ..)
    have hresults := elementwise_results (i := i) rfl hclear hd ((vsrc_files ha).trans (vsrc_files hb))
      ((vdotBody_eq ha hb).trans (elementwise_congr hr))
    exact hresults.1

end Sys2Proof.Proofs

end

section
/-! What the memory system and the engines change is memory and what stands for it: the contexts, the network, the counts of errors, the
ready queues and the course of the jobs are as before. -/

namespace Sys2Proof.Proofs
open Machine

/-! ## The course of a job -/

/-- What an instance table says of an instance's place. -/
def seatOf (i : Inst) : Nat × Nat × List Nat := (i.stage, i.num, i.cores)

/-- A job has its instances in place and has been rolled back as often, and a status that it had stands. -/
structure JobKept (j j' : Job) : Prop where
  insts : j'.insts.map seatOf = j.insts.map seatOf
  nrollbacks : j'.nrollbacks = j.nrollbacks
  rolled : j'.rolled = j.rolled
  ended : j.status.isSome = true → j'.status = j.status ∧ j'.reason = j.reason

theorem JobKept.refl (j : Job) : JobKept j j := ⟨rfl, rfl, rfl, fun _ => ⟨rfl, rfl⟩⟩

/-- Other parts of a job do not matter. -/
theorem JobKept.of_eq {j j' : Job} (hi : j'.insts = j.insts := by rfl) (hn : j'.nrollbacks = j.nrollbacks := by rfl)
    (hr : j'.rolled = j.rolled := by rfl) (hs : j'.status = j.status := by rfl) (ha : j'.reason = j.reason := by rfl) : JobKept j j' :=
  ⟨by rw [hi], hn, hr, fun _ => ⟨hs, ha⟩⟩

theorem JobKept.trans {i j k : Job} (h : JobKept i j) (h' : JobKept j k) : JobKept i k where
  insts := h'.insts.trans h.insts
  nrollbacks := h'.nrollbacks.trans h.nrollbacks
  rolled := h'.rolled.trans h.rolled
  ended := fun hs => by
    obtain ⟨hst, hr⟩ := h.ended hs
    obtain ⟨hst', hr'⟩ := h'.ended (by rw [hst]; exact hs)
    exact ⟨hst'.trans hst, hr'.trans hr⟩

/-- Every job of a stave goes on as before. -/
def JobsKept (t u : Stave) : Prop := ∀ k j, t.job? k = some j → ∃ j', u.job? k = some j' ∧ JobKept j j'

theorem JobsKept.of_eq {t u : Stave} (h : u.jobs = t.jobs) : JobsKept t u :=
  fun k j hj => ⟨j, by rwa [Stave.job?, h], .refl j⟩

theorem JobsKept.trans {t u v : Stave} (h : JobsKept t u) (h' : JobsKept u v) : JobsKept t v := fun k j hj => by
  obtain ⟨j', hj', hk⟩ := h k j hj
  obtain ⟨j'', hj'', hk'⟩ := h' k j' hj'
  exact ⟨j'', hj'', hk.trans hk'⟩

theorem find?_map_num {g : Job → Job} (hg : ∀ j, (g j).num = j.num) (k : BitVec 6) :
    ∀ l : List Job, (l.map g).find? (fun j => j.num == k) = (l.find? fun j => j.num == k).map g
  | [] => rfl
  | j :: l => by
    rw [List.map_cons, List.find?_cons, List.find?_cons, hg, find?_map_num hg k l]
    split <;> rfl

/-- Jobs that are changed one by one keep their numbers. -/
theorem job?_map {t u : Stave} {g : Job → Job} (hu : u.jobs = t.jobs.map g) (hg : ∀ j, (g j).num = j.num) (k : BitVec 6) :
    u.job? k = (t.job? k).map g := by
  rw [Stave.job?, hu, find?_map_num hg, Stave.job?]

theorem job?_num {t : Stave} {k : BitVec 6} {j : Job} (h : t.job? k = some j) : j.num = k := by
  simpa using List.find?_some h

theorem job?_onJob (t : Stave) (n : BitVec 6) {f : Job → Job} (hf : ∀ j, j.num = n → (f j).num = n) (k : BitVec 6) :
    (t.onJob n f).job? k = if k = n then (t.job? k).map f else t.job? k := by
  have hg : ∀ j : Job, (if j.num = n then f j else j).num = j.num := fun j => by
    split
    · next h => rw [hf j h, h]
    · rfl
  rw [job?_map (t := t) (u := t.onJob n f) rfl hg]
  split
  · next hk =>
    cases hj : t.job? k with
    | none => rfl
    | some j => simp [job?_num hj, hk]
  · next hk =>
    cases hj : t.job? k with
    | none => rfl
    | some j => simp [job?_num hj, hk]

theorem JobsKept.map {t u : Stave} {g : Job → Job} (hu : u.jobs = t.jobs.map g) (hn : ∀ j, (g j).num = j.num)
    (hk : ∀ j, JobKept j (g j)) : JobsKept t u :=
  fun k j hj => ⟨g j, by rw [job?_map hu hn, hj]; rfl, hk j⟩

theorem JobsKept.onJob {t : Stave} {n : BitVec 6} {f : Job → Job} (hn : ∀ j, j.num = n → (f j).num = n)
    (hf : ∀ j, t.job? n = some j → JobKept j (f j)) : JobsKept t (t.onJob n f) := fun k j hj => by
  rw [job?_onJob t n hn]
  split
  · next hk => exact ⟨f j, by rw [hj]; rfl, hf j (hk ▸ hj)⟩
  · exact ⟨j, hj, .refl j⟩

/-- A job is put in place of the one under its number. -/
theorem JobsKept.putJob {t u : Stave} (h : JobsKept t u) {n : BitVec 6} {i j : Job} (hi : t.job? n = some i) (hn : j.num = n)
    (hij : JobKept i j) : JobsKept t (u.onJob n fun _ => j) := fun k x hx => by
  obtain ⟨y, hy, hxy⟩ := h k x hx
  rw [job?_onJob u n fun _ _ => hn, hy]
  split
  · next hk =>
    rw [hk, hi] at hx
    cases hx
    exact ⟨j, rfl, hij⟩
  · exact ⟨y, rfl, hxy⟩

/-! ## Changes of memory -/

/-- A core without what the memory system and the engines may change of it: its copies, notes, translations and local memory. -/
def ownOf (c : Core) : Core := { c with l1 := [], notes := [], tlb := [], loc := ⟨[], [], [], []⟩ }

/-- From s to t only memory has changed, with what the homes, the L1s, the TLBs and the engines keep of it: no context but in its
memory, no item on its way, no count of errors, no ready queue, and no job's course. -/
structure Aside (s t : State) : Prop where
  here : t.here = s.here
  cores : ∀ k, k ≠ deadCore → ownOf (t.coreAt k) = ownOf (s.coreAt k)
  net : t.dev.net = s.dev.net
  errors : t.dev.errors = s.dev.errors
  ready : ∀ n, (t.dev.stave n).ready = (s.dev.stave n).ready
  jobs : ∀ n, JobsKept (s.dev.stave n) (t.dev.stave n)

theorem Aside.refl (s : State) : Aside s s := ⟨rfl, fun _ _ => rfl, rfl, rfl, fun _ => rfl, fun _ => .of_eq rfl⟩

theorem Aside.trans {s t u : State} (h : Aside s t) (h' : Aside t u) : Aside s u where
  here := h'.here.trans h.here
  cores := fun k hk => (h'.cores k hk).trans (h.cores k hk)
  net := h'.net.trans h.net
  errors := h'.errors.trans h.errors
  ready := fun n => (h'.ready n).trans (h.ready n)
  jobs := fun n => (h.jobs n).trans (h'.jobs n)

/-- Other parts of the state do not matter. -/
theorem Aside.of_eq {s t : State} (hh : t.here = s.here := by rfl) (ho : t.others = s.others := by rfl)
    (hm : ownOf t.me = ownOf s.me := by rfl) (hn : t.dev.net = s.dev.net := by rfl) (he : t.dev.errors = s.dev.errors := by rfl)
    (hs : t.dev.staves = s.dev.staves := by rfl) : Aside s t where
  here := hh
  cores := fun k _ => by
    simp only [State.coreAt, hh, ho]
    split
    · exact hm
    · rfl
  net := hn
  errors := he
  ready := fun n => by rw [Dev.stave, hs, Dev.stave]
  jobs := fun n => .of_eq (by rw [Dev.stave, hs, Dev.stave])

theorem Aside.ite {c : Prop} [Decidable c] {s t u : State} (ht : Aside s t) (hu : Aside s u) : Aside s (if c then t else u) := by
  split
  · exact ht
  · exact hu

theorem Aside.foldl {α : Type} {f : State → α → State} (hf : ∀ s x, Aside s (f s x)) : ∀ (l : List α) (s : State), Aside s (l.foldl f s)
  | [], s => .refl s
  | x :: l, s => (hf s x).trans (Aside.foldl hf l (f s x))

/-- A fold of steps on a value that holds a state. -/
theorem Aside.foldl_part {α β : Type} (p : β → State) {f : β → α → β} (hf : ∀ r x, Aside (p r) (p (f r x))) :
    ∀ (l : List α) (r : β), Aside (p r) (p (l.foldl f r))
  | [], r => .refl (p r)
  | x :: l, r => (hf r x).trans (Aside.foldl_part p hf l (f r x))

theorem onStave_aside (s : State) (n : BitVec 6) {f : Stave → Stave} (hr : (f (s.dev.stave n)).ready = (s.dev.stave n).ready)
    (hj : JobsKept (s.dev.stave n) (f (s.dev.stave n))) : Aside s (s.onStave n f) where
  here := rfl
  cores := fun _ _ => rfl
  net := rfl
  errors := rfl
  ready := fun m => by
    simp only [State.onStave, stave_setStave]
    split
    · next h => rw [h, hr]
    · rfl
  jobs := fun m => by
    simp only [State.onStave, stave_setStave]
    split
    · next h => rw [h]; exact hj
    · exact .of_eq rfl

/-- Where the job that a change puts in place goes on from its first state. -/
theorem Aside.onStave {s u : State} (h : Aside s u) {n : BitVec 6} {f : Stave → Stave}
    (hr : (f (u.dev.stave n)).ready = (u.dev.stave n).ready) (hj : JobsKept (s.dev.stave n) (f (u.dev.stave n))) :
    Aside s (u.onStave n f) where
  here := h.here
  cores := h.cores
  net := h.net
  errors := h.errors
  ready := fun m => by
    simp only [State.onStave, stave_setStave]
    split
    · next e => rw [e, hr, h.ready]
    · exact h.ready m
  jobs := fun m => by
    simp only [State.onStave, stave_setStave]
    split
    · next e => rw [e]; exact hj
    · exact h.jobs m

theorem onJob_aside (s : State) (n k : BitVec 6) {f : Job → Job} (hn : ∀ j, (f j).num = j.num) (hf : ∀ j, JobKept j (f j)) :
    Aside s (s.onStave n fun t => t.onJob k f) :=
  onStave_aside s n rfl (.onJob (fun j h => (hn j).trans h) fun j _ => hf j)

/-- A stave is written in a device of which other parts have changed. -/
theorem setStave_aside {s : State} {d : Dev} (hn : d.net = s.dev.net) (he : d.errors = s.dev.errors) (hs : d.staves = s.dev.staves)
    (n : BitVec 6) {t : Stave} (hr : t.ready = (s.dev.stave n).ready) (hj : JobsKept (s.dev.stave n) t) :
    Aside s { s with dev := d.setStave n t } := by
  have h : Aside s { s with dev := d } := .of_eq (hn := hn) (he := he) (hs := hs)
  have hst : d.stave n = s.dev.stave n := by rw [Dev.stave, hs, Dev.stave]
  exact h.onStave (f := fun _ => t) (hr.trans (by rw [hst])) hj

theorem onCore_aside (s : State) (k : Nat) {f : Core → Core} (hf : ∀ c, ownOf (f c) = ownOf c) : Aside s (s.onCore k f) where
  here := onCore_here ..
  cores := fun i _ => by
    rw [coreAt_onCore]
    split
    · exact hf _
    · rfl
  net := by rw [onCore_dev]
  errors := by rw [onCore_dev]
  ready := fun n => by rw [onCore_dev]
  jobs := fun n => .of_eq (by rw [onCore_dev])

/-- A change of focus after which the first core is in focus again. -/
theorem at_aside (s : State) (k : Nat) {f : State → State} (hf : ∀ u, Aside u (f u)) : Aside s (s.at k f) := by
  have h := hf (s.focus k)
  refine ⟨focus_here .., fun i hi => ?_, ?_, ?_, fun n => ?_, fun n => ?_⟩
  · rw [State.at, coreAt_focus, h.cores i hi, coreAt_focus]
  · rw [State.at, focus_dev, h.net, focus_dev]
  · rw [State.at, focus_dev, h.errors, focus_dev]
  · rw [State.at, focus_dev, h.ready, focus_dev]
  · have hj := h.jobs n
    rw [focus_dev] at hj
    rwa [State.at, focus_dev]

end Sys2Proof.Proofs
end
section
/-! The homes change memory alone (R275 to R279), and so is what a protected superstep keeps (R430) and what host lines come to (R444). -/

namespace Sys2Proof.Proofs
open Machine

-- Each of these proofs is elaborated after the one before: side by side they would hold a thread, and its stack, each.
set_option Elab.async false

theorem onPat_aside (s : State) (n job : BitVec 6) (i : Nat) (f : Pattern → Pattern) : Aside s (s.onPat n job i f) := by
  refine onJob_aside s n job (fun j => ?_) fun j => ?_
  · unfold Job.onPat; split <;> rfl
  · unfold Job.onPat; split <;> exact .of_eq

theorem dropNotes_aside (s : State) (n job : BitVec 6) (i : Nat) : Aside s (s.dropNotes n job i) :=
  Aside.foldl (fun s k => onCore_aside s k fun c => by split <;> rfl) _ _

theorem tearOut_aside (s : State) (n job : BitVec 6) (i : Nat) : Aside s (s.tearOut n job i) := by
  unfold State.tearOut
  split
  · exact .refl s
  · split
    · exact .refl s
    · split
      · exact onPat_aside ..
      · refine Aside.trans ?_ (dropNotes_aside ..)
        exact (onPat_aside s n job i _).trans (onJob_aside _ n job (fun _ => rfl) fun _ => .of_eq)

theorem tearUnread_aside (s : State) (line : Nat) (m : BitVec 16) (p : Nat → Bool) : Aside s (s.tearUnread line m p) :=
  Aside.trans .of_eq (Aside.foldl (f := fun s (u : Unread) => s.tearOut u.stave u.job u.pat.toNat) (fun _ _ => tearOut_aside ..) _ _)

theorem noteHome_aside (s : State) (sid : BitVec 16) (line : Nat) : Aside s (s.noteHome sid line) := by
  unfold State.noteHome
  simp only
  split
  · exact .refl s
  · split
    · exact .refl s
    · exact onStave_aside s _ (f := fun t => { t with trans := _ }) rfl (.of_eq rfl)

theorem charge_net (d : Dev) (t : Stave) (cluster : Nat) (chan : Bool) (n : Nat) :
    (d.charge t cluster chan n).net = d.net ∧ (d.charge t cluster chan n).errors = d.errors ∧
      (d.charge t cluster chan n).staves = d.staves := by
  unfold Dev.charge
  split <;> exact ⟨rfl, rfl, rfl⟩

theorem charge_aside (s : State) (t : Stave) (cluster : Nat) (chan : Bool) (n : Nat) :
    Aside s { s with dev := s.dev.charge t cluster chan n } :=
  have h := charge_net s.dev t cluster chan n
  .of_eq (hn := h.1) (he := h.2.1) (hs := h.2.2)

theorem memory_aside (s : State) (m : Cells) (p : List Nat) : Aside s { s with dev := { s.dev with mem := m, poison := p } } := .of_eq

theorem poke_aside (s : State) (key n x : Nat) : Aside s { s with dev := s.dev.poke key n x } := memory_aside ..

theorem poke_poke_aside (s : State) (a n x b m y : Nat) : Aside s { s with dev := (s.dev.poke a n x).poke b m y } :=
  (poke_aside s a n x).trans (poke_aside _ b m y)

theorem channel_aside (s : State) (sid : BitVec 16) (line n : Nat) (dirty : BitVec 16) (code : Nat) :
    Aside s (s.channel sid line n dirty code) := by
  have hcharge := charge_aside s (s.dev.stave (sid.extractLsb' 10 6)) (s.dev.homeOf (sid.extractLsb' 10 6) line) true n
  unfold State.channel
  simp only
  split
  · exact .refl s
  · refine hcharge.trans ?_
    repeat' split
    all_goals exact .of_eq

theorem setDir_aside (s : State) (x : DirLine) : Aside s { s with dev := s.dev.setDir x } := .of_eq

theorem pushedOut_aside (s : State) (slice line : Nat) : Aside s (s.pushedOut slice line) := by
  unfold State.pushedOut
  split
  · exact .refl s
  · exact (tearUnread_aside ..).trans (setDir_aside ..)

theorem sliceOut_aside (s : State) (v : L2Line) : Aside s (s.sliceOut v) := by
  unfold State.sliceOut
  refine Aside.trans ?_ (pushedOut_aside _ _ _)
  split
  · exact .of_eq
  · exact Aside.trans .of_eq (channel_aside ..)

theorem sliceRoom_aside (s : State) (h line : Nat) : Aside s (s.sliceRoom h line) := by
  unfold State.sliceRoom
  split
  · exact Aside.trans .of_eq (sliceOut_aside ..)
  · exact .refl s

theorem atHome_aside (s : State) (sid : BitVec 16) (line : Nat) (m : BitVec 16) (write : Bool) (alloc llc : Nat) :
    Aside s (s.atHome sid line m write alloc llc) := by
  unfold State.atHome
  simp only
  split
  · split
    · exact .refl s
    · split
      · exact Aside.trans .of_eq (channel_aside ..)
      · exact .of_eq
  · split
    · exact channel_aside ..
    · exact ((sliceRoom_aside s _ _).trans (channel_aside ..)).trans .of_eq

theorem unprotect_aside (s : State) (n job : BitVec 6) (p : Dom → Bool) (reason : BitVec 4) :
    Aside s (s.unprotect n job p reason) := onJob_aside s n job (fun _ => rfl) fun _ => .of_eq

theorem journalLine_aside (s : State) (n job : BitVec 6) (d : Dom) (key : Nat) : Aside s (s.journalLine n job d key) := by
  unfold State.journalLine
  simp only
  split
  · exact .refl s
  · split
    · exact unprotect_aside ..
    · exact (poke_poke_aside ..).trans (onJob_aside _ n job (fun _ => rfl) fun _ => .of_eq)

theorem ckTouch_aside (s : State) (n : BitVec 6) (j : Job) (d : Dom) (inside write : Bool) (key : Nat) :
    Aside s (s.ckTouch n j d inside write key) := by
  unfold State.ckTouch
  split
  · exact .refl s
  · split
    · exact .ite (journalLine_aside ..) (.refl s)
    · exact .ite (unprotect_aside ..) (.refl s)

theorem ckOutside_aside (s : State) (p : BitVec 6 → Bool) (key : Nat) : Aside s (s.ckOutside p key) :=
  Aside.foldl (fun s _ => .ite (.refl s) (Aside.foldl (fun _ _ => Aside.foldl (fun _ _ => ckTouch_aside ..) _ _) _ _)) _ _

theorem ckGlobal_aside (s : State) (key : Nat) (write : Bool) : Aside s (s.ckGlobal key write) := by
  unfold State.ckGlobal
  exact (Aside.foldl (fun _ _ => Aside.foldl (fun _ _ => ckTouch_aside ..) _ _) _ _).trans (ckOutside_aside ..)

theorem hostFetch_aside (s : State) (h : Nat) (bad : Bool) : Aside s (s.hostFetch h bad) := by
  unfold State.hostFetch
  generalize s.dev.mem.writeN _ _ _ = mem
  exact .of_eq

theorem drawBool_aside (s : State) : Aside s s.drawBool.2 := .of_eq

theorem hostPass_aside (s : State) (h : Nat) : Aside s (s.hostPass h) :=
  .ite (.refl s) ((drawBool_aside s).trans (hostFetch_aside ..))

theorem hostArrive_aside (s : State) (h : Nat) (own bad : Bool) : Aside s (s.hostArrive h own bad) :=
  (Aside.ite (.refl s) (hostFetch_aside s h bad)).trans .of_eq

theorem hostBring_aside (s : State) (h : Nat) (own : Bool) : Aside s (s.hostBring h own) :=
  .ite (.refl s) ((drawBool_aside s).trans (hostArrive_aside _ h own _))

theorem bring_aside (s : State) (pa n : Nat) (own : Bool) : Aside s (s.bring pa n own) := by
  unfold State.bring
  split
  · exact Aside.foldl (fun s h => hostBring_aside s h own) _ _
  · exact .refl s
  · exact .refl s

theorem selfBack_aside (s : State) (w : L1Word) : Aside s (s.selfBack w) := by
  unfold State.selfBack
  refine .trans ?_ (atHome_aside ..)
  refine .trans ?_ (noteHome_aside ..)
  have hbring : Aside s ((s.ckGlobal (8 * w.word) true).bring (8 * w.word) 8 true) :=
    (ckGlobal_aside s _ _).trans (bring_aside _ _ _ _)
  exact hbring.trans <| .of_eq (hn := (charge_net ..).1) (he := (charge_net ..).2.1) (hs := (charge_net ..).2.2)

theorem selfRecall_aside (s : State) (p : L1Word → Bool) : Aside s (s.selfRecall p) :=
  (Aside.foldl selfBack_aside _ s).trans .of_eq

theorem recall_aside (s : State) (sid : BitVec 16) (line : Nat) : Aside s (s.recall sid line) := by
  unfold State.recall
  simp only
  generalize hu : List.foldl _ _ _ = u
  have h : Aside s u := by
    rw [← hu]
    refine Aside.trans (.ite ((tearUnread_aside s line 0xFFFF fun _ => true).trans ?_) (.refl s))
      (Aside.foldl (fun s k => .ite (at_aside s k fun u => selfRecall_aside u _) (.refl s)) _ _)
    exact .of_eq
  exact h.trans .of_eq

theorem selfPut_aside (s : State) (p : L1Word → Bool) : Aside s (s.selfPut p) :=
  (Aside.foldl (fun s (w : L1Word) => recall_aside s w.sid _) _ s).trans (Aside.foldl selfBack_aside _ _)

theorem selfOut_aside (s : State) (p : L1Word → Bool) : Aside s (s.selfOut p) := (selfPut_aside s p).trans .of_eq

theorem selfRelease_aside (s : State) : Aside s s.selfRelease := (selfPut_aside s _).trans .of_eq

theorem acquire_aside (s : State) : Aside s s.acquire := selfOut_aside s _

theorem irreversible_aside (s : State) : Aside s s.irreversible := by
  unfold State.irreversible
  split
  · exact .refl s
  · exact unprotect_aside ..

theorem selfOutAll_aside (s : State) (p : L1Word → Bool) : Aside s (s.selfOutAll p) :=
  Aside.foldl (fun s k => .ite (at_aside s k fun u => selfOut_aside u p) (.refl s)) _ s

end Sys2Proof.Proofs
end
section
/-! So are requests at the homes (R278, R279), pushes (R375), and what comes into or leaves an L1 (R386). -/

namespace Sys2Proof.Proofs
open Machine

-- Each of these proofs is elaborated after the one before: side by side they would hold a thread, and its stack, each.
set_option Elab.async false

theorem putDir_aside (s : State) (x : DirLine) : Aside s (s.putDir x) := by
  unfold State.putDir
  exact .ite .of_eq (Aside.trans .of_eq (atHome_aside ..))

theorem request_aside (s : State) (sid : BitVec 16) (line : Nat) (m : BitVec 16) (write : Bool) (alloc llc : Nat) :
    Aside s (s.request sid line m write alloc llc) :=
  (recall_aside ..).trans ((noteHome_aside ..).trans (atHome_aside ..))

theorem evictLine_aside (s : State) (k line : Nat) : Aside s (s.evictLine k line) := by
  have htear := tearUnread_aside s line 0xFFFF fun h => h == k
  unfold State.evictLine
  refine Aside.trans ?_ (at_aside _ k fun u => selfOut_aside u _)
  simp only
  split
  · refine Aside.trans ?_ (putDir_aside ..)
    split
    · exact htear
    · exact htear.trans (charge_aside ..)
  · exact htear

theorem l1Room_aside (s : State) (k line : Nat) : Aside s (s.l1Room k line) :=
  .ite (.refl s) (Aside.trans .of_eq (evictLine_aside ..))

theorem sliceTake_aside (s : State) (h line : Nat) (sid : BitVec 16) : Aside s (s.sliceTake h line sid) :=
  .ite (.refl s) ((sliceRoom_aside ..).trans .of_eq)

theorem applyPush_aside (s : State) (x : Push) : Aside s (s.applyPush x) := by
  unfold State.applyPush
  split
  · exact .refl s
  · refine .ite (.refl s) (Aside.trans (Aside.trans ?_ (putDir_aside ..)) .of_eq)
    exact .ite (sliceTake_aside ..) (l1Room_aside ..)

theorem pushesFirst_aside (s : State) (line : Nat) (m : BitVec 16) : Aside s (s.pushesFirst line m) :=
  Aside.trans .of_eq (Aside.foldl applyPush_aside _ _)

theorem serveHome_aside (s : State) (sid : BitVec 16) (line : Nat) (m : BitVec 16) (alloc llc : Nat) :
    Aside s (s.serveHome sid line m alloc llc) :=
  (pushesFirst_aside ..).trans ((request_aside ..).trans ((tearUnread_aside ..).trans (putDir_aside ..)))

theorem barLine_aside (s : State) (n : BitVec 6) (line : Nat) : Aside s (s.barLine n line) :=
  .ite (.refl s) (onStave_aside s n rfl (.map rfl (fun _ => rfl) fun _ => .of_eq))

theorem putLoose_aside (s : State) (cls : MemCls) (key n x : Nat) : Aside s (s.putLoose cls key n x) := by
  unfold State.putLoose
  refine Aside.foldl (fun s w => ?_) _ s
  simp only
  repeat' split
  all_goals exact .of_eq

theorem markDirty_aside (s : State) (leaf : Option Nat) : Aside s (s.markDirty leaf) := by
  unfold State.markDirty
  split
  · exact .refl s
  · exact .of_eq

end Sys2Proof.Proofs
end
section
/-! And so are the accesses of the engines: translation and faults, reads with what a replay log keeps, writes, and the updates of sync
objects (R121, R296, R306). -/

namespace Sys2Proof.Proofs
open Machine

-- Each of these proofs is elaborated after the one before: side by side they would hold a thread, and its stack, each.
set_option Elab.async false

/-! ## Translation and faults -/

theorem markUsed_net (d : Dev) (path : List Nat) :
    (d.markUsed path).net = d.net ∧ (d.markUsed path).errors = d.errors ∧ (d.markUsed path).staves = d.staves := by
  unfold Dev.markUsed
  induction path generalizing d with
  | nil => exact ⟨rfl, rfl, rfl⟩
  | cons k t ih => exact ih { d with mem := d.mem.writeN k 8 (d.peek k 8 ||| 0x80) }

theorem markUsed_aside (s : State) (path : List Nat) : Aside s { s with dev := s.dev.markUsed path } :=
  have h := markUsed_net s.dev path
  .of_eq (hn := h.1) (he := h.2.1) (hs := h.2.2)

theorem tlbFill_aside (s : State) (t : TlbEntry) : Aside s (s.tlbFill t) := .of_eq

theorem walkFill_aside (s : State) (sp : Space) (va : Nat) : Aside s (s.walkFill sp va).state := by
  unfold State.walkFill
  split
  · exact markUsed_aside ..
  · exact (markUsed_aside ..).trans (tlbFill_aside ..)

theorem pick_aside (s : State) (t : TlbEntry) (va : Nat) : Aside s (s.pick t va).state := by
  unfold State.pick
  simp only
  split
  · exact .refl s
  · split
    · exact .of_eq
    · split
      · exact .of_eq
      · exact .of_eq

theorem translate_aside (s : State) (sp : Space) (va : Nat) (store : Bool) : Aside s (s.translate sp va store).state := by
  have hwalk := walkFill_aside s sp va
  unfold State.translate
  cases hw : s.walkFill sp va with
  | hit t u =>
    rw [hw] at hwalk
    have hpick := hwalk.trans (pick_aside u t va)
    simp only
    split
    · split
      · exact hpick
      · exact pick_aside ..
    · split
      · exact .refl s
      · exact hpick
  | miss l b u =>
    rw [hw] at hwalk
    simp only
    split
    · split
      · exact hwalk
      · exact pick_aside ..
    · split
      · exact .refl s
      · exact hwalk

theorem translate_hit_aside {s u : State} {sp : Space} {va : Nat} {store : Bool} {t : TlbEntry} (h : s.translate sp va store = .hit t u) :
    Aside s u := by simpa only [h, Xlate.state] using translate_aside s sp va store

theorem translate_miss_aside {s u : State} {sp : Space} {va lv : Nat} {store bad : Bool} (h : s.translate sp va store = .miss lv bad u) :
    Aside s u := by simpa only [h, Xlate.state] using translate_aside s sp va store

/-- What a fault queue's stave keeps of its records changes no job. -/
theorem faults_aside (s : State) (n : BitVec 6) (f : Stave → List FaultRec) :
    Aside s (s.onStave n fun t => { t with faults := f t }) := onStave_aside s n rfl (.of_eq rfl)

theorem poke_net (d : Dev) (key n x : Nat) :
    (d.poke key n x).net = d.net ∧ (d.poke key n x).errors = d.errors ∧ (d.poke key n x).staves = d.staves := ⟨rfl, rfl, rfl⟩

theorem appendFault_aside (s : State) (n : BitVec 6) (r : FaultRec) : Aside s (s.appendFault n r).1 := by
  unfold State.appendFault
  simp only
  generalize (s.dev.stave n).fqSlot _ = a
  generalize FaultRec.bytes _ = x
  generalize (s.dev.stave n).fqKey = b
  generalize BitVec.toNat _ = y
  obtain ⟨hn, he, hs⟩ := poke_net s.dev a 32 x
  obtain ⟨hn', he', hs'⟩ := poke_net (s.dev.poke a 32 x) b 4 y
  exact setStave_aside (hn'.trans hn) (he'.trans he) (hs'.trans hs) n rfl (.of_eq rfl)

theorem enterFault_aside {s t : State} {n : BitVec 6} {r : FaultRec} {job : Option (BitVec 6)} (h : s.enterFault n r job = some t) :
    Aside s t := by
  have hfirst : Aside s (if (s.dev.stave n).fqRoom then s.appendFault n r else (s, r)).1 := by
    split
    · exact appendFault_aside ..
    · exact .refl s
  unfold State.enterFault at h
  simp only at h
  generalize (if (s.dev.stave n).fqRoom then s.appendFault n r else (s, r)) = p at hfirst h
  split at h
  · split at h
    · split at h
      · cases h; exact (faults_aside s n _).trans (poke_aside ..)
      · cases h; exact faults_aside s n _
    · cases h; exact faults_aside s n _
  · split at h
    · cases h
    · cases job with
      | none => cases h; exact hfirst.trans (faults_aside _ n _)
      | some k => cases h; exact (hfirst.trans (faults_aside _ n _)).trans (onJob_aside _ n k (fun _ => rfl) fun _ => .of_eq)

theorem engineFault_aside (s : State) (who : Issuer) (va : W64) (kind : AccKind) (lv : Nat) (bad : Bool) :
    Aside s (s.engineFault who va kind lv bad).2 := by
  unfold State.engineFault
  simp only
  split
  · split
    · exact .refl s
    · split
      · exact .refl s
      · exact onStave_aside s who.stave (f := fun t => { t with pri := t.pri ++ [⟨who.space.sid, vpnOf va⟩] }) rfl (.of_eq rfl)
  · split
    · exact .refl s
    · split
      · next h => exact enterFault_aside h
      · exact .refl s

/-! ## Places -/

theorem sliceReady_aside {s t : State} {sid : BitVec 16} {line : Nat} {m : BitVec 16} {write : Bool} {alloc : Nat}
    (h : s.sliceReady sid line m write alloc = .ok t ∨ s.sliceReady sid line m write alloc = .error t) : Aside s t := by
  have hout (x : L2Line) : Aside s ({ s with fresh := s.fresh + 1 }.sliceOut x) := Aside.trans .of_eq (sliceOut_aside ..)
  unfold State.sliceReady at h
  simp only at h
  repeat' split at h
  all_goals simp only [Except.ok.injEq, Except.error.injEq, reduceCtorEq, false_or, or_false] at h
  all_goals first | exact h ▸ .refl s | exact h ▸ hout _

theorem engineReady_aside (s : State) (who : Issuer) (pl : Place) (n : Nat) (write : Bool) (alloc : Nat) (begun : Bool) :
    Aside s (s.engineReady who pl n write alloc begun).2 := by
  unfold State.engineReady
  simp only
  split
  · exact .refl s
  · split
    · split
      · split
        · exact drawBool_aside s
        · exact drawBool_aside s
      · split
        · next h => exact (noteHome_aside ..).trans (sliceReady_aside (.inl h))
        · next h => exact (noteHome_aside ..).trans (sliceReady_aside (.inr h))
      · split
        · next h => exact (noteHome_aside ..).trans (sliceReady_aside (.inl h))
        · next h => exact (noteHome_aside ..).trans (sliceReady_aside (.inr h))
    · exact .refl s
    · exact .refl s
    · exact .refl s
    · exact .refl s

theorem enginePlace_aside (s : State) (who : Issuer) (va : W64) (kind : AccKind) (n : Nat) (before : List (Nat × Nat)) :
    Aside s (s.enginePlace who va kind n before).2 := by
  unfold State.enginePlace
  simp only
  split
  · split
    · next h => exact (translate_miss_aside h).trans (engineFault_aside ..)
    · next h =>
      have htr := translate_hit_aside h
      split
      · exact htr
      · split
        · exact htr.trans (engineReady_aside ..)
        · refine htr.trans (Aside.trans ?_ (engineReady_aside ..))
          exact .ite (Aside.foldl hostPass_aside _ _) (bring_aside ..)
        · exact htr.trans (engineReady_aside ..)
  · split
    · exact .refl s
    · split
      · split
        · exact .refl s
        · split
          · exact .refl s
          · split
            · exact engineReady_aside ..
            · exact .refl s
      · exact .refl s

/-! ## Reads and writes -/

theorem journalLocal_aside (s : State) (n job : BitVec 6) (d : Dom) (k line : Nat) : Aside s (s.journalLocal n job d k line) := by
  unfold State.journalLocal
  simp only
  split
  · exact .refl s
  · generalize (s.dev.stave n).areaOf _ = area
    split
    · exact poke_poke_aside ..
    · exact ((poke_poke_aside ..).trans (memory_aside _ _ _)).trans (onJob_aside _ n job (fun _ => rfl) fun _ => .of_eq)

theorem ckLocalBy_aside (s : State) (who : Option Member) (k line : Nat) (write : Bool) : Aside s (s.ckLocalBy who k line write) := by
  unfold State.ckLocalBy
  split
  · exact .refl s
  · simp only
    split
    · exact .refl s
    · split
      · exact .refl s
      · split
        · exact .refl s
        · split
          · exact .ite (journalLocal_aside ..) (.refl s)
          · exact unprotect_aside ..

theorem looseRead_aside (s : State) (cls : MemCls) (key n x : Nat) : Aside s (s.looseRead cls key n x).2 := by
  unfold State.looseRead
  split
  · exact .refl s
  · refine Aside.foldl_part Prod.snd (fun r w => ?_) _ (x, s)
    simp only
    split
    · exact .refl _
    · exact .of_eq

theorem bringSpace_aside {s t : State} {sp : Space} {va : W64} {n k : Nat} {own : Bool} (h : s.bringSpace sp va n own = some (k, t)) :
    Aside s t := by
  unfold State.bringSpace at h
  split at h
  · next htr =>
    cases h
    exact (translate_hit_aside htr).trans ((bring_aside ..).trans (markDirty_aside ..))
  · cases h

theorem writeSpace_aside (s : State) (sp : Space) (va : W64) (n x : Nat) : Aside s (s.writeSpace sp va n x) := by
  unfold State.writeSpace
  split
  · exact .refl s
  · next h => exact (bringSpace_aside h).trans (poke_aside ..)

/-- A record that a capturing job appends is its log's alone. -/
theorem capture_aside (s : State) (n job : BitVec 6) (r : LogRec) : Aside s (s.capture n job r) := by
  unfold State.capture
  split
  · exact .refl s
  · next j hj =>
    split
    · exact .refl s
    · simp only
      generalize hj' : (if j.logUsed + 128 ≤ j.logSize then
        ({ j with logUsed := j.logUsed + 128, logCount := j.logCount + 1 } : Job).logStep r.lcore else { j with logFull := true }) = j'
      have hkept : JobKept j j' ∧ j'.num = job := by
        rw [← hj', ← job?_num hj]
        split <;> exact ⟨.of_eq, rfl⟩
      generalize hu : (if j'.logFull = true then s else _) = u
      have hsu : Aside s u := hu ▸ .ite (.refl s) (writeSpace_aside ..)
      refine Aside.trans ?_ (writeSpace_aside ..)
      exact hsu.onStave rfl ((hsu.jobs n).putJob hj hkept.2 hkept.1)

end Sys2Proof.Proofs
end

section
/-! The reads and writes of the engines, with what a replay log keeps of them (R441), and the updates of sync objects (R121). -/

namespace Sys2Proof.Proofs
open Machine

/-! ## Host reads of a job that captures or replays -/

theorem logRecs_aside (s : State) (j : Job) (n : Nat) : Aside s (s.logRecs j n).2 := by
  induction n with
  | zero => exact .refl s
  | succ n ih =>
    simp only [State.logRecs]
    split
    · next h => exact ih.trans (bringSpace_aside h)
    · exact ih

theorem logFind_aside (s : State) (j : Job) (p : LogRec → Bool) (n : Nat) : Aside s (s.logFind j p n).2 := by
  simp only [State.logFind, State.logRead]
  split
  · next h => exact (bringSpace_aside h).trans (logRecs_aside ..)
  · exact .refl s

theorem logStep_aside (s : State) (n job : BitVec 6) (key : Nat) :
    Aside s (s.onStave n fun t => t.onJob job fun j => j.logStep key) :=
  onJob_aside s n job (fun _ => rfl) fun _ => .of_eq

/-- A replay that leaves its log gives its job a status only where it has none (R427). -/
theorem diverge_aside (s : State) (n job : BitVec 6) (reason : W64) : Aside s (s.diverge n job reason) := by
  refine onJob_aside s n job (fun j => ?_) fun j => ?_
  · split <;> rfl
  · split
    · next h =>
      refine ⟨rfl, rfl, rfl, fun hs => ?_⟩
      rw [Option.isNone_iff_eq_none.mp h] at hs
      cases hs
    · exact .refl j

theorem hostRead_aside {s t : State} {n job : BitVec 6} {l pa size x y : Nat}
    (h : s.hostRead n job l pa size x = .ok (y, t) ∨ s.hostRead n job l pa size x = .error t) : Aside s t := by
  unfold State.hostRead at h
  split at h
  · obtain h | h := h <;> cases h
    exact .refl s
  · next j _ =>
    simp only at h
    have hfind := logFind_aside s j (fun r => r.kind == 3 && r.lcore == l) (j.logCountOf (8192 + l))
    split at h
    · split at h
      · obtain h | h := h <;> cases h
        exact hfind.trans (diverge_aside ..)
      · split at h <;> obtain h | h := h <;> cases h
        · exact hfind.trans (logStep_aside ..)
        · exact hfind.trans (diverge_aside ..)
    · obtain h | h := h <;> cases h
      exact capture_aside ..

theorem hostReads_aside {n job : BitVec 6} {l : Nat} : ∀ {k : Nat} {s t : State} {pa size x y : Nat},
    (s.hostReads n job l k pa size x = .ok (y, t) ∨ s.hostReads n job l k pa size x = .error t) → Aside s t
  | 0, s, t, pa, size, x, y, h => by
    obtain h | h := h <;> cases h
    exact .refl s
  | k + 1, s, t, pa, size, x, y, h => by
    simp only [State.hostReads] at h
    split at h
    · obtain h | h := h <;> cases h
      exact .refl s
    · split at h
      · next hr =>
        obtain h | h := h <;> cases h
        exact hostRead_aside (y := 0) (.inr hr)
      · next hr =>
        have hread := hostRead_aside (.inl hr)
        split at h
        · next hrest =>
          obtain h | h := h <;> cases h
          exact hread.trans (hostReads_aside (y := 0) (.inr hrest))
        · next hrest =>
          obtain h | h := h <;> cases h
          exact hread.trans (hostReads_aside (.inl hrest))

/-! ## Reads and writes of the engines -/

theorem engineCharge_aside (s : State) (who : Issuer) (pl : Place) (n : Nat) : Aside s (s.engineCharge who pl n) := by
  cases pl with
  | own off => exact .refl s
  | _ => exact charge_aside ..

theorem engineRead_aside (s : State) (who : Issuer) (pl : Place) (n : Nat) : Aside s (s.engineRead who pl n).2.2 := by
  have hcharge := engineCharge_aside s who pl n
  unfold State.engineRead
  simp only
  split
  · exact hcharge.trans (ckLocalBy_aside ..)
  · have hck (key : Nat) := hcharge.trans (ckGlobal_aside _ key false)
    split
    · exact (hck _).trans .of_eq
    · exact (hck _).trans ((request_aside ..).trans (looseRead_aside ..))
    · have hread (key alloc n x : Nat) (cls : MemCls) (sid m) := (hck key).trans ((request_aside _ sid (key / 128) m false alloc 0).trans
        (looseRead_aside _ cls key n x))
      split
      · exact hread ..
      · split
        · next h => exact (hread ..).trans (hostReads_aside (.inl h))
        · next h => exact (hread ..).trans (hostReads_aside (y := 0) (.inr h))
  · exact hcharge
  · exact hcharge
  · exact hcharge
  · exact hcharge

theorem engineWrite_aside (s : State) (who : Issuer) (pl : Place) (n x : Nat) : Aside s (s.engineWrite who pl n x) := by
  have hcharge := engineCharge_aside s who pl n
  unfold State.engineWrite
  simp only
  split
  · exact (hcharge.trans (ckLocalBy_aside ..)).trans (onCore_aside _ _ fun _ => rfl)
  · refine Aside.trans ?_ (markDirty_aside ..)
    generalize hu : (if 2 ^ 52 ≤ pl.start then (s.engineCharge who pl n).ckGlobal pl.start true else _) = u
    have h : Aside s u := by
      rw [← hu]
      refine (hcharge.trans (ckGlobal_aside _ pl.start true)).trans (.ite (.refl _) ?_)
      exact (serveHome_aside ..).trans ((barLine_aside ..).trans (selfOutAll_aside ..))
    exact h.trans (.ite (putLoose_aside ..) (memory_aside ..))

/-! ## Sync objects -/

/-- An operation with its issuer's core in focus; a context that has ended leaves no core behind. -/
theorem asIssuer_aside {f : State → State} (hf : ∀ u, Aside u (f u)) (s : State) (who : Issuer) : Aside s (s.asIssuer who f) := by
  have h := at_aside s who.core hf
  unfold State.asIssuer
  simp only
  split
  · refine ⟨h.here, fun k hk => ?_, h.net, h.errors, h.ready, h.jobs⟩
    rw [← h.cores k hk]
    simp only [State.coreAt, assocGet_assocErase_ne _ hk]
  · exact h

theorem hold_aside (s : State) (l : List SyncAdd) : Aside s { s with dev := { s.dev with syncs := l } } := .of_eq

theorem syncPut_aside (s : State) (x : SyncAdd) : Aside s (s.syncPut x) := by
  unfold State.syncPut
  simp only
  split
  · exact hold_aside ..
  · refine asIssuer_aside (fun u => ?_) s x.who
    have hplace := enginePlace_aside u x.who x.addr .atomic 16 u.dev.budget
    split
    · next v hv =>
      rw [hv] at hplace
      split
      · exact hplace.trans (hold_aside ..)
      · split
        · exact hplace.trans ((engineRead_aside ..).trans (engineWrite_aside ..))
        · exact hplace.trans (engineRead_aside ..)
    · next hv => rw [hv] at hplace; exact hplace
    · next hv => rw [hv] at hplace; exact hplace
    · next hv => rw [hv] at hplace; exact hplace.trans (hold_aside ..)
    · next hv => rw [hv] at hplace; exact hplace.trans (hold_aside ..)

theorem completeOp_aside (s : State) (who : Issuer) (addr : W64) (status : Nat) : Aside s (s.completeOp who addr status) :=
  .ite (.refl s) (syncPut_aside ..)

/-! ## What is read off a context -/

theorem Aside.own {s t : State} (h : Aside s t) {k : Nat} (hk : k ≠ deadCore) {α : Type} {p : Core → α}
    (hp : ∀ c, p (ownOf c) = p c) : p (t.coreAt k) = p (s.coreAt k) := by
  rw [← hp, h.cores k hk, hp]

end Sys2Proof.Proofs
end

section
/-! Capabilities (R253, R254) and matrix commands on their way (R255, R256). -/

namespace Sys2Proof.Proofs
open Machine Claims

/-! ## The capability table -/

theorem field_low (x : W64) (n : Nat) : field x 0 n = x.toNat % 2 ^ n := by
  rw [field, BitVec.extractLsb'_toNat, Nat.shiftRight_zero]

theorem vset_getElem {α : Type} {n : Nat} (v : Vector α n) {i k : Nat} (hi : i < n) (hk : k < n) (x : α) :
    (vset v i x)[k] = if k = i then x else v[k] := by
  simp only [vset, dif_pos hi, Vector.getElem_set]
  exact if_congr eq_comm rfl rfl

/-- A slot of the table is written. -/
def setCap (s : State) (slot : Nat) (c : W64) : State := { s with me := { s.me with caps := vset s.me.caps slot c } }

theorem setCap_slots (s : State) (b : Reg) (c : W64) :
    let u := setCap s (field (s.g b) 0 3) c
    u.me.regs = s.me.regs ∧ u.dev = s.dev ∧
      ∀ k (_ : k < 8), u.me.caps[k] = if k = (s.g b).toNat % 8 then c else s.me.caps[k] := by
  refine ⟨rfl, rfl, fun k hk => ?_⟩
  rw [setCap, field_low]
  exact vset_getElem s.me.caps (Nat.mod_lt _ (by decide)) hk c

theorem capgrantBody_elsewhere {s : State} {a : Reg} (h : field (s.g a) 0 13 ≠ s.me.lcore.toNat) (d b : Reg) :
    capgrantBody d a b s = put d 1 s :=
  if_pos fun e => h (congrArg BitVec.toNat e)

theorem capgrantBody_here {s : State} {a : Reg} (h : field (s.g a) 0 13 = s.me.lcore.toNat) (d b : Reg) :
    capgrantBody d a b s = if 1536 < field (s.g a) 13 11 + field (s.g a) 24 11 then put d 2 s
      else put d 0 (setCap s (field (s.g b) 0 3) (s.g a)) :=
  if_neg fun hne => hne (BitVec.eq_of_toNat_eq h)

/-! ## A command on its way -/

/-- What happens before a command leaves: its request is charged, the core's stores come before its reads, and it is an irreversible
action (R256, R430). -/
theorem beforeSend_aside (s : State) : Aside s (s.charge 32).selfRelease.irreversible :=
  (charge_aside ..).trans ((selfRelease_aside _).trans (irreversible_aside _))

theorem beforeSend_sameArch (s : State) : SameArch s (s.charge 32).selfRelease.irreversible :=
  (setDev_sameArch s _).trans ((selfRelease_sameArch _).trans (irreversible_sameArch _))

theorem sendCommand_sameArch (s : State) (cap : W64) (block : BitVec 256) (asks : Option W64) :
    SameArch s (s.sendCommand cap block asks) :=
  (beforeSend_sameArch s).trans (setDev_sameArch _ _)

/-- A command that is sent stands last in the network. -/
theorem sendCommand_net (s : State) (cap : W64) (block : BitVec 256) (asks : Option W64) :
    ∃ it : NetItem, (s.sendCommand cap block asks).dev.net = s.dev.net ++ [it] ∧ it.kind = .command ∧
      it.dst.toNat = field cap 0 13 ∧ it.src = s.me.lcore ∧
      ∃ m, it.cmd = some m ∧ m.cap = cap ∧ m.block = block ∧ m.asks = asks := by
  have hdst : (BitVec.ofNat 13 (field cap 0 13)).toNat = field cap 0 13 := by
    rw [BitVec.toNat_ofNat, field_low, Nat.mod_mod]
  have hsrc : (s.charge 32).selfRelease.irreversible.me.lcore = s.me.lcore := (congrArg Core.lcore (beforeSend_sameArch s).me :)
  exact ⟨_, congrArg (· ++ [_]) (beforeSend_aside s).net, rfl, hdst, hsrc, _, rfl, rfl, rfl, rfl⟩

theorem mcmdBody_unsent {s s1 : State} {b : Reg} (h : s.commandBlock b = .ok (none, s1)) (d a : Reg) :
    mcmdBody d a b s = (s1.setG d 1).ok := by
  simp only [mcmdBody, h, bind, Except.bind]
  rfl

theorem mcmdBody_sent {s s1 : State} {b : Reg} {x : BitVec 256} (h : s.commandBlock b = .ok (some x, s1)) (d a : Reg) :
    mcmdBody d a b s = ((s1.sendCommand (s1.g a) x none).setG d 0).ok := by
  simp only [mcmdBody, h, bind, Except.bind]
  rfl

/-! ## A command that its sender waits for -/

theorem mcmdTBody_fresh {s : State} (h : ∀ x ∈ s.me.asked, x.1 ≠ s.me.pc) (d a b : Reg) :
    mcmdTBody d a b s = settle do
      let (block, s) ← s.commandBlock b
      match block with
      | none => return put d 1 s
      | some x =>
        let s := s.sendCommand (s.g a) x (some s.me.pc)
        return .wait .mcmd { s with me := { s.me with asked := (s.me.pc, none) :: s.me.asked } } := by
  have hnone : (s.me.asked.find? fun x => x.1 == s.me.pc) = none :=
    List.find?_eq_none.mpr fun x hx => by simpa using h x hx
  rw [mcmdTBody, hnone] <;> rfl

theorem mcmdTBody_unsent {s s1 : State} (ha : ∀ x ∈ s.me.asked, x.1 ≠ s.me.pc) {b : Reg} (h : s.commandBlock b = .ok (none, s1))
    (d a : Reg) : mcmdTBody d a b s = (s1.setG d 1).ok := by
  rw [mcmdTBody_fresh ha]
  simp only [h, bind, Except.bind]
  rfl

/-- The state in which its sender waits for the answer. -/
def asking (s : State) : State := { s with me := { s.me with asked := (s.me.pc, none) :: s.me.asked } }

theorem mcmdTBody_sent {s s1 : State} (ha : ∀ x ∈ s.me.asked, x.1 ≠ s.me.pc) {b : Reg} {x : BitVec 256}
    (h : s.commandBlock b = .ok (some x, s1)) (d a : Reg) :
    mcmdTBody d a b s = .wait .mcmd (asking (s1.sendCommand (s1.g a) x (some s1.me.pc))) := by
  rw [mcmdTBody_fresh ha]
  simp only [h, bind, Except.bind]
  rfl

/-- A refusal traps with the capability, and the trap is no trigger (R254, R432). -/
theorem raise_capability (s : State) (v a : W64) : s.raise Cause.capability.code v a = s.trapEntry 0x0C v a := by
  have h : s.isTrigger Cause.capability.code = false := by simp [State.isTrigger, Cause.code]
  rw [State.raise, h]
  rfl

theorem trapEntry_regs (s : State) (c : BitVec 8) (v t : W64) : (s.trapEntry c v t).me.regs = s.me.regs := by
  rw [trapEntry_me]
  split <;> rfl

/-- A word that is refused traps: it has changed no register. -/
theorem exec_of_refused {i : Instr} {body : State → Res} {s u : State} {v : W64} (hx : exec i s = issue i body s) (h : Clear i s)
    (hb : body s = .trap .capability v u) (hu : u.me.regs = s.me.regs) :
    ∃ t : State, exec i s = .next t ∧ t.me.ctl.tcause = 0x0C ∧ t.me.ctl.tval = v ∧ t.me.regs = s.me.regs := by
  refine ⟨_, (hx.trans (issueG_trap h hb)).trans (congrArg Host.Outcome.next (raise_capability ..)), ?_, ?_, ?_⟩
  · rw [trapEntry_me]
    rfl
  · rw [trapEntry_me]
  · exact (trapEntry_regs ..).trans hu

/-- Settles O52: the two capability instructions by their checks, the commands by what is done before one leaves and by what an answer
says. -/
theorem commandsAreGrantedAndSent : Obligations.CommandsAreGrantedAndSent := by
  unfold Obligations.CommandsAreGrantedAndSent
  intro s d a b
  refine ⟨fun h => ⟨fun hl => ?_, fun hl hw => ?_, fun hl hw => ?_⟩, fun h => ?_, fun block s1 hb => ⟨?_, ?_⟩, ?_⟩
  · exact issue_put h (capgrantBody_elsewhere hl d b)
  · exact issue_put h ((capgrantBody_here hl d b).trans (if_pos hw))
  · exact ⟨setCap s (field (s.g b) 0 3) (s.g a), gives_of_ok rfl h ((capgrantBody_here hl d b).trans (if_neg (by omega))), setCap_slots s b _⟩
  · exact ⟨setCap s (field (s.g b) 0 3) 0, gives_of_ok rfl h rfl, setCap_slots s b 0⟩
  · rintro rfl
    exact ⟨fun h => gives_of_ok rfl h (mcmdBody_unsent hb d a), fun h ha => gives_of_ok rfl h (mcmdTBody_unsent ha hb d a)⟩
  · rintro x rfl
    constructor
    · intro h
      obtain ⟨it, hnet, hkind, hdst, hsrc, m, hm, hcap, hblock, hasks⟩ := sendCommand_net s1 (s1.g a) x none
      exact ⟨_, gives_of_ok rfl h (mcmdBody_sent hb d a), it, hnet, hkind, hdst, hsrc, m, hm, hcap, hblock, hasks⟩
    · intro h ha
      obtain ⟨it, hnet, -, -, -, m, hm, hcap, hblock, hasks⟩ := sendCommand_net s1 (s1.g a) x (some s1.me.pc)
      have hpc : (s1.sendCommand (s1.g a) x (some s1.me.pc)).me.pc = s1.me.pc :=
        (congrArg Core.pc (sendCommand_sameArch s1 (s1.g a) x (some s1.me.pc)).me :)
      refine ⟨_, issueG_wait h (mcmdTBody_sent ha hb d a), rfl, hpc, ?_, it, hnet, m, hm, hcap, hblock, hasks⟩
      rw [← hpc]
      exact List.mem_cons_self ..
  · intro answer hfind h
    refine ⟨?_, ?_, ?_⟩
    · rintro rfl
      refine gives_of_ok rfl h ?_
      rw [mcmdTBody, hfind]
      rfl
    · rintro rfl
      have hbody : mcmdTBody d a b s = .trap .capability (s.g a) { s with me := s.me.forget s.me.pc } := by
        rw [mcmdTBody, hfind]
      exact exec_of_refused rfl h hbody rfl
    · rintro rfl
      have hbody : mcmdTBody d a b s = .wait .mcmd s := by rw [mcmdTBody, hfind]
      exact issueG_wait h hbody

end Sys2Proof.Proofs
end

section
/-! What a load leaves: every core but its SELF words, its notes and its TLB (R276, R278, R285). Requests at the homes, the grants with
the notes that ride on them (R373, R374), what a replay log keeps (R441), and the answers of peers. -/

namespace Sys2Proof.Proofs
open Machine

/-! ## What comes into or leaves an L1 -/

theorem setFresh_sameArch (s : State) (n : Nat) : SameArch s { s with fresh := n } := ⟨rfl, fun _ => rfl⟩

theorem putDir_sameArch (s : State) (x : DirLine) : SameArch s (s.putDir x) :=
  .ite (setDev_sameArch ..) ((setDev_sameArch ..).trans (atHome_sameArch ..))

theorem selfOut_sameArch (s : State) (p : L1Word → Bool) : SameArch s (s.selfOut p) := (selfPut_sameArch s p).trans (.of_me rfl rfl rfl)

theorem request_sameArch (s : State) (sid : BitVec 16) (line : Nat) (m : BitVec 16) (write : Bool) (alloc llc : Nat) :
    SameArch s (s.request sid line m write alloc llc) :=
  (recall_sameArch ..).trans ((noteHome_sameArch ..).trans (atHome_sameArch ..))

theorem evictLine_sameArch (s : State) (k line : Nat) : SameArch s (s.evictLine k line) := by
  have htear := tearUnread_sameArch s line 0xFFFF fun h => h == k
  unfold State.evictLine
  refine SameArch.trans ?_ (at_sameArch _ k fun u => selfOut_sameArch u _)
  simp only
  split
  · exact (htear.trans (setDev_sameArch ..)).trans (putDir_sameArch ..)
  · exact htear

theorem l1Room_sameArch (s : State) (k line : Nat) : SameArch s (s.l1Room k line) :=
  .ite (.refl s) ((setFresh_sameArch ..).trans (evictLine_sameArch ..))

theorem setSelf_sameArch (s : State) (w : L1Word) : SameArch s (s.setSelf w) := (l1Room_sameArch ..).trans (.of_me rfl rfl rfl)

theorem serveSlice_sameArch (s : State) (k : Nat) (sid : BitVec 16) (line : Nat) (m : BitVec 16) : SameArch s (s.serveSlice k sid line m) :=
  (l1Room_sameArch ..).trans (putDir_sameArch ..)

/-! ## What the duplicator notes of a read -/

theorem onPat_sameArch (s : State) (n job : BitVec 6) (i : Nat) (f : Pattern → Pattern) : SameArch s (s.onPat n job i f) :=
  onStave_sameArch ..

theorem logTransfer_sameArch (s : State) (c q line : Nat) (sid m : BitVec 16) : SameArch s (s.logTransfer c q line sid m) := by
  unfold State.logTransfer
  simp only
  split
  · exact .refl s
  · split
    · split
      · exact .refl s
      · split
        · exact .refl s
        · refine SameArch.foldl (fun s i => ?_) _ s
          split
          · exact .refl s
          · split
            · exact .refl s
            · split
              · split
                · exact .refl s
                · split
                  · exact onPat_sameArch ..
                  · split <;> exact onPat_sameArch ..
              · split
                · exact .refl s
                · exact tearOut_sameArch ..
              all_goals exact .refl s
    · exact .refl s

theorem noteRead_sameArch (s : State) (k : Nat) (sid : BitVec 16) (line : Nat) (m : BitVec 16) : SameArch s (s.noteRead k sid line m) :=
  SameArch.foldl (fun _ _ => logTransfer_sameArch ..) _ s

theorem firePush_sameArch (s : State) (k : Nat) (x : PushNote) : SameArch s (s.firePush k x) := by
  have hdrop := onCore_sameArch s k (f := fun c => { c with notes := c.notes.filter fun y => y != x }) fun _ => rfl
  unfold State.firePush
  simp only
  split
  · exact hdrop
  · refine hdrop.trans (SameArch.trans ?_ (onPat_sameArch ..))
    split
    · exact (putDir_sameArch ..).trans (setDev_sameArch ..)
    · exact setDev_sameArch ..

theorem fireNotes_sameArch (s : State) (k line : Nat) : SameArch s (s.fireNotes k line) :=
  SameArch.foldl (fun s x => firePush_sameArch s k x) _ s

theorem rideNotes_sameArch (s : State) (k line : Nat) (m : BitVec 16) : SameArch s (s.rideNotes k line m) := by
  unfold State.rideNotes
  simp only
  split
  · exact .refl s
  · split
    · exact .refl s
    · refine SameArch.trans (SameArch.foldl (fun s i => ?_) _ s) (fireNotes_sameArch ..)
      split
      · exact .refl s
      · split
        · exact .refl s
        · exact SameArch.foldl (fun s e => onCore_sameArch s k fun c => by split <;> rfl) _ s

theorem serveRead_sameArch (s : State) (k : Nat) (sid : BitVec 16) (line : Nat) (m : BitVec 16) (load : Bool) :
    SameArch s (s.serveRead k sid line m load) := by
  have hserved : SameArch s (if load then (((s.l1Room k line).request sid line m false 0 (s.coreAt k).llcCode).noteRead k sid line m)
      else (s.l1Room k line).request sid line m false 0 (s.coreAt k).llcCode) := by
    have h := (l1Room_sameArch s k line).trans (request_sameArch (s.l1Room k line) sid line m false 0 (s.coreAt k).llcCode)
    exact .ite (h.trans (noteRead_sameArch ..)) h
  unfold State.serveRead
  simp only
  exact .ite ((hserved.trans (putDir_sameArch ..)).trans (rideNotes_sameArch ..)) (hserved.trans (putDir_sameArch ..))

theorem serveLoad_sameArch (s : State) (k : Nat) (sid : BitVec 16) (line : Nat) (m : BitVec 16) (alloc llc : Nat) :
    SameArch s (s.serveLoad k sid line m alloc llc) := (request_sameArch ..).trans (noteRead_sameArch ..)

/-! ## Requests of a core, and what they read -/

/-- A fold of steps on a value and a state. -/
theorem foldl_snd_sameArch {α β : Type} {f : β × State → α → β × State} (h : ∀ r x, SameArch r.2 (f r x).2) :
    ∀ (l : List α) (r : β × State), SameArch r.2 (l.foldl f r).2
  | [], r => .refl r.2
  | x :: l, r => (h r x).trans (foldl_snd_sameArch h l (f r x))

theorem map_eq_ok {ε α β : Type} {f : α → β} {x : Except ε α} {y : β} (h : x.map f = .ok y) : ∃ a, x = .ok a ∧ f a = y := by
  cases x with
  | error e => cases h
  | ok a => exact ⟨a, rfl, Except.ok.inj h⟩

theorem sliceReady_sameArch {s t : State} {sid : BitVec 16} {line : Nat} {m : BitVec 16} {write : Bool} {alloc : Nat}
    (h : s.sliceReady sid line m write alloc = .ok t) : SameArch s t := by
  unfold State.sliceReady at h
  simp only at h
  repeat' split at h
  all_goals simp only [Except.ok.injEq, reduceCtorEq] at h
  all_goals subst h
  all_goals first | exact .refl _ | exact (setFresh_sameArch ..).trans (sliceOut_sameArch ..)

theorem askHome_sameArch {s t : State} {line n alloc : Nat} {m : BitVec 16} {write : Bool} (h : s.askHome line m n write alloc = .ok t) :
    SameArch s t := by
  simp only [State.askHome, State.hostLeft, bind, Except.bind] at h
  repeat' split at h
  all_goals cases h
  next hleft _ _ hready =>
    split at hleft <;> cases hleft
    exact ((noteHome_sameArch ..).trans (sliceReady_sameArch hready)).trans (setDev_sameArch ..)

theorem looseRead_sameArch (s : State) (cls : MemCls) (key n x : Nat) : SameArch s (s.looseRead cls key n x).2 := by
  unfold State.looseRead
  split
  · exact .refl s
  · refine (foldl_snd_sameArch (fun r w => ?_) _ (x, s))
    simp only
    split
    · exact .refl _
    · exact setFresh_sameArch ..

theorem selfLoad_sameArch (s : State) (key n : Nat) (keep : Bool) : SameArch s (s.selfLoad key n keep).2 := by
  refine foldl_snd_sameArch (fun r w => ?_) _ (0, s)
  split
  · exact .refl _
  · exact .ite (setSelf_sameArch ..) (.refl _)

theorem sameArch_of_looseRead {s t : State} {cls : MemCls} {key n x y : Nat}
    (h : (.ok (s.looseRead cls key n y) : Except Res (Nat × State)) = .ok (x, t)) : SameArch s t := by
  have hread := looseRead_sameArch s cls key n y
  rwa [Except.ok.inj h] at hread

theorem readClass_sameArch {s t : State} {cls : MemCls} {va : W64} {key n x : Nat} {vol : Bool}
    (h : s.readClass cls va key n vol = .ok (x, t)) : SameArch s t := by
  cases cls with
  | dir =>
    have hmark (u : State) (k : Nat) : SameArch u (u.markRead k (key / 128) (spanOf key n)) := setDev_sameArch ..
    simp only [State.readClass, trapHere, bind, Except.bind] at h
    split at h
    · cases h
    · split at h
      · exact (hmark s _).trans (sameArch_of_looseRead h)
      · split at h
        · split at h
          · cases h
          · next hu =>
            split at hu <;> cases hu
            exact ((setDev_sameArch ..).trans (serveSlice_sameArch ..)).trans ((hmark _ _).trans (sameArch_of_looseRead h))
        · split at h
          · cases h
          · next hu =>
            obtain ⟨v, hv, rfl⟩ := map_eq_ok hu
            refine ((askHome_sameArch hv).trans ?_).trans ((hmark _ _).trans (sameArch_of_looseRead h))
            exact .ite (serveRead_sameArch ..) (serveLoad_sameArch ..)
  | self =>
    simp only [State.readClass, trapHere, bind, Except.bind] at h
    generalize hu0 : (if vol then s.selfOut (L1Word.within key n) else s) = u0 at h
    have h0 : SameArch s u0 := hu0 ▸ .ite (selfOut_sameArch ..) (.refl s)
    split at h
    · cases h
    · split at h
      · exact h0.trans ((selfLoad_sameArch u0 key n _).trans (sameArch_of_looseRead h))
      · split at h
        · cases h
        · next hu =>
          obtain ⟨v, hv, rfl⟩ := map_eq_ok hu
          exact (h0.trans ((askHome_sameArch hv).trans (request_sameArch ..))).trans
            ((selfLoad_sameArch _ key n _).trans (sameArch_of_looseRead h))
  | unc =>
    simp only [State.readClass, trapHere, bind, Except.bind] at h
    split at h
    · cases h
    · split at h
      · cases h
      · next hu => exact (askHome_sameArch hu).trans ((request_sameArch ..).trans (sameArch_of_looseRead h))

/-! ## Host reads of a job that captures or replays -/

theorem markDirty_sameArch (s : State) (leaf : Option Nat) : SameArch s (s.markDirty leaf) := by
  unfold State.markDirty
  split
  · exact .refl s
  · exact .of_me rfl rfl rfl

theorem bringSpace_sameArch {s t : State} {sp : Space} {va : W64} {n k : Nat} {own : Bool} (h : s.bringSpace sp va n own = some (k, t)) :
    SameArch s t := by
  unfold State.bringSpace at h
  split at h
  · next htr =>
    have htranslate := translate_sameArch s sp va.toNat own
    rw [htr] at htranslate
    cases h
    exact htranslate.trans ((bring_sameArch ..).trans (markDirty_sameArch ..))
  · cases h

theorem writeSpace_sameArch (s : State) (sp : Space) (va : W64) (n x : Nat) : SameArch s (s.writeSpace sp va n x) := by
  unfold State.writeSpace
  split
  · exact .refl s
  · next h => exact (bringSpace_sameArch h).trans (setDev_sameArch ..)

theorem capture_sameArch (s : State) (n job : BitVec 6) (r : LogRec) : SameArch s (s.capture n job r) := by
  unfold State.capture
  split
  · exact .refl s
  · split
    · exact .refl s
    · refine SameArch.trans (SameArch.trans ?_ (onStave_sameArch ..)) (writeSpace_sameArch ..)
      exact .ite (.refl s) (writeSpace_sameArch ..)

theorem logRecs_sameArch (s : State) (j : Job) (n : Nat) : SameArch s (s.logRecs j n).2 := by
  induction n with
  | zero => exact .refl s
  | succ n ih =>
    simp only [State.logRecs]
    split
    · next h => exact ih.trans (bringSpace_sameArch h)
    · exact ih

theorem logFind_sameArch (s : State) (j : Job) (p : LogRec → Bool) (n : Nat) : SameArch s (s.logFind j p n).2 := by
  simp only [State.logFind, State.logRead]
  split
  · next h => exact (bringSpace_sameArch h).trans (logRecs_sameArch ..)
  · exact .refl s

theorem hostRead_sameArch {s t : State} {n job : BitVec 6} {l pa size x y : Nat} (h : s.hostRead n job l pa size x = .ok (y, t)) :
    SameArch s t := by
  unfold State.hostRead at h
  split at h
  · cases h; exact .refl s
  · next j _ =>
    simp only at h
    have hfind := logFind_sameArch s j (fun r => r.kind == 3 && r.lcore == l) (j.logCountOf (8192 + l))
    split at h
    · split at h
      · cases h
      · split at h
        · cases h; exact hfind.trans (onStave_sameArch ..)
        · cases h
    · cases h; exact capture_sameArch ..

theorem hostReads_sameArch {n job : BitVec 6} {l : Nat} : ∀ {k : Nat} {s t : State} {pa size x y : Nat},
    s.hostReads n job l k pa size x = .ok (y, t) → SameArch s t
  | 0, s, t, pa, size, x, y, h => by cases h; exact .refl s
  | k + 1, s, t, pa, size, x, y, h => by
    simp only [State.hostReads] at h
    split at h
    · cases h; exact .refl s
    · split at h
      · cases h
      · next hr =>
        split at h
        · cases h
        · next hrest => cases h; exact (hostRead_sameArch hr).trans (hostReads_sameArch hrest)

theorem hostAnswer_sameArch {s t : State} {pa n x y : Nat} (h : s.hostAnswer pa n x = .ok (y, t)) : SameArch s t := by
  unfold State.hostAnswer at h
  split at h
  · split at h
    · next hr => cases h; exact hostReads_sameArch hr
    · cases h
  · cases h; exact .refl s

/-! ## Loads -/

theorem peerAnswer_sameArch {s t : State} {va : W64} {n x : Nat} (h : s.peerAnswer va n = .ok (x, t)) : SameArch s t := by
  simp only [State.peerAnswer, trapHere] at h
  split at h
  · cases h
  · cases h; exact (drawBool_sameArch s).trans (setFresh_sameArch ..)

theorem askFar_error (s : State) (va : W64) (n : Nat) : ∃ r, s.askFar va n = .error r := by
  unfold State.askFar
  split <;> split <;> exact ⟨_, rfl⟩

theorem joinLocal_sameArch (s : State) (off n : Nat) : SameArch s (s.joinLocal off n) := .ite (acquire_sameArch s) (.refl s)

theorem ckLocalBy_sameArch (s : State) (who : Option Member) (k line : Nat) (write : Bool) : SameArch s (s.ckLocalBy who k line write) := by
  unfold State.ckLocalBy
  split
  · exact .refl s
  · simp only
    split
    · exact .refl s
    · split
      · exact .refl s
      · split
        · exact .refl s
        · split
          · split
            · unfold State.journalLocal
              simp only
              exact .ite (.refl s) (.ite (setDev_sameArch ..) ((setDev_sameArch ..).trans (onStave_sameArch ..)))
            · exact .refl s
          · exact onStave_sameArch ..

theorem readPlace_sameArch {s t : State} {pl : Place} {va : W64} {n x : Nat} (h : s.readPlace pl va n false = .ok (x, t)) : SameArch s t := by
  have hready : s.volReady false = .ok s := rfl
  simp only [State.readPlace, hready, bind, Except.bind, trapHere] at h
  cases pl with
  | own off =>
    simp only at h
    split at h
    · cases h
    · split at h <;> cases h
      exact joinLocal_sameArch ..
  | table off => cases h; exact .refl s
  | aperture c => simp only at h; split at h <;> cases h <;> exact .refl s
  | far l off =>
    obtain ⟨r, hr⟩ := askFar_error s va n
    simp only [hr] at h
    repeat' split at h
    all_goals cases h
    exact ckLocalBy_sameArch ..
  | phys pa key cls leaf =>
    have hck := ckGlobal_sameArch s key false
    obtain ⟨r, hr⟩ := askFar_error (s.ckGlobal key false) va n
    simp only [hr] at h
    split at h
    · split at h
      · cases h
      · exact hck.trans (peerAnswer_sameArch h)
    all_goals
      split at h
      · cases h
      · next hread => exact (hck.trans (readClass_sameArch hread)).trans (hostAnswer_sameArch h)

/-- A load leaves the cores as they are. -/
theorem load_sameArch {s t : State} {va : W64} {n x : Nat} (h : s.load va n = .ok (x, t)) : SameArch s t := by
  simp only [State.load, bind, Except.bind] at h
  split at h
  · cases h
  · next hp => exact (place_sameArch hp).trans (readPlace_sameArch h)

end Sys2Proof.Proofs
end

section
/-! Rows of accumulators that are loaded from the core's own local memory and stored there (R244): what each row reads or writes, and what
it leaves. -/

namespace Sys2Proof.Proofs
open Machine Claims

/-! ## Numbers and their parts -/

theorem readN_add (m : Cells) (k : Nat) : ∀ (j a : Nat), m.readN a (j + k) = m.readN a j + 256 ^ j * m.readN (a + j) k
  | 0, a => by rw [Nat.zero_add, Nat.add_zero, Cells.readN, Nat.pow_zero, Nat.one_mul, Nat.zero_add]
  | j + 1, a => by
    rw [Nat.add_right_comm, Cells.readN, Cells.readN, readN_add m k j (a + 1), Nat.pow_succ', Nat.add_right_comm a 1 j]
    ring_nf

/-- The number of some of the bytes. -/
theorem readN_part (m : Cells) (a : Nat) {j k n : Nat} (h : j + k ≤ n) : m.readN a n / 256 ^ j % 256 ^ k = m.readN (a + j) k := by
  obtain ⟨r, rfl⟩ := Nat.exists_eq_add_of_le h
  rw [Nat.add_assoc, readN_add, readN_add m r k, Nat.add_mul_div_left _ _ (by positivity), Nat.div_eq_of_lt (readN_lt ..), Nat.zero_add,
    Nat.add_mul_mod_self_left, Nat.mod_eq_of_lt (readN_lt ..)]

theorem elemsOf_readN (m : Cells) (a : Nat) {j : Nat} (hj : j < 16) : (elemsOf 32 16 (m.readN a 64)).getD j 0 = m.readN (a + 4 * j) 4 := by
  rw [elemsOf, List.getD_eq_getElem?_getD, List.getElem?_map, List.getElem?_range hj, Option.map_some, Option.getD_some,
    show 32 * j = 8 * (4 * j) by ring, Nat.pow_mul]
  exact readN_part m a (k := 4) (by omega)

theorem packNat_map (w : Nat) (f : Nat → Nat) (l : List Nat) (h : ∀ j ∈ l, f j < 2 ^ w) :
    packNat w (l.map f) = l.foldr (fun j x => f j + 2 ^ w * x) 0 := by
  induction l with
  | nil => rfl
  | cons j l ih =>
    rw [List.map_cons, packNat, List.foldr_cons, Nat.mod_eq_of_lt (h j (by simp)), ih fun i hi => h i (by simp [hi])]

theorem rowBytes_eq (s : State) (z : ZReg) (i : Nat) :
    s.rowBytes z i = (List.range 16).foldr (fun j x => (s.zElem z (16 * i + j)).toNat + 2 ^ 32 * x) 0 :=
  packNat_map 32 _ _ fun _ _ => (s.zElem z _).isLt

/-! ## Accesses of the core's own window -/

theorem ownVa_top {off : Nat} (h : off < 2 ^ 18) : field (ownVa off) 48 16 = 0xFFFF := by
  rw [field, BitVec.extractLsb'_toNat, ownVa_toNat h, Nat.shiftRight_eq_div_pow]
  omega

theorem ownVa_zeros {off : Nat} (h : off < 2 ^ 18) : zeroAt (ownVa off) 18 30 = true := by
  have hmid : field (ownVa off) 18 30 = 0 := by
    rw [field, BitVec.extractLsb'_toNat, ownVa_toNat h, Nat.shiftRight_eq_div_pow]
    omega
  rw [zeroAt, hmid]
  rfl

theorem ownVa_offset {off : Nat} (h : off < 2 ^ 18) : field (ownVa off) 0 18 = off := by
  rw [field_low, ownVa_toNat h]
  omega

/-- 64 bytes at an aligned offset of the core's own local memory. -/
theorem place_own (s : State) {off : Nat} (ha : off % 64 = 0) (hb : off + 64 ≤ 0x30000) (kind : AccKind) :
    s.place (ownVa off) 64 kind false = .ok (.own off, s) := by
  have hlt : off < 2 ^ 18 := by omega
  have halign : ¬ (ownVa off).toNat % 64 ≠ 0 := by
    rw [ownVa_toNat hlt]
    omega
  have hown : s.ownPlace (ownVa off) off 64 kind false = .ok (.own off, s) := if_pos (by omega)
  simp only [State.place, if_neg halign, State.placeSpan, ownVa_top hlt, ownVa_zeros hlt, ownVa_offset hlt, hown]
  rfl

theorem load_own {s : State} {off : Nat} (hr : Readable s off 64) :
    s.load (ownVa off) 64 = .ok (s.me.loc.bytes.readN off 64, s.joinLocal off 64) := by
  simp only [State.load, place_own s hr.1 hr.2.1, bind, Except.bind, readPlace_own _ hr]

/-- The core's own local memory with n bytes stored. -/
def storedAt (off n x : Nat) (s : State) : State := { s with me := { s.me with loc := s.me.loc.store off n x } }

theorem storeTo_own {s : State} (hm : s.me.member = none) {off : Nat} (ha : off % 64 = 0) (hb : off + 64 ≤ 0x30000)
    (hfull : s.me.loc.empty.contains (off / 128) = false) (x : Nat) : s.storeTo (ownVa off) 64 x = .ok (storedAt off 64 x s) := by
  have hready : s.volReady false = .ok s := rfl
  simp only [State.storeTo, place_own s ha hb, bind, Except.bind, State.storeAt, State.writePlace, hready, hfull, ckLocal_free hm]
  rfl

/-! ## What the rows leave -/

/-- A core without its registers, PIX, its chain's HINTs, and what it waits for. -/
def rowCore (c : Core) : Core :=
  { c with regs := Core.reset.regs, ctl := { c.ctl with pix := Core.reset.ctl.pix }, hints := Core.reset.hints, wait := none }

theorem unseen_rowCore : Unseen rowCore :=
  ⟨rfl, fun _ => rfl, fun _ => rfl, fun _ => rfl, fun _ => rfl, fun _ _ => rfl, fun _ _ => rfl⟩

/-- The state without what loaded rows change. -/
def plain (s : State) : State := recast rowCore [] 0 s

theorem plain_acquire {s t : State} (h : plain s = plain t) : plain s.acquire = plain t.acquire := by
  rw [plain, plain, ← acquire_recast unseen_rowCore, ← acquire_recast unseen_rowCore]
  exact congrArg State.acquire h

/-- What loads of rows may have done so far: joined the copies, and changed the registers and the progress of the word. -/
structure Loads (u t : State) : Prop where
  plain : plain t = plain u ∨ u.me.loc.landed ≠ [] ∧ plain t = Proofs.plain u.acquire
  shares : t.dev.sharedB = u.dev.sharedB ∧ t.dev.cycle = u.dev.cycle

theorem Loads.refl (u : State) : Loads u u := ⟨.inl rfl, rfl, rfl⟩

/-- Changes that `plain` does not see. -/
theorem Loads.step {u t t' : State} (h : Loads u t) (hp : Proofs.plain t' = Proofs.plain t) (hd : t'.dev = t.dev) : Loads u t' :=
  ⟨h.plain.imp hp.trans fun ⟨hl, hb⟩ => ⟨hl, hp.trans hb⟩, by rw [hd]; exact h.shares⟩

theorem Loads.core {u t : State} (h : Loads u t) : archOf (rowCore t.me) = archOf (rowCore u.me) := by
  rcases h.plain with hp | ⟨-, hp⟩
  · exact (congrArg (fun s => archOf s.me) hp :)
  · have hacq : rowCore (archOf u.acquire.me) = rowCore (archOf u.me) := congrArg rowCore (acquire_sameArch u).me
    exact (congrArg (fun s => archOf s.me) hp :).trans hacq

theorem Loads.loc {u t : State} (h : Loads u t) : t.me.loc = u.me.loc := (congrArg Core.loc h.core :)
theorem Loads.quota {u t : State} (h : Loads u t) : t.me.quota = u.me.quota := (congrArg Core.quota h.core :)

theorem Loads.joinLocal {u t : State} (h : Loads u t) (a n : Nat) : Loads u (t.joinLocal a n) := by
  unfold State.joinLocal
  split
  case isFalse => exact h
  case isTrue hjoin =>
    have hl : u.me.loc.landed ≠ [] := fun hnil => by
      rw [h.loc, hnil] at hjoin
      simp at hjoin
    have hshares := acquire_shares t
    refine ⟨.inr ⟨hl, ?_⟩, hshares.1.trans h.shares.1, hshares.2.trans h.shares.2⟩
    rcases h.plain with hp | ⟨-, hp⟩
    · exact plain_acquire hp
    · exact (plain_acquire hp).trans (congrArg Proofs.plain (acquire_acquire u))

theorem dev_of_plain {t v : State} (h : plain t = plain v) (hs : t.dev.sharedB = v.dev.sharedB ∧ t.dev.cycle = v.dev.cycle) :
    t.dev = v.dev := by
  have hdev : recastDev [] 0 t.dev = recastDev [] 0 v.dev := congrArg State.dev h
  have hback := congrArg (recastDev t.dev.sharedB t.dev.cycle) hdev
  exact hback.trans (congrArg₂ (fun b c => recastDev b c v.dev) hs.1 hs.2)

theorem Loads.joined {u t : State} (h : Loads u t) : Claims.Joined u t := by
  rcases h.plain with hp | ⟨hl, hp⟩
  · have hdev := dev_of_plain hp h.shares
    exact ⟨.inl hdev, fun _ => hdev⟩
  · obtain ⟨hshare, hcycle⟩ := acquire_shares u
    exact ⟨.inr (dev_of_plain hp ⟨h.shares.1.trans hshare.symm, h.shares.2.trans hcycle.symm⟩), fun hnil => absurd hnil hl⟩

theorem answered_dev (s : State) : s.answered.dev = s.dev := by
  unfold State.answered
  split <;> rfl

theorem answered_plain (s : State) : plain s.answered = plain s := by
  unfold State.answered
  split <;> rfl

/-- An answer that has come changes nothing but the wait. -/
theorem answered_part {α : Type} (p : Core → α) (hp : ∀ c, p { c with wait := none } = p c) (s : State) : p s.answered.me = p s.me := by
  unfold State.answered
  split
  · rfl
  · exact hp s.me

theorem answered_regs (s : State) : s.answered.me.regs = s.me.regs := answered_part (·.regs) (fun _ => rfl) s

theorem onlyZ_of_regs (z : ZReg) {s t : State} (hr : t.me.regs = s.me.regs) (hd : t.dev.sharedB = s.dev.sharedB) : OnlyZ z s t :=
  ⟨by rw [hr], fun y _ => by simp only [State.z, hr], hd⟩

theorem zElem_of_regs {s t : State} (h : t.me.regs = s.me.regs) (z : ZReg) (m : Nat) : t.zElem z m = s.zElem z m := by
  simp only [State.zElem, h]

/-! ## ZLD, a row after the other -/

/-- Row i of the accumulator loaded from an offset of local memory. -/
def loadedRow (z : ZReg) (i off : Nat) (s : State) : State :=
  atRow (i + 1) ((s.noPol.joinLocal off 64).setZRow z i (elemsOf 32 16 (s.me.loc.bytes.readN off 64))).answered

theorem loadedRow_onlyZ (z : ZReg) (i off : Nat) (s : State) : OnlyZ z s (loadedRow z i off s) := by
  have hpol : OnlyZ z s s.noPol := onlyZ_of_regs z rfl rfl
  have hload : OnlyZ z s (s.noPol.joinLocal off 64) := hpol.trans (joinLocal_onlyZ ..)
  exact (hload.trans (setZRow_onlyZ z _ i _)).trans
    ((onlyZ_of_regs z (answered_regs _) (congrArg Dev.sharedB (answered_dev _))).trans (atRow_onlyZ ..))

theorem Loads.loadedRow {u s : State} (h : Loads u s) (z : ZReg) (i off : Nat) : Loads u (loadedRow z i off s) := by
  have hload : Loads u (s.noPol.joinLocal off 64) := (h.step (t' := s.noPol) rfl rfl).joinLocal off 64
  refine Loads.step (t := ((s.noPol.joinLocal off 64).setZRow z i (elemsOf 32 16 (s.me.loc.bytes.readN off 64))).answered) ?_ rfl rfl
  exact (hload.step (t' := (s.noPol.joinLocal off 64).setZRow z i _) rfl rfl).step (answered_plain _) (answered_dev _)

theorem loadedRow_zElem {z : ZReg} {i : Nat} (hi : i < 16) (off : Nat) (s : State) {r c : Nat} (hc : c < 16) :
    ((loadedRow z i off s).zElem z (16 * r + c)).toNat =
      if r = i then s.me.loc.bytes.readN (off + 4 * c) 4 else (s.zElem z (16 * r + c)).toNat := by
  rw [loadedRow, atRow_zElem, zElem_of_regs (answered_regs _), zElem_setZRow _ z hi hc, elemsOf_readN _ _ hc, joinLocal_zElem]
  split
  · exact Nat.mod_eq_of_lt (readN_lt s.me.loc.bytes 4 _)
  · rfl

theorem zldRows_succ {z : ZReg} {base stride : W64} {n i off : Nat} {s : State} (hquota : s.me.quota = none)
    (haddr : base + stride * w64 i = ownVa off) (hr : Readable s off 64) :
    zldRows z base stride (n + 1) i s = zldRows z base stride n (i + 1) (loadedRow z i off s) := by
  rw [zldRows, element_free hquota]
  simp only [bind, Except.bind, haddr, load_own (s := s.noPol) hr]
  rfl

/-- The rows of ZLD, n of them from row i on. -/
theorem zldRows_own {u : State} {z : ZReg} {base stride : W64} {off : Nat → Nat} (hquota : u.me.quota = none) (n : Nat) :
    ∀ (i : Nat) (s : State), Loads u s → n ≤ 16 - i →
      (∀ k, i ≤ k → k < i + n → base + stride * w64 k = ownVa (off k) ∧ Readable u (off k) 64) →
      ∃ t, zldRows z base stride n i s = .ok t ∧ Loads u t ∧ OnlyZ z s t ∧ ∀ r c, c < 16 →
        (t.zElem z (16 * r + c)).toNat =
          if i ≤ r ∧ r < i + n then u.me.loc.bytes.readN (off r + 4 * c) 4 else (s.zElem z (16 * r + c)).toNat := by
  induction n with
  | zero => exact fun i s hs _ _ => ⟨s, rfl, hs, .refl z s, fun r c _ => by rw [if_neg (by omega)]⟩
  | succ n ih =>
    intro i s hs hn hrows
    obtain ⟨haddr, hr⟩ := hrows i le_rfl (by omega)
    have hr' : Readable s (off i) 64 := by rwa [Readable, hs.loc]
    obtain ⟨t, ht, hlt, hzt, helems⟩ := ih (i + 1) _ (hs.loadedRow z i (off i)) (by omega) fun k h1 h2 => hrows k (by omega) (by omega)
    refine ⟨t, (zldRows_succ (hs.quota.trans hquota) haddr hr').trans ht, hlt, (loadedRow_onlyZ ..).trans hzt, fun r c hc => ?_⟩
    rw [helems r c hc, loadedRow_zElem (by omega) _ s hc, hs.loc]
    by_cases hri : r = i
    · rw [if_neg (by omega), if_pos hri, if_pos (by omega), hri]
    · rw [if_neg hri]
      exact if_congr (by omega) rfl rfl

/-! ## ZST, a row after the other -/

/-- The core's own local memory with the n bytes of row i stored, and PIX after that row. -/
def putRow (i off n x : Nat) (s : State) : State := atRow (i + 1) (storedAt off n x s.noPol).answered

/-- What the rows of ZST keep: the registers, and the device. -/
structure Stores (u t : State) : Prop where
  regs : t.me.regs = u.me.regs
  dev : t.dev = u.dev
  member : t.me.member = u.me.member
  quota : t.me.quota = u.me.quota
  empty : t.me.loc.empty = u.me.loc.empty

theorem Stores.refl (u : State) : Stores u u := ⟨rfl, rfl, rfl, rfl, rfl⟩

theorem Stores.putRow {u s : State} (h : Stores u s) (i off n x : Nat) : Stores u (putRow i off n x s) where
  regs := (answered_regs (storedAt off n x s.noPol)).trans h.regs
  dev := (answered_dev (storedAt off n x s.noPol)).trans h.dev
  member := (answered_part (·.member) (fun _ => rfl) (storedAt off n x s.noPol)).trans h.member
  quota := (answered_part (·.quota) (fun _ => rfl) (storedAt off n x s.noPol)).trans h.quota
  empty := (answered_part (·.loc.empty) (fun _ => rfl) (storedAt off n x s.noPol)).trans h.empty

theorem putRow_loc (i off n x : Nat) (s : State) : (putRow i off n x s).me.loc = s.me.loc.store off n x :=
  answered_part (·.loc) (fun _ => rfl) (storedAt off n x s.noPol)

theorem zstRows_succ {z : ZReg} {base stride : W64} {n i off : Nat} {s : State} (hquota : s.me.quota = none) (hm : s.me.member = none)
    (haddr : base + stride * w64 i = ownVa off) (ha : off % 64 = 0) (hb : off + 64 ≤ 0x30000)
    (hfull : s.me.loc.empty.contains (off / 128) = false) :
    zstRows z base stride (n + 1) i s = zstRows z base stride n (i + 1) (putRow i off 64 (s.rowBytes z i) s) := by
  rw [zstRows, element_free hquota]
  simp only [bind, Except.bind, haddr, storeTo_own (s := s.noPol) hm ha hb hfull]
  rfl

/-- The bytes of row i, as the statement packs them. -/
def rowNumber (s : State) (z : ZReg) (i : Nat) : Nat :=
  (List.range 16).foldr (fun j x => (s.zElem z (16 * i + j)).toNat + 2 ^ 32 * x) 0

theorem rowBytes_of_regs {s t : State} (h : t.me.regs = s.me.regs) (z : ZReg) (i : Nat) : t.rowBytes z i = rowNumber s z i := by
  rw [rowBytes_eq, rowNumber]
  simp only [zElem_of_regs h]

/-- Local memory with row i stored. -/
def storeRow (s : State) (z : ZReg) (off : Nat → Nat) (l : Loc) (i : Nat) : Loc := l.store (off i) 64 (rowNumber s z i)

/-- The rows of ZST, n of them from row i on. -/
theorem zstRows_own {u : State} {z : ZReg} {base stride : W64} {off : Nat → Nat} (hquota : u.me.quota = none) (hm : u.me.member = none)
    (n : Nat) : ∀ (i : Nat) (s : State), Stores u s →
      (∀ k, i ≤ k → k < i + n → base + stride * w64 k = ownVa (off k) ∧ Readable u (off k) 64) →
      ∃ t, zstRows z base stride n i s = .ok t ∧ Stores u t ∧ t.me.loc = (List.range' i n).foldl (storeRow u z off) s.me.loc := by
  induction n with
  | zero => exact fun i s hs _ => ⟨s, rfl, hs, rfl⟩
  | succ n ih =>
    intro i s hs hrows
    obtain ⟨haddr, halign, hbelow, hfull, -⟩ := hrows i le_rfl (by omega)
    rw [← hs.empty] at hfull
    obtain ⟨t, ht, hst, hloc⟩ := ih (i + 1) _ (hs.putRow i (off i) 64 (s.rowBytes z i)) fun k h1 h2 => hrows k (by omega) (by omega)
    refine ⟨t, (zstRows_succ (hs.quota.trans hquota) (hs.member.trans hm) haddr halign hbelow hfull).trans ht, hst, ?_⟩
    rw [hloc, putRow_loc, rowBytes_of_regs hs.regs, List.range'_succ, List.foldl_cons, storeRow]

/-- Rows below the first one are left out. -/
theorem foldl_range_from {β : Type} (f : β → Nat → β) (i0 n : Nat) (x : β) :
    (List.range n).foldl (fun x i => if i0 ≤ i then f x i else x) x = (List.range' i0 (n - i0)).foldl f x := by
  induction n with
  | zero => rw [Nat.zero_sub]; rfl
  | succ n ih =>
    rw [List.range_succ, List.foldl_append, ih, List.foldl_cons, List.foldl_nil]
    split
    · rw [Nat.succ_sub ‹_›, List.range'_concat, List.foldl_append, Nat.one_mul, Nat.add_sub_cancel' ‹_›]
      rfl
    · rw [show n + 1 - i0 = n - i0 by omega]

end Sys2Proof.Proofs

end

section
/-! The instructions of the accumulators (R233, R243 to R247): the version check comes first, and then each row or entry in its turn. -/

namespace Sys2Proof.Proofs
open Machine Claims

/-! ## The version check -/

theorem verWait_unmet {s : State} {z : ZReg} {ev : BitVec 4} {k : Bool} (h : ¬ VersionIs s z ev k) :
    s.verWait z ev k = .error (.wait .version s) := by
  obtain ⟨hk, hver⟩ := not_or.mp h
  have hne : (s.zver z).extractLsb' 0 4 ≠ ev := by rwa [← BitVec.setWidth_eq_extractLsb' (by decide)]
  rw [State.verWait, Bool.eq_true_of_not_eq_false hk]
  simp [hne]

/-- An instruction that begins with a version check waits where it is not met. -/
theorem settle_unmet {s : State} {z : ZReg} {ev : BitVec 4} {k : Bool} (h : ¬ VersionIs s z ev k) (f : State → Except Res Res) :
    settle (s.verWait z ev k >>= f) = .wait .version s := by
  rw [verWait_unmet h]
  rfl

theorem version_waits {s : State} {i : Instr} {body : State → Res} (hx : exec i s = issue i body s) (hclear : Clear i s)
    (hb : body s = .wait .version s) : exec i s = .next { s with me := { s.me with wait := some .version } } := by
  rw [hx, issue_clear hclear, hb]
  rfl

theorem unmet_waits {s : State} {i : Instr} {z : ZReg} {ev : BitVec 4} {k : Bool} (hi : versionOf i = some (z, ev, k)) (hclear : Clear i s)
    (hver : ¬ VersionIs s z ev k) : exec i s = .next { s with me := { s.me with wait := some .version } } := by
  unfold versionOf at hi
  split at hi
  case h_8 => cases hi
  all_goals
    cases hi
    exact version_waits rfl hclear (settle_unmet hver _)

/-- The state that the check leaves, in the terms of the state before it. -/
theorem observed_kept (s : State) (k : Bool) : (observed s k).me.ctl.pix = s.me.ctl.pix ∧ (observed s k).me.member = s.me.member ∧
    (observed s k).me.quota = s.me.quota := by
  have h := (observed_arch s k).me
  exact ⟨(congrArg (fun c => c.ctl.pix) h :), (congrArg Core.member h :), (congrArg Core.quota h :)⟩

/-! ## Elements and versions -/

theorem zElem_retire (s : State) (n : Next) (z : ZReg) (m : Nat) : (s.retire n).zElem z m = s.zElem z m := by
  rw [zElem_eq, z_retire, ← zElem_eq]

theorem zElem_clearZ (s : State) (z : ZReg) (m : Nat) : (s.clearZ z).zElem z m = 0 := by
  rw [zElem_eq, State.clearZ, z_setZ_same]
  unfold vget
  split
  · exact Vector.getElem_replicate _
  · rfl

theorem zElem_of_z {s t : State} {z : ZReg} (h : t.z z = s.z z) (m : Nat) : t.zElem z m = s.zElem z m := by
  rw [zElem_eq, zElem_eq, h]

theorem zver_bumpZ (s : State) (z y : ZReg) : (s.bumpZ z).zver y = s.zver y + if y = z then 1 else 0 := by
  split
  · next h => rw [h, zver_bumpZ_same]
  · next h => rw [zver_bumpZ_ne h, add_zero]

/-- The end of an instruction that goes by rows or entries: PIX is 0 again. -/
def pixDone (s : State) : State := { s with me.ctl.pix := 0 }

/-! ## ZLD and ZST -/

theorem zldBody_eq {s t : State} {z : ZReg} {ev : BitVec 4} {k : Bool} {a b : Reg} (hver : VersionIs s z ev k)
    (ha : (s.g a).toNat % 64 = 0) (hb : (s.zStride b).toNat % 64 = 0)
    (hrows : zldRows z (s.g a) (s.zStride b) (16 - field s.me.ctl.pix 0 5) (field s.me.ctl.pix 0 5) (observed s k) = .ok t) :
    zldBody z ev k a b s = ((pixDone t).bumpZ z).ok := by
  have hg (r : Reg) : (observed s k).g r = s.g r := (observed_arch s k).g r
  have hstride : (observed s k).zStride b = s.zStride b := by rw [State.zStride, State.zStride, hg]
  simp only [zldBody, verWait_eq hver, bind, Except.bind, hg, hstride, aligned_ok _ ha, aligned_ok _ hb, (observed_kept s k).1, hrows]
  rfl

theorem zstBody_eq {s t : State} {z : ZReg} {ev : BitVec 4} {k : Bool} {a b : Reg} (hver : VersionIs s z ev k)
    (ha : (s.g a).toNat % 64 = 0) (hb : (s.zStride b).toNat % 64 = 0)
    (hrows : zstRows z (s.g a) (s.zStride b) (16 - field s.me.ctl.pix 0 5) (field s.me.ctl.pix 0 5) (observed s k) = .ok t) :
    zstBody z ev k a b s = (pixDone t).ok := by
  have hg (r : Reg) : (observed s k).g r = s.g r := (observed_arch s k).g r
  have hstride : (observed s k).zStride b = s.zStride b := by rw [State.zStride, State.zStride, hg]
  simp only [zstBody, verWait_eq hver, bind, Except.bind, hg, hstride, aligned_ok _ ha, aligned_ok _ hb, (observed_kept s k).1, hrows]
  rfl

theorem readable_observed {s : State} {off n : Nat} (h : Readable s off n) (k : Bool) : Readable (observed s k) off n := by
  rwa [Readable, (observed_arch s k).loc]

/-- The device after loads that follow a version check. -/
theorem Joined.observed {s t : State} {k : Bool} (h : Claims.Joined (Claims.observed s k) t) :
    (t.dev = s.dev ∨ t.dev = s.acquire.dev) ∧ (k = false → Claims.Joined s t) := by
  cases k with
  | false => exact ⟨h.1, fun _ => h⟩
  | true =>
    have hacq : t.dev = s.acquire.dev := h.1.elim id fun hd => hd.trans (congrArg State.dev (acquire_acquire s))
    exact ⟨.inr hacq, fun hk => absurd hk (by decide)⟩

/-! ## SCLACC -/

/-- A row of SCLACC: each element with its scaled part. -/
def scaleRow (z part : ZReg) (sa sb : List Nat) (s : State) (i : Nat) : State :=
  s.setZRow z i ((List.range 16).map fun j =>
    scaleElem ((s.zRow z i).getD j 0) ((s.zRow part i).getD j 0) (sa.getD i 0) (sb.getD j 0))

theorem scaleRow_zElem (z part : ZReg) (sa sb : List Nat) (s : State) {i r c : Nat} (hi : i < 16) (hc : c < 16) :
    (scaleRow z part sa sb s i).zElem z (16 * r + c) = if r = i then
      BitVec.ofNat 32 (scaleElem (s.zElem z (16 * i + c)).toNat (s.zElem part (16 * i + c)).toNat (sa.getD i 0) (sb.getD c 0))
    else s.zElem z (16 * r + c) := by
  rw [scaleRow, zElem_setZRow _ z hi hc, List.getD_eq_getElem?_getD, List.getElem?_map, List.getElem?_range hc, Option.map_some,
    Option.getD_some, zRow_getD _ _ _ hc, zRow_getD _ _ _ hc]

theorem scaleRow_z_ne {z y : ZReg} (h : y ≠ z) (part : ZReg) (sa sb : List Nat) (s : State) (i : Nat) :
    (scaleRow z part sa sb s i).z y = s.z y := z_setZ_ne h ..

/-- The first n rows of SCLACC. -/
def scaleRows (z part : ZReg) (sa sb : List Nat) (n : Nat) (s : State) : State := (List.range n).foldl (scaleRow z part sa sb) s

theorem scaleRows_succ (z part : ZReg) (sa sb : List Nat) (n : Nat) (s : State) :
    scaleRows z part sa sb (n + 1) s = scaleRow z part sa sb (scaleRows z part sa sb n s) n := by
  rw [scaleRows, List.range_succ, List.foldl_append]
  rfl

theorem scaleRows_z_ne {z y : ZReg} (h : y ≠ z) (part : ZReg) (sa sb : List Nat) (n : Nat) (s : State) :
    (scaleRows z part sa sb n s).z y = s.z y := by
  induction n with
  | zero => rfl
  | succ n ih => rw [scaleRows_succ, scaleRow_z_ne h, ih]

/-- The rows change nothing but elements. -/
theorem scaleRows_frame (z part : ZReg) (sa sb : List Nat) (n : Nat) (s : State) :
    ∃ zs, scaleRows z part sa sb n s = { s with me := { s.me with regs := { s.me.regs with z := zs } } } := by
  induction n with
  | zero => exact ⟨s.me.regs.z, rfl⟩
  | succ n ih =>
    obtain ⟨zs, hzs⟩ := ih
    rw [scaleRows_succ, hzs]
    exact ⟨_, rfl⟩

/-- Rows that are not reached yet. -/
theorem scaleRows_rest (z part : ZReg) (sa sb : List Nat) (n : Nat) (hn : n ≤ 16) (s : State) (y : ZReg) {r c : Nat} (hr : n ≤ r)
    (hc : c < 16) : (scaleRows z part sa sb n s).zElem y (16 * r + c) = s.zElem y (16 * r + c) := by
  by_cases hy : y = z
  · subst hy
    induction n with
    | zero => rfl
    | succ n ih => rw [scaleRows_succ, scaleRow_zElem _ _ _ _ _ (by omega) hc, if_neg (by omega), ih (by omega) (by omega)]
  · exact zElem_of_z (scaleRows_z_ne hy ..) _

theorem scaleRows_zElem (z part : ZReg) (sa sb : List Nat) (n : Nat) (hn : n ≤ 16) (s : State) {r c : Nat} (hr : r < n) (hc : c < 16) :
    (scaleRows z part sa sb n s).zElem z (16 * r + c) =
      BitVec.ofNat 32 (scaleElem (s.zElem z (16 * r + c)).toNat (s.zElem part (16 * r + c)).toNat (sa.getD r 0) (sb.getD c 0)) := by
  induction n with
  | zero => omega
  | succ n ih =>
    rw [scaleRows_succ, scaleRow_zElem _ _ _ _ _ (by omega) hc]
    split
    · next h => rw [h, scaleRows_rest _ _ _ _ _ (by omega) _ _ le_rfl hc, scaleRows_rest _ _ _ _ _ (by omega) _ _ le_rfl hc]
    · exact ih (by omega) (by omega)

theorem elemsOf_getD (w x : Nat) {n i : Nat} (h : i < n) : (elemsOf w n x).getD i 0 = x / 2 ^ (w * i) % 2 ^ w := by
  rw [elemsOf, List.getD_eq_getElem?_getD, List.getElem?_map, List.getElem?_range h]
  rfl

/-- The parts are cleared, if they are to be, and the versions grow. -/
def scaleDone (z part : ZReg) (clr : Bool) (s : State) : State :=
  (if clr then (s.clearZ part).bumpZ part else s).bumpZ z

theorem scaleDone_frame (z part : ZReg) (clr : Bool) (s : State) :
    (scaleDone z part clr s).dev = s.dev ∧ (scaleDone z part clr s).me.loc = s.me.loc ∧ (∀ r, (scaleDone z part clr s).g r = s.g r) ∧
      ∀ r, (scaleDone z part clr s).v r = s.v r := by
  cases clr <;> exact ⟨rfl, rfl, fun _ => rfl, fun _ => rfl⟩

theorem scaleDone_zver (z part : ZReg) (clr : Bool) (s : State) (y : ZReg) :
    (scaleDone z part clr s).zver y = s.zver y + (if y = z then 1 else 0) + if clr = true ∧ y = part then 1 else 0 := by
  rw [scaleDone, zver_bumpZ]
  cases clr with
  | false =>
    have hclr : ¬ (false = true ∧ y = part) := fun h => Bool.false_ne_true h.1
    rw [if_neg Bool.false_ne_true, if_neg hclr, add_zero]
  | true =>
    rw [if_pos rfl, zver_bumpZ, add_right_comm]
    simp only [true_and]
    rfl

theorem scaleDone_zElem {z part : ZReg} {clr : Bool} (h : clr = false ∨ part ≠ z) (s : State) (m : Nat) :
    (scaleDone z part clr s).zElem z m = s.zElem z m := by
  cases clr with
  | false => rfl
  | true => exact zElem_of_z (z_setZ_ne (h.resolve_left Bool.true_eq_false_eq_False).symm s _) m

theorem scaleDone_cleared (z part : ZReg) (s : State) (m : Nat) : (scaleDone z part true s).zElem part m = 0 := zElem_clearZ s part m

theorem sclaccBody_eq {s s1 : State} {z part : ZReg} {ev : BitVec 4} {k : Bool} {b : Reg} {o : Opnd} {x : Nat} (hver : VersionIs s z ev k)
    (hb : (s.g b).toNat % 64 = 0) (ho : (observed s k).operand (s.g b) = .ok o) (hread : (observed s k).opRead o 0 64 = .ok (x, s1))
    (clr : Bool) : sclaccBody z ev k part b clr s =
      (scaleDone z part clr (scaleRows z part (elemsOf 16 16 x) (elemsOf 16 16 (x / 2 ^ 256)) 16 s1)).ok := by
  have hg : (observed s k).g b = s.g b := (observed_arch s k).g b
  simp only [sclaccBody, sclaccRun, verWait_eq hver, bind, Except.bind, hg, aligned_ok _ hb, ho, hread]
  rfl

/-! ## OUTLACC -/

/-- Nothing has changed of the accumulators but one row. -/
structure OnlyRow (z : ZReg) (row : Nat) (s t : State) : Prop where
  others : ∀ y, y ≠ z → t.z y = s.z y
  zver : ∀ y, t.zver y = s.zver y
  rows : ∀ i j, i ≠ row → j < 16 → t.zElem z (16 * i + j) = s.zElem z (16 * i + j)

theorem OnlyRow.of_regs {z : ZReg} {row : Nat} {s t : State} (h : t.me.regs = s.me.regs) : OnlyRow z row s t where
  others _ _ := by rw [State.z, State.z, h]
  zver _ := by rw [State.zver, State.zver, h]
  rows _ _ _ _ := zElem_of_regs h ..

theorem OnlyRow.trans {z : ZReg} {row : Nat} {s t u : State} (h : OnlyRow z row s t) (h' : OnlyRow z row t u) : OnlyRow z row s u where
  others y hy := (h'.others y hy).trans (h.others y hy)
  zver y := (h'.zver y).trans (h.zver y)
  rows i j hi hj := (h'.rows i j hi hj).trans (h.rows i j hi hj)

theorem setZRow_onlyRow (z : ZReg) {row : Nat} (hrow : row < 16) (s : State) (l : List Nat) : OnlyRow z row s (s.setZRow z row l) where
  others _ hy := z_setZ_ne hy ..
  zver _ := zver_setZ ..
  rows i j hi hj := by rw [zElem_setZRow s z hrow hj, if_neg hi]

/-- An entry's row is set, and PIX after the entry. -/
theorem rowSet_onlyRow (z : ZReg) {row : Nat} (hrow : row < 16) (s : State) (l : List Nat) (e : Nat) :
    OnlyRow z row s (atRow e (s.setZRow z row l).answered) := by
  have hset : OnlyRow z row (s.setZRow z row l) (s.setZRow z row l).answered := .of_regs (answered_regs _)
  exact (setZRow_onlyRow z hrow s l).trans (hset.trans (.of_regs rfl))

theorem bind_eq_ok {α β : Type} {x : Except Res α} {f : α → Except Res β} {b : β} (h : x >>= f = .ok b) :
    ∃ a, x = .ok a ∧ f a = .ok b := by
  cases x with
  | error _ => cases h
  | ok a => exact ⟨a, rfl, h⟩

theorem element_regs {s t : State} (h : s.element = .ok t) : t.me.regs = s.me.regs := by
  unfold State.element at h
  split at h <;> cases h <;> rfl

theorem outlEntries_onlyRow (z : ZReg) {row : Nat} (hrow : row < 16) (list table : W64) (n : Nat) :
    ∀ (e : Nat) (s t : State), outlEntries z row list table n e s = .ok t → OnlyRow z row s t := by
  induction n with
  | zero =>
    intro e s t h
    cases h
    exact .of_regs rfl
  | succ n ih =>
    intro e s t h
    obtain ⟨s1, hel, h⟩ := bind_eq_ok h
    obtain ⟨⟨x, s2⟩, hx, h⟩ := bind_eq_ok h
    obtain ⟨⟨w, s3⟩, hw, h⟩ := bind_eq_ok h
    have hregs1 : s2.me.regs = s1.me.regs := (load_sameArch hx).regs
    have hregs : s3.me.regs = s.me.regs := (load_sameArch hw).regs.trans (hregs1.trans (element_regs hel))
    exact (OnlyRow.of_regs hregs).trans ((rowSet_onlyRow z hrow s3 _ (e + 1)).trans (ih _ _ _ h))

theorem outlaccBody_eq {s s1 s2 s3 : State} {z : ZReg} {ev : BitVec 4} {k : Bool} {a b : Reg} {row : BitVec 4} {count cap : Nat}
    (hver : VersionIs s z ev k) (ha : (s.g a).toNat % 8 = 0) (hb : (s.g b).toNat % 64 = 0)
    (hcount : (observed s k).noPol.load (s.g a) 4 = .ok (count, s1)) (hcap : s1.noPol.load (s.g a + 4) 4 = .ok (cap, s2))
    (hrun : outlEntries z row.toNat (s.g a) (s.g b) (min count cap - field s2.me.ctl.pix 0 32) (field s2.me.ctl.pix 0 32) s2 = .ok s3) :
    outlaccBody z ev k a b row s = ((pixDone s3).bumpZ z).ok := by
  have hg (r : Reg) : (observed s k).g r = s.g r := (observed_arch s k).g r
  have hg1 (r : Reg) : s1.g r = s.g r := (load_sameArch hcount).g r |>.trans (hg r)
  have hg2 (r : Reg) : s2.g r = s.g r := (load_sameArch hcap).g r |>.trans (hg1 r)
  have hmin : (if count < cap then count else cap) = min count cap := by
    rcases lt_or_ge count cap with h | h
    · rw [if_pos h, min_eq_left h.le]
    · rw [if_neg h.not_gt, min_eq_right h]
  simp only [outlaccBody, verWait_eq hver, bind, Except.bind, hg, hg1, hg2, aligned_ok _ ha, aligned_ok _ hb, hcount, hcap, hmin, hrun]
  rfl

/-! ## The statement's clauses -/

theorem zwaitv_exec {s : State} {z : ZReg} {ev : BitVec 4} (hclear : Clear (.zwaitv z ev) s) (hver : (s.zver z).setWidth 4 = ev) :
    exec (.zwaitv z ev) s = .next (s.acquire.retire .seq) := by
  refine gives_of_ok rfl hclear ?_
  rw [zwaitvBody, verWait_eq (k := true) (.inr hver)]
  rfl

theorem zclr_exec {s : State} {z : ZReg} {ev : BitVec 4} {k : Bool} (hclear : Clear (.zclr z ev k) s) (hver : VersionIs s z ev k) :
    exec (.zclr z ev k) s = .next (((observed s k).clearZ z).retire .seq) := by
  refine gives_of_ok rfl hclear ?_
  rw [zclrBody, verWait_eq hver]
  rfl

theorem zld_exec {s : State} {z : ZReg} {ev : BitVec 4} {k : Bool} {a b : Reg} {off : Nat → Nat} (hclear : Clear (.zld z ev k a b) s)
    (hver : VersionIs s z ev k) (ha : (s.g a).toNat % 64 = 0) (hb : (s.zStride b).toNat % 64 = 0) (hquota : s.me.quota = none)
    (hrows : ∀ i, field s.me.ctl.pix 0 5 ≤ i → i < 16 → s.g a + s.zStride b * w64 i = ownVa (off i) ∧ Readable s (off i) 64) :
    ∃ t, exec (.zld z ev k a b) s = .next (((pixDone t).bumpZ z).retire .seq) ∧ Loads (observed s k) t ∧ OnlyZ z (observed s k) t ∧
      ∀ r c, r < 16 → c < 16 → (t.zElem z (16 * r + c)).toNat =
        if field s.me.ctl.pix 0 5 ≤ r then s.me.loc.bytes.readN (off r + 4 * c) 4 else (s.zElem z (16 * r + c)).toNat := by
  obtain ⟨-, -, hq⟩ := observed_kept s k
  obtain ⟨t, ht, hloads, hz, helems⟩ := zldRows_own (hq.trans hquota) (16 - field s.me.ctl.pix 0 5) (field s.me.ctl.pix 0 5)
    (z := z) (base := s.g a) (stride := s.zStride b) (off := off) _ (.refl (observed s k)) le_rfl fun i h1 h2 =>
      (hrows i h1 (by omega)).imp id fun hr => readable_observed hr k
  refine ⟨t, gives_of_ok rfl hclear (zldBody_eq hver ha hb ht), hloads, hz, fun r c hr hc => ?_⟩
  rw [helems r c hc, (observed_arch s k).loc, zElem_of_regs (observed_arch s k).regs]
  exact if_congr (by omega) rfl rfl

theorem zst_exec {s : State} {z : ZReg} {ev : BitVec 4} {k : Bool} {a b : Reg} {off : Nat → Nat} (hclear : Clear (.zst z ev k a b) s)
    (hver : VersionIs s z ev k) (ha : (s.g a).toNat % 64 = 0) (hb : (s.zStride b).toNat % 64 = 0) (hm : s.me.member = none)
    (hquota : s.me.quota = none)
    (hrows : ∀ i, field s.me.ctl.pix 0 5 ≤ i → i < 16 → s.g a + s.zStride b * w64 i = ownVa (off i) ∧ Readable s (off i) 64) :
    ∃ t, exec (.zst z ev k a b) s = .next ((pixDone t).retire .seq) ∧ Stores (observed s k) t ∧
      t.me.loc = (List.range 16).foldl (fun l i => if field s.me.ctl.pix 0 5 ≤ i then storeRow s z off l i else l) s.me.loc := by
  obtain ⟨-, hmem, hq⟩ := observed_kept s k
  obtain ⟨t, ht, hstores, hloc⟩ := zstRows_own (hq.trans hquota) (hmem.trans hm) (16 - field s.me.ctl.pix 0 5) (field s.me.ctl.pix 0 5)
    (z := z) (base := s.g a) (stride := s.zStride b) (off := off) _ (.refl (observed s k)) fun i h1 h2 =>
      (hrows i h1 (by omega)).imp id fun hr => readable_observed hr k
  refine ⟨t, gives_of_ok rfl hclear (zstBody_eq hver ha hb ht), hstores, ?_⟩
  have hrow : storeRow (observed s k) z off = storeRow s z off := by
    funext l i
    rw [storeRow, storeRow, rowNumber, rowNumber]
    simp only [zElem_of_regs (observed_arch s k).regs]
  rw [hloc, hrow, (observed_arch s k).loc, foldl_range_from]

/-- Settles O49, by the version check and then the rows, the parts, or the entries in their order. -/
theorem accumulatorInstructions : Obligations.AccumulatorInstructions := by
  unfold Obligations.AccumulatorInstructions
  intro s
  refine ⟨fun i z ev k hi hclear hver => unmet_waits hi hclear hver, fun z ev hclear hver => zwaitv_exec hclear hver,
    fun z ev k hclear hver => ?zclr, fun z ev k a hclear => gives_of_ok rfl hclear rfl,
    fun z ev k a b off hclear hver ha hb hquota hrows => ?zld,
    fun z ev k a b off hclear hver ha hb hm hquota hrows => ?zst,
    fun z ev k part b clr o x s1 hclear hver hb ho hread => ?sclacc,
    fun z ev k a b row count cap s1 s2 s3 hclear hver ha hb hcount hcap hrun => ?outlacc⟩
  case zclr =>
    have hregs := (observed_arch s k).regs
    refine ⟨_, zclr_exec hclear hver, fun e => ?_, fun z' hz => ?_, fun z' => ?_, fun r => ?_, rfl⟩
    · rw [zElem_retire, zElem_clearZ]
    · rw [z_retire, State.clearZ, z_setZ_ne hz, State.z, State.z, hregs]
    · rw [zver_retire, State.clearZ, zver_setZ, State.zver, State.zver, hregs]
    · rw [g_retire, State.clearZ, g_setZ, (observed_arch s k).g r]
  case zld =>
    obtain ⟨t, hexec, hloads, hz, helems⟩ := zld_exec hclear hver ha hb hquota hrows
    obtain ⟨hdev, hjoined⟩ := Joined.observed hloads.joined
    have hregs := (observed_arch s k).regs
    have hver' (y : ZReg) : t.zver y = s.zver y := (hz.zver y).trans (by rw [State.zver, State.zver, hregs])
    refine ⟨_, hexec, ?_, ?_, fun i j hi hj => ?_, fun z' hne => ⟨?_, ?_⟩, fun r => ?_, ?_, hdev, hjoined⟩
    · rw [retire_ctl_pix]
      rfl
    · rw [zver_retire, zver_bumpZ_same]
      exact congrArg (· + 1) (hver' z)
    · rw [zElem_retire]
      exact helems i j hi hj
    · rw [z_retire]
      exact (hz.z z' hne).trans (by rw [State.z, State.z, hregs])
    · rw [zver_retire, zver_bumpZ_ne hne]
      exact hver' z'
    · rw [g_retire]
      exact (hz.g r).trans ((observed_arch s k).g r)
    · rw [retire_me_loc]
      exact hloads.loc.trans (observed_arch s k).loc
  case zst =>
    obtain ⟨t, hexec, hstores, hloc⟩ := zst_exec hclear hver ha hb hm hquota hrows
    have hregs : t.me.regs = s.me.regs := hstores.regs.trans (observed_arch s k).regs
    refine ⟨_, hexec, ?_, fun z' => ⟨?_, ?_⟩, fun r => ?_, hstores.dev, ?_⟩
    · rw [retire_ctl_pix]
      rfl
    · rw [z_retire]
      exact congrArg (·.z[z'.toNat]) hregs
    · rw [zver_retire]
      exact congrArg (·.zver[z'.toNat]) hregs
    · rw [g_retire]
      exact (by rw [State.g, State.g, hregs] : t.g r = s.g r)
    · rw [retire_me_loc]
      exact hloc
  case sclacc =>
    generalize hrows : scaleRows z part (elemsOf 16 16 x) (elemsOf 16 16 (x / 2 ^ 256)) 16 s1 = t
    obtain ⟨zs, hframe⟩ := scaleRows_frame z part (elemsOf 16 16 x) (elemsOf 16 16 (x / 2 ^ 256)) 16 s1
    obtain ⟨hdev, hloc, hg, hv⟩ := scaleDone_frame z part clr t
    rw [hrows] at hframe
    refine ⟨_, gives_of_ok rfl hclear ((sclaccBody_eq hver hb ho hread clr).trans (by rw [hrows])), fun hclr i j hi hj => ?_,
      fun hclr e => ?_, fun z' => ?_, fun r => ?_, fun r => ?_, ?_, ?_⟩
    · rw [zElem_retire, scaleDone_zElem hclr, ← hrows, scaleRows_zElem _ _ _ _ _ le_rfl _ hi hj, elemsOf_getD _ _ hi, elemsOf_getD _ _ hj,
        BitVec.toNat_ofNat, Nat.div_div_eq_div_mul, ← Nat.pow_add]
    · rw [zElem_retire, hclr, scaleDone_cleared]
    · rw [zver_retire, scaleDone_zver, hframe]
      rfl
    · rw [g_retire, hg, hframe]
      rfl
    · rw [v_retire, hv, hframe]
      rfl
    · rw [retire_me_loc, hloc, hframe]
    · rw [retire_dev, hdev, hframe]
  case outlacc =>
    have hrow := outlEntries_onlyRow z row.isLt _ _ _ _ _ _ hrun
    refine ⟨_, gives_of_ok rfl hclear (outlaccBody_eq hver ha hb hcount hcap hrun), ?_, ?_, fun z' => ?_, fun i j hi hj => ?_,
      fun z' hz => ⟨?_, ?_⟩⟩
    · rw [retire_ctl_pix]
      rfl
    · rw [zver_retire, zver_bumpZ_same]
      rfl
    · rw [z_retire]
      rfl
    · rw [zElem_retire]
      exact hrow.rows i j hi hj
    · rw [z_retire]
      exact hrow.others z' hz
    · rw [zver_retire, zver_bumpZ_ne hz]
      exact hrow.zver z'

end Sys2Proof.Proofs

end

section
/-! What arrives at a core (R257, R265, R266, R343): remote stores, messages, end-of-stream words, commands, and reports. -/

namespace Sys2Proof.Proofs
open Machine Claims

/-! ## Items that reach a running context -/

/-- Item i has reached the context that its stamp names, which runs on core k. -/
structure Arrives (s : State) (i : Nat) (x : NetItem) (k : Nat) : Prop where
  item : s.dev.net[i]? = some x
  free : s.mustWait i x = false
  near : x.peer = false
  routed : x.stage = none
  core : s.coreFor x.stave x.dst.toNat x.tag = some k

theorem Arrives.arriveItem {s : State} {i : Nat} {x : NetItem} {k : Nat} (h : Arrives s i x k) : s.arriveItem i x.kind =
    ((s.acceptItem k x).map fun t => if x.kind = .store && !x.inbox then t.setItem i { x with kind := .report } else t.takeItem i).getD s := by
  obtain ⟨hitem, hfree, hnear, hrouted, hcore⟩ := h
  simp only [State.arriveItem, hitem, hfree, hnear, hrouted, hcore, ne_eq, not_true_eq_false, Bool.false_eq_true, or_self, ↓reduceIte]
  cases s.acceptItem k x <;> rfl

theorem Arrives.waits {s : State} {i : Nat} {x : NetItem} {k : Nat} (h : Arrives s i x k) (hn : s.acceptItem k x = none) :
    s.arriveItem i x.kind = s := by rw [h.arriveItem, hn]; rfl

theorem Arrives.taken {s t : State} {i : Nat} {x : NetItem} {k : Nat} (h : Arrives s i x k) (ht : s.acceptItem k x = some t)
    (hkind : x.kind ≠ .store) : s.arriveItem i x.kind = t.takeItem i := by
  rw [h.arriveItem, ht, Option.map_some, Option.getD_some, if_neg (by simp [hkind])]

theorem SameArch.part {s t : State} (h : SameArch s t) {α : Type} {p : Core → α} (hp : ∀ c, p (archOf c) = p c) (k : Nat) :
    p (t.coreAt k) = p (s.coreAt k) := by rw [← hp, h.2 k, hp]

theorem coreAt_onCore_same (s : State) (k : Nat) (f : Core → Core) : (s.onCore k f).coreAt k = f (s.coreAt k) := by
  rw [coreAt_onCore, if_pos rfl]

/-- A change of fields that a part of a context does not show. -/
theorem onCore_part (s : State) (k i : Nat) {f : Core → Core} {α : Type} {p : Core → α} (hp : ∀ c, p (f c) = p c) :
    p ((s.onCore k f).coreAt i) = p (s.coreAt i) := by
  rw [coreAt_onCore]
  split
  · exact hp _
  · rfl

theorem coreFor_lt {s : State} {n : BitVec 6} {l k : Nat} {tag : BitVec 32} (h : s.coreFor n l tag = some k) : k < 8192 := by
  obtain ⟨k', hk', h⟩ := Option.bind_eq_some_iff.mp h
  unfold Stave.coreOf? at hk'
  simp only at hk' h
  split at h
  case isFalse => cases h
  case isTrue =>
  cases h
  split at hk'
  · cases hk'
    omega
  · cases hk'

theorem coreFor_ne_dead {s : State} {n : BitVec 6} {l k : Nat} {tag : BitVec 32} (h : s.coreFor n l tag = some k) : k ≠ deadCore := by
  have hlt := coreFor_lt h
  rw [deadCore]
  omega

/-! ## Remote stores -/

theorem store_waits {s : State} {i : Nat} {x : NetItem} {k : Nat} (h : Arrives s i x k) (hk : x.kind = .store)
    (hempty : (s.coreAt k).loc.empty.contains (x.off / 128) = true) : exec (.remoteStorePerform i) s = .next s := by
  have hnone : s.acceptItem k x = none := by
    rw [State.acceptItem, hk]
    exact if_pos hempty
  exact congrArg Host.Outcome.next (hk ▸ h.waits hnone)

theorem store_performed {s : State} {i : Nat} {x : NetItem} {k : Nat} (h : Arrives s i x k) (hk : x.kind = .store)
    (hfull : (s.coreAt k).loc.empty.contains (x.off / 128) = false) : ∃ t : State, exec (.remoteStorePerform i) s = .next t ∧
      (t.coreAt k).loc = (s.coreAt k).loc.store x.off x.size x.data.toNat ∧
      t.dev.net = if x.inbox then listDrop s.dev.net i else listSet s.dev.net i { x with kind := .report } := by
  generalize hu : s.ckLocalBy (s.memberFor x.stave x.src.toNat x.srcTag) k (x.off / 128) true = u
  have harch : SameArch s u := hu ▸ ckLocalBy_sameArch ..
  have haside : Aside s u := hu ▸ ckLocalBy_aside ..
  have hsome : s.acceptItem k x = some (u.onCore k fun c => { c with loc := c.loc.store x.off x.size x.data.toNat }) := by
    rw [State.acceptItem, hk]
    exact (if_neg (Bool.eq_false_iff.mp hfull)).trans (by rw [hu])
  have hloc : (u.coreAt k).loc = (s.coreAt k).loc := harch.part (p := (·.loc)) (fun _ => rfl) k
  have hexec : exec (.remoteStorePerform i) s = .next (s.arriveItem i x.kind) := by rw [hk]; rfl
  rw [h.arriveItem, hsome, Option.map_some, Option.getD_some] at hexec
  refine ⟨_, hexec, ?_, ?_⟩
  · rw [← hloc]
    split <;> exact congrArg Core.loc (coreAt_onCore_same ..)
  · rw [hk, ← haside.net]
    cases x.inbox
    · exact congrArg (listSet · i _) (congrArg Dev.net (onCore_dev ..))
    · exact congrArg (listDrop · i) (congrArg Dev.net (onCore_dev ..))

/-! ## Messages -/

theorem strange_false {c : Core} {x : NetItem} (hmine : x.srcTag = 0 ∨ c.member.map (·.job) = some x.job)
    (hstream : field (c.slot x.slot.toNat).bind 16 12 = x.stream.toNat) : c.strange x = false := by
  have hjob : (x.srcTag != 0 && c.member.map (·.job) != some x.job) = false := by
    rcases hmine with h | h
    · rw [h]
      rfl
    · rw [h, bne_self_eq_false, Bool.and_false]
  rw [Core.strange, hjob, hstream, bne_self_eq_false, Bool.and_false, Bool.or_false]

/-- A message waits where its slot has no room. -/
theorem acceptMessage_full {s : State} {k : Nat} {x : NetItem}
    (hmine : x.srcTag = 0 ∨ (s.coreAt k).member.map (·.job) = some x.job)
    (hstream : field ((s.coreAt k).slot x.slot.toNat).bind 16 12 = x.stream.toNat)
    (hroom : (s.coreAt k).slotRoom ((s.coreAt k).slot x.slot.toNat) = false) : s.acceptMessage k x = none := by
  simp only [State.acceptMessage, strange_false hmine hstream, hroom, Bool.not_false, Bool.or_true, Bool.false_eq_true, ↓reduceIte]

theorem acceptMessage_some {s : State} {k : Nat} {x : NetItem}
    (hmine : x.srcTag = 0 ∨ (s.coreAt k).member.map (·.job) = some x.job) (hbound : ((s.coreAt k).slot x.slot.toNat).bound = true)
    (hstream : field ((s.coreAt k).slot x.slot.toNat).bind 16 12 = x.stream.toNat)
    (hroom : (s.coreAt k).slotRoom ((s.coreAt k).slot x.slot.toNat) = true)
    (hlog : (s.logAllows k x.slot.toNat x.src x.stream).1 = true) :
    s.acceptMessage k x = some (((s.logAllows k x.slot.toNat x.src x.stream).2.onCore k fun c =>
      c.land x.slot.toNat ((s.coreAt k).slot x.slot.toNat) x.data).accepted k x.slot.toNat x.src x.stream x.data) := by
  simp only [State.acceptMessage, strange_false hmine hstream, hbound, hroom, hlog, Bool.not_true, Bool.or_self, Bool.false_eq_true,
    ↓reduceIte]

theorem logAllows_left (s : State) (k slot : Nat) (src : BitVec 13) (stream : BitVec 12) :
    SameArch s (s.logAllows k slot src stream).2 ∧ Aside s (s.logAllows k slot src stream).2 := by
  unfold State.logAllows
  simp only
  split
  · exact ⟨.refl s, .refl s⟩
  · split
    · exact ⟨.refl s, .refl s⟩
    · dsimp only
      exact ⟨logFind_sameArch .., logFind_aside ..⟩

/-- What an accepted message leaves: the core with its mark, and the network. -/
theorem accepted_left (s : State) (k slot : Nat) (src : BitVec 13) (stream : BitVec 12) (data : V512) :
    archOf ((s.accepted k slot src stream data).coreAt k) = archOf { s.coreAt k with accepted := true } ∧
      (s.accepted k slot src stream data).dev.net = s.dev.net := by
  unfold State.accepted
  simp only
  split
  · rw [coreAt_onCore_same, onCore_dev]
    exact ⟨rfl, rfl⟩
  · next m _ =>
    generalize hu : s.onCore k (fun c => { c with accepted := true }) = u
    have hcore : u.coreAt k = { s.coreAt k with accepted := true } := hu ▸ coreAt_onCore_same ..
    have hnet : u.dev.net = s.dev.net := hu ▸ congrArg Dev.net (onCore_dev ..)
    exact ⟨((capture_sameArch ..).2 k).trans (congrArg archOf hcore), (capture_aside ..).net.trans hnet⟩

theorem slot_onSlot (c : Core) {i : Nat} (hi : i < 16) (f : Slot → Slot) : (c.onSlot i f).slot i = f (c.slot i) := by
  simp only [Core.slot, Core.onSlot, Machine.vget, dif_pos hi, Vector.getElem_set_self]

theorem onSlot_loc (c : Core) (i : Nat) (f : Slot → Slot) : (c.onSlot i f).loc = c.loc := by
  unfold Core.onSlot
  split <;> rfl

theorem land_ring (c : Core) {i : Nat} (hi : i < 16) {t : Slot} (hring : t.bind.getLsbD 1 = false) (x : V512) :
    (c.land i t x).loc = c.loc.store t.ringAt 64 x.toNat ∧ (c.land i t x).slot i = { c.slot i with tail := (c.slot i).tail + 1 } := by
  unfold Core.land
  generalize c.loc.store t.ringAt 64 x.toNat = l
  simp only [hring, Bool.false_eq_true, ↓reduceIte]
  exact ⟨onSlot_loc .., slot_onSlot _ hi _⟩

theorem field_lt {w : Nat} (x : BitVec w) (lo n : Nat) : field x lo n < 2 ^ n := (x.extractLsb' lo n).isLt

theorem land_queue (c : Core) (i : Nat) {t : Slot} (hqueue : t.bind.getLsbD 1 = true) (x : V512) :
    (c.land i t x).queue (field t.bind 2 3) = c.queue (field t.bind 2 3) ++ [⟨x, 0⟩] := by
  simp only [Core.land, hqueue, ↓reduceIte]
  rw [queue_setQueue _ _ _ (field_lt t.bind 2 3), if_pos rfl]

/-- A message that is accepted. -/
theorem message_taken {s : State} {i : Nat} {x : NetItem} {k : Nat} (h : Arrives s i x k) (hk : x.kind = .message)
    (hmine : x.srcTag = 0 ∨ (s.coreAt k).member.map (·.job) = some x.job) (hbound : ((s.coreAt k).slot x.slot.toNat).bound = true)
    (hstream : field ((s.coreAt k).slot x.slot.toNat).bind 16 12 = x.stream.toNat)
    (hroom : (s.coreAt k).slotRoom ((s.coreAt k).slot x.slot.toNat) = true)
    (hlog : (s.logAllows k x.slot.toNat x.src x.stream).1 = true) : ∃ (t : State) (c : Core), exec (.messageArrival i) s = .next t ∧
      archOf c = archOf (s.coreAt k) ∧ archOf (t.coreAt k) =
        archOf { c.land x.slot.toNat ((s.coreAt k).slot x.slot.toNat) x.data with accepted := true } ∧
      t.dev.net = listDrop s.dev.net i := by
  obtain ⟨harch, haside⟩ := logAllows_left s k x.slot.toNat x.src x.stream
  have hsome := acceptMessage_some hmine hbound hstream hroom hlog
  generalize (s.logAllows k x.slot.toNat x.src x.stream).2 = u at harch haside hsome
  have hitem : s.acceptItem k x = s.acceptMessage k x := by rw [State.acceptItem, hk]
  have hexec : exec (.messageArrival i) s = .next (s.arriveItem i x.kind) := by rw [hk]; rfl
  rw [h.taken (hitem.trans hsome) (by rw [hk]; decide)] at hexec
  obtain ⟨hcore, hnet'⟩ := accepted_left (u.onCore k fun c => c.land x.slot.toNat ((s.coreAt k).slot x.slot.toNat) x.data) k
    x.slot.toNat x.src x.stream x.data
  rw [coreAt_onCore_same] at hcore
  rw [onCore_dev, haside.net] at hnet'
  exact ⟨_, _, hexec, harch.2 k, hcore, congrArg (listDrop · i) hnet'⟩

/-- A message waits for room. -/
theorem message_waits {s : State} {i : Nat} {x : NetItem} {k : Nat} (h : Arrives s i x k) (hk : x.kind = .message)
    (hmine : x.srcTag = 0 ∨ (s.coreAt k).member.map (·.job) = some x.job)
    (hstream : field ((s.coreAt k).slot x.slot.toNat).bind 16 12 = x.stream.toNat)
    (hroom : (s.coreAt k).slotRoom ((s.coreAt k).slot x.slot.toNat) = false) : exec (.messageArrival i) s = .next s := by
  have hnone : s.acceptItem k x = none := by
    rw [State.acceptItem, hk]
    exact acceptMessage_full hmine hstream hroom
  exact congrArg Host.Outcome.next (hk ▸ h.waits hnone)

theorem slotRoom_ring {c : Core} {t : Slot} (h : t.bind.getLsbD 1 = false) : c.slotRoom t = decide ((t.tail - t.head).toNat < t.cap) := by
  rw [Core.slotRoom, if_neg (Bool.eq_false_iff.mp h)]

theorem slotRoom_queue {c : Core} {t : Slot} (h : t.bind.getLsbD 1 = true) :
    c.slotRoom t = decide ((c.queue (field t.bind 2 3)).length < 16) := by
  rw [Core.slotRoom, if_pos h]

/-- What two cores of the same registers, memory, slots and queues show. -/
theorem archOf_shows {c d : Core} (h : archOf c = archOf d) : c.loc = d.loc ∧ (∀ i, c.slot i = d.slot i) ∧ (∀ q, c.queue q = d.queue q) ∧
    c.accepted = d.accepted :=
  ⟨(congrArg Core.loc h :), fun i => (congrArg (fun c => c.slot i) h :), fun q => (congrArg (fun c => c.queue q) h :),
    (congrArg Core.accepted h :)⟩

theorem message_ring {s : State} {i : Nat} {x : NetItem} {k : Nat} (h : Arrives s i x k) (hk : x.kind = .message)
    (hmine : x.srcTag = 0 ∨ (s.coreAt k).member.map (·.job) = some x.job) (hbound : ((s.coreAt k).slot x.slot.toNat).bound = true)
    (hstream : field ((s.coreAt k).slot x.slot.toNat).bind 16 12 = x.stream.toNat)
    (hlog : (s.logAllows k x.slot.toNat x.src x.stream).1 = true) (hring : ((s.coreAt k).slot x.slot.toNat).bind.getLsbD 1 = false)
    (hroom : (((s.coreAt k).slot x.slot.toNat).tail - ((s.coreAt k).slot x.slot.toNat).head).toNat < ((s.coreAt k).slot x.slot.toNat).cap) :
    ∃ t : State, exec (.messageArrival i) s = .next t ∧
      (t.coreAt k).loc = (s.coreAt k).loc.store ((s.coreAt k).slot x.slot.toNat).ringAt 64 x.data.toNat ∧
      (t.coreAt k).slot x.slot.toNat = { (s.coreAt k).slot x.slot.toNat with tail := ((s.coreAt k).slot x.slot.toNat).tail + 1 } ∧
      (t.coreAt k).accepted = true ∧ t.dev.net = listDrop s.dev.net i := by
  obtain ⟨t, c, hexec, hc, ht, hnet⟩ := message_taken h hk hmine hbound hstream
    ((slotRoom_ring hring).trans (decide_eq_true hroom)) hlog
  obtain ⟨hloc, hslot, -, -⟩ := archOf_shows hc
  obtain ⟨hloc', hslot', -, haccepted⟩ := archOf_shows ht
  obtain ⟨hland, htail⟩ := land_ring c x.slot.isLt hring x.data
  refine ⟨t, hexec, hloc'.trans (hland.trans (by rw [hloc])), (hslot' _).trans (htail.trans (by rw [hslot])), haccepted, hnet⟩

theorem message_queue {s : State} {i : Nat} {x : NetItem} {k : Nat} (h : Arrives s i x k) (hk : x.kind = .message)
    (hmine : x.srcTag = 0 ∨ (s.coreAt k).member.map (·.job) = some x.job) (hbound : ((s.coreAt k).slot x.slot.toNat).bound = true)
    (hstream : field ((s.coreAt k).slot x.slot.toNat).bind 16 12 = x.stream.toNat)
    (hlog : (s.logAllows k x.slot.toNat x.src x.stream).1 = true) (hqueue : ((s.coreAt k).slot x.slot.toNat).bind.getLsbD 1 = true)
    (hroom : ((s.coreAt k).queue (field ((s.coreAt k).slot x.slot.toNat).bind 2 3)).length < 16) :
    ∃ t : State, exec (.messageArrival i) s = .next t ∧
      (t.coreAt k).queue (field ((s.coreAt k).slot x.slot.toNat).bind 2 3) =
        (s.coreAt k).queue (field ((s.coreAt k).slot x.slot.toNat).bind 2 3) ++ [⟨x.data, 0⟩] ∧ t.dev.net = listDrop s.dev.net i := by
  obtain ⟨t, c, hexec, hc, ht, hnet⟩ := message_taken h hk hmine hbound hstream
    ((slotRoom_queue hqueue).trans (decide_eq_true hroom)) hlog
  obtain ⟨-, -, hq, -⟩ := archOf_shows hc
  obtain ⟨-, -, hq', -⟩ := archOf_shows ht
  exact ⟨t, hexec, (hq' _).trans ((land_queue c _ hqueue x.data).trans (by rw [hq])), hnet⟩

/-! ## End-of-stream words -/

theorem eos_waits {s : State} {i : Nat} {x : NetItem} {k : Nat} (h : Arrives s i x k) (hk : x.kind = .eos)
    (hmine : x.srcTag = 0 ∨ (s.coreAt k).member.map (·.job) = some x.job)
    (hstream : field ((s.coreAt k).slot x.slot.toNat).bind 16 12 = x.stream.toNat) (hready : s.eosReady x = false) :
    exec (.endOfStreamArrival i) s = .next s := by
  have hnone : s.acceptItem k x = none := by
    rw [State.acceptItem, hk]
    simp only [State.acceptEos, strange_false hmine hstream, hready, Bool.not_false, Bool.or_true, Bool.false_eq_true, ↓reduceIte]
  exact congrArg Host.Outcome.next (hk ▸ h.waits hnone)

theorem eos_taken {s : State} {i : Nat} {x : NetItem} {k : Nat} (h : Arrives s i x k) (hk : x.kind = .eos)
    (hmine : x.srcTag = 0 ∨ (s.coreAt k).member.map (·.job) = some x.job) (hbound : ((s.coreAt k).slot x.slot.toNat).bound = true)
    (hstream : field ((s.coreAt k).slot x.slot.toNat).bind 16 12 = x.stream.toNat) (hready : s.eosReady x = true) :
    ∃ t : State, exec (.endOfStreamArrival i) s = .next t ∧
      (t.coreAt k).slot x.slot.toNat = { (s.coreAt k).slot x.slot.toNat with eos := ((s.coreAt k).slot x.slot.toNat).eos + 1 } ∧
      t.dev.net = listDrop s.dev.net i := by
  have hsome : s.acceptItem k x = some (s.onCore k fun c =>
      { c.onSlot x.slot.toNat fun t => { t with eos := t.eos + 1 } with accepted := true }) := by
    rw [State.acceptItem, hk]
    simp only [State.acceptEos, strange_false hmine hstream, hbound, hready, Bool.not_true, Bool.or_self, Bool.false_eq_true, ↓reduceIte]
  have hexec : exec (.endOfStreamArrival i) s = .next (s.arriveItem i x.kind) := by rw [hk]; rfl
  rw [h.taken hsome (by rw [hk]; decide)] at hexec
  refine ⟨_, hexec, ?_, congrArg (listDrop · i) (congrArg Dev.net (onCore_dev ..))⟩
  exact (congrArg (·.slot x.slot.toNat) (coreAt_onCore_same ..) :).trans (slot_onSlot _ x.slot.isLt _)

/-! ## Commands -/

/-- A change of an issuer's context of fields that a part of a context does not show. -/
theorem onIssuer_part (s : State) (who : Issuer) (k : Nat) {f : Core → Core} {α : Type} {p : Core → α} (hp : ∀ c, p (f c) = p c) :
    p ((s.onIssuer who f).coreAt k) = p (s.coreAt k) := by
  unfold State.onIssuer
  simp only
  split
  · rfl
  · split
    · exact onCore_part s who.core k hp
    · rfl

theorem onIssuer_net (s : State) (who : Issuer) (f : Core → Core) : (s.onIssuer who f).dev.net = s.dev.net := by
  unfold State.onIssuer
  simp only
  split
  · rfl
  · split
    · exact congrArg Dev.net (onCore_dev ..)
    · rfl

theorem answer_left (s : State) (m : MCmd) (good : Bool) (k : Nat) :
    ((s.answer m good).coreAt k).mcmds = (s.coreAt k).mcmds ∧ (s.answer m good).dev.net = s.dev.net := by
  unfold State.answer
  split
  · exact ⟨rfl, rfl⟩
  · exact ⟨onIssuer_part (p := (·.mcmds)) _ _ _ fun _ => rfl, onIssuer_net ..⟩

theorem refuseCommand_left (s : State) (m : MCmd) (status : Nat) {k : Nat} (hk : k ≠ deadCore) :
    ((s.refuseCommand m status).coreAt k).mcmds = (s.coreAt k).mcmds ∧ (s.refuseCommand m status).dev.net = s.dev.net := by
  have h : Aside (s.answer m false) (s.refuseCommand m status) := completeOp_aside ..
  obtain ⟨hmcmds, hnet⟩ := answer_left s m false k
  exact ⟨(h.own hk (p := (·.mcmds)) fun _ => rfl).trans hmcmds, h.net.trans hnet⟩

theorem acceptItem_command {s : State} {k : Nat} {x : NetItem} {m : MCmd} (hk : x.kind = .command) (hm : x.cmd = some m) :
    s.acceptItem k x = s.acceptCommand k m := by
  rw [State.acceptItem, hk, hm]

theorem command_exec {s : State} {i : Nat} {x : NetItem} (hk : x.kind = .command) :
    exec (.matrixCommandArrival i) s = .next (s.arriveItem i x.kind) := by
  rw [hk]
  rfl

theorem command_waits {s : State} {i : Nat} {x : NetItem} {k : Nat} (h : Arrives s i x k) {m : MCmd} (hk : x.kind = .command)
    (hm : x.cmd = some m) (hcheck : s.checkCommand k m = none) (hfull : 32 ≤ (s.coreAt k).mcmds.length) :
    exec (.matrixCommandArrival i) s = .next s := by
  have hnone : s.acceptItem k x = none := by
    rw [acceptItem_command hk hm, State.acceptCommand, hcheck]
    exact if_pos hfull
  rw [command_exec hk, h.waits hnone]

theorem command_taken {s : State} {i : Nat} {x : NetItem} {k : Nat} (h : Arrives s i x k) {m : MCmd} (hk : x.kind = .command)
    (hm : x.cmd = some m) (hcheck : s.checkCommand k m = none) (hroom : (s.coreAt k).mcmds.length < 32) :
    ∃ t : State, exec (.matrixCommandArrival i) s = .next t ∧ (t.coreAt k).mcmds = (s.coreAt k).mcmds ++ [m] ∧
      t.dev.net = listDrop s.dev.net i := by
  have hsome : s.acceptItem k x = some ((s.onCore k fun c => { c with mcmds := c.mcmds ++ [m] }).answer m true) := by
    rw [acceptItem_command hk hm, State.acceptCommand, hcheck]
    exact if_neg (by omega)
  obtain ⟨hmcmds, hnet⟩ := answer_left (s.onCore k fun c => { c with mcmds := c.mcmds ++ [m] }) m true k
  rw [coreAt_onCore_same] at hmcmds
  rw [onCore_dev] at hnet
  exact ⟨_, (command_exec hk).trans (congrArg Host.Outcome.next (h.taken hsome (by rw [hk]; decide))), hmcmds,
    congrArg (listDrop · i) hnet⟩

theorem command_refused {s : State} {i : Nat} {x : NetItem} {k : Nat} (h : Arrives s i x k) {m : MCmd} (hk : x.kind = .command)
    (hm : x.cmd = some m) {st : Nat} (hcheck : s.checkCommand k m = some st) :
    ∃ t : State, exec (.matrixCommandArrival i) s = .next t ∧ (t.coreAt k).mcmds = (s.coreAt k).mcmds ∧
      t.dev.net = listDrop s.dev.net i := by
  have hsome : s.acceptItem k x = some (s.refuseCommand m st) := by
    rw [acceptItem_command hk hm, State.acceptCommand, hcheck]
  obtain ⟨hmcmds, hnet⟩ := refuseCommand_left s m st (coreFor_ne_dead h.core)
  exact ⟨_, (command_exec hk).trans (congrArg Host.Outcome.next (h.taken hsome (by rw [hk]; decide))), hmcmds,
    congrArg (listDrop · i) hnet⟩

/-! ## Reports -/

theorem whereIs_core {s : State} {n : BitVec 6} {l k : Nat} {tag : BitVec 32} (h : s.coreFor n l tag = some k) :
    s.whereIs n l tag = some (.core k) := by
  rw [State.whereIs, h]

/-- A report reaches the sender. -/
theorem report_taken {s : State} {i : Nat} {x : NetItem} {k : Nat} (hx : s.dev.net[i]? = some x) (hk : x.kind = .report)
    (hcore : s.coreFor x.stave x.src.toNat x.srcTag = some k) : ∃ t : State, exec (.remoteStoreAck i) s = .next t ∧
      t.dev.net = listDrop s.dev.net i ∧ (t.coreAt k).ctl.unack = (s.coreAt k).ctl.unack - 1 := by
  have hwhere : (s.takeItem i).whereIs x.stave x.src.toNat x.srcTag = some (.core k) := whereIs_core (s := s.takeItem i) hcore
  have hexec : exec (.remoteStoreAck i) s = .next ((s.takeItem i).unackDown x.stave x.src.toNat x.srcTag) := by
    refine congrArg Host.Outcome.next ?_
    simp only [hx, hk, ↓reduceIte]
  rw [State.unackDown, hwhere] at hexec
  exact ⟨_, hexec, congrArg Dev.net (onCore_dev ..), congrArg (·.ctl.unack) (coreAt_onCore_same (s.takeItem i) k _)⟩

end Sys2Proof.Proofs

end

section
/-! Commands that run at their target (R258), and items that go to an inbox (R404). -/

namespace Sys2Proof.Proofs
open Machine Claims

/-! ## A command that runs -/

theorem runCommand_waits {s : State} {k : Nat} {m : MCmd} {rest : List MCmd} (hm : (s.coreAt k).mcmds = m :: rest)
    (h : (s.coreAt k).live = false ∨ (s.focus k).commandReady m = false) : exec (.matrixCommandRun k) s = .next s := by
  have hstop : (!(s.coreAt k).live || !(s.focus k).commandReady m) = true := by
    rcases h with h | h <;> simp [h]
  refine congrArg Host.Outcome.next ?_
  simp only [State.runCommand, focus_me, hm, hstop, ↓reduceIte]

/-- The core in focus while its first command runs: what its own stopped instruction keeps is put aside. -/
def running (s : State) (rest : List MCmd) : State := { s with me.mcmds := rest, me.ctl.pix := 0, me.quota := none }

/-- What the core's own stopped instruction keeps is put back. -/
def resumed (c : Core) (s : State) : State := { s with me.ctl.pix := c.ctl.pix, me.quota := c.quota, me.wait := c.wait }

/-- What an effect leaves, and the status that it ends with. -/
def effectEnd : Except Res State → State × Nat
  | .ok t => (t, 0)
  | .error (.trap .poison _ t) => (t, 0x22)
  | .error (.trap .capability _ t) => (t, 0x20)
  | .error (.trap _ _ t) => (t, 0x21)
  | .error (.done t _) | .error (.wait _ t) => (t, 0x22)

theorem runCommand_run {s : State} {k : Nat} {m : MCmd} {rest : List MCmd} (hm : (s.focus k).me.mcmds = m :: rest)
    (hlive : (s.focus k).me.live = true) (hready : (s.focus k).commandReady m = true) :
    s.runCommand k = ((resumed (s.focus k).me (effectEnd ((running (s.focus k) rest).commandEffect m)).1).endCommand m
      (effectEnd ((running (s.focus k) rest).commandEffect m)).2).focus s.here := by
  unfold State.runCommand
  simp only [hm]
  rw [if_neg (by rw [hlive, hready]; decide)]
  rfl

theorem runCommand_eq {s t : State} {k : Nat} {m : MCmd} {rest : List MCmd} (hm : (s.coreAt k).mcmds = m :: rest)
    (hlive : (s.coreAt k).live = true) (hready : (s.focus k).commandReady m = true)
    (heffect : (running (s.focus k) rest).commandEffect m = .ok t) :
    s.runCommand k = ((resumed (s.coreAt k) t).endCommand m 0).focus s.here := by
  rw [← focus_me] at hm hlive ⊢
  rw [runCommand_run hm hlive hready, heffect]
  rfl

theorem runCommand_zclr {s : State} {k : Nat} {m : MCmd} {rest : List MCmd} (hk : k ≠ deadCore) (hm : (s.coreAt k).mcmds = m :: rest)
    {z : ZReg} {ev : BitVec 4} {b : Bool} (hlive : (s.coreAt k).live = true) (hready : (s.focus k).commandReady m = true)
    (hi : m.instr = some (.zclr z ev b)) : ∃ t : State, exec (.matrixCommandRun k) s = .next t ∧ (t.coreAt k).mcmds = rest ∧
      (t.focus k).z z = .replicate 256 0 ∧ (t.coreAt k).ctl.pix = (s.coreAt k).ctl.pix := by
  generalize hu : resumed (s.coreAt k) ((running (s.focus k) rest).clearZ z) = u
  have heffect : (running (s.focus k) rest).commandEffect m = .ok ((running (s.focus k) rest).clearZ z) := by
    rw [State.commandEffect, hi]
  have hexec : exec (.matrixCommandRun k) s = .next ((u.endCommand m 0).focus s.here) :=
    congrArg Host.Outcome.next ((runCommand_eq hm hlive hready heffect).trans (by rw [hu]))
  have hend : Aside u (u.endCommand m 0) := completeOp_aside ..
  have hme : u.coreAt k = u.me := by
    rw [← hu, State.coreAt]
    exact if_pos (focus_here s k).symm
  refine ⟨_, hexec, ?_, ?_, ?_⟩
  · rw [coreAt_focus, hend.own hk (p := (·.mcmds)) fun _ => rfl, hme, ← hu]
    rfl
  · have hz : (u.endCommand m 0).coreAt k |>.regs.z[z.toNat] = u.me.regs.z[z.toNat] := by
      rw [← hme]
      exact hend.own hk (p := fun c => c.regs.z[z.toNat]) fun _ => rfl
    rw [State.z, focus_me, coreAt_focus, hz, ← hu]
    exact z_setZ_same ..
  · rw [coreAt_focus, hend.own hk (p := (·.ctl.pix)) fun _ => rfl, hme, ← hu]
    rfl

/-! ## Items that go to an inbox -/

/-- Items that the inbox of a context holds, whose area is at base. -/
def inboxLength (s : State) (base : Nat) : Whereabouts → Nat
  | .core k => (s.coreAt k).inbox.length
  | .absent _ | .saved _ => s.inboxCount base

/-- The area with an item's entry after n others, and the count of n + 1. -/
def entryPut (s : State) (base n : Nat) (x : NetItem) : State :=
  State.areaWord (State.retag { s with dev := s.dev.fill (base + (0x38000 + 128 * n)) 128 (cellsOf 0 x.inboxWords) } base
    ((0x38000 + 128 * n) / 128) x.tag) base (0x30100 + 248) x.tag fun w => withField w 40 8 (n + 1)

theorem divertItem_waits {s : State} {i : Nat} {x : NetItem} {since : W64} {w : Whereabouts} (hx : s.dev.net[i]? = some x)
    (hrefused : x.refused = some since) (hw : s.whereIs x.stave x.dst.toNat x.tag = some w)
    (h : s.areaAt x.stave w = 0 ∨ (s.dev.cycle - since).toNat < 2048 ∨ 128 ≤ inboxLength s (s.areaAt x.stave w) w ∨
      (s.coreFor x.stave x.dst.toNat x.tag).isSome = true) : s.divertItem i = s := by
  simp only [State.divertItem, hx, hrefused, hw]
  refine if_pos ?_
  rcases h with h | h | h | h
  · exact .inr (.inl h)
  · exact .inr (.inr (.inr (.inr (.inl h))))
  · exact .inr (.inr (.inr (.inr (.inr (by cases w <;> exact h)))))
  · exact .inr (.inr (.inl h))

theorem divertItem_message {s : State} {i : Nat} {x : NetItem} {since : W64} {w : Whereabouts} (hx : s.dev.net[i]? = some x)
    (hrefused : x.refused = some since) (hw : s.whereIs x.stave x.dst.toNat x.tag = some w) (hbase : s.areaAt x.stave w ≠ 0)
    (haway : (s.coreFor x.stave x.dst.toNat x.tag).isSome = false) (hold : 2048 ≤ (s.dev.cycle - since).toNat) (hk : x.kind = .message)
    (hfree : s.mustWait i x = false) (hroom : inboxLength s (s.areaAt x.stave w) w < 128) :
    s.divertItem i = ((entryPut s (s.areaAt x.stave w) (inboxLength s (s.areaAt x.stave w) w) x).takeItem i).onWhere x.stave w
      fun c => { c with inbox := c.inbox ++ [x] } := by
  simp only [State.divertItem, hx, hrefused, hw]
  rw [if_neg (by
    rw [hk, haway, hfree]
    rintro (h | h | h | h | h | h)
    · cases h
    · exact hbase h
    · cases h
    · cases h
    · omega
    · cases w <;> exact absurd h (Nat.not_le.mpr hroom))]
  rw [hk]
  cases w <;> rfl

/-! ## What the entry leaves -/

theorem byteAt_word {m : Cells} (hm : m.wf = true) (a : Nat) (x : W64) : ((m.writeN a 8 x.toNat).readN (a + 5) 1) = field x 40 8 := by
  rw [← readN_part _ a (k := 1) (n := 8) (by decide), readN_writeN 8 a _ hm, Nat.mod_eq_of_lt (Nat.lt_of_lt_of_le x.isLt (by decide)),
    field, BitVec.extractLsb'_toNat, Nat.shiftRight_eq_div_pow, show 256 ^ 5 = 2 ^ 40 by decide, Nat.pow_one]

theorem retag_count {s : State} (hs : s.canonical) (base n : Nat) (tag : BitVec 32) : (s.retag base n tag).inboxCount base = s.inboxCount base :=
  readN_writeN_out 8 1 _ _ _ hs (by omega)

theorem areaWord_count {s : State} (hs : s.canonical) (base : Nat) (tag : BitVec 32) {n : Nat} (hn : n < 128) :
    (s.areaWord base (0x30100 + 248) tag fun w => withField w 40 8 (n + 1)).inboxCount base = n + 1 := by
  generalize hu : (⟨s.here, s.me, s.others, s.dev.poke (base + (0x30100 + 248)) 8
    (withField (w64 (s.dev.peek (base + (0x30100 + 248)) 8)) 40 8 (n + 1)).toNat, s.agenda, s.fresh⟩ : State) = u
  have hcanon : u.canonical := hu ▸ poke_wf hs ..
  have hcount : u.inboxCount base = n + 1 := by
    rw [← hu]
    exact (byteAt_word hs (base + (0x30100 + 248)) _).trans (field_withField_same _ (by decide) (by omega))
  rw [State.areaWord, hu]
  exact (retag_count hcanon ..).trans hcount

theorem entryPut_count {s : State} (hs : s.canonical) (base : Nat) {n : Nat} (hn : n < 128) (x : NetItem) :
    (entryPut s base n x).inboxCount base = n + 1 := by
  have hfill : (s.dev.fill (base + (0x38000 + 128 * n)) 128 (cellsOf 0 x.inboxWords)).mem.wf = true := paste_wf hs (cellsOf_wf ..) ..
  exact areaWord_count (s := State.retag ⟨s.here, s.me, s.others, s.dev.fill _ 128 _, s.agenda, s.fresh⟩ base _ x.tag)
    (writeN_wf 8 _ _ hfill) base x.tag hn

/-- The state with other bytes in device memory. -/
def withMemory (m : Cells) (p : List Nat) (s : State) : State := { s with dev := { s.dev with mem := m, poison := p } }

theorem poke_frame (s : State) (key n x : Nat) : ∃ m p, { s with dev := s.dev.poke key n x } = withMemory m p s := ⟨_, _, rfl⟩

theorem fill_frame (s : State) (a n : Nat) (x : Cells) : ∃ m p, { s with dev := s.dev.fill a n x } = withMemory m p s := ⟨_, _, rfl⟩

theorem retag_frame (s : State) (base n : Nat) (tag : BitVec 32) : ∃ m p, s.retag base n tag = withMemory m p s := poke_frame s _ 8 _

theorem areaWord_frame (s : State) (base off : Nat) (tag : BitVec 32) (f : W64 → W64) :
    ∃ m p, s.areaWord base off tag f = withMemory m p s := by
  obtain ⟨m, p, h⟩ := poke_frame s (base + off) 8 (f (w64 (s.dev.peek (base + off) 8))).toNat
  obtain ⟨m', p', h'⟩ := retag_frame (withMemory m p s) base (off / 128) tag
  rw [State.areaWord, h, h']
  exact ⟨m', p', rfl⟩

theorem entryPut_frame (s : State) (base n : Nat) (x : NetItem) : ∃ m p, entryPut s base n x = withMemory m p s := by
  obtain ⟨m, p, h⟩ := fill_frame s (base + (0x38000 + 128 * n)) 128 (cellsOf 0 x.inboxWords)
  obtain ⟨m1, p1, h1⟩ := retag_frame (withMemory m p s) base ((0x38000 + 128 * n) / 128) x.tag
  obtain ⟨m2, p2, h2⟩ := areaWord_frame (withMemory m1 p1 s) base (0x30100 + 248) x.tag fun w => withField w 40 8 (n + 1)
  rw [entryPut, h, h1]
  exact ⟨m2, p2, h2⟩

/-- The context whose state is changed where it is. -/
theorem assocGet_map_at {α : Type} (d : α) (k : Nat) (f : α → α) : ∀ {l : List (Nat × α)}, (∃ y ∈ l, y.1 = k) →
    assocGet d k (l.map fun y => if y.1 = k then (k, f y.2) else y) = f (assocGet d k l)
  | [], h => by simp at h
  | (j, y) :: l, h => by
    rw [List.map_cons]
    by_cases hj : j = k
    · rw [if_pos hj, assocGet, assocGet, if_pos rfl, if_pos hj]
    · rw [if_neg hj, assocGet, assocGet, if_neg hj, if_neg hj]
      refine assocGet_map_at d k f ?_
      obtain ⟨y', hy', hk⟩ := h
      rcases List.mem_cons.mp hy' with rfl | hmem
      · exact absurd hk hj
      · exact ⟨y', hmem, hk⟩

/-- A context that a stamp names is there. -/
theorem whereIs_mem {s : State} {n : BitVec 6} {l : Nat} {tag : BitVec 32} {w : Whereabouts} (h : s.whereIs n l tag = some w) :
    (∃ k, w = .core k) ∨ (∃ k, w = .absent k ∧ ∃ y ∈ (s.dev.stave n).absent, y.1 = k) ∨
      ∃ k, w = .saved k ∧ ∃ y ∈ (s.dev.stave n).saved, y.1 = k := by
  rw [State.whereIs] at h
  cases hcore : s.coreFor n l tag with
  | some k =>
    rw [hcore] at h
    exact .inl ⟨k, (Option.some.inj h).symm⟩
  | none =>
  rw [hcore] at h
  cases habsent : (s.dev.stave n).absent.find? fun x => x.2.named l tag with
  | some x =>
    simp only [habsent] at h
    exact .inr (.inl ⟨x.1, (Option.some.inj h).symm, x, List.mem_of_find?_eq_some habsent, rfl⟩)
  | none =>
  cases hsaved : (s.dev.stave n).saved.find? fun x => x.2.named l tag with
  | some x =>
    simp only [habsent, hsaved] at h
    exact .inr (.inr ⟨x.1, (Option.some.inj h).symm, x, List.mem_of_find?_eq_some hsaved, rfl⟩)
  | none =>
    simp only [habsent, hsaved] at h
    obtain ⟨k, -, hk⟩ := Option.map_eq_some_iff.mp h
    exact .inl ⟨k, hk.symm⟩

theorem contextAt_onWhere {s : State} {n : BitVec 6} {l : Nat} {tag : BitVec 32} {w : Whereabouts} (h : s.whereIs n l tag = some w)
    (f : Core → Core) : (s.onWhere n w f).contextAt n w = f (s.contextAt n w) := by
  rcases whereIs_mem h with ⟨k, rfl⟩ | ⟨k, rfl, hmem⟩ | ⟨k, rfl, hmem⟩
  · exact coreAt_onCore_same ..
  · simp only [State.onWhere, State.contextAt, stave_onStave, ↓reduceIte]
    exact assocGet_map_at _ _ _ hmem
  · simp only [State.onWhere, State.contextAt, stave_onStave, ↓reduceIte]
    exact assocGet_map_at _ _ _ hmem

theorem onWhere_left (s : State) (n : BitVec 6) (w : Whereabouts) (f : Core → Core) :
    (s.onWhere n w f).dev.net = s.dev.net ∧ (s.onWhere n w f).dev.mem = s.dev.mem := by
  cases w with
  | core k => exact ⟨congrArg Dev.net (onCore_dev ..), congrArg Dev.mem (onCore_dev ..)⟩
  | absent k => exact ⟨rfl, rfl⟩
  | saved k => exact ⟨rfl, rfl⟩

/-- An item that has been refused for long enough goes to the inbox. -/
theorem item_diverted {s : State} {i : Nat} {x : NetItem} {since : W64} {w : Whereabouts} (hs : s.canonical)
    (hx : s.dev.net[i]? = some x) (hrefused : x.refused = some since) (hw : s.whereIs x.stave x.dst.toNat x.tag = some w)
    (hbase : s.areaAt x.stave w ≠ 0) (haway : (s.coreFor x.stave x.dst.toNat x.tag).isSome = false)
    (hold : 2048 ≤ (s.dev.cycle - since).toNat) (hk : x.kind = .message) (hfree : s.mustWait i x = false)
    (hroom : inboxLength s (s.areaAt x.stave w) w < 128) : ∃ t : State, exec (.inboxDiversion i) s = .next t ∧
      t.dev.net = listDrop s.dev.net i ∧ t.inboxCount (s.areaAt x.stave w) = inboxLength s (s.areaAt x.stave w) w + 1 ∧
      (t.contextAt x.stave w).inbox = (s.contextAt x.stave w).inbox ++ [x] := by
  have hcount := entryPut_count hs (s.areaAt x.stave w) hroom x
  have hdivert := divertItem_message hx hrefused hw hbase haway hold hk hfree hroom
  obtain ⟨m, p, hframe⟩ := entryPut_frame s (s.areaAt x.stave w) (inboxLength s (s.areaAt x.stave w) w) x
  rw [hframe] at hcount hdivert
  have hwhere : ((withMemory m p s).takeItem i).whereIs x.stave x.dst.toNat x.tag = some w := hw
  have hcontext : ((withMemory m p s).takeItem i).contextAt x.stave w = s.contextAt x.stave w := by cases w <;> rfl
  obtain ⟨hnet, hmem⟩ := onWhere_left ((withMemory m p s).takeItem i) x.stave w fun c => { c with inbox := c.inbox ++ [x] }
  refine ⟨_, congrArg Host.Outcome.next hdivert, hnet, ?_, ?_⟩
  · rw [State.inboxCount, Dev.peek, hmem]
    exact hcount
  · rw [contextAt_onWhere hwhere, hcontext]

end Sys2Proof.Proofs

end

section
/-! Remote accesses that are granted (R266), stalled world accesses (R326), interrupts (R393), and the limit of IDLE (R409). -/

namespace Sys2Proof.Proofs
open Machine Claims

/-! ## Traps from outside a core's word -/

/-- A cause that is raised at a core alone and is no trigger is taken as a trap. -/
theorem raiseAt_core {s : State} {k : Nat} {c : Cause} (hb : (s.coreAt k).bond ≠ .gang) (ht : (s.focus k).isTrigger c.code = false) (v : W64) :
    (s.raiseAt k c v).coreAt k = ((s.focus k).trapEntry c.code v (s.coreAt k).trapPc).me := by
  have hb' : (s.focus k).me.bond ≠ .gang := by rwa [focus_me]
  rw [State.raiseAt, if_neg hb', coreAt_focus, raise_trap ht, focus_me]
  generalize hu : (s.focus k).trapEntry c.code v (s.coreAt k).trapPc = u
  have hk : u.here = k := hu ▸ (trapEntry_here ..).trans (focus_here s k)
  rw [← hk, coreAt_here]

theorem trapEntry_vector (s : State) (c : BitVec 8) (v a : W64) :
    (s.trapEntry c v a).me.ctl.tcause = zext c ∧ (s.trapEntry c v a).me.ctl.tval = v ∧ (s.trapEntry c v a).me.ctl.tpc = a ∧
      (s.trapEntry c v a).me.pc = s.me.ctl.tvec ∧ (s.trapEntry c v a).me.ctl.ie = false ∧ (s.trapEntry c v a).me.regs = s.me.regs := by
  refine ⟨?_, ?_, ?_, ?_, ?_, trapEntry_regs ..⟩ <;> rw [trapEntry_me]

/-- The interrupts of a core stay through a trap. -/
theorem trapEntry_irqs (s : State) (c : BitVec 8) (v a : W64) :
    (s.trapEntry c v a).me.irqs = s.me.irqs ∧ (s.trapEntry c v a).me.async = s.me.async := by
  rw [trapEntry_me]
  split <;> exact ⟨rfl, rfl⟩

/-- A core takes a trap: it had the same registers, trap vector and place before. -/
theorem trappedAt_raiseAt {s u : State} {k : Nat} {c : Cause} (hb : (u.coreAt k).bond ≠ .gang)
    (ht : (u.focus k).isTrigger c.code = false) (hregs : (u.coreAt k).regs = (s.coreAt k).regs)
    (hctl : (u.coreAt k).ctl = (s.coreAt k).ctl) (hpc : (u.coreAt k).trapPc = (s.coreAt k).trapPc) (v : W64) :
    TrappedAt s (u.raiseAt k c v) k c.code v := by
  obtain ⟨hcause, hval, htpc, hvector, hie, hr⟩ := trapEntry_vector (u.focus k) c.code v (u.coreAt k).trapPc
  rw [TrappedAt, raiseAt_core hb ht]
  exact ⟨hcause, hval, htpc.trans hpc, hvector.trans (by rw [focus_me, hctl]), hie, hr.trans (by rw [focus_me, hregs])⟩

/-- Only four causes can be triggers (R432). -/
theorem isTrigger_of_member {s : State} (h : s.me.member = none) (c : BitVec 8) : s.isTrigger c = false := by
  rw [State.isTrigger, h]
  rfl

/-! ## Remote accesses -/

theorem remote_exec {s : State} {k : Nat} {va : W64} {got : List W64} (hw : (s.coreAt k).wait = some (.remote va got)) :
    exec (.remoteAccess k) s = .next (
      if got.contains va || (s.dev.net.any fun x => x.kind == .store && x.stave == (s.coreAt k).stave && x.src == (s.coreAt k).lcore &&
        x.srcTag == (s.coreAt k).ctl.ctxtag &&
        (if decide (field va 48 16 = 0xFFFE) then !x.peer && x.dst.toNat == field va 18 13 else x.peer)) ||
        !(!decide (field va 48 16 = 0xFFFE) ||
          ((s.dev.stave (s.coreAt k).stave).coreOf? (field va 18 13)).any fun k => (s.coreAt k).live)
      then s else s.onCore k fun c => { c with wait := some (.remote va (va :: got)) }) := by
  refine congrArg Host.Outcome.next ?_
  simp only [hw]
  rfl

theorem remote_waits {s : State} {k : Nat} {va : W64} {got : List W64} (hw : (s.coreAt k).wait = some (.remote va got)) (hva : va ∈ got) :
    exec (.remoteAccess k) s = .next s := by
  rw [remote_exec hw, List.contains_iff_mem.mpr hva]
  rfl

theorem remote_granted {s : State} {k : Nat} {va : W64} {got : List W64} (hw : (s.coreAt k).wait = some (.remote va got)) (hva : va ∉ got)
    (hfar : field va 48 16 = 0xFFFE) (hstores : ∀ x ∈ s.dev.net, x.kind ≠ .store)
    (hthere : ∃ q, (s.dev.stave (s.coreAt k).stave).coreOf? (field va 18 13) = some q ∧ (s.coreAt q).live = true) :
    ∃ t : State, exec (.remoteAccess k) s = .next t ∧ t.coreAt k = { s.coreAt k with wait := some (.remote va (va :: got)) } := by
  obtain ⟨q, hq, hlive⟩ := hthere
  have hgot : got.contains va = false := by simpa using hva
  have hearlier (p : NetItem → Bool) : (s.dev.net.any fun x => x.kind == .store && p x) = false := by
    rw [List.any_eq_false]
    intro x hx
    simp [hstores x hx]
  refine ⟨_, remote_exec hw, ?_⟩
  simp only [Bool.and_assoc, hearlier, hgot, hfar, hq, Option.any_some, hlive, decide_true, Bool.not_true, Bool.or_self, Bool.false_or,
    Bool.false_eq_true, ↓reduceIte]
  rw [coreAt_onCore_same]

/-! ## World accesses that stall -/

theorem stall_exec {s : State} {k : Nat} {w : WorldWait} (hw : (s.coreAt k).wait = some (.world w)) : exec (.worldStall k) s = .next (
    if w.answer.isNone && decide (field (s.dev.stave (s.coreAt k).stave).wwait 0 32 * 1024 < (s.dev.cycle - w.since).toNat) then
      s.raiseAt k .worldStall w.handle else s) := by
  refine congrArg Host.Outcome.next ?_
  simp only [hw]

theorem stall_waits {s : State} {k : Nat} {w : WorldWait} (hw : (s.coreAt k).wait = some (.world w))
    (h : (s.dev.cycle - w.since).toNat ≤ field (s.dev.stave (s.coreAt k).stave).wwait 0 32 * 1024) : exec (.worldStall k) s = .next s := by
  rw [stall_exec hw, decide_eq_false (Nat.not_lt.mpr h), Bool.and_false]
  rfl

theorem stall_traps {s : State} {k : Nat} {w : WorldWait} (hw : (s.coreAt k).wait = some (.world w))
    (h : field (s.dev.stave (s.coreAt k).stave).wwait 0 32 * 1024 < (s.dev.cycle - w.since).toNat) (hanswer : w.answer = none)
    (hb : (s.coreAt k).bond ≠ .gang) : ∃ t : State, exec (.worldStall k) s = .next t ∧ TrappedAt s t k 0x0A w.handle := by
  have htrigger : (s.focus k).isTrigger Cause.worldStall.code = false := by simp [State.isTrigger, Cause.code]
  refine ⟨_, ?_, trappedAt_raiseAt (c := .worldStall) hb htrigger rfl rfl rfl w.handle⟩
  rw [stall_exec hw, decide_eq_true h, hanswer]
  rfl

/-! ## Interrupts -/

theorem interrupt_waits {s : State} {k : Nat} (h : (s.coreAt k).interruptDue = false) : exec (.interrupt k) s = .next s := by
  refine congrArg Host.Outcome.next ?_
  simp only [State.takeInterrupt, h, Bool.not_false, ↓reduceIte]

/-- A pair that has diverged, in a core of no instance. -/
theorem interrupt_async {s : State} {k : Nat} {v : W64} (hdue : (s.coreAt k).interruptDue = true) (hb : (s.coreAt k).bond ≠ .gang)
    (ha : (s.coreAt k).async = some v) (hm : (s.coreAt k).member = none) :
    ∃ t : State, exec (.interrupt k) s = .next t ∧ TrappedAt s t k 0x0F v ∧ (t.coreAt k).async = none := by
  generalize hu : s.onCore k (fun c => { c with async := none }) = u
  have hcore : u.coreAt k = { s.coreAt k with async := none } := hu ▸ coreAt_onCore_same ..
  have hbond : (u.coreAt k).bond ≠ .gang := by rwa [hcore]
  have htrigger : (u.focus k).isTrigger Cause.pairMismatch.code = false := isTrigger_of_member (by rw [focus_me, hcore]; exact hm) _
  refine ⟨u.raiseAt k .pairMismatch v, congrArg Host.Outcome.next ?_, trappedAt_raiseAt (c := .pairMismatch) hbond htrigger
    (by rw [hcore]) (by rw [hcore]) (by rw [hcore]; rfl) v, ?_⟩
  · simp only [State.takeInterrupt, hdue, ha, Bool.not_true, Bool.false_eq_true, ↓reduceIte, hu]
  · rw [raiseAt_core hbond htrigger, (trapEntry_irqs ..).2, focus_me, hcore]

theorem irq_isTrigger (s : State) (x : Irq) : s.isTrigger x.cause.1.code = false := by
  cases x <;> simp [State.isTrigger, Irq.cause, Cause.code]

/-- The oldest interrupt is taken. -/
theorem interrupt_oldest {s : State} {k : Nat} {x : Irq} {rest : List Irq} (hdue : (s.coreAt k).interruptDue = true)
    (hb : (s.coreAt k).bond ≠ .gang) (ha : (s.coreAt k).async = none) (hx : (s.coreAt k).irqs = x :: rest) :
    ∃ t : State, exec (.interrupt k) s = .next t ∧ (t.coreAt k).irqs = rest ∧ TrappedAt s t k x.cause.1.code x.cause.2 := by
  generalize hu : s.onCore k (fun c => { c with irqs := rest }) = u
  have hcore : u.coreAt k = { s.coreAt k with irqs := rest } := hu ▸ coreAt_onCore_same ..
  have hbond : (u.coreAt k).bond ≠ .gang := by rwa [hcore]
  have htrigger := irq_isTrigger (u.focus k) x
  refine ⟨u.raiseAt k x.cause.1 x.cause.2, congrArg Host.Outcome.next ?_, ?_, trappedAt_raiseAt hbond htrigger (by rw [hcore])
    (by rw [hcore]) (by rw [hcore]; rfl) x.cause.2⟩
  · simp only [State.takeInterrupt, hdue, ha, hx, Bool.not_true, Bool.false_eq_true, ↓reduceIte, hu]
  · rw [raiseAt_core hbond htrigger, (trapEntry_irqs ..).1, focus_me, hcore]

/-! ## The limit of IDLE -/

theorem idle_passes {s : State} {k : Nat} {since limit : W64} (hw : (s.coreAt k).wait = some (.idle since limit false)) (hl : limit ≠ 0)
    (h : limit.toNat ≤ (s.dev.cycle - since).toNat) : ∃ t : State, exec (.idleTimeout k) s = .next t ∧
      t.coreAt k = { s.coreAt k with wait := some (.idle since limit true) } := by
  refine ⟨_, rfl, ?_⟩
  rw [coreAt_onCore_same, Core.idleElapse, hw]
  exact if_pos ⟨hl, h⟩

end Sys2Proof.Proofs

end

section
/-! What the ends, the saves and the rollbacks of contexts leave of the jobs: where their instances are, how often they have gone back, and
how they end (R379, R400, R414, R432). -/

namespace Sys2Proof.Proofs
open Machine

/-! ## The course of the jobs -/

/-- From s to t the course of every job and the counts of errors are as before. -/
structure Course (s t : State) : Prop where
  errors : t.dev.errors = s.dev.errors
  jobs : ∀ n, JobsKept (s.dev.stave n) (t.dev.stave n)

theorem Aside.course {s t : State} (h : Aside s t) : Course s t := ⟨h.errors, h.jobs⟩

theorem Course.of_eq {s t : State} (he : t.dev.errors = s.dev.errors := by rfl) (hs : t.dev.staves = s.dev.staves := by rfl) : Course s t :=
  ⟨he, fun n => .of_eq (by rw [Dev.stave, hs, Dev.stave])⟩

theorem Course.of_dev {s t : State} (h : t.dev = s.dev) : Course s t := .of_eq (by rw [h]) (by rw [h])

theorem Course.refl (s : State) : Course s s := .of_eq

theorem Course.trans {s t u : State} (h : Course s t) (h' : Course t u) : Course s u :=
  ⟨h'.errors.trans h.errors, fun n => (h.jobs n).trans (h'.jobs n)⟩

theorem Course.ite {c : Prop} [Decidable c] {s t u : State} (ht : Course s t) (hu : Course s u) : Course s (if c then t else u) := by
  split
  · exact ht
  · exact hu

theorem Course.foldl {α : Type} {f : State → α → State} (hf : ∀ s x, Course s (f s x)) : ∀ (l : List α) (s : State), Course s (l.foldl f s)
  | [], s => .refl s
  | x :: l, s => (hf s x).trans (Course.foldl hf l (f s x))

/-- A fold of steps on a value that holds a state. -/
theorem Course.foldl_part {α β : Type} (p : β → State) {f : β → α → β} (hf : ∀ r x, Course (p r) (p (f r x))) :
    ∀ (l : List α) (r : β), Course (p r) (p (l.foldl f r))
  | [], r => .refl (p r)
  | x :: l, r => (hf r x).trans (Course.foldl_part p hf l (f r x))

theorem onStave_course (s : State) (n : BitVec 6) {f : Stave → Stave} (hj : JobsKept (s.dev.stave n) (f (s.dev.stave n))) :
    Course s (s.onStave n f) where
  errors := rfl
  jobs m := by
    rw [stave_onStave]
    split
    · next h => rw [h]; exact hj
    · exact .of_eq rfl

/-- A change of a stave that leaves its jobs. -/
theorem onStave_course_jobs (s : State) (n : BitVec 6) {f : Stave → Stave} (h : ∀ t, (f t).jobs = t.jobs) : Course s (s.onStave n f) :=
  onStave_course s n (.of_eq (h _))

theorem onJob_course (s : State) (n k : BitVec 6) {f : Job → Job} (hn : ∀ j, (f j).num = j.num) (hf : ∀ j, JobKept j (f j)) :
    Course s (s.onStave n fun t => t.onJob k f) := (onJob_aside s n k hn hf).course

theorem onCore_course (s : State) (k : Nat) (f : Core → Core) : Course s (s.onCore k f) := .of_dev (onCore_dev ..)

theorem setCore_course (s : State) (k : Nat) (c : Core) : Course s (s.setCore k c) := .of_dev (setCore_dev ..)

/-- A change with another core in focus. -/
theorem at_course (s : State) (k : Nat) {f : State → State} (hf : ∀ u, Course u (f u)) : Course s (s.at k f) := by
  have h : Course s (f (s.focus k)) := (Course.of_dev (focus_dev s k)).trans (hf _)
  exact h.trans (.of_dev (focus_dev ..))

/-! ## Issuers -/

/-- What the staves of a map have in common with those from which they are made. -/
theorem assocGet_map_part {α β : Type} (d : α) {f : α → α} {p : α → β} (hp : ∀ x, p (f x) = p x) (k : Nat) :
    ∀ l : List (Nat × α), p (assocGet d k (l.map fun t => (t.1, f t.2))) = p (assocGet d k l)
  | [] => rfl
  | (j, x) :: l => by
    rw [List.map_cons, assocGet, assocGet]
    split
    · exact hp x
    · exact assocGet_map_part d hp k l

theorem mapIssuers_course (s : State) (f : Issuer → Issuer) : Course s (s.mapIssuers f) := by
  unfold State.mapIssuers
  refine Course.trans ?_ (Course.foldl (fun _ _ => onCore_course ..) _ _)
  exact ⟨rfl, fun n => .of_eq (assocGet_map_part (α := Stave) (f := fun t => t.mapIssuers f) (p := Stave.jobs) _ (fun _ => rfl) _ _)⟩

theorem moveIssuers_course (s : State) (n : BitVec 6) (a b : Nat) : Course s (s.moveIssuers n a b) := mapIssuers_course ..

theorem onIssuer_course (s : State) (who : Issuer) (f : Core → Core) : Course s (s.onIssuer who f) := by
  unfold State.onIssuer
  refine .ite (.refl s) (.ite (onCore_course ..) (onStave_course_jobs _ _ fun t => ?_))
  split <;> rfl

theorem answer_course (s : State) (m : MCmd) (good : Bool) : Course s (s.answer m good) := by
  unfold State.answer
  split
  · exact .refl s
  · exact onIssuer_course ..

theorem completeOp_course (s : State) (who : Issuer) (addr : W64) (status : Nat) : Course s (s.completeOp who addr status) :=
  (completeOp_aside ..).course

/-! ## Contexts that end -/

theorem dropHeld_course (s : State) (c : Core) : Course s (s.dropHeld c) :=
  (Course.foldl (f := fun (s : State) (m : MCmd) => s.completeOp m.sender m.sync 0x20) (fun _ _ => completeOp_course ..) _ s).trans
    (Course.foldl (f := fun (s : State) (m : MCmd) => (s.answer m false).completeOp m.sender m.sync 0x20)
      (fun _ _ => (answer_course ..).trans (completeOp_course ..)) _ _)

theorem countRetired_course (s : State) (c : Core) : Course s (s.countRetired c) := by
  unfold State.countRetired
  split
  · exact onJob_course _ _ _ (fun _ => rfl) fun _ => .of_eq
  · exact .refl s

theorem killParkedAccess_course (s : State) (k : Nat) : Course s (s.killParkedAccess k) := by
  unfold State.killParkedAccess
  split
  · next va _ _ => exact at_course s k fun u => .of_dev (trapEntry_dev u Cause.faultKilled.code va u.me.trapPc)
  · exact .refl s

theorem dropL1_course (s : State) (k : Nat) : Course s (s.dropL1 k) :=
  Course.trans .of_eq (Course.foldl (f := fun (s : State) (d : DirLine) => s.putDir (d.drop k 0xFFFF)) (fun _ _ => (putDir_aside ..).course) _ _)

theorem quietCore_course (s : State) (k : Nat) : Course s (s.quietCore k) :=
  (at_course s k fun u => (acquire_aside u).course.trans .of_eq).trans (dropL1_course ..)

theorem freeCore_course (s : State) (k : Nat) : Course s (s.freeCore k) :=
  ((killParkedAccess_course s k).trans (quietCore_course ..)).trans
    ((countRetired_course ..).trans ((setCore_course ..).trans ((moveIssuers_course ..).trans (dropHeld_course ..))))

/-- The context's number or area ends, and with it what the context holds. -/
theorem freed_course (s : State) (n : BitVec 6) (c : Core) {f : Stave → Stave} (hf : ∀ t, (f t).jobs = t.jobs) (a b : Nat) :
    Course s ((((s.countRetired c).onStave n f).moveIssuers n a b).dropHeld c) :=
  (countRetired_course ..).trans ((onStave_course_jobs _ n hf).trans ((moveIssuers_course ..).trans (dropHeld_course ..)))

theorem freeAbsent_course (s : State) (n : BitVec 6) (l : Nat) : Course s (s.freeAbsent n l) := by
  unfold State.freeAbsent
  exact freed_course s n _ (f := fun t => { t with map := assocErase l t.map, absent := assocErase l t.absent }) (fun _ => rfl) _ _

theorem freeSaved_course (s : State) (n : BitVec 6) (base : Nat) : Course s (s.freeSaved n base) := by
  unfold State.freeSaved
  exact freed_course s n _ (f := fun t => { t with saved := assocErase base t.saved }) (fun _ => rfl) _ _

/-! ## Their parked sectors -/

theorem countSector_course (s : State) (cp : Copy) (i status : Nat) : Course s (s.countSector cp i status) :=
  .ite (.refl s) (syncPut_aside ..).course

theorem sectorDone_course (s : State) (k ch : Nat) (cp : Copy) (i status : Nat) : Course s (s.sectorDone k ch cp i status) := by
  unfold State.sectorDone
  exact (countSector_course s cp i status).trans (onCore_course ..)

theorem killSector_course (s : State) (k ch i : Nat) : Course s (s.killSector k ch i) := by
  unfold State.killSector
  split
  · exact .refl s
  · exact sectorDone_course ..

theorem killSectors_course (s : State) (k : Nat) : Course s (s.killSectors k) :=
  Course.foldl (fun _ _ => Course.foldl (f := fun (s : State) (x : Nat × Nat × Nat) => s.killSector k _ x.1) (fun _ _ => killSector_course ..) _ _) _ s

theorem killParked_course (s : State) (c : Core) : Course s (s.killParked c) :=
  Course.foldl (fun s (cp : Copy) => Course.foldl_part (β := State × Copy) Prod.fst (fun _ _ => countSector_course ..) _ (s, cp)) _ s

/-! ## Their checkpoints and moves -/

theorem freeEntries_course (s : State) (n : BitVec 6) (l : List Nat) : Course s (s.freeEntries n l) :=
  Course.foldl (fun _ _ => (poke_aside ..).course) l s

theorem clearBitmaps_course (s : State) (n : BitVec 6) (ls : List (BitVec 13)) : Course s (s.clearBitmaps n ls) :=
  .ite (.refl s) (Course.foldl (fun _ _ => (poke_aside ..).course) ls s)

theorem dropCk_course (s : State) (n : BitVec 6) (d : Dom) (members : List (BitVec 13)) : Course s (s.dropCk n d members) :=
  .ite ((freeEntries_course ..).trans (clearBitmaps_course ..)) (.refl s)

theorem endMoves_aside (s : State) (n : BitVec 6) (p : Move → Bool) : Aside s (s.endMoves n p) :=
  (onStave_aside s n (f := fun t => { t with moves := t.moves.filter fun m => !p m }) rfl (.of_eq rfl)).trans
    (Aside.foldl (f := fun (s : State) (m : Move) => s.completeOp m.who m.sync 0) (fun _ _ => completeOp_aside ..) _ _)

theorem occupancy_course (s : State) (n : BitVec 6) : Course s (s.occupancy n) := by
  unfold State.occupancy
  exact onStave_course_jobs s n fun _ => rfl

theorem slotFreed_course (s : State) (n : BitVec 6) : Course s (s.slotFreed n) := by
  unfold State.slotFreed
  exact (occupancy_course s n).trans (onStave_course_jobs _ n fun _ => rfl)

theorem blame_course (s : State) (n job : BitVec 6) (unit : BitVec 32) : Course s (s.blame n job unit) := by
  refine onJob_course _ _ _ (fun j => ?_) fun j => ?_
  · split <;> rfl
  · split
    · exact .of_eq
    · exact .refl j

end Sys2Proof.Proofs

end

section
/-! Saves and rollbacks (R400, R432): the contexts that are written to their areas and those that go back leave the course of the jobs. -/

namespace Sys2Proof.Proofs
open Machine

/-! ## Contexts that are saved -/

theorem saveArea_course (s : State) (base : Nat) (c : Core) (a : AreaState) (tpc : W64) (g0 : Option Reg) :
    Course s (s.saveArea base c a tpc g0) := by
  unfold State.saveArea
  exact (memory_aside s _ _).course

theorem numberCore_course (s : State) (n : BitVec 6) (k : Nat) : Course s (s.numberCore n k) := by
  unfold State.numberCore
  refine Course.trans ?_ (onCore_course ..)
  exact onStave_course_jobs s n fun _ => rfl

theorem returnNotes_course (s : State) (k : Nat) : Course s (s.returnNotes k) := by
  unfold State.returnNotes
  exact (Course.foldl (fun _ _ => (onPat_aside ..).course) _ s).trans (onCore_course ..)

theorem stopCore_course (s : State) (k : Nat) : Course s (s.stopCore k) := (returnNotes_course ..).trans (quietCore_course ..)

theorem saveAway_course (s : State) (n : BitVec 6) (k origin : Nat) (cores : List Nat) : Course s (s.saveAway n k origin cores) := by
  unfold State.saveAway
  refine Course.trans ?_ (numberCore_course ..)
  refine Course.trans ?_ (moveIssuers_course ..)
  refine Course.trans ?_ (setCore_course ..)
  refine Course.trans ?_ (onStave_course_jobs _ _ fun _ => rfl)
  exact (stopCore_course s k).trans (saveArea_course ..)

/-! ## Contexts that go back -/

theorem dropLines_course (s : State) (p : Nat → Bool) : Course s (s.dropLines p) := by
  unfold State.dropLines
  exact Course.trans .of_eq (Course.foldl (fun _ _ => onCore_course ..) _ _)

theorem onWhere_course (s : State) (n : BitVec 6) (w : Whereabouts) (f : Core → Core) : Course s (s.onWhere n w f) := by
  cases w with
  | core k => exact onCore_course ..
  | absent l =>
    unfold State.onWhere
    exact onStave_course_jobs s n fun _ => rfl
  | saved base =>
    unfold State.onWhere
    exact onStave_course_jobs s n fun _ => rfl

theorem putMember_course (s : State) (n : BitVec 6) (w : Whereabouts) (c : Core) : Course s (s.putMember n w c) := by
  cases w with
  | core k => exact setCore_course ..
  | absent l =>
    unfold State.putMember
    exact Course.trans (saveArea_course ..) (onWhere_course ..)
  | saved base =>
    unfold State.putMember
    exact Course.trans (saveArea_course ..) (onWhere_course ..)

theorem poke_kept (d : Dev) (key n x : Nat) : (d.poke key n x).errors = d.errors ∧ (d.poke key n x).staves = d.staves := ⟨rfl, rfl⟩

theorem undoEntry_course (s : State) (n : BitVec 6) (i : Nat) : Course s (s.undoEntry n i) := by
  unfold State.undoEntry
  refine Course.trans (dropLines_course s fun l => l == s.entryLine n i / 128) ?_
  refine .of_eq ?_ ?_ <;> simp only [poke_kept]

theorem abandon_course (s : State) (n : BitVec 6) (w : Whereabouts) : Course s (s.abandon n w) := by
  unfold State.abandon
  refine Course.trans ?_ (Course.foldl (fun _ _ => putMember_course ..) _ _)
  exact Course.trans .of_eq (putMember_course ..)

theorem undoMember_course (s : State) (n : BitVec 6) (j : Job) (d : Dom) (l : BitVec 13) : Course s (s.undoMember n j d l) := by
  unfold State.undoMember
  split
  · exact .refl s
  · exact (abandon_course ..).trans ((putMember_course ..).trans (clearBitmaps_course ..))

theorem armEntry_course (s : State) (n job : BitVec 6) (i : Nat) (e : PatEntry) : Course s (s.armEntry n job i e) := by
  unfold State.armEntry
  split
  · exact (onPat_aside ..).course
  · exact (onPat_aside ..).course.trans (.ite (onCore_course ..) (.refl _))

theorem undoPattern_course (s : State) (n job : BitVec 6) (d : Dom) (i : Nat) (p : Pattern) : Course s (s.undoPattern n job d i p) := by
  unfold State.undoPattern
  simp only
  refine .ite (.refl s) ?_
  have hback := ((dropNotes_aside s n job i).course.trans (onPat_aside _ n job i fun _ =>
      if p.st = .record then (if p.within d then { p with entries := [], barred := [] } else p)
      else { p with entries := p.entries.map fun e => { e with armed := false } }).course).trans
    (onJob_course _ n job (f := fun j => { j with nfallbacks := j.nfallbacks - ((s.patOf n job i).falls - p.falls) }) (fun _ => rfl)
      fun _ => .of_eq)
  exact .ite (hback.trans (Course.foldl (fun _ _ => armEntry_course ..) _ _)) hback

/-! ## A job that ends before its instances have (R414) -/

/-- The contexts of a job and what they hold end. -/
def jobFreed (s : State) (n job : BitVec 6) (j : Job) : State :=
  let s := j.doms.foldl (fun (s : State) d => s.dropCk n d (j.counted d)) s
  let s := j.insts.foldl (fun s i =>
    let s := i.cores.foldl (fun s k => (s.killSectors k).freeCore k) s
    if i.cores.isEmpty then i.lcores.foldl (fun s l =>
      (s.killParked (assocGet Core.reset l.toNat (s.dev.stave n).absent)).freeAbsent n l.toNat) s else s) s
  ((s.dev.stave n).savedOf job).foldl (fun s base => (s.killParked (assocGet Core.reset base (s.dev.stave n).saved)).freeSaved n base) s

/-- Its parked additions to sync objects are made no more. -/
def syncsDropped (n job : BitVec 6) (s : State) : State :=
  { s with dev := { s.dev with syncs := s.dev.syncs.filter fun x => !(x.parked && x.who.job == some job && x.who.stave == n) } }

theorem jobFreed_course (s : State) (n job : BitVec 6) (j : Job) : Course s (jobFreed s n job j) := by
  unfold jobFreed
  refine Course.trans ?_ (Course.foldl (fun _ _ => (killParked_course ..).trans (freeSaved_course ..)) _ _)
  refine Course.trans ?_ (Course.foldl (fun s i => ?_) _ _)
  · exact Course.foldl (fun _ _ => dropCk_course ..) _ s
  · have hcores : Course s (i.cores.foldl (fun s k => (s.killSectors k).freeCore k) s) :=
      Course.foldl (fun _ _ => (killSectors_course ..).trans (freeCore_course ..)) _ s
    exact .ite (hcores.trans (Course.foldl (fun _ _ => (killParked_course ..).trans (freeAbsent_course ..)) _ _)) hcores

/-- A job whose instances are no more, and whose domains have nothing in progress. -/
def emptied (j : Job) : Job := { j with insts := [], doms := j.doms.map fun (d : Dom) => { d with arrived := [], ck := .none } }

/-- A stave whose job has no instances, requests and faults. -/
def jobCleared (ready : List Ready) (faults : List FaultRec) (job : BitVec 6) (t : Stave) : Stave :=
  ({ t with ready := ready, faults := faults } : Stave).onJob job emptied

/-- A job that is stopped has no instances; its status and reason are as before. -/
theorem stopJob_job {s : State} {n job : BitVec 6} {j : Job} (hj : (s.dev.stave n).job? job = some j) :
    (s.stopJob n job).dev.errors = s.dev.errors ∧ ∃ j', ((s.stopJob n job).dev.stave n).job? job = some j' ∧ j'.insts = [] ∧
      (j.status.isSome = true → j'.status = j.status ∧ j'.reason = j.reason) := by
  obtain ⟨ready, faults, u, hu, hstop⟩ : ∃ ready faults u, Course s u ∧ s.stopJob n job =
      ((u.onStave n (jobCleared ready faults job)).endMoves n fun m => m.job == job).slotFreed n := by
    unfold State.stopJob
    simp only [hj]
    exact ⟨_, _, syncsDropped n job (jobFreed s n job j), (jobFreed_course s n job j).trans .of_eq, rfl⟩
  obtain ⟨j1, hj1, hk1⟩ := hu.jobs n job j hj
  have hjob : ((u.onStave n (jobCleared ready faults job)).dev.stave n).job? job = some (emptied j1) := by
    rw [stave_onStave, if_pos rfl, jobCleared, job?_onJob _ _ (f := emptied) fun _ h => h, if_pos rfl]
    exact congrArg (Option.map emptied) hj1
  have hend : Course (u.onStave n (jobCleared ready faults job)) (s.stopJob n job) := by
    rw [hstop]
    exact (endMoves_aside ..).course.trans (slotFreed_course ..)
  obtain ⟨j', hj', hk'⟩ := hend.jobs n job _ hjob
  refine ⟨hend.errors.trans hu.errors, j', hj', List.map_eq_nil_iff.mp hk'.insts, fun hs => ?_⟩
  obtain ⟨hst, hr⟩ := hk1.ended hs
  obtain ⟨hst', hr'⟩ := hk'.ended (by rw [← hst] at hs; exact hs)
  exact ⟨hst'.trans hst, hr'.trans hr⟩

/-- A job ends: the first status and reason stand. -/
theorem endJob_job {s : State} {n job : BitVec 6} {j : Job} (hj : (s.dev.stave n).job? job = some j) (status : Nat) (reason : W64) :
    ∃ j', ((s.endJob n job status reason).dev.stave n).job? job = some j' ∧ j'.insts = [] ∧
      (j.status = none → j'.status = some (BitVec.ofNat 16 status) ∧ j'.reason = reason) := by
  unfold State.endJob
  generalize hu : s.onStave n _ = u
  have hjob : (u.dev.stave n).job? job =
      some (if j.status.isNone then { j with status := some (BitVec.ofNat 16 status), reason := reason } else j) := by
    rw [← hu, stave_onStave, if_pos rfl, job?_onJob, if_pos rfl, hj]
    · rfl
    · intro j h
      split <;> exact h
  obtain ⟨-, j', hj', hinsts, hended⟩ := stopJob_job hjob
  refine ⟨j', hj', hinsts, fun hn => ?_⟩
  rw [hn] at hended
  exact hended rfl

/-! ## A domain that goes back -/

theorem rollBack_job {s : State} {n : BitVec 6} {j j0 : Job} {d : Dom} (hj : (s.dev.stave n).job? j.num = some j0)
    (hp : s.ckPoisoned n d (j.counted d) = none) : ∃ j', ((s.rollBack n j d).dev.stave n).job? j.num = some j' ∧
      j'.nrollbacks = j0.nrollbacks + 1 ∧ j'.rolled = true := by
  unfold State.rollBack
  simp only [hp]
  generalize hu : j.patsAt.foldl _ _ = u
  have hcourse : Course s u := by
    rw [← hu]
    refine Course.trans ?_ (Course.foldl (fun _ _ => undoPattern_course ..) _ _)
    refine Course.trans ?_ (Course.foldl (fun _ _ => undoMember_course ..) _ _)
    exact Course.foldl (fun _ _ => undoEntry_course ..) _ s
  obtain ⟨j1, hj1, hk⟩ := hcourse.jobs n j.num j0 hj
  rw [stave_onStave, if_pos rfl, job?_onJob, if_pos rfl, hj1]
  · exact ⟨_, rfl, congrArg (· + 1) hk.nrollbacks, rfl⟩
  · exact fun _ h => h

end Sys2Proof.Proofs

end

section
/-! Triggers (R432, R433), and an instance that is pre-empted (R400). -/

namespace Sys2Proof.Proofs
open Machine Claims

/-! ## Triggers -/

/-- The protected domain of a member that is in no repetition. -/
def freshDom (j : Job) (m : Member) : Option Dom := (j.ckpt? m).bind fun d => if d.ck.unprot || d.ck.rerun then none else some d

theorem freshDom_none {j : Job} {m : Member} (h : ∀ d, j.ckpt? m = some d → d.ck.unprot = true ∨ d.ck.rerun = true) :
    freshDom j m = none := by
  refine Option.bind_eq_none_iff.mpr fun d hd => if_pos ?_
  rw [Bool.or_eq_true]
  exact h d hd

theorem freshDom_some {j : Job} {m : Member} {d : Dom} (h : j.ckpt? m = some d) (hu : d.ck.unprot = false) (hr : d.ck.rerun = false) :
    freshDom j m = some d := by
  rw [freshDom, h, Option.bind_some, hu, hr]
  rfl

/-- A trigger that makes cores suspect: they are marked, and the job names one. -/
def suspected (s : State) (n : BitVec 6) (k : Nat) (m : Member) (cause : BitVec 8) : State :=
  let bad := s.suspects n k m cause
  let s := bad.foldl (fun s k => (s.mark (coreUnit k)).poisonHeld k) s
  if bad.isEmpty then s else s.blame n m.job (suspectUnit k cause)

theorem actOnTrigger_fresh {s : State} {k : Nat} {cause : BitVec 8} {val : W64} {m : Member} {j : Job} {d : Dom}
    (hw : (s.coreAt k).wait = some (.trigger cause val)) (hm : (s.coreAt k).member = some m)
    (hj : (s.dev.stave (s.coreAt k).stave).job? m.job = some j) (hbad : s.suspects (s.coreAt k).stave k m cause = [])
    (hd : freshDom j m = some d) : s.actOnTrigger k = s.rollBack (s.coreAt k).stave j d := by
  unfold freshDom at hd
  simp only [State.actOnTrigger, hw, hm, hj, hbad, hd]
  rfl

theorem actOnTrigger_late {s : State} {k : Nat} {cause : BitVec 8} {val : W64} {m : Member} {j : Job}
    (hw : (s.coreAt k).wait = some (.trigger cause val)) (hm : (s.coreAt k).member = some m)
    (hj : (s.dev.stave (s.coreAt k).stave).job? m.job = some j) (hd : freshDom j m = none) : s.actOnTrigger k =
      if cause = 0x10 then (suspected s (s.coreAt k).stave k m cause).raiseAt k .poison val
      else (suspected s (s.coreAt k).stave k m cause).endJob (s.coreAt k).stave m.job (triggerStatus cause) val := by
  unfold freshDom at hd
  simp only [State.actOnTrigger, hw, hm, hj, hd]
  rfl

theorem suspects_nil (s : State) (n : BitVec 6) (k : Nat) (m : Member) {cause : BitVec 8} (h : cause = 0x10 ∨ cause = 0x11) :
    s.suspects n k m cause = [] := by
  rcases h with rfl | rfl <;> rfl

theorem suspected_nil {s : State} {n : BitVec 6} {k : Nat} {m : Member} {cause : BitVec 8} (h : s.suspects n k m cause = []) :
    suspected s n k m cause = s := by
  rw [suspected, h]
  rfl

theorem mark_staves (s : State) (u : BitVec 32) : (s.mark u).dev.staves = s.dev.staves := by
  unfold State.mark
  split <;> rfl

/-- The job of a suspect member has its status as before. -/
theorem suspected_job {s : State} {n : BitVec 6} {k : Nat} {m : Member} {cause : BitVec 8} {j : Job} (hj : (s.dev.stave n).job? m.job = some j) :
    ∃ j', ((suspected s n k m cause).dev.stave n).job? m.job = some j' ∧ j'.status = j.status := by
  unfold suspected
  generalize hu : (s.suspects n k m cause).foldl (fun s k => (s.mark (coreUnit k)).poisonHeld k) s = u
  have hstaves : u.dev.staves = s.dev.staves := by
    rw [← hu]
    exact foldl_leaves (fun s => s.dev.staves) (fun s k => (s.mark (coreUnit k)).poisonHeld k)
      (fun s k => mark_staves s (coreUnit k)) _ s
  have hjob : (u.dev.stave n).job? m.job = some j := by rwa [Dev.stave, hstaves]
  simp only [hu]
  split
  · exact ⟨j, hjob, rfl⟩
  · refine ⟨if j.failUnit = 0 then { j with failUnit := suspectUnit k cause } else j, ?_, by split <;> rfl⟩
    rw [State.blame, stave_onStave, if_pos rfl, job?_onJob, if_pos rfl, hjob]
    · rfl
    · intro j h
      split <;> exact h

/-- POISON traps where ROLLBACK has nothing to take back. -/
theorem trigger_traps {s : State} {k : Nat} {val : W64} {m : Member} {j : Job} (hw : (s.coreAt k).wait = some (.trigger 0x10 val))
    (hm : (s.coreAt k).member = some m) (hj : (s.dev.stave (s.coreAt k).stave).job? m.job = some j)
    (hlate : ∀ d, j.ckpt? m = some d → d.ck.unprot = true ∨ d.ck.rerun = true) (hb : (s.coreAt k).bond ≠ .gang) :
    ∃ t : State, exec (.rollback k) s = .next t ∧ TrappedAt s t k 0x10 val := by
  have hact := actOnTrigger_late hw hm hj (freshDom_none hlate)
  rw [if_pos rfl, suspected_nil (suspects_nil s _ k m (.inl rfl))] at hact
  have hfirst : (s.focus k).protectedFirst = false := by
    have hjob : (s.focus k).job? = some j := by
      rw [State.job?, focus_me, hm, Option.bind_some, State.stave, focus_dev, focus_me]
      exact hj
    rw [State.protectedFirst, hjob, focus_me, hm]
    cases hd : j.ckpt? m with
    | none => simp [hd]
    | some d => rcases hlate d hd with h | h <;> simp [hd, h]
  have htrigger : (s.focus k).isTrigger Cause.poison.code = false := by simp [State.isTrigger, Cause.code, hfirst]
  exact ⟨_, congrArg Host.Outcome.next hact, trappedAt_raiseAt (c := .poison) hb htrigger rfl rfl rfl val⟩

/-- Any other trigger ends the job. -/
theorem trigger_ends {s : State} {k : Nat} {cause : BitVec 8} {val : W64} {m : Member} {j : Job}
    (hw : (s.coreAt k).wait = some (.trigger cause val)) (hm : (s.coreAt k).member = some m)
    (hj : (s.dev.stave (s.coreAt k).stave).job? m.job = some j)
    (hlate : ∀ d, j.ckpt? m = some d → d.ck.unprot = true ∨ d.ck.rerun = true) (hcause : cause ≠ 0x10) :
    ∃ (t : State) (j' : Job), exec (.rollback k) s = .next t ∧ (t.dev.stave (s.coreAt k).stave).job? m.job = some j' ∧ j'.insts = [] ∧
      (j.status = none → j'.status = some (BitVec.ofNat 16 (triggerStatus cause)) ∧ j'.reason = val) := by
  have hact := actOnTrigger_late hw hm hj (freshDom_none hlate)
  rw [if_neg hcause] at hact
  obtain ⟨j1, hj1, hst⟩ := suspected_job (k := k) (cause := cause) hj
  obtain ⟨j', hj', hinsts, hended⟩ := endJob_job hj1 (triggerStatus cause) val
  exact ⟨_, j', congrArg Host.Outcome.next hact, hj', hinsts, fun hn => hended (hst.trans hn)⟩

/-- The domain goes back. -/
theorem trigger_rolls {s : State} {k : Nat} {cause : BitVec 8} {val : W64} {m : Member} {j : Job} {d : Dom}
    (hw : (s.coreAt k).wait = some (.trigger cause val)) (hm : (s.coreAt k).member = some m)
    (hj : (s.dev.stave (s.coreAt k).stave).job? m.job = some j) (hd : j.ckpt? m = some d) (hu : d.ck.unprot = false)
    (hr : d.ck.rerun = false) (hcause : cause = 0x10 ∨ cause = 0x11)
    (hp : s.ckPoisoned (s.coreAt k).stave d (j.counted d) = none) :
    ∃ (t : State) (j' : Job), exec (.rollback k) s = .next t ∧ (t.dev.stave (s.coreAt k).stave).job? m.job = some j' ∧
      j'.nrollbacks = j.nrollbacks + 1 ∧ j'.rolled = true := by
  have hact := actOnTrigger_fresh hw hm hj (suspects_nil s _ k m hcause) (freshDom_some hd hu hr)
  have hnum := job?_num hj
  rw [← hnum] at hj ⊢
  obtain ⟨j', hj', hback⟩ := rollBack_job hj hp
  exact ⟨_, j', congrArg Host.Outcome.next hact, hj', hback⟩

/-! ## An instance that is pre-empted -/

theorem inst?_of_seats {j j' : Job} (h : j'.insts.map seatOf = j.insts.map seatOf) (stage num : Nat) :
    (j'.inst? stage num).map seatOf = (j.inst? stage num).map seatOf := by
  have hfind (l : List Inst) : (l.find? fun i => i.stage == stage && i.num == num).map seatOf =
      (l.map seatOf).find? fun x => x.1 == stage && x.2.1 == num := by
    rw [List.find?_map]
    rfl
  rw [Job.inst?, Job.inst?, hfind, hfind, h]

theorem inst?_onInst (j : Job) (stage num : Nat) {f : Inst → Inst} (hs : ∀ i, (f i).stage = i.stage) (hn : ∀ i, (f i).num = i.num) :
    (j.onInst stage num f).inst? stage num = (j.inst? stage num).map f := by
  unfold Job.onInst Job.inst?
  simp only
  induction j.insts with
  | nil => rfl
  | cons i l ih =>
    rw [List.map_cons, List.find?_cons, List.find?_cons, ih]
    by_cases h : i.stage = stage ∧ i.num = num
    · rw [if_pos h, hs, hn, h.1, h.2, beq_self_eq_true, beq_self_eq_true]
      rfl
    · have hne : (i.stage == stage && i.num == num) = false := by
        rw [Bool.and_eq_false_iff]
        rcases Decidable.not_and_iff_not_or_not.mp h with h | h
        · exact .inl (beq_false_of_ne h)
        · exact .inr (beq_false_of_ne h)
      rw [if_neg h, hne]

/-- The course of the jobs and the ready queues are as before. -/
structure Steady (s t : State) : Prop extends Course s t where
  ready : ∀ n, (t.dev.stave n).ready = (s.dev.stave n).ready

theorem Aside.steady {s t : State} (h : Aside s t) : Steady s t := ⟨h.course, h.ready⟩

theorem Steady.refl (s : State) : Steady s s := (Aside.refl s).steady

theorem Steady.of_dev {s t : State} (h : t.dev = s.dev) : Steady s t := ⟨.of_dev h, fun _ => by rw [h]⟩

theorem Steady.trans {s t u : State} (h : Steady s t) (h' : Steady t u) : Steady s u :=
  ⟨h.toCourse.trans h'.toCourse, fun n => (h'.ready n).trans (h.ready n)⟩

theorem Steady.foldl {α : Type} {f : State → α → State} (hf : ∀ s x, Steady s (f s x)) : ∀ (l : List α) (s : State), Steady s (l.foldl f s)
  | [], s => .refl s
  | x :: l, s => (hf s x).trans (Steady.foldl hf l (f s x))

theorem staveMoved_steady (s : State) (n : BitVec 6) (word : W64) : Steady s (s.staveMoved n word) :=
  Steady.foldl (fun _ _ => .of_dev (onCore_dev ..)) _ s

theorem settleShrinks_steady (s : State) (n : BitVec 6) : Steady s (s.settleShrinks n) := by
  unfold State.settleShrinks
  refine Steady.trans ?_ (Steady.foldl (fun _ _ => (completeOp_aside ..).steady.trans (staveMoved_steady ..)) _ _)
  exact (onStave_aside s n rfl (.of_eq rfl)).steady

theorem slotFreed_ready {s : State} {n : BitVec 6} {r : Ready} (h : r ∈ (s.dev.stave n).ready) :
    ∃ r' ∈ ((s.slotFreed n).dev.stave n).ready, r'.job = r.job ∧ r'.stage = r.stage ∧ r'.inst = r.inst := by
  simp only [State.slotFreed, State.occupancy, stave_onStave, ↓reduceIte, List.map_map]
  exact ⟨_, List.mem_map_of_mem h, by simp only [Function.comp]; split <;> split <;> exact ⟨rfl, rfl, rfl⟩⟩

/-- The instance of a job that a stave's table names has left its cores, and its request is ready. -/
structure Preempted (t : Stave) (job : BitVec 6) (stage num : Nat) : Prop where
  away : ∃ i, ((t.job? job).bind fun j => j.inst? stage num) = some i ∧ i.cores = []
  ready : ∃ r ∈ t.ready, r.job = job ∧ r.stage = stage ∧ r.inst = some num

theorem seat_kept {t u : Stave} (h : JobsKept t u) {job : BitVec 6} {stage num : Nat} {i : Inst}
    (hi : ((t.job? job).bind fun j => j.inst? stage num) = some i) :
    ∃ i', ((u.job? job).bind fun j => j.inst? stage num) = some i' ∧ i'.cores = i.cores := by
  obtain ⟨j, hj, hi⟩ := Option.bind_eq_some_iff.mp hi
  obtain ⟨j', hj', hk⟩ := h job j hj
  have hseat := inst?_of_seats hk.insts stage num
  rw [hi] at hseat
  obtain ⟨i', hi', hseat⟩ := Option.map_eq_some_iff.mp hseat
  rw [hj']
  exact ⟨i', hi', congrArg (·.2.2) hseat⟩

theorem Preempted.steady {s t : State} (h : Steady s t) {n job : BitVec 6} {stage num : Nat} (hp : Preempted (s.dev.stave n) job stage num) :
    Preempted (t.dev.stave n) job stage num := by
  obtain ⟨⟨i, hi, hc⟩, hr⟩ := hp
  obtain ⟨i', hi', hc'⟩ := seat_kept (h.jobs n) hi
  exact ⟨⟨i', hi', hc'.trans hc⟩, by rwa [h.ready n]⟩

theorem Preempted.slotFreed {s : State} {n job : BitVec 6} {stage num : Nat} (hp : Preempted (s.dev.stave n) job stage num) :
    Preempted ((s.slotFreed n).dev.stave n) job stage num := by
  obtain ⟨⟨i, hi, hc⟩, r, hr, hjob, hstage, hinst⟩ := hp
  obtain ⟨i', hi', hc'⟩ := seat_kept ((slotFreed_course s n).jobs n) hi
  obtain ⟨r', hr', hjob', hstage', hinst'⟩ := slotFreed_ready hr
  exact ⟨⟨i', hi', hc'.trans hc⟩, r', hr', hjob'.trans hjob, hstage'.trans hstage, hinst'.trans hinst⟩

/-- The members of an instance are saved, and it has no cores. -/
theorem saveInst_away {s : State} {n job : BitVec 6} {stage num : Nat} {i : Inst}
    (hi : (((s.dev.stave n).job? job).bind fun j => j.inst? stage num) = some i) (origin : Nat) :
    ∃ i', ((((s.saveInst n job stage num origin).dev.stave n).job? job).bind fun j => j.inst? stage num) = some i' ∧ i'.cores = [] := by
  unfold State.saveInst
  simp only [hi]
  generalize hu : i.cores.foldl (fun s k => s.saveAway n k origin i.cores) s = u
  have hcourse : Course s u := hu ▸ Course.foldl (fun _ _ => saveAway_course ..) _ s
  obtain ⟨i1, hi1, -⟩ := seat_kept (hcourse.jobs n) hi
  obtain ⟨j1, hj1, hi1⟩ := Option.bind_eq_some_iff.mp hi1
  rw [stave_onStave, if_pos rfl, job?_onJob, if_pos rfl, hj1]
  · refine ⟨{ i1 with cores := [] }, ?_, rfl⟩
    rw [Option.map_some, Option.bind_some, inst?_onInst, hi1]
    · rfl
    · exact fun _ => rfl
    · exact fun _ => rfl
  · exact fun _ h => h

theorem preemptInst_preempted {s : State} {n job : BitVec 6} {stage num : Nat} {i : Inst}
    (hi : (((s.dev.stave n).job? job).bind fun j => j.inst? stage num) = some i) (hc : i.cores ≠ [])
    (hsave : field (s.dev.stave n).savebase 19 33 ≠ 0) : Preempted ((s.preemptInst n job stage num).dev.stave n) job stage num := by
  obtain ⟨j, hj, hji⟩ := Option.bind_eq_some_iff.mp hi
  have hpair : (((s.dev.stave n).job? job).bind fun j => (j.inst? stage num).map fun i => (j, i)) = some (j, i) := by
    rw [hj, Option.bind_some, hji]
    rfl
  have hgo : ¬ (i.cores.isEmpty = true ∨ field (s.dev.stave n).savebase 19 33 = 0) := by
    simp [hc, hsave]
  unfold State.preemptInst
  simp only [hpair]
  rw [if_neg hgo]
  refine .slotFreed (.steady (endMoves_aside ..).steady ?_)
  obtain ⟨i', hi', hc'⟩ := saveInst_away hi 1
  rw [stave_onStave, if_pos rfl]
  exact ⟨⟨i', hi', hc'⟩, _, List.mem_append_right _ (List.mem_singleton_self _), rfl, rfl, rfl⟩

/-- A member's instance that is to leave is pre-empted. -/
theorem member_preempted {s : State} {k : Nat} {m : Member} {i : Inst} (hlive : (s.coreAt k).live = true)
    (hstop : (s.coreAt k).stopped = false) (hm : (s.coreAt k).member = some m)
    (hmove : ∃ x ∈ (s.dev.stave (s.coreAt k).stave).moves, x.job = m.job ∧ x.stage = m.stage ∧ x.inst = m.inst ∧ x.dest = none)
    (hi : (((s.dev.stave (s.coreAt k).stave).job? m.job).bind fun j => j.inst? m.stage m.inst) = some i) (hc : i.cores ≠ [])
    (hsave : field (s.dev.stave (s.coreAt k).stave).savebase 19 33 ≠ 0) :
    ∃ t : State, exec (.preEmption k) s = .next t ∧ Preempted (t.dev.stave (s.coreAt k).stave) m.job m.stage m.inst := by
  have hany : ((s.dev.stave (s.coreAt k).stave).moves.any fun x => x.job == m.job && x.stage == m.stage && x.inst == m.inst &&
      x.dest.isNone) = true := by
    obtain ⟨x, hx, hjob, hstage, hinst, hdest⟩ := hmove
    exact List.any_eq_true.mpr ⟨x, hx, by simp [hjob, hstage, hinst, hdest]⟩
  have hact : s.preemptAt k = s.preemptInst (s.coreAt k).stave m.job m.stage m.inst := by
    simp only [State.preemptAt, hlive, hstop, hm, hany, Bool.not_true, Bool.or_self, Bool.false_eq_true, ↓reduceIte]
  refine ⟨(s.preemptAt k).settleShrinks (s.coreAt k).stave, rfl, .steady (settleShrinks_steady ..) ?_⟩
  rw [hact]
  exact preemptInst_preempted hi hc hsave

end Sys2Proof.Proofs

end

section
/-! Taking a unit out of service (R134, R435 to R439) changes no count of errors: nor do the placements, the restores and the ends that it
sets off. -/

namespace Sys2Proof.Proofs
open Machine

/-- From s to t no count of errors has changed. -/
def SameErrors (s t : State) : Prop := t.dev.errors = s.dev.errors

theorem SameErrors.refl (s : State) : SameErrors s s := rfl

theorem SameErrors.trans {s t u : State} (h : SameErrors s t) (h' : SameErrors t u) : SameErrors s u := Eq.trans h' h

theorem SameErrors.ite {c : Prop} [Decidable c] {s t u : State} (ht : SameErrors s t) (hu : SameErrors s u) :
    SameErrors s (if c then t else u) := by
  split
  · exact ht
  · exact hu

theorem SameErrors.foldl {α : Type} {f : State → α → State} (hf : ∀ s x, SameErrors s (f s x)) (l : List α) (s : State) :
    SameErrors s (l.foldl f s) := foldl_leaves (fun s => s.dev.errors) f hf l s

/-- A fold of steps on a value that holds a state. -/
theorem SameErrors.foldl_part {α β : Type} (p : β → State) {f : β → α → β} (hf : ∀ r x, SameErrors (p r) (p (f r x))) :
    ∀ (l : List α) (r : β), SameErrors (p r) (p (l.foldl f r))
  | [], r => .refl (p r)
  | x :: l, r => (hf r x).trans (SameErrors.foldl_part p hf l (f r x))

theorem Course.sameErrors {s t : State} (h : Course s t) : SameErrors s t := h.errors

theorem Aside.sameErrors {s t : State} (h : Aside s t) : SameErrors s t := h.errors

theorem onStave_errors (s : State) (n : BitVec 6) (f : Stave → Stave) : SameErrors s (s.onStave n f) := rfl

theorem onCore_errors (s : State) (k : Nat) (f : Core → Core) : SameErrors s (s.onCore k f) := congrArg Dev.errors (onCore_dev ..)

theorem setCore_errors (s : State) (k : Nat) (c : Core) : SameErrors s (s.setCore k c) := congrArg Dev.errors (setCore_dev ..)

/-! ## Jobs that end or go back -/

theorem stopJob_errors (s : State) (n job : BitVec 6) : SameErrors s (s.stopJob n job) := by
  cases hj : (s.dev.stave n).job? job with
  | none =>
    unfold State.stopJob
    simp only [hj]
    rfl
  | some j => exact (stopJob_job hj).1

theorem endJob_errors (s : State) (n job : BitVec 6) (status : Nat) (reason : W64) : SameErrors s (s.endJob n job status reason) :=
  (onStave_errors ..).trans (stopJob_errors ..)

theorem rollBack_errors (s : State) (n : BitVec 6) (j : Job) (d : Dom) : SameErrors s (s.rollBack n j d) := by
  unfold State.rollBack
  simp only
  split
  · exact (blame_course ..).sameErrors.trans (endJob_errors ..)
  · refine SameErrors.trans ?_ (onStave_errors ..)
    refine SameErrors.trans ?_ (SameErrors.foldl (fun _ _ => (undoPattern_course ..).sameErrors) _ _)
    refine SameErrors.trans ?_ (SameErrors.foldl (fun _ _ => (undoMember_course ..).sameErrors) _ _)
    exact SameErrors.foldl (fun _ _ => (undoEntry_course ..).sameErrors) _ s

theorem restoreError_errors (s : State) (n : BitVec 6) (m : Member) (u : BitVec 32) (addr : Nat) :
    SameErrors s (s.restoreError n m u addr) := by
  unfold State.restoreError
  split
  · exact .refl s
  · refine SameErrors.trans (blame_course s n m.job u).sameErrors ?_
    split
    · exact rollBack_errors ..
    · exact endJob_errors ..

/-! ## Instances that are placed -/

theorem fixRect_errors (s : State) (n job : BitVec 6) (stage : Nat) : SameErrors s (s.fixRect n job stage) := by
  unfold State.fixRect
  split
  · exact .refl s
  · simp only
    refine .ite (.refl s) ?_
    split
    · exact .refl s
    · split
      · exact .refl s
      · exact onStave_errors ..

theorem slotFreed_errors (s : State) (n : BitVec 6) : SameErrors s (s.slotFreed n) := (slotFreed_course s n).sameErrors

theorem takeReady_errors (s : State) (n : BitVec 6) (i : Nat) (r : Ready) : SameErrors s (s.takeReady n i r) := by
  unfold State.takeReady
  simp only
  generalize hu : (s.dropReady n i).onStave n _ = u
  have h : SameErrors s u := hu ▸ onStave_errors ..
  have hgone := fun (l : List Move) (f : Move → Stave → Stave) => h.trans (SameErrors.foldl (fun u m => onStave_errors u n (f m)) l u)
  exact .ite (hgone ..) ((hgone ..).trans (slotFreed_errors ..))

theorem peekSpace_errors {s t : State} {sp : Space} {va : W64} {n x : Nat} (h : s.peekSpace sp va n = some (x, t)) : SameErrors s t := by
  simp only [State.peekSpace, Option.bind_eq_some_iff] at h
  obtain ⟨⟨k, u⟩, hfirst, h⟩ := h
  have hu := (bringSpace_aside hfirst).sameErrors
  split at h
  · cases h
    exact hu
  · obtain ⟨⟨k', v⟩, hrest, h⟩ := Option.map_eq_some_iff.mp h
    cases h
    exact hu.trans (bringSpace_aside hrest).sameErrors

theorem stageTemplates_errors (s : State) (j : Job) (t : Stage) : SameErrors s (s.stageTemplates j t).2 := by
  refine SameErrors.foldl_part (β := Vector (Option V512) 64 × State) Prod.snd (fun r i => ?_) _ (.replicate 64 none, s)
  split
  · next h => exact peekSpace_errors h
  · exact .refl r.2

theorem commitInst_errors (s : State) (n job : BitVec 6) (stage c : Nat) (growth : Bool) :
    SameErrors s (s.commitInst n job stage c growth) := by
  unfold State.commitInst
  split
  · exact .refl s
  · split
    · exact .refl s
    · refine SameErrors.trans ?_ (occupancy_course ..).sameErrors
      refine SameErrors.trans ?_ (SameErrors.foldl (fun s k => ?_) _ _)
      · exact (onStave_errors ..).trans (stageTemplates_errors ..)
      · exact SameErrors.trans (t := s.newTag.2) rfl (setCore_errors ..)

theorem placeNew_errors (s : State) (n : BitVec 6) (i : Nat) (r : Ready) : SameErrors s (s.placeNew n i r) := by
  have hrect := fixRect_errors s n r.job r.stage
  unfold State.placeNew
  simp only
  split
  · exact hrect.trans (onStave_errors ..)
  · split
    · exact hrect.trans (onStave_errors ..)
    · exact hrect.trans ((takeReady_errors ..).trans (SameErrors.foldl (fun _ _ => commitInst_errors ..) _ _))

/-! ## Inboxes -/

theorem acceptStore_errors {s t : State} {k off n x : Nat} {who : Option Member} (h : s.acceptStore k who off n x = some t) :
    SameErrors s t := by
  unfold State.acceptStore at h
  split at h
  · cases h
  · cases h
    exact (ckLocalBy_aside ..).sameErrors.trans (onCore_errors ..)

theorem accepted_errors (s : State) (k slot : Nat) (src : BitVec 13) (stream : BitVec 12) (data : V512) :
    SameErrors s (s.accepted k slot src stream data) := by
  unfold State.accepted
  simp only
  refine (onCore_errors s k fun c => { c with accepted := true }).trans ?_
  split
  · exact .refl _
  · exact (capture_aside ..).sameErrors.trans (onStave_errors ..)

theorem acceptMessage_errors {s t : State} {k : Nat} {x : NetItem} (h : s.acceptMessage k x = some t) : SameErrors s t := by
  unfold State.acceptMessage at h
  simp only at h
  split at h
  · cases h
    exact .refl s
  · split at h
    · cases h
    · have hlog := (logAllows_left s k x.slot.toNat x.src x.stream).2.sameErrors
      split at h
      · cases h
        exact hlog.trans ((onCore_errors ..).trans (accepted_errors ..))
      · cases h

theorem acceptEos_errors {s t : State} {k : Nat} {x : NetItem} (h : s.acceptEos k x = some t) : SameErrors s t := by
  unfold State.acceptEos at h
  simp only at h
  split at h
  · cases h
    exact .refl s
  · split at h
    · cases h
    · cases h
      exact onCore_errors ..

theorem acceptCommand_errors {s t : State} {k : Nat} {m : MCmd} (h : s.acceptCommand k m = some t) : SameErrors s t := by
  unfold State.acceptCommand at h
  split at h
  · cases h
    exact ((answer_course ..).trans (completeOp_course ..)).sameErrors
  · split at h
    · cases h
    · cases h
      exact (onCore_errors ..).trans (answer_course ..).sameErrors

theorem acceptItem_errors {s t : State} {k : Nat} {x : NetItem} (h : s.acceptItem k x = some t) : SameErrors s t := by
  unfold State.acceptItem at h
  split at h
  · exact acceptStore_errors h
  · exact acceptMessage_errors h
  · exact acceptEos_errors h
  · split at h
    · exact acceptCommand_errors h
    · cases h
      exact .refl s
  · cases h
    exact .refl s

theorem applyInbox_errors (s : State) (base k : Nat) : SameErrors s (s.applyInbox base k) := by
  unfold State.applyInbox
  refine (onCore_errors s k fun c => { c with inbox := [] }).trans ?_
  refine SameErrors.foldl_part (β := State × List NetItem) Prod.fst (fun r x => ?_) _ (s.onCore k fun c => { c with inbox := [] }, [])
  split
  · next h =>
    split at h
    · cases h
    · exact acceptItem_errors h
  · exact .refl r.1

/-! ## Instances that come back, and the requests that are tried again -/

theorem retrySyncs_errors (s : State) (p : SyncAdd → Bool) : SameErrors s (s.retrySyncs p) :=
  SameErrors.trans (hold_aside s _).sameErrors (SameErrors.foldl (fun _ _ => (syncPut_aside ..).sameErrors) _ _)

theorem bringBack_errors (s : State) (n : BitVec 6) (l k : Nat) (cores : List Nat) : SameErrors s (s.bringBack n l k cores) := by
  unfold State.bringBack
  simp only
  generalize hu : s.onStave n _ = u
  have h : SameErrors s u := hu ▸ onStave_errors ..
  have hin {v : State} (hv : SameErrors s v) (c : Core) : SameErrors s ((((v.setCore k c).moveIssuers n (16384 + l) k).applyInbox
      (((s.dev.stave n).areaOf l)) k).retrySyncs fun x => x.who.core == k) :=
    hv.trans (((setCore_errors ..).trans (moveIssuers_course ..).sameErrors).trans ((applyInbox_errors ..).trans (retrySyncs_errors ..)))
  split
  · exact hin h _
  · exact hin (h.trans (t := u.newTag.2) rfl) _

theorem restoreInst_errors (s : State) (n job : BitVec 6) (stage num c : Nat) (placed : Bool) :
    SameErrors s (s.restoreInst n job stage num c placed) := by
  unfold State.restoreInst
  split
  · exact .refl s
  · refine SameErrors.trans ?_ (onStave_errors ..)
    refine SameErrors.trans ?_ (SameErrors.foldl (fun _ _ => onCore_errors ..) _ _)
    exact SameErrors.foldl (fun _ _ => bringBack_errors ..) _ s

theorem resume_errors (s : State) (n : BitVec 6) (i : Nat) (r : Ready) (num : Nat) : SameErrors s (s.resume n i r num) := by
  unfold State.resume
  split
  · split
    · exact onStave_errors ..
    · refine .ite (endJob_errors ..) ?_
      split
      · exact restoreError_errors ..
      · exact ((takeReady_errors ..).trans (restoreInst_errors ..)).trans (occupancy_course ..).sameErrors
  · exact onStave_errors ..

theorem serveReady_errors (s : State) (n : BitVec 6) (i : Nat) (p : Ready → Bool) : SameErrors s (s.serveReady n i p) := by
  unfold State.serveReady
  simp only
  split
  · exact .refl s
  · refine .ite (.refl s) ?_
    split
    · exact placeNew_errors ..
    · exact resume_errors ..

theorem retryReady_errors (n : BitVec 6) : ∀ (k : Nat) (s : State), SameErrors s (s.retryReady n k)
  | 0, s => .refl s
  | k + 1, s => by
    have ih := retryReady_errors n k s
    simp only [State.retryReady]
    split
    · exact ih.trans (serveReady_errors ..)
    · exact ih

/-! ## Units out of service -/

theorem evict_errors (s : State) (n : BitVec 6) (id : Nat) : SameErrors s (s.evict n id).1 := by
  refine SameErrors.foldl_part (β := State × Bool) Prod.fst (fun r x => ?_) _ (s, false)
  split
  · exact .refl r.1
  · exact onStave_errors ..

theorem loseReserved_errors (s : State) (n : BitVec 6) (id : Nat) : SameErrors s (s.loseReserved n id) :=
  SameErrors.foldl (fun s _ => .ite ((onStave_errors ..).trans (onStave_errors ..)) (.refl s)) _ s

theorem joinCluster_errors (s : State) (n : BitVec 6) (id : Nat) : SameErrors s (s.joinCluster n id) := by
  unfold State.joinCluster
  refine SameErrors.trans ?_ (SameErrors.foldl (fun _ _ => (numberCore_course ..).sameErrors) _ _)
  split <;> rfl

theorem swapSlice_errors (s : State) (n : BitVec 6) (id spare : Nat) : SameErrors s (s.swapSlice n id spare) := rfl

theorem draining_errors (s : State) (n : BitVec 6) (id : Nat) :
    SameErrors s (({ s with dev := s.dev.setOwn (.cluster, id) .draining n } : State).loseReserved n id) :=
  SameErrors.trans (t := { s with dev := s.dev.setOwn (.cluster, id) .draining n }) rfl (loseReserved_errors ..)

theorem freedRetry_errors (s : State) (n : BitVec 6) :
    SameErrors s ((s.slotFreed n).retryReady n ((s.slotFreed n).dev.stave n).ready.length) :=
  (slotFreed_errors ..).trans (retryReady_errors ..)

theorem takeOver_errors (s : State) (id spare : Nat) : SameErrors s (s.takeOver id spare).1 := by
  unfold State.takeOver
  simp only
  split
  · exact .refl s
  · next n _ =>
    generalize hu : ({ s with dev := { s.dev with spares := insertNat spare s.dev.spares } } : State) = u
    have h : SameErrors s u := hu ▸ .refl s
    have hjoin := h.trans ((joinCluster_errors u n spare).trans (swapSlice_errors _ n id spare))
    generalize (u.joinCluster n spare).swapSlice n id spare = v at hjoin ⊢
    split
    · have hdrain := hjoin.trans (draining_errors v n id)
      generalize State.loseReserved _ n id = w at hdrain ⊢
      exact hdrain.trans ((freedRetry_errors w n).trans (evict_errors ..))
    · exact hjoin.trans (freedRetry_errors v n)

theorem requeue_errors (s : State) (n : BitVec 6) (k : Nat) : SameErrors s (s.requeue n k) :=
  SameErrors.foldl (fun _ _ => (onStave_errors ..).trans ((onStave_errors ..).trans (onStave_errors ..))) _ s

theorem quarChannel_errors (s : State) (ch : Nat) : SameErrors s (s.quarChannel ch) :=
  SameErrors.trans (memory_aside s s.dev.mem _).sameErrors (dropLines_course ..).sameErrors

theorem mark_errors (s : State) (u : BitVec 32) : SameErrors s (s.mark u) := .ite (.refl s) rfl

theorem poisonHeld_errors (s : State) (k : Nat) : SameErrors s (s.poisonHeld k) := rfl

theorem scrubbed_errors (s : State) (ways : List (Nat × BitVec 6)) : SameErrors s
    (ways.foldl (fun s w => { s with dev := s.dev.setOwn (.way, w.1) .scrub w.2 }) s) :=
  SameErrors.foldl (f := fun (s : State) (w : Nat × BitVec 6) => { s with dev := s.dev.setOwn (.way, w.1) .scrub w.2 }) (fun _ _ => rfl) ways s

theorem quarantine_errors (s : State) (u : BitVec 32) : SameErrors s (s.quarantine u).1 := by
  have hmark := mark_errors s u
  unfold State.quarantine
  simp only
  split
  · split
    · exact hmark.trans (poisonHeld_errors ..)
    · exact hmark.trans (SameErrors.trans (.ite (poisonHeld_errors ..) (.refl _)) (requeue_errors ..))
  · split
    · exact hmark
    · exact hmark.trans (takeOver_errors ..)
  · split
    · exact hmark
    · exact hmark.trans (takeOver_errors ..)
  · exact hmark.trans (quarChannel_errors ..)
  · exact hmark.trans (scrubbed_errors ..)
  · exact hmark

end Sys2Proof.Proofs

end

section
/-! Errors that the device detects (R426, R434, R435): a corrected one is counted, also where the count takes the unit out of service; a
data word that cannot be corrected is poisoned where it lies; one in a core's own storage traps there or is a trigger. -/

namespace Sys2Proof.Proofs
open Machine Claims

/-! ## Corrected errors -/

/-- The corrected errors of a unit so far. -/
def errorsOf (s : State) (u : BitVec 32) : Option Nat := (s.dev.errors.find? fun x => x.1 == u).map (·.2)

theorem corrected_counts (s : State) (u : BitVec 32) : errorsOf (s.corrected u) u = some ((errorsOf s u).getD 0 + 1) := by
  unfold State.corrected
  simp only
  generalize hv : ({ s with dev := { s.dev with errors := _ :: _ } } : State) = v
  have hcount : errorsOf v u = some ((errorsOf s u).getD 0 + 1) := by
    simp [← hv, errorsOf]
  split
  · rwa [errorsOf, quarantine_errors v u]
  · exact hcount

theorem errorDetected_corrected (s : State) (u : BitVec 32) (site : BitVec 3) (addr : Nat) :
    ∃ t : State, exec (.errorDetected u site true addr) s = .next t ∧ errorsOf t u = some ((errorsOf s u).getD 0 + 1) :=
  ⟨s.corrected u, rfl, corrected_counts s u⟩

/-! ## Words that cannot be corrected -/

theorem badWord_exec (s : State) (u : BitVec 32) (addr : Nat) : exec (.errorDetected u 0 false addr) s = .next (s.badWord u addr) := rfl

/-- A word of a core's local memory. -/
theorem badWord_local {u : BitVec 32} {addr : Nat} (hu : field u 28 4 = 1) (ha : addr < 0x30000) (s : State) :
    addr / 8 ∈ ((s.badWord u addr).coreAt (unitCore u)).loc.poison := by
  rw [State.badWord, if_pos ⟨hu, ha⟩, coreAt_onCore_same]
  exact mem_insertNat.mpr (.inl rfl)

/-- A SELF word in the L1 of a core. -/
theorem badWord_l1 {s : State} {u : BitVec 32} {addr : Nat} (hu : field u 28 4 = 1) (ha : 0x30000 ≤ addr)
    (hx : ∃ x ∈ (s.coreAt (unitCore u)).l1, x.word = addr / 8) :
    ∀ x ∈ ((s.badWord u addr).coreAt (unitCore u)).l1, x.word = addr / 8 → x.bad = true := by
  obtain ⟨y, hy, hword⟩ := hx
  have hany : ((s.coreAt (unitCore u)).l1.any fun x => x.word == addr / 8) = true := List.any_eq_true.mpr ⟨y, hy, beq_iff_eq.mpr hword⟩
  rw [State.badWord, if_neg fun h => absurd h.2 (Nat.not_lt.mpr ha), if_pos (by rw [hany, decide_eq_true hu]; rfl), coreAt_onCore_same]
  intro x hx hw
  obtain ⟨z, -, rfl⟩ := List.mem_map.mp hx
  split at hw
  · next hz => rw [if_pos hz]
  · next hz => exact absurd hw hz

/-- A word of memory, or of a line of the host's that the device holds. -/
theorem badWord_memory {s : State} {u : BitVec 32} {addr : Nat} (hu : field u 28 4 ≠ 1) (ha : addr < 2 ^ 38 ∨ addr / 64 ∈ s.dev.devHolds) :
    addr / 8 ∈ (s.badWord u addr).dev.poison := by
  rw [State.badWord, if_neg fun h => hu h.1, if_neg (by simp [hu]), if_pos (by simpa using ha)]
  exact mem_insertNat.mpr (.inl rfl)

/-! ## A core's own storage -/

/-- The state in which an error in the own storage of core k is raised: the job of its member has the unit on record. -/
def blamed (s : State) (k : Nat) (u : BitVec 32) : State :=
  match (s.coreAt k).member with
  | some m => s.blame (s.coreAt k).stave m.job u
  | none => s

theorem blamed_coreAt (s : State) (k : Nat) (u : BitVec 32) (i : Nat) : (blamed s k u).coreAt i = s.coreAt i := by
  unfold blamed
  split <;> rfl

theorem storage_exec {s : State} {u : BitVec 32} (hu : field u 28 4 = 1) (hlive : (s.coreAt (unitCore u)).live = true)
    (hstop : (s.coreAt (unitCore u)).stopped = false) (hfin : (s.coreAt (unitCore u)).finished = false) (addr : Nat) :
    exec (.errorDetected u 1 false addr) s = .next ((blamed s (unitCore u) u).raiseAt (unitCore u) .uncorrectable 0) := by
  have hgo : ¬ (decide (field u 28 4 ≠ 1) || !(s.coreAt (unitCore u)).live || (s.coreAt (unitCore u)).stopped ||
      (s.coreAt (unitCore u)).finished) = true := by simp [hu, hlive, hstop, hfin]
  exact congrArg Host.Outcome.next (if_neg hgo)

/-- A core of no instance takes the trap. -/
theorem storage_traps {s : State} {k : Nat} (u : BitVec 32) (hb : (s.coreAt k).bond ≠ .gang) (hm : (s.coreAt k).member = none) :
    TrappedAt s ((blamed s k u).raiseAt k .uncorrectable 0) k 0x11 0 := by
  have hcore := blamed_coreAt s k u k
  have htrigger : ((blamed s k u).focus k).isTrigger Cause.uncorrectable.code = false := isTrigger_of_member (by rwa [focus_me, hcore]) _
  exact trappedAt_raiseAt (c := .uncorrectable) (by rwa [hcore]) htrigger (by rw [hcore]) (by rw [hcore]) (by rw [hcore]) 0

/-- A cause that is raised at a core alone and is a trigger waits for ROLLBACK. -/
theorem raiseAt_trigger {s : State} {k : Nat} {c : Cause} (hb : (s.coreAt k).bond ≠ .gang) (ht : (s.focus k).isTrigger c.code = true)
    (v : W64) : ((s.raiseAt k c v).coreAt k).wait = some (.trigger c.code v) := by
  have hb' : (s.focus k).me.bond ≠ .gang := by rwa [focus_me]
  rw [State.raiseAt, if_neg hb', coreAt_focus, State.raise, if_pos ht]
  generalize hu : ({ s.focus k with me := _ } : State) = u
  have hk : u.here = k := hu ▸ focus_here s k
  rw [← hk, coreAt_here, ← hu]

/-- In a member of an instance the error is a trigger. -/
theorem storage_triggers {s : State} {k : Nat} (u : BitVec 32) (hb : (s.coreAt k).bond ≠ .gang) (hm : (s.coreAt k).member ≠ none) :
    (((blamed s k u).raiseAt k .uncorrectable 0).coreAt k).wait = some (.trigger 0x11 0) := by
  have hcore := blamed_coreAt s k u k
  refine raiseAt_trigger (c := .uncorrectable) (by rwa [hcore]) ?_ 0
  rw [State.isTrigger, focus_me, hcore, Option.isSome_iff_ne_none.mpr hm]
  rfl

end Sys2Proof.Proofs

end

section
/-! What reaches a core from outside it: the statement, put together from the parts above. -/

namespace Sys2Proof.Proofs
open Machine Claims

/-- Settles O58, clause by clause: what arrives on the network, at a core that waits, and at one whose instance is taken away. -/
theorem coresAreReached : Obligations.CoresAreReached := by
  intro s
  refine ⟨fun i x k hx hfree hnear hrouted hcore => ?arrivals, fun i x k hx hk hcore => report_taken hx hk hcore,
    fun k m rest hk hm => ⟨runCommand_waits hm, fun z ev b => runCommand_zclr hk hm⟩,
    fun i x since w hx hrefused hw => ?diversion, fun k va got hw => ⟨remote_waits hw, remote_granted hw⟩,
    fun k w hw => ⟨stall_waits hw, stall_traps hw⟩, fun k => ?interrupts, fun k since limit => idle_passes,
    fun k cause val m j hw hm hj => ?rollbacks, fun u site addr => ?errors, fun k m i hlive hstop hm hmove hi hcores hsave => ?preemption⟩
  case arrivals =>
    have h : Arrives s i x k := ⟨hx, hfree, hnear, hrouted, hcore⟩
    refine ⟨fun hk => ⟨store_waits h hk, store_performed h hk⟩, fun hk hmine hbound hstream hlog => ⟨fun hring => ⟨fun hfull => ?_,
      message_ring h hk hmine hbound hstream hlog hring⟩, fun hqueue => ⟨fun hfull => ?_,
      message_queue h hk hmine hbound hstream hlog hqueue⟩⟩, fun hk hmine hbound hstream => ⟨eos_waits h hk hmine hstream,
      eos_taken h hk hmine hbound hstream⟩, fun m hk hm => ⟨command_waits h hk hm, command_taken h hk hm, fun st => command_refused h hk hm⟩⟩
    · exact message_waits h hk hmine hstream ((slotRoom_ring hring).trans (decide_eq_false (Nat.not_lt.mpr hfull)))
    · exact message_waits h hk hmine hstream ((slotRoom_queue hqueue).trans (decide_eq_false (Nat.not_lt.mpr hfull)))
  case diversion =>
    exact ⟨fun h => congrArg Host.Outcome.next (divertItem_waits hx hrefused hw h),
      fun hs hbase haway hold hk hfree hroom => item_diverted hs hx hrefused hw hbase haway hold hk hfree hroom⟩
  case interrupts =>
    refine ⟨interrupt_waits, fun hdue hb => ⟨fun v => interrupt_async hdue hb, fun x rest ha hx => ?_⟩⟩
    obtain ⟨t, ht, hrest, htrap⟩ := interrupt_oldest hdue hb ha hx
    refine ⟨t, ht, hrest, ?_, ?_⟩ <;> rintro _ rfl <;> exact htrap
  case rollbacks =>
    refine ⟨fun hlate => ⟨?_, trigger_ends hw hm hj hlate⟩, fun d => trigger_rolls hw hm hj⟩
    rintro rfl
    exact trigger_traps hw hm hj hlate
  case errors =>
    refine ⟨errorDetected_corrected s u site addr, fun hu ha => ⟨_, badWord_exec s u addr, badWord_local hu ha s⟩,
      fun hu ha => ⟨_, badWord_exec s u addr, badWord_memory hu ha⟩, fun hu ha hx => ⟨_, badWord_exec s u addr, badWord_l1 hu ha hx⟩,
      fun hu hlive hstop hfin hb => ?_⟩
    have hexec := storage_exec hu hlive hstop hfin addr
    exact ⟨fun hm => ⟨_, hexec, storage_traps u hb hm⟩, fun hm => ⟨_, hexec, storage_triggers u hb hm⟩⟩
  case preemption =>
    obtain ⟨t, ht, ⟨i', hi', haway⟩, hready⟩ := member_preempted hlive hstop hm hmove hi hcores hsave
    exact ⟨t, i', ht, hi', haway, hready⟩

end Sys2Proof.Proofs

end
